-- ==== Sys2Proof/Word.lean ====
section
/-! DEFINITION. The word types of the Hexboar 48: a byte, the 32-bit word of a lane register or an instruction word, the
64-bit word of the CP and of addresses, and the 32-bit lane mask (WIDTH is 32, R31). -/

namespace Sys2Proof

/-- A byte of memory (R2). -/
abbrev Byte := BitVec 8

/-- A 32-bit lane register or instruction word (R290, R298). -/
abbrev Word := BitVec 32

/-- A 64-bit value: an address, a register pair, a CP register word (R269). -/
abbrev DWord := BitVec 64

/-- One bit for each lane of a warp (R31). -/
abbrev Mask := BitVec 32

end Sys2Proof
end

