-- ==== Sys2Proof/Machine/Bits.lean ====
section
/-! DEFINITION. Bit and integer helpers shared by every meaning: two's-complement reading and wrapping of naturals, saturation,
bit fields, and lists indexed by lane. -/

namespace Sys2Proof.Machine

/-- Signed value of the w low bits of n. -/
def sInt (w n : Nat) : Int :=
  let m := n % 2 ^ w
  if m < 2 ^ (w - 1) then (m : Int) else (m : Int) - (2 ^ w : Nat)

/-- The w low bits of an integer. -/
def wrapN (w : Nat) (i : Int) : Nat := (i % (2 ^ w : Nat)).toNat

/-- Value of w bits read as signed or unsigned. -/
def rdInt (sgn : Bool) (w n : Nat) : Int := if sgn then sInt w n else ((n % 2 ^ w : Nat) : Int)

def intMin (sgn : Bool) (w : Nat) : Int := if sgn then -((2 ^ (w - 1) : Nat) : Int) else 0
def intMax (sgn : Bool) (w : Nat) : Int := if sgn then ((2 ^ (w - 1) : Nat) : Int) - 1 else ((2 ^ w : Nat) : Int) - 1

/-- An integer clamped to a type's range. -/
def clampInt (sgn : Bool) (w : Nat) (i : Int) : Int := max (intMin sgn w) (min (intMax sgn w) i)

/-- Bits hi to lo of n. -/
def fld (n hi lo : Nat) : Nat := n / 2 ^ lo % 2 ^ (hi + 1 - lo)

/-- Bit k of n. -/
def bitN (n k : Nat) : Bool := n.testBit k

/-- n with its bits hi to lo replaced by v. -/
def setFld (n hi lo v : Nat) : Nat :=
  n - fld n hi lo * 2 ^ lo + v % 2 ^ (hi + 1 - lo) * 2 ^ lo

/-- Number of bits set among the w low ones. -/
def popN (w n : Nat) : Nat := (List.range w).foldl (fun c k => if n.testBit k then c + 1 else c) 0

/-- The w bits of n in reverse order. -/
def revN (w n : Nat) : Nat := (List.range w).foldl (fun r k => if n.testBit k then r + 2 ^ (w - 1 - k) else r) 0

/-- Bits before the leading one of a w-bit value (w for 0). -/
def clzN (w n : Nat) : Nat := if n = 0 then w else w - 1 - Nat.log2 n

/-- Zero bits below the lowest set bit (w for 0). -/
def ctzN (w n : Nat) : Nat := ((List.range w).find? (fun k => n.testBit k)).getD w

/-- The 32 lanes in ascending order. -/
def lanes : List Nat := List.range 32

/-- The lanes of a mask, ascending. -/
def maskLanes (m : Mask) : List Nat := lanes.filter (fun l => m.getLsbD l)

/-- The mask of the lanes that satisfy p. -/
def maskOf (p : Nat → Bool) : Mask :=
  BitVec.ofNat 32 (lanes.foldl (fun a l => if p l then a + 2 ^ l else a) 0)

/-- The lowest lane of a mask. -/
def lowLane (m : Mask) : Nat := ((maskLanes m).head?).getD 0

/-- Little-endian value of bytes (R2). -/
def leVal : List Byte → Nat
  | [] => 0
  | b :: bs => b.toNat + 256 * leVal bs

/-- n bytes of a value, least significant first (R2). -/
def leBytes : Nat → Nat → List Byte
  | 0, _ => []
  | n + 1, v => BitVec.ofNat 8 v :: leBytes n (v / 256)

/-- Replace entry k of a list. -/
def setNth {α : Type} (l : List α) (k : Nat) (x : α) : List α := l.set k x

/-- Change entry k of a list. -/
def modNth {α : Type} (l : List α) (k : Nat) (f : α → α) : List α :=
  match l[k]? with
  | some x => l.set k (f x)
  | none => l

/-- Floor of the division of an integer by a power of two. -/
def shrInt (i : Int) (k : Nat) : Int := i / (2 ^ k : Nat)

/-- Distinct values of a list. -/
def distinct (l : List Nat) : List Nat := l.foldl (fun (a : List Nat) x => if a.contains x then a else x :: a) []

end Sys2Proof.Machine
end

