-- ==== Sys2Proof/Config.lean ====
section
/-! DEFINITION. What the part fixes, and the values that the spec leaves open. An opaque constant has no body: nothing in
Lean can evaluate it, so a statement that mentions it holds for every value. -/

namespace Sys2Proof.Config

/-- Lanes per warp (R31). -/
abbrev width : Nat := 32

/-- Lines of local HBM per enabled pair (R110). -/
def linesPerChan : Nat := 5859375

/-- Bytes of scratchpad per core (R13). -/
def spadBytes : Nat := 320 * 1024

/-- Monitor entries per slice (R15, R121). -/
def monEntries : Nat := 512

/-- A FREE VALUE (log entry 88): at a time, the descriptor of a barrier on another member has SEN set (R232, R236). -/
opaque memberSen : (time barrier member : Nat) → Bool

/-- The candidates for scheduler peer on other packages of the domain at a time: device and rank (R183; log entry 44). -/
opaque candidates : Nat → List (Nat × Nat)

/-- A FREE VALUE (log entry 3): what the spec leaves undefined; the argument is the counter State.fresh. -/
opaque freeWord : Nat → Word

/-- A FREE VALUE of one byte (log entry 3). -/
opaque freeByte : Nat → Byte

/-- A FREE CHOICE (log entries 3, 12, 13): which of several allowed outcomes the device takes. -/
opaque freeChoice : Nat → Nat

/-- A FREE VALUE (log entry 52): at a time, a group has a route onward to another (R215, R540); its packages' tables are not in this
package. The arguments are the time, the group in between and the group to reach. -/
opaque onward : (time between goal : Nat) → Bool

/-- FREE VALUES (log entry 65): at a time, a global port of another package is UP; the package that its circuit leads to; and how many hops, less
one, a package is from another group's package by that group's tables (R214 to R216). None of them is in this package. -/
opaque farUp : (time package port : Nat) → Bool
opaque farEnd : (time package port : Nat) → Nat
opaque onHops : (time between goal : Nat) → Nat

/-- The bytes that memory written under the first key reads as under the second (R111): a function of both keys' draws, of the
sector, of the sector's 64 bytes as written, and of the byte read (log entry 14). -/
opaque recrypt : (written read : Nat) → (sector : Nat) → (plain : List Byte) → Nat → Byte

/-- The part's fixed function for each special function (R172: each result is a fixed function of its source bits), before the
bound of R172 is applied to it (log entry 15). The first argument is the opcode. -/
opaque specialFn : Nat → Word → Word

/-- A FREE VALUE (log entry 79): an image of the boot passes its verification (R280): the security-processor firmware, the CP firmware, Shatus's
boot image and the supervisor code. -/
opaque genuine : Nat → Bool

/-- The bytes that the boot measures: the security-processor firmware, the CP firmware, Shatus's boot image and the supervisor
code (R280, R281). -/
opaque bootImage : Nat → List Byte

/-- The key pairs of R282, as the public key and the signature over a message: index 0 identity, index 1 attestation. The second
argument is the data that the key is derived from besides the device-unique secret (M0 to M2 for the attestation key). -/
opaque publicKey : Nat → List Byte → List Byte

/-- SLH-DSA-SHAKE-256f signatures of those keys (R282, R285), 49,856 bytes. -/
opaque signature : Nat → List Byte → List Byte → List Byte

/-- Shatus's entry point for the supervisor warp (R504): software's choice, which the spec does not give. -/
opaque supervisorEntry : DWord

/-- The level-3 table of Shatus's own translation tree (R263): software's choice. -/
opaque supervisorRoot : DWord

end Sys2Proof.Config
end

