-- ==== Sys2Proof/Syntax.lean ====
section
/-! DEFINITION. The syntax of every row of the opcode table: the encoded instructions of a warp (prefix, guard, operands and
modifiers as data), the two host-die instructions, and the steps of the package that have no encoding of their own (commands,
register writes, packets and events), each with the operands that say which one it is. -/

namespace Sys2Proof

/-- Length of an instruction, the code LEN of its first word (R298). -/
inductive Len where
  | l64 | l96 | l128
  deriving DecidableEq, Repr

/-- A source or destination operand (R293, R305): a register of one of the files, the immediate or a fixed code; pred and tile
stand in fields that name a predicate or an accumulator tile; none is a field the instruction does not use. -/
inductive Opd where
  | v (n : Nat) | w (n : Nat) | q (n : Nat)
  | imm | width | lane | zero
  | pred (n : Nat) | tile (n : Nat)
  | none
  deriving DecidableEq, Repr

/-- Rounding codes of the prefix (R154); code 6 is reserved. -/
inductive Rnd where
  | rne | rtz | rdn | rup | rna | sr | dyn
  deriving DecidableEq, Repr

/-- The guard (R301): predicate and sense. -/
structure Guard where
  pred : BitVec 4
  neg  : Bool
  deriving DecidableEq, Repr

/-- The mask clause of a prefix (R306): predicate, and whether failing lanes are zeroed. -/
structure MaskSel where
  pred : BitVec 4
  zero : Bool
  deriving DecidableEq, Repr

/-- A prefix that is not a pad (R299, R306). -/
structure Pre where
  mask   : Option MaskSel
  rnd    : Rnd
  fourth : Option Opd
  deriving DecidableEq, Repr

/-- What every warp instruction carries: its length, prefix, guard, operand fields, trap bits and the immediate or displacement
(bits 95:64 in the IMM32 layout, bits 127:96 in the 128-bit form; R303). -/
structure Fmt where
  len   : Len
  pre   : Option Pre
  guard : Option Guard
  d     : Opd
  a     : Opd
  b     : Opd
  c     : Opd
  ta    : Bool
  tb    : Bool
  tc    : Bool
  x     : Word
  deriving DecidableEq, Repr

/-- Type codes of R302. -/
inductive Ty where
  | f32 | f64 | f16 | bf16 | e4m3 | e5m2 | e3m2 | e2m3 | e2m1
  | i8 | n8 | i16 | n16 | i32 | n32 | e8m0 | i64 | n64
  | np2 | np3 | np4 | np5 | np6 | np7 | np8
  | x2f16 | x2bf16 | x4e4m3 | x4e5m2 | x4i8 | x5e3m2 | x5e2m3 | x8e2m1 | x8i4
  deriving DecidableEq, Repr

/-- Comparisons of pset (R336). -/
inductive ICmp where
  | eq | ne | lt | le | gt | ge
  deriving DecidableEq, Repr

/-- Comparisons of psetf (R336). -/
inductive FCmp where
  | eq | ne | lt | le | gt | ge | un | num
  deriving DecidableEq, Repr

/-- Forms of vote (R340). -/
inductive VOp where
  | ballot | any | all | eq
  deriving DecidableEq, Repr

/-- Modes of lshf (R359). -/
inductive SMode where
  | xor | up | down | idx
  deriving DecidableEq, Repr

/-- Operations of lred and lscan (R359). -/
inductive ROp where
  | add | min | max | and | or | xor | fadd | fmin | fmax
  deriving DecidableEq, Repr

/-- Operations of atom and red (R376). -/
inductive AOp where
  | add | min | max | and | or | xor | exch | cas | fadd
  deriving DecidableEq, Repr

/-- The order of an access: weak, or one of R130. -/
inductive Ord where
  | weak | rlx | acq | rel | ar
  deriving DecidableEq, Repr

/-- Scopes (R129, R366). -/
inductive Scope where
  | wp | co | cl | dv | sy
  deriving DecidableEq, Repr

/-- Access sizes of ld, ldro and st (R371). -/
inductive Sz where
  | b32 | b8 | b16 | b64 | b128 | sb8 | sb16
  deriving DecidableEq, Repr

/-- Spaces of ld and st (R371). -/
inductive Space where
  | g | s | c
  deriving DecidableEq, Repr

/-- Comparisons of await.mem (R121). -/
inductive MCmp where
  | eq | ne | lt | ge | ltu | geu | meq
  deriving DecidableEq, Repr

/-- Completion forms of copies (R421). -/
inductive Cpl where
  | cnt | bar | task
  deriving DecidableEq, Repr

/-- Modifiers of mma and mmaz (R403); inf is OVF, apw and bpw index the pitch words. -/
structure MmaMods where
  inf : Bool
  asp : Bool
  bsp : Bool
  dsp : Bool
  nqm : BitVec 4
  sla : BitVec 3
  slb : BitVec 3
  apw : BitVec 7
  bpw : BitVec 7
  deriving DecidableEq, Repr

/-- A fabric packet (R221): the header fields and the payload bytes. -/
structure Packet where
  gen  : BitVec 16
  psn  : BitVec 16
  src  : BitVec 15
  dst  : BitVec 15
  cls  : BitVec 2
  vgrp : BitVec 10
  val  : Bool
  opc  : BitVec 8
  tag  : Word
  addr : DWord
  pay  : List Byte
  deriving DecidableEq, Repr

/-- A flit (R218): the link header and the 56-byte body. -/
structure Flit where
  hdr  : DWord
  body : List Byte
  deriving DecidableEq, Repr

/-- Operands of a command-ring entry (R268). -/
structure Cmd where
  k   : BitVec 8
  gen : BitVec 16
  nid : BitVec 24
  opa : DWord
  opb : DWord
  deriving DecidableEq, Repr

/-- The paths on which a deposit arrives (R251, R255). -/
inductive Origin where
  | native | pf | vf (n : Nat)
  deriving DecidableEq, Repr

/-- Which array an uncorrectable error is found in (R484, R495, R497). -/
inductive ArrayAt where
  /-- A sector of L2 or HBM, found by a checkpoint read or by a fill that no consumer awaits. -/
  | sector (pa : Nat)
  /-- A sector that no read has found yet. -/
  | latent (pa : Nat)
  /-- An L2 slice or a pseudo-channel pair that fails in service, by home slice (R537). -/
  | slice (k : Nat)
  | tag (line : Nat)
  | monitor (slice k : Nat)
  | registers (core warp : Nat)
  | scratchpad (core off : Nat)
  | accumulator (core warp : Nat)
  | l1 (pa : Nat)
  | till (gen : Nat)
  | faultBuffer (core entry : Nat)
  deriving DecidableEq, Repr

/-- One constructor for each row of the opcode table. -/
inductive Instr where
  -- bring-up and the host die (R255, R262, R280, R281)
  | packageReset
  | dpst (rd rs1 rs2 : BitVec 5)
  | clret
  -- deposits and register writes (R251 to R273, R459)
  | deposit (page : Nat) (orig : Origin) (data : List Byte)
  | depositToRecords
  | dpcfgWrite (i : Nat) (val : DWord)
  | uitcfgWrite (i : Nat) (val : DWord)
  | dequeEntryWrite (i k : Nat) (val : DWord)
  | gpctlWrite (i : Nat) (val : DWord)
  | grtselWrite (val : DWord)
  | ptpcfgWrite (val : DWord)
  | erlostWrite (val : DWord)
  | registerWrite (off size : Nat) (val : DWord)
  -- commands of the CP (R267)
  | nreg (c : Cmd)
  | nunreg (c : Cmd)
  | nodeUnregisterEffect (gen nid : Nat)
  | keygen (c : Cmd)
  | keykill (c : Cmd)
  | partset (c : Cmd)
  | attest (c : Cmd)
  | cmdUndefined (c : Cmd)
  -- task engines and cores
  | tillSpillReturn (die : Nat)
  | tillTimerExpiry (gen nid die : Nat)
  | bgPromotion (gen nid die : Nat)
  | groupAdmission (die : Nat)
  | stagingComplete (core group : Nat)
  | warpParkTimeout (core warp : Nat)
  | warpUnpark (core slice : Nat)
  | yieldIntervalEnd (core warp : Nat)
  | loadDataReturn (core warp op : Nat)
  | warpComplete (core warp : Nat)
  | queueCommitNotice (core group ring : Nat) (count : Word)
  | matrixResultWritten (core warp : Nat)
  | redPerformed (core warp : Nat)
  | copyPosting (core copy count : Nat)
  | copyComplete (core copy : Nat)
  | monitorDeadline (k : Nat)
  -- the switch (R191 to R213, R504)
  | switchPrepare (core : Nat)
  | switchSignal
  | switchHaltEnd (core : Nat)
  | switchDrainEnd (core : Nat)
  | switchDrainLimit (core : Nat)
  | switchSaveEnd (core : Nat)
  | clockChangeEnd (core : Nat)
  | switchRestoreEnd (core : Nat)
  -- time, memory and host-die events
  -- links and ports (R217 to R220, R246 to R248, R516 to R520, R534, R535)
  | flitReceive (port : Nat) (flit : Flit)
  | resyncTimer (port : Nat)
  | resyncReceive (port : Nat) (flit : Flit)
  | drainMarkerSend (port : Nat)
  | drainMarkerReceive (port : Nat)
  | drainMarkerTimeout (port : Nat)
  | portLightLoss (port : Nat)
  | sackTimer (src block : Nat)
  | packetRetransmit (dst psn : Nat)
  | epochSend (dst : Nat)
  -- packets (R222, R526)
  | rd (p : Packet) | wr (p : Packet) | atomPacket (p : Packet) | redPacket (p : Packet)
  | taskDecrementPacket (p : Packet) | mon (p : Packet) | recPacket (p : Packet) | claim (p : Packet)
  | esct (p : Packet) | escd (p : Packet) | rdr (p : Packet) | atomr (p : Packet) | claimr (p : Packet)
  | errr (p : Packet) | sack (p : Packet) | wake (p : Packet) | fbar (p : Packet) | frel (p : Packet)
  | sdec (p : Packet) | snot (p : Packet) | tte (p : Packet) | ptpm (p : Packet) | pren (p : Packet)
  | ttr (p : Packet) | abrt (p : Packet) | fwdr (p : Packet) | epoch (p : Packet)
  -- control (R327 to R335, R413)
  | nop (f : Fmt) | bra (f : Fmt) | brx (f : Fmt) | call (f : Fmt) | ret (f : Fmt) | exit (f : Fmt)
  | cvset (f : Fmt) | cvwait (f : Fmt) | yield (f : Fmt) | trap (f : Fmt) | svc (f : Fmt) | brk (f : Fmt)
  | sget (f : Fmt) (sidx : BitVec 4) | sset (f : Fmt) (sidx : BitVec 4) | mxhint (f : Fmt)
  -- predicates (R336 to R340)
  | pset (f : Fmt) (cmp : ICmp) (t : Ty) | psetf (f : Fmt) (cmp : FCmp) (t : Ty)
  | plog (f : Fmt) (lut : Byte) | pmovGet (f : Fmt) | pmovPut (f : Fmt) | vote (f : Fmt) (op : VOp)
  -- integer and logic (R341 to R347)
  | add (f : Fmt) (t : Ty) (sat : Bool) | sub (f : Fmt) (t : Ty) (sat : Bool)
  | addc (f : Fmt) (t : Ty) (cp : BitVec 4) | subb (f : Fmt) (t : Ty) (cp : BitVec 4)
  | mul (f : Fmt) (t : Ty) | mulhi (f : Fmt) (t : Ty) | mad (f : Fmt) (t : Ty) | madhi (f : Fmt) (t : Ty)
  | div (f : Fmt) (t : Ty) | rem (f : Fmt) (t : Ty) | min (f : Fmt) (t : Ty) | max (f : Fmt) (t : Ty)
  | abs (f : Fmt) (t : Ty) (sat : Bool) | neg (f : Fmt) (t : Ty) (sat : Bool)
  | lea (f : Fmt) (t : Ty) (sh : BitVec 3)
  | and (f : Fmt) (t : Ty) | or (f : Fmt) (t : Ty) | xor (f : Fmt) (t : Ty) | not (f : Fmt) (t : Ty)
  | andn (f : Fmt) (t : Ty)
  | shl (f : Fmt) (t : Ty) | shr (f : Fmt) (t : Ty) | sar (f : Fmt) (t : Ty) | rot (f : Fmt) (t : Ty)
  | bfx (f : Fmt) (t : Ty) | bfi (f : Fmt) (t : Ty)
  | popc (f : Fmt) (t : Ty) | clz (f : Fmt) (t : Ty) | ctz (f : Fmt) (t : Ty) | brev (f : Fmt) (t : Ty)
  | sel (f : Fmt) (t : Ty) (ps : BitVec 4) | mov (f : Fmt) (t : Ty) | movi (f : Fmt) (t : Ty)
  | movd (f : Fmt) (t : Ty) (lo : Word) | prmt (f : Fmt)
  -- floating point (R348 to R354)
  | fadd (f : Fmt) (t : Ty) | fsub (f : Fmt) (t : Ty) | fmul (f : Fmt) (t : Ty) | ffma (f : Fmt) (t : Ty)
  | fmin (f : Fmt) (t : Ty) | fmax (f : Fmt) (t : Ty) | fneg (f : Fmt) (t : Ty) | fabs (f : Fmt) (t : Ty)
  | fcsign (f : Fmt) (t : Ty) | fdiv (f : Fmt) (t : Ty) | fsqrt (f : Fmt) (t : Ty) | fscale (f : Fmt) (t : Ty)
  | fgexp (f : Fmt) (t : Ty) | frnd (f : Fmt) (t : Ty) | fcls (f : Fmt) (t : Ty)
  | fcvt (f : Fmt) (dt st : Ty) (inf : Bool) | icvt (f : Fmt) (dt st : Ty) (inf : Bool)
  | vsin (f : Fmt) | vcos (f : Fmt) | vscs (f : Fmt) | vex2 (f : Fmt) | vlg2 (f : Fmt) | vrcp (f : Fmt)
  | vrsq (f : Fmt) | vtanh (f : Fmt)
  -- packed (R355 to R358)
  | padd (f : Fmt) (t : Ty) (inf : Bool) | psub (f : Fmt) (t : Ty) (inf : Bool) | pmul (f : Fmt) (t : Ty) (inf : Bool)
  | pfma (f : Fmt) (t : Ty) (inf : Bool) | pmin (f : Fmt) (t : Ty) | pmax (f : Fmt) (t : Ty)
  | pdot (f : Fmt) (t : Ty) (inf : Bool) | pcvt (f : Fmt) (dt st : Ty) (inf : Bool)
  | ppack (f : Fmt) (t : Ty) (pos : BitVec 3) (inf : Bool) | punpk (f : Fmt) (t : Ty) (pos : BitVec 3)
  | pabs (f : Fmt) (t : Ty) (inf : Bool)
  -- cross-lane and random (R359 to R364)
  | lshf (f : Fmt) (t : Ty) (m : SMode) (seg : BitVec 3) | lred (f : Fmt) (t : Ty) (op : ROp) (seg : BitVec 3)
  | lscan (f : Fmt) (t : Ty) (op : ROp) (seg : BitVec 3) (exc : Bool) | lbc (f : Fmt) (t : Ty)
  | vhash (f : Fmt) | vdrop (f : Fmt)
  -- memory (R371 to R384)
  | ld (f : Fmt) (sp : Space) (sz : Sz) (ord : Ord) (sco : Scope) (pr : Bool) (sh : BitVec 3)
  | ldro (f : Fmt) (sz : Sz) (sh : BitVec 3) | ldk (f : Fmt) (cnt : BitVec 3)
  | st (f : Fmt) (sp : Space) (sz : Sz) (ord : Ord) (sco : Scope) (sh : BitVec 3)
  | atom (f : Fmt) (op : AOp) (t : Ty) (ord : Ord) (sco : Scope) (pr sp : Bool) (sh : BitVec 3)
  | red (f : Fmt) (op : AOp) (t : Ty) (ord : Ord) (sco : Scope) (sh : BitVec 3)
  | fence (f : Fmt) (ord : Ord) (sco : Scope) | fro (f : Fmt) | rcfence (f : Fmt)
  -- waiting, barriers and queues (R385 to R400)
  | awaitCnt (f : Fmt) | awaitPh (f : Fmt) (sco : Scope) | awaitPhG (f : Fmt) (sco : Scope)
  | awaitMem (f : Fmt) (cmp : MCmp) (dw : Bool) (sco : Scope)
  | bini (f : Fmt) | barv (f : Fmt) (sco : Scope) | bexp (f : Fmt) | gbarGrid (f : Fmt) | gbarFab (f : Fmt)
  | qcls (f : Fmt) (qn : BitVec 3) | qstat (f : Fmt) (qn : BitVec 3)
  -- matrix unit (R401 to R419)
  | mma (f : Fmt) (m : MmaMods) | mmaz (f : Fmt) (m : MmaMods)
  | accld (f : Fmt) (nqm : BitVec 4) (ssp : Bool) | accst (f : Fmt) (nqm : BitVec 4) (ssp : Bool)
  | accz (f : Fmt) (nqm : BitVec 4)
  | rqnt (f : Fmt) (inf : Bool) (sl sls : BitVec 3) | qpack (f : Fmt) (inf : Bool) (sl : BitVec 3)
  | qunpk (f : Fmt) (inf : Bool) (sl : BitVec 3) | plsplit (f : Fmt) | plmrg (f : Fmt) (sl : BitVec 3)
  | topk (f : Fmt) (t : Ty) (pp : Option (BitVec 4))
  -- copies (R420 to R430)
  | cpy (f : Fmt) (cpl : Cpl) (ds ss : Bool) (ctw : BitVec 7) | cpyt (f : Fmt) (cpl : Cpl) (dir : Bool) (ctw : BitVec 7)
  | cpyw (f : Fmt) (cpl : Cpl) (ctw : BitVec 7) | cpyg (f : Fmt) (cpl : Cpl) (ctw : BitVec 7)
  | cpys (f : Fmt) (cpl : Cpl) (ctw : BitVec 7)
  -- tasks (R431 to R436)
  | emit (f : Fmt) | emitRem (f : Fmt) | emitTask (f : Fmt) | spawn (f : Fmt) | tkget (f : Fmt)
  | tkgetClaim (f : Fmt) | tkput (f : Fmt) | tdec (f : Fmt) | tdecRem (f : Fmt)
  -- supervisor (R437 to R444)
  | sret (f : Fmt) (skip : Bool) | mbrecv (f : Fmt) (pe pf : BitVec 4) | mbpost (f : Fmt) | frep (f : Fmt)
  | fdrop (f : Fmt) | tlbi (f : Fmt) (scp : Bool) | wpark (f : Fmt) | wwake (f : Fmt)
  | sctxRd (f : Fmt) (vlt : Bool) | sctxWr (f : Fmt) (vlt : Bool)
  -- further events (R190, R261, R413, R480)
  | slotWindowEnd (core : Nat) | matrixRampTimer (core slice : Nat) | copyAccessFault (core copy : Nat)
  | userInterruptWaitEnd (target : Nat)
  -- events that only arrive from outside: time, arrays, ports, resets (R178 to R180, R255, R273, R286, R288, R493 to R504, R516)
  | lockLossTimeout
  | holdoverTimeout
  | hotPageEpochEnd
  | measurementExtend (i : Nat) (data : List Byte)
  | cluitxWrite (hart : Nat) (val : DWord)
  | userInterruptTake (hart : Nat)
  | vfReset (vf : Nat)
  | coreRestart (core : Nat)
  | ptpExchange (parent : Nat) (offset : Int) (hops : Nat) (root : Bool) (rate : Int)
  | patrolRead (slice : Nat)
  | arrayCorrectedError (pa : Nat)
  | arrayUncorrectableError (at_ : ArrayAt)
  | hdieUncorrectableError (hcore key pa : Nat)
  | portLightReturn (port : Nat) (far : BitVec 15) (fport : BitVec 6)
  | portRelockComplete (port : Nat)
  | relockTimeout (port : Nat)
  | darkTimeout (port : Nat)
  | portDownRetrain (port : Nat) (trained : Option (BitVec 15 × BitVec 6))
  | laneLoss (port lane : Nat)
  | laneRetrain (port lane : Nat)
  | unreachableDeclare (dst : Nat)
  | preemptionSlotEnd (gen : Nat)
  deriving DecidableEq, Repr

end Sys2Proof
end

