-- ==== Sys2Proof/Machine/Shape.lean ====
section
/-! DEFINITION. The encoding tables of the warp instructions: type codes (R302), opcode numbers (R308), the packing of MOD and
MOD2 (chapters 10 to 12), the operand class of every field, and the lengths each form permits (R304, R321). The decoder, the
encoder and WellFormed read these tables. -/

namespace Sys2Proof

/-- Type codes of R302. -/
def Ty.code : Ty → BitVec 6
  | .f32 => 0 | .f64 => 1 | .f16 => 2 | .bf16 => 3 | .e4m3 => 4 | .e5m2 => 5 | .e3m2 => 6 | .e2m3 => 7 | .e2m1 => 8
  | .i8 => 9 | .n8 => 10 | .i16 => 11 | .n16 => 12 | .i32 => 13 | .n32 => 14 | .e8m0 => 16 | .i64 => 17 | .n64 => 18
  | .np2 => 20 | .np3 => 21 | .np4 => 22 | .np5 => 23 | .np6 => 24 | .np7 => 25 | .np8 => 26
  | .x2f16 => 32 | .x2bf16 => 33 | .x4e4m3 => 34 | .x4e5m2 => 35 | .x4i8 => 36 | .x5e3m2 => 37 | .x5e2m3 => 38
  | .x8e2m1 => 39 | .x8i4 => 40

/-- The type of a code; none for the reserved ones (R302). -/
def Ty.ofCode (c : BitVec 6) : Option Ty :=
  match c.toNat with
  | 0 => some .f32 | 1 => some .f64 | 2 => some .f16 | 3 => some .bf16 | 4 => some .e4m3 | 5 => some .e5m2
  | 6 => some .e3m2 | 7 => some .e2m3 | 8 => some .e2m1 | 9 => some .i8 | 10 => some .n8 | 11 => some .i16
  | 12 => some .n16 | 13 => some .i32 | 14 => some .n32 | 16 => some .e8m0 | 17 => some .i64 | 18 => some .n64
  | 20 => some .np2 | 21 => some .np3 | 22 => some .np4 | 23 => some .np5 | 24 => some .np6 | 25 => some .np7
  | 26 => some .np8 | 32 => some .x2f16 | 33 => some .x2bf16 | 34 => some .x4e4m3 | 35 => some .x4e5m2
  | 36 => some .x4i8 | 37 => some .x5e3m2 | 38 => some .x5e2m3 | 39 => some .x8e2m1 | 40 => some .x8i4
  | _ => none

/-- Registers that a scalar of the type takes (R291). -/
def Ty.words : Ty → Nat
  | .f64 | .i64 | .n64 => 2
  | _ => 1

def Ty.isI4 (t : Ty) : Bool := t == .i32 || t == .n32 || t == .i64 || t == .n64
def Ty.isF4 (t : Ty) : Bool := t == .f32 || t == .f64 || t == .f16 || t == .bf16
/-- Scalar types of 32 or 64 bits. -/
def Ty.isS (t : Ty) : Bool := t.isI4 || t == .f32 || t == .f64
/-- Sub-elements of a packed type (R170); 0 for a scalar type. -/
def Ty.count : Ty → Nat
  | .x2f16 | .x2bf16 => 2
  | .x4e4m3 | .x4e5m2 | .x4i8 => 4
  | .x5e3m2 | .x5e2m3 => 5
  | .x8e2m1 | .x8i4 => 8
  | _ => 0
def Ty.isP (t : Ty) : Bool := t.count != 0
/-- Packed types of integers. -/
def Ty.isPInt (t : Ty) : Bool := t == .x4i8 || t == .x8i4

/-- Operand classes that a field admits (R293). -/
structure Cls where
  v    : Bool
  w    : Bool
  q    : Bool
  imm  : Bool
  fix  : Bool
  zero : Bool
  deriving DecidableEq, Repr

def Cls.src  : Cls := ⟨true, true, true, true, true, true⟩
def Cls.dst  : Cls := ⟨true, true, true, false, false, true⟩
def Cls.noImm : Cls := ⟨true, true, true, false, true, true⟩
def Cls.vw   : Cls := ⟨true, true, false, false, false, false⟩
def Cls.v1   : Cls := ⟨true, false, false, false, false, false⟩
def Cls.w1   : Cls := ⟨false, true, false, false, false, false⟩
def Cls.i1   : Cls := ⟨false, false, false, true, false, false⟩
def Cls.vwi  : Cls := ⟨true, true, false, true, false, false⟩
def Cls.wi   : Cls := ⟨false, true, false, true, false, false⟩
def Cls.wz   : Cls := ⟨false, true, false, false, false, true⟩
def Cls.vz   : Cls := ⟨true, false, false, false, false, true⟩
def Cls.vwz  : Cls := ⟨true, true, false, false, false, true⟩
def Cls.vwiz : Cls := ⟨true, true, false, true, false, true⟩

/-- What a field of an instruction holds: nothing, a register, a predicate or a tile. words is the operand's size in registers;
al says whether R291 aligns it. -/
inductive OpK where
  | none
  | reg (c : Cls) (words : Nat) (al : Bool)
  | pred
  | tile
  deriving DecidableEq, Repr

/-- The fields an instruction uses. dsrc: the D field names a source (a scratchpad address). -/
structure Shape where
  d  : OpK := .none
  a  : OpK := .none
  b  : OpK := .none
  c  : OpK := .none
  fo : OpK := .none
  dsrc : Bool := false
  deriving DecidableEq, Repr

def OpK.s (n : Nat) : OpK := .reg .src n true
def OpK.r (n : Nat) : OpK := .reg .dst n true
def OpK.k (c : Cls) (n : Nat := 1) : OpK := .reg c n true
/-- n consecutive registers without the alignment of R291. -/
def OpK.run (c : Cls) (n : Nat) : OpK := .reg c n false

def ICmp.code : ICmp → BitVec 3
  | .eq => 0 | .ne => 1 | .lt => 2 | .le => 3 | .gt => 4 | .ge => 5
def ICmp.ofCode (c : BitVec 3) : Option ICmp :=
  match c.toNat with
  | 0 => some .eq | 1 => some .ne | 2 => some .lt | 3 => some .le | 4 => some .gt | 5 => some .ge | _ => none
def FCmp.code : FCmp → BitVec 3
  | .eq => 0 | .ne => 1 | .lt => 2 | .le => 3 | .gt => 4 | .ge => 5 | .un => 6 | .num => 7
def FCmp.ofCode (c : BitVec 3) : FCmp :=
  match c.toNat with
  | 0 => .eq | 1 => .ne | 2 => .lt | 3 => .le | 4 => .gt | 5 => .ge | 6 => .un | _ => .num
def VOp.code : VOp → BitVec 2
  | .ballot => 0 | .any => 1 | .all => 2 | .eq => 3
def VOp.ofCode (c : BitVec 2) : VOp :=
  match c.toNat with
  | 0 => .ballot | 1 => .any | 2 => .all | _ => .eq
def SMode.code : SMode → BitVec 2
  | .xor => 0 | .up => 1 | .down => 2 | .idx => 3
def SMode.ofCode (c : BitVec 2) : SMode :=
  match c.toNat with
  | 0 => .xor | 1 => .up | 2 => .down | _ => .idx
def ROp.code : ROp → BitVec 4
  | .add => 0 | .min => 1 | .max => 2 | .and => 3 | .or => 4 | .xor => 5 | .fadd => 6 | .fmin => 7 | .fmax => 8
def ROp.ofCode (c : BitVec 4) : Option ROp :=
  match c.toNat with
  | 0 => some .add | 1 => some .min | 2 => some .max | 3 => some .and | 4 => some .or | 5 => some .xor
  | 6 => some .fadd | 7 => some .fmin | 8 => some .fmax | _ => none
def AOp.code : AOp → BitVec 4
  | .add => 0 | .min => 1 | .max => 2 | .and => 3 | .or => 4 | .xor => 5 | .exch => 6 | .cas => 7 | .fadd => 8
def AOp.ofCode (c : BitVec 4) : Option AOp :=
  match c.toNat with
  | 0 => some .add | 1 => some .min | 2 => some .max | 3 => some .and | 4 => some .or | 5 => some .xor
  | 6 => some .exch | 7 => some .cas | 8 => some .fadd | _ => none
def Scope.code : Scope → BitVec 3
  | .wp => 0 | .co => 1 | .cl => 2 | .dv => 3 | .sy => 4
def Scope.ofCode (c : BitVec 3) : Option Scope :=
  match c.toNat with
  | 0 => some .wp | 1 => some .co | 2 => some .cl | 3 => some .dv | 4 => some .sy | _ => none
def Sz.code : Sz → BitVec 3
  | .b32 => 0 | .b8 => 1 | .b16 => 2 | .b64 => 3 | .b128 => 4 | .sb8 => 5 | .sb16 => 6
def Sz.ofCode (c : BitVec 3) : Option Sz :=
  match c.toNat with
  | 0 => some .b32 | 1 => some .b8 | 2 => some .b16 | 3 => some .b64 | 4 => some .b128 | 5 => some .sb8
  | 6 => some .sb16 | _ => none
def Sz.bytes : Sz → Nat
  | .b32 => 4 | .b8 => 1 | .b16 => 2 | .b64 => 8 | .b128 => 16 | .sb8 => 1 | .sb16 => 2
def Sz.words : Sz → Nat
  | .b64 => 2 | .b128 => 4 | _ => 1
def Space.code : Space → BitVec 2
  | .g => 0 | .s => 1 | .c => 2
def Space.ofCode (c : BitVec 2) : Option Space :=
  match c.toNat with
  | 0 => some .g | 1 => some .s | 2 => some .c | _ => none
def MCmp.code : MCmp → BitVec 4
  | .eq => 0 | .ne => 1 | .lt => 2 | .ge => 3 | .ltu => 4 | .geu => 5 | .meq => 6
def MCmp.ofCode (c : BitVec 4) : Option MCmp :=
  match c.toNat with
  | 0 => some .eq | 1 => some .ne | 2 => some .lt | 3 => some .ge | 4 => some .ltu | 5 => some .geu | 6 => some .meq
  | _ => none
def Cpl.code : Cpl → BitVec 2
  | .cnt => 0 | .bar => 1 | .task => 2
def Cpl.ofCode (c : BitVec 2) : Option Cpl :=
  match c.toNat with
  | 0 => some .cnt | 1 => some .bar | 2 => some .task | _ => none
/-- Rounding codes of R154. -/
def Rnd.code : Rnd → BitVec 3
  | .rne => 0 | .rtz => 1 | .rdn => 2 | .rup => 3 | .rna => 4 | .sr => 5 | .dyn => 7
def Rnd.ofCode (c : BitVec 3) : Option Rnd :=
  match c.toNat with
  | 0 => some .rne | 1 => some .rtz | 2 => some .rdn | 3 => some .rup | 4 => some .rna | 5 => some .sr | 7 => some .dyn
  | _ => none
/-- ORD of a load (R371): 0 weak, 1 rlx, 2 acq. -/
def Ord.codeLd : Ord → BitVec 2
  | .rlx => 1 | .acq => 2 | _ => 0
def Ord.ofCodeLd (c : BitVec 2) : Option Ord :=
  match c.toNat with
  | 0 => some .weak | 1 => some .rlx | 2 => some .acq | _ => none
/-- ORD of a store (R371): 0 weak, 1 rlx, 2 rel. -/
def Ord.codeSt : Ord → BitVec 2
  | .rlx => 1 | .rel => 2 | _ => 0
def Ord.ofCodeSt (c : BitVec 2) : Option Ord :=
  match c.toNat with
  | 0 => some .weak | 1 => some .rlx | 2 => some .rel | _ => none
/-- ORD of an atomic (R376). -/
def Ord.codeAt : Ord → BitVec 2
  | .acq => 1 | .rel => 2 | .ar => 3 | _ => 0
def Ord.ofCodeAt (c : BitVec 2) : Ord :=
  match c.toNat with
  | 1 => .acq | 2 => .rel | 3 => .ar | _ => .rlx
/-- ORD of a fence (R381): 1 acq, 2 rel, 3 ar. -/
def Ord.codeFe : Ord → BitVec 2
  | .acq => 1 | .rel => 2 | .ar => 3 | _ => 0
def Ord.ofCodeFe (c : BitVec 2) : Option Ord :=
  match c.toNat with
  | 1 => some .acq | 2 => some .rel | 3 => some .ar | _ => none

/-- One bit as a 1-bit field. -/
abbrev bit (b : Bool) : BitVec 1 := BitVec.ofBool b

/-- Opcode (R308), MOD (bits 31:18) and MOD2 (bits 95:75) of a warp instruction. -/
structure Sig where
  op   : BitVec 10
  mod  : BitVec 14
  mod2 : BitVec 21
  deriving DecidableEq, Repr

/-- MOD with the modifier byte in bits 31:24 and the type code in bits 23:18 (R320). -/
def modT (h : BitVec 8) (t : Ty) : BitVec 14 := h ++ t.code
def modN (h : BitVec 8) : BitVec 14 := h ++ 0#6

/-- Access modifiers of ld, ldro and st (R371). -/
def modAcc (ord : BitVec 2) (sco : BitVec 3) (sh : BitVec 3) (sz : BitVec 3) (pr : Bool) (sp : BitVec 2) : BitVec 14 :=
  ord ++ sco ++ sh ++ sz ++ bit pr ++ sp

/-- The scope field of an access: 0 for a weak one (R366). -/
def scoOf (ord : Ord) (sco : Scope) : BitVec 3 := if ord = .weak then 0 else sco.code

/-- Opcode and modifier fields of a warp instruction; none for the other rows. -/
def Instr.sig : Instr → Option Sig
  | .nop _ => some ⟨0x000, 0, 0⟩ | .bra _ => some ⟨0x001, 0, 0⟩ | .brx _ => some ⟨0x002, 0, 0⟩
  | .call _ => some ⟨0x003, 0, 0⟩ | .ret _ => some ⟨0x004, 0, 0⟩ | .exit _ => some ⟨0x005, 0, 0⟩
  | .cvset _ => some ⟨0x006, 0, 0⟩ | .cvwait _ => some ⟨0x007, 0, 0⟩ | .yield _ => some ⟨0x008, 0, 0⟩
  | .trap _ => some ⟨0x009, 0, 0⟩ | .svc _ => some ⟨0x00A, 0, 0⟩ | .brk _ => some ⟨0x00B, 0, 0⟩
  | .sget _ x => some ⟨0x00C, modN (0#4 ++ x), 0⟩ | .sset _ x => some ⟨0x00D, modN (0#4 ++ x), 0⟩
  | .mxhint _ => some ⟨0x00E, 0, 0⟩
  | .pset _ c t => some ⟨0x010, modT (0#5 ++ c.code) t, 0⟩ | .psetf _ c t => some ⟨0x011, modT (0#5 ++ c.code) t, 0⟩
  | .plog _ l => some ⟨0x012, modN l, 0⟩ | .pmovGet _ => some ⟨0x013, modN 0, 0⟩ | .pmovPut _ => some ⟨0x013, modN 1, 0⟩
  | .vote _ o => some ⟨0x014, modN (0#6 ++ o.code), 0⟩
  | .add _ t s => some ⟨0x020, modT (0#7 ++ bit s) t, 0⟩ | .sub _ t s => some ⟨0x021, modT (0#7 ++ bit s) t, 0⟩
  | .addc _ t p => some ⟨0x022, modT (0#4 ++ p) t, 0⟩ | .subb _ t p => some ⟨0x023, modT (0#4 ++ p) t, 0⟩
  | .mul _ t => some ⟨0x024, modT 0 t, 0⟩ | .mulhi _ t => some ⟨0x025, modT 0 t, 0⟩
  | .mad _ t => some ⟨0x026, modT 0 t, 0⟩ | .madhi _ t => some ⟨0x027, modT 0 t, 0⟩
  | .div _ t => some ⟨0x028, modT 0 t, 0⟩ | .rem _ t => some ⟨0x029, modT 0 t, 0⟩
  | .min _ t => some ⟨0x02A, modT 0 t, 0⟩ | .max _ t => some ⟨0x02B, modT 0 t, 0⟩
  | .abs _ t s => some ⟨0x02C, modT (0#7 ++ bit s) t, 0⟩ | .neg _ t s => some ⟨0x02D, modT (0#7 ++ bit s) t, 0⟩
  | .lea _ t sh => some ⟨0x02E, modT (0#5 ++ sh) t, 0⟩
  | .and _ t => some ⟨0x030, modT 0 t, 0⟩ | .or _ t => some ⟨0x031, modT 0 t, 0⟩ | .xor _ t => some ⟨0x032, modT 0 t, 0⟩
  | .not _ t => some ⟨0x033, modT 0 t, 0⟩ | .andn _ t => some ⟨0x034, modT 0 t, 0⟩
  | .shl _ t => some ⟨0x035, modT 0 t, 0⟩ | .shr _ t => some ⟨0x036, modT 0 t, 0⟩ | .sar _ t => some ⟨0x037, modT 0 t, 0⟩
  | .rot _ t => some ⟨0x038, modT 0 t, 0⟩ | .bfx _ t => some ⟨0x039, modT 0 t, 0⟩ | .bfi _ t => some ⟨0x03A, modT 0 t, 0⟩
  | .popc _ t => some ⟨0x03B, modT 0 t, 0⟩ | .clz _ t => some ⟨0x03C, modT 0 t, 0⟩ | .ctz _ t => some ⟨0x03D, modT 0 t, 0⟩
  | .brev _ t => some ⟨0x03E, modT 0 t, 0⟩ | .sel _ t p => some ⟨0x03F, modT (0#4 ++ p) t, 0⟩
  | .mov _ t => some ⟨0x040, modT 0 t, 0⟩ | .movi _ t => some ⟨0x041, modT 0 t, 0⟩ | .movd _ t _ => some ⟨0x042, modT 0 t, 0⟩
  | .prmt _ => some ⟨0x043, modT 0 .n32, 0⟩
  | .fadd _ t => some ⟨0x060, modT 0 t, 0⟩ | .fsub _ t => some ⟨0x061, modT 0 t, 0⟩ | .fmul _ t => some ⟨0x062, modT 0 t, 0⟩
  | .ffma _ t => some ⟨0x063, modT 0 t, 0⟩ | .fmin _ t => some ⟨0x064, modT 0 t, 0⟩ | .fmax _ t => some ⟨0x065, modT 0 t, 0⟩
  | .fneg _ t => some ⟨0x066, modT 0 t, 0⟩ | .fabs _ t => some ⟨0x067, modT 0 t, 0⟩ | .fcsign _ t => some ⟨0x068, modT 0 t, 0⟩
  | .fdiv _ t => some ⟨0x069, modT 0 t, 0⟩ | .fsqrt _ t => some ⟨0x06A, modT 0 t, 0⟩ | .fscale _ t => some ⟨0x06B, modT 0 t, 0⟩
  | .fgexp _ t => some ⟨0x06C, modT 0 t, 0⟩ | .frnd _ t => some ⟨0x06D, modT 0 t, 0⟩ | .fcls _ t => some ⟨0x06E, modT 0 t, 0⟩
  | .fcvt _ d s i => some ⟨0x06F, modT (0#1 ++ bit i ++ s.code) d, 0⟩
  | .icvt _ d s i => some ⟨0x070, modT (0#1 ++ bit i ++ s.code) d, 0⟩
  | .vsin _ => some ⟨0x080, 0, 0⟩ | .vcos _ => some ⟨0x081, 0, 0⟩ | .vscs _ => some ⟨0x082, 0, 0⟩
  | .vex2 _ => some ⟨0x083, 0, 0⟩ | .vlg2 _ => some ⟨0x084, 0, 0⟩ | .vrcp _ => some ⟨0x085, 0, 0⟩
  | .vrsq _ => some ⟨0x086, 0, 0⟩ | .vtanh _ => some ⟨0x087, 0, 0⟩
  | .padd _ t i => some ⟨0x090, modT (0#1 ++ bit i ++ 0#6) t, 0⟩ | .psub _ t i => some ⟨0x091, modT (0#1 ++ bit i ++ 0#6) t, 0⟩
  | .pmul _ t i => some ⟨0x092, modT (0#1 ++ bit i ++ 0#6) t, 0⟩ | .pfma _ t i => some ⟨0x093, modT (0#1 ++ bit i ++ 0#6) t, 0⟩
  | .pmin _ t => some ⟨0x094, modT 0 t, 0⟩ | .pmax _ t => some ⟨0x095, modT 0 t, 0⟩
  | .pdot _ t i => some ⟨0x096, modT (0#1 ++ bit i ++ 0#6) t, 0⟩
  | .pcvt _ d s i => some ⟨0x097, modT (0#1 ++ bit i ++ s.code) d, 0⟩
  | .ppack _ t p i => some ⟨0x098, modT (0#1 ++ bit i ++ 0#3 ++ p) t, 0⟩
  | .punpk _ t p => some ⟨0x099, modT (0#5 ++ p) t, 0⟩
  | .pabs _ t i => some ⟨0x09A, modT (0#1 ++ bit i ++ 0#6) t, 0⟩
  | .lshf _ t m s => some ⟨0x0A0, modT (0#1 ++ s ++ 0#2 ++ m.code) t, 0⟩
  | .lred _ t o s => some ⟨0x0A1, modT (0#1 ++ s ++ o.code) t, 0⟩
  | .lscan _ t o s e => some ⟨0x0A2, modT (bit e ++ s ++ o.code) t, 0⟩
  | .lbc _ t => some ⟨0x0A3, modT 0 t, 0⟩
  | .vhash _ => some ⟨0x0B0, 0, 0⟩ | .vdrop _ => some ⟨0x0B1, 0, 0⟩
  | .ld _ sp sz o sc pr sh => some ⟨0x100, modAcc o.codeLd (scoOf o sc) sh sz.code pr sp.code, 0⟩
  | .ldro _ sz sh => some ⟨0x101, modAcc 0 0 sh sz.code false 0, 0⟩
  | .ldk _ c => some ⟨0x102, modN (0#5 ++ c), 0⟩
  | .st _ sp sz o sc sh => some ⟨0x103, modAcc o.codeSt (scoOf o sc) sh sz.code false sp.code, 0⟩
  | .atom _ o t r sc pr sp sh => some ⟨0x104, modT (o.code ++ r.codeAt ++ bit pr ++ bit sp) t, 0#15 ++ sh ++ sc.code⟩
  | .red _ o t r sc sh => some ⟨0x105, modT (o.code ++ r.codeAt ++ 0#2) t, 0#15 ++ sh ++ sc.code⟩
  | .fence _ o sc => some ⟨0x106, o.codeFe ++ sc.code ++ 0#9, 0⟩
  | .fro _ => some ⟨0x107, 0, 0⟩ | .rcfence _ => some ⟨0x108, 0, 0⟩
  | .awaitCnt _ => some ⟨0x140, 0, 0⟩
  | .awaitPh _ sc => some ⟨0x140, 0#4 ++ sc.code ++ 0#1 ++ 1#2 ++ 0#4, 0⟩
  | .awaitPhG _ sc => some ⟨0x140, 0#4 ++ sc.code ++ 0#1 ++ 1#2 ++ 8#4, 0⟩
  | .awaitMem _ c dw sc => some ⟨0x140, c.code ++ sc.code ++ bit dw ++ 2#2 ++ 0#4, 0⟩
  | .bini _ => some ⟨0x141, 0, 0⟩ | .barv _ sc => some ⟨0x142, 0#2 ++ sc.code ++ 0#9, 0⟩ | .bexp _ => some ⟨0x143, 0, 0⟩
  | .gbarGrid _ => some ⟨0x144, modN 0, 0⟩ | .gbarFab _ => some ⟨0x144, modN 1, 0⟩
  | .qcls _ q => some ⟨0x145, modN (0#5 ++ q), 0⟩ | .qstat _ q => some ⟨0x146, modN (0#5 ++ q), 0⟩
  | .mma _ m => some ⟨0x180, bit m.inf ++ bit m.asp ++ bit m.bsp ++ bit m.dsp ++ m.nqm ++ m.sla ++ m.slb,
      m.apw ++ m.bpw ++ 0#7⟩
  | .mmaz _ m => some ⟨0x181, bit m.inf ++ bit m.asp ++ bit m.bsp ++ bit m.dsp ++ m.nqm ++ m.sla ++ m.slb,
      m.apw ++ m.bpw ++ 0#7⟩
  | .accld _ n s => some ⟨0x182, modN (0#1 ++ bit s ++ 0#2 ++ n), 0⟩
  | .accst _ n s => some ⟨0x183, modN (0#1 ++ bit s ++ 0#2 ++ n), 0⟩
  | .accz _ n => some ⟨0x184, modN (0#4 ++ n), 0⟩
  | .rqnt _ i sl sls => some ⟨0x188, bit i ++ 0#4 ++ sl ++ sls ++ 0#3, 0⟩
  | .qpack _ i sl => some ⟨0x189, modN (bit i ++ 0#4 ++ sl), 0⟩ | .qunpk _ i sl => some ⟨0x18A, modN (bit i ++ 0#4 ++ sl), 0⟩
  | .plsplit _ => some ⟨0x18B, 0, 0⟩ | .plmrg _ sl => some ⟨0x18C, modN (0#5 ++ sl), 0⟩
  | .topk _ t none => some ⟨0x18D, modT 0 t, 0⟩ | .topk _ t (some p) => some ⟨0x18D, modT (1#4 ++ p) t, 0⟩
  | .cpy _ c ds ss ct => some ⟨0x1C0, c.code ++ bit ds ++ bit ss ++ 0#10, ct ++ 0#14⟩
  | .cpyt _ c dr ct => some ⟨0x1C1, c.code ++ bit dr ++ 0#11, ct ++ 0#14⟩
  | .cpyw _ c ct => some ⟨0x1C2, c.code ++ 0#12, ct ++ 0#14⟩
  | .cpyg _ c ct => some ⟨0x1C3, c.code ++ 0#12, ct ++ 0#14⟩
  | .cpys _ c ct => some ⟨0x1C4, c.code ++ 0#12, ct ++ 0#14⟩
  | .emit _ => some ⟨0x200, 0, 0⟩ | .emitRem _ => some ⟨0x200, 1#2 ++ 0#12, 0⟩ | .emitTask _ => some ⟨0x200, 2#2 ++ 0#12, 0⟩
  | .spawn _ => some ⟨0x201, 0, 0⟩ | .tkget _ => some ⟨0x202, 0, 0⟩ | .tkgetClaim _ => some ⟨0x202, 1#1 ++ 0#13, 0⟩
  | .tkput _ => some ⟨0x203, 0, 0⟩ | .tdec _ => some ⟨0x204, 0, 0⟩ | .tdecRem _ => some ⟨0x204, 1#1 ++ 0#13, 0⟩
  | .sret _ s => some ⟨0x3C0, modN (0#7 ++ bit s), 0⟩ | .mbrecv _ pe pf => some ⟨0x3C1, modN (pf ++ pe), 0⟩
  | .mbpost _ => some ⟨0x3C2, 0, 0⟩ | .frep _ => some ⟨0x3C3, 0, 0⟩ | .fdrop _ => some ⟨0x3C4, 0, 0⟩
  | .tlbi _ s => some ⟨0x3C5, modN (0#7 ++ bit s), 0⟩ | .wpark _ => some ⟨0x3C6, 0, 0⟩ | .wwake _ => some ⟨0x3C7, 0, 0⟩
  | .sctxRd _ v => some ⟨0x3C9, modN (0#6 ++ bit v ++ 0#1), 0⟩ | .sctxWr _ v => some ⟨0x3C9, modN (0#6 ++ bit v ++ 1#1), 0⟩
  | _ => none

/-- The common fields of a warp instruction; none for the other rows. -/
def Instr.fmt : Instr → Option Fmt
  | .nop f | .bra f | .brx f | .call f | .ret f | .exit f | .cvset f | .cvwait f | .yield f | .trap f | .svc f | .brk f
  | .sget f _ | .sset f _ | .mxhint f | .pset f _ _ | .psetf f _ _ | .plog f _ | .pmovGet f | .pmovPut f | .vote f _
  | .add f _ _ | .sub f _ _ | .addc f _ _ | .subb f _ _ | .mul f _ | .mulhi f _ | .mad f _ | .madhi f _ | .div f _
  | .rem f _ | .min f _ | .max f _ | .abs f _ _ | .neg f _ _ | .lea f _ _ | .and f _ | .or f _ | .xor f _ | .not f _
  | .andn f _ | .shl f _ | .shr f _ | .sar f _ | .rot f _ | .bfx f _ | .bfi f _ | .popc f _ | .clz f _ | .ctz f _
  | .brev f _ | .sel f _ _ | .mov f _ | .movi f _ | .movd f _ _ | .prmt f | .fadd f _ | .fsub f _ | .fmul f _ | .ffma f _
  | .fmin f _ | .fmax f _ | .fneg f _ | .fabs f _ | .fcsign f _ | .fdiv f _ | .fsqrt f _ | .fscale f _ | .fgexp f _
  | .frnd f _ | .fcls f _ | .fcvt f _ _ _ | .icvt f _ _ _ | .vsin f | .vcos f | .vscs f | .vex2 f | .vlg2 f | .vrcp f
  | .vrsq f | .vtanh f | .padd f _ _ | .psub f _ _ | .pmul f _ _ | .pfma f _ _ | .pmin f _ | .pmax f _ | .pdot f _ _
  | .pcvt f _ _ _ | .ppack f _ _ _ | .punpk f _ _ | .pabs f _ _ | .lshf f _ _ _ | .lred f _ _ _ | .lscan f _ _ _ _
  | .lbc f _ | .vhash f | .vdrop f | .ld f _ _ _ _ _ _ | .ldro f _ _ | .ldk f _ | .st f _ _ _ _ _
  | .atom f _ _ _ _ _ _ _ | .red f _ _ _ _ _ | .fence f _ _ | .fro f | .rcfence f | .awaitCnt f | .awaitPh f _
  | .awaitPhG f _ | .awaitMem f _ _ _ | .bini f | .barv f _ | .bexp f | .gbarGrid f | .gbarFab f | .qcls f _ | .qstat f _
  | .mma f _ | .mmaz f _ | .accld f _ _ | .accst f _ _ | .accz f _ | .rqnt f _ _ _ | .qpack f _ _ | .qunpk f _ _
  | .plsplit f | .plmrg f _ | .topk f _ _ | .cpy f _ _ _ _ | .cpyt f _ _ _ | .cpyw f _ _ | .cpyg f _ _ | .cpys f _ _
  | .emit f | .emitRem f | .emitTask f | .spawn f | .tkget f | .tkgetClaim f | .tkput f | .tdec f | .tdecRem f
  | .sret f _ | .mbrecv f _ _ | .mbpost f | .frep f | .fdrop f | .tlbi f _ | .wpark f | .wwake f | .sctxRd f _
  | .sctxWr f _ => some f
  | _ => none

/-- Lengths permitted by a form (R304): each bit a length; c: the C field is used; off: bits 127:96 are a displacement; imm96: the 96-bit
form is the only one and its A is the immediate (R327, R341), so that another A is no question of length. -/
structure LenRule where
  l64  : Bool := true
  l96  : Bool := true
  l128 : Bool := true
  c    : Bool := false
  off  : Bool := false
  imm96 : Bool := false
  deriving DecidableEq, Repr

/-- The length rule of an opcode and its form selector (R310: none when the selector holds a reserved value, or the opcode is not
listed). -/
def lenRule (op : BitVec 10) (mod : BitVec 14) : Option LenRule :=
  let only64 : LenRule := ⟨true, false, false, false, false, false⟩
  let only96 : LenRule := ⟨false, true, false, false, false, true⟩
  let short : LenRule := ⟨true, true, false, false, false, false⟩
  let ab : LenRule := ⟨true, true, true, false, false, false⟩
  let abc : LenRule := ⟨true, true, true, true, false, false⟩
  let c96 : LenRule := ⟨false, true, false, true, false, false⟩
  let c96i : LenRule := ⟨false, true, true, true, false, false⟩
  match op.toNat with
  | 0x000 | 0x002 | 0x004 | 0x005 | 0x006 | 0x007 | 0x008 | 0x00B | 0x00C | 0x00E => some only64
  | 0x001 | 0x009 | 0x00A => some only96
  | 0x003 | 0x00D => some short
  | 0x010 | 0x011 => some ab
  | 0x012 => some c96
  | 0x013 => some (if mod.getLsbD 6 then ab else only64)
  | 0x014 => some only64
  | 0x026 | 0x027 | 0x03A | 0x043 | 0x063 | 0x093 | 0x096 | 0x0B1 => some abc
  | 0x02E => some ⟨true, false, true, false, true, false⟩
  | 0x040 => some only64
  | 0x041 => some only96
  | 0x042 => some ⟨false, false, true, false, true, false⟩
  | 0x100 | 0x101 => some ⟨true, false, true, false, true, false⟩
  | 0x102 => some short
  | 0x103 | 0x104 | 0x105 => some ⟨false, true, true, true, true, false⟩
  | 0x106 | 0x107 | 0x108 | 0x145 | 0x146 => some only64
  | 0x140 =>
    match (mod.extractLsb' 4 2).toNat with
    | 0 | 1 => some short
    | 2 => some ⟨false, true, true, true, true, false⟩
    | _ => none
  | 0x141 | 0x142 | 0x143 | 0x144 => some short
  | 0x180 | 0x181 => some c96
  | 0x182 | 0x183 | 0x184 | 0x188 | 0x189 | 0x18A | 0x18B | 0x18C => some only64
  | 0x18D => some short
  | 0x1C0 | 0x1C3 | 0x1C4 => some c96i
  | 0x1C1 | 0x1C2 => some c96
  | 0x200 =>
    match (mod.extractLsb' 12 2).toNat with
    | 0 => some short
    | 1 | 2 => some c96i
    | _ => none
  | 0x201 => some c96i
  | 0x202 | 0x204 => some (if mod.getLsbD 13 then c96i else short)
  | 0x203 => some short
  | 0x3C0 | 0x3C1 | 0x3C2 | 0x3C3 | 0x3C4 | 0x3C6 | 0x3C7 => some only64
  | 0x3C5 => some c96i
  | 0x3C9 => some (if mod.getLsbD 6 then c96 else only64)
  | _ => some ab

/-- Whether the opcode is one of the map of R308. -/
def opListed (op : BitVec 10) : Bool :=
  let n := op.toNat
  n ≤ 0x00E || (0x010 ≤ n && n ≤ 0x014) || (0x020 ≤ n && n ≤ 0x02E) || (0x030 ≤ n && n ≤ 0x043)
  || (0x060 ≤ n && n ≤ 0x070) || (0x080 ≤ n && n ≤ 0x087) || (0x090 ≤ n && n ≤ 0x09A) || (0x0A0 ≤ n && n ≤ 0x0A3)
  || n == 0x0B0 || n == 0x0B1 || (0x100 ≤ n && n ≤ 0x108) || (0x140 ≤ n && n ≤ 0x146) || (0x180 ≤ n && n ≤ 0x184)
  || (0x188 ≤ n && n ≤ 0x18D) || (0x1C0 ≤ n && n ≤ 0x1C4) || (0x200 ≤ n && n ≤ 0x204) || (0x3C0 ≤ n && n ≤ 0x3C7)
  || n == 0x3C9

/-- Whether the length is one the rule permits; iab: A or B holds code 1020, iabc: A, B or C does (R303, R304, R321). -/
def LenRule.ok (r : LenRule) (l : Len) (iab iabc : Bool) : Bool :=
  match l with
  | .l64 => r.l64 && !r.c
  | .l96 => r.l96 && (r.imm96 || r.c == !iab)
  | .l128 => r.l128 && (r.off || (r.c && iabc))

/-- Whether code 1020 reads an immediate in this form (R294). -/
def LenRule.immOk (r : LenRule) (l : Len) (iab : Bool) (op : BitVec 10) : Bool :=
  match l with
  | .l64 => false
  | .l96 => iab
  | .l128 => !r.off || op == 0x042

/-- Operand classes of every form. Log entry 83. -/
def Instr.shape : Instr → Shape
  | .bra _ | .trap _ | .svc _ => { a := .k .i1 }
  | .brx _ | .ret _ => { a := .k .vw 2 }
  | .call _ => { d := .k .vw 2, a := .k .vwi 2 }
  | .cvset _ => { d := .k .w1 }
  | .cvwait _ => { a := .k .w1 }
  | .sget _ x => { d := match x.toNat with
      | 1 => .k .v1 | 8 => .k .w1 2 | 13 => .k .vw 2 | _ => .k .vw }
  | .sset _ x => { a := .k .wi (if x.toNat = 13 then 2 else 1) }
  | .pset _ _ t | .psetf _ _ t => { d := .pred, a := .s t.words, b := .s t.words }
  | .plog _ _ => { d := .pred, a := .pred, b := .pred, c := .pred }
  | .pmovGet _ => { d := .k .v1 }
  | .pmovPut _ => { a := .k .vwiz, b := .k .vwiz }
  | .vote _ .ballot => { d := .k .vw, a := .pred }
  | .vote _ _ => { d := .pred, a := .pred }
  | .add _ t _ | .sub _ t _ | .addc _ t _ | .subb _ t _ | .mul _ t | .mulhi _ t | .div _ t | .rem _ t | .min _ t | .max _ t
  | .and _ t | .or _ t | .xor _ t | .andn _ t | .sel _ t _ | .fadd _ t | .fsub _ t | .fmul _ t | .fdiv _ t | .fmin _ t
  | .fmax _ t | .fcsign _ t => { d := .r t.words, a := .s t.words, b := .s t.words }
  | .mad _ t | .madhi _ t | .ffma _ t => { d := .r t.words, a := .s t.words, b := .s t.words, c := .s t.words }
  | .abs _ t _ | .neg _ t _ | .not _ t | .brev _ t | .fsqrt _ t | .fneg _ t | .fabs _ t | .frnd _ t =>
    { d := .r t.words, a := .s t.words }
  | .lea _ _ _ => { d := .r 2, a := .k .noImm 2, b := .k .noImm }
  | .shl _ t | .shr _ t | .sar _ t | .rot _ t | .bfx _ t | .fscale _ t => { d := .r t.words, a := .s t.words, b := .s 1 }
  | .bfi _ t => { d := .r t.words, a := .s t.words, b := .s 1, c := .s t.words }
  | .popc _ t | .clz _ t | .ctz _ t | .fgexp _ t | .fcls _ t => { d := .r 1, a := .s t.words }
  | .mov _ t => { d := .r t.words, a := .k .noImm t.words }
  | .movi _ t | .movd _ t _ => { d := .r t.words, a := .k .i1 t.words }
  | .prmt _ => { d := .r 1, a := .s 1, b := .s 1, c := .s 1 }
  | .fcvt _ d s _ | .icvt _ d s _ => { d := .r d.words, a := .s s.words }
  | .vscs _ => { d := .k .vw 2, a := .s 1 }
  | .vsin _ | .vcos _ | .vex2 _ | .vlg2 _ | .vrcp _ | .vrsq _ | .vtanh _ | .pcvt _ _ _ _ | .punpk _ _ _ | .pabs _ _ _ =>
    { d := .r 1, a := .s 1 }
  | .padd _ _ _ | .psub _ _ _ | .pmul _ _ _ | .pmin _ _ | .pmax _ _ | .ppack _ _ _ _ => { d := .r 1, a := .s 1, b := .s 1 }
  | .pfma _ _ _ | .pdot _ _ _ => { d := .r 1, a := .s 1, b := .s 1, c := .s 1 }
  | .lshf _ t _ _ => { d := .k .v1 t.words, a := .k .v1 t.words, b := .k .vwi }
  | .lred _ _ _ s => { d := .k (if s.toNat = 0 then .vw else .v1), a := .k .v1 }
  | .lscan _ _ _ _ _ => { d := .k .v1, a := .k .v1 }
  | .lbc _ t => { d := .k .vw t.words, a := .k .v1 t.words, b := .k .wi }
  | .vhash _ => { d := .k .vw 2, a := .k .vwi 2 }
  | .vdrop _ => { d := .r 1, a := .s 1, b := .k .vw 2, c := .s 1 }
  | .ld _ .g sz _ _ _ _ => { d := .k .vw sz.words, a := .k .w1 2, b := .k .vz }
  | .ld _ _ sz _ _ _ _ => { d := .k .vw sz.words, a := .k .vw, b := .k .vz }
  | .ldro _ sz _ => { d := .k .vw sz.words, a := .k .w1 2, b := .k .vz }
  | .ldk _ c => { d := .run .w1 (2 ^ c.toNat), a := .k .wi }
  | .st _ .g sz _ _ _ => { a := .k .w1 2, b := .k .vz, c := .k .vwz sz.words }
  | .st _ _ sz _ _ _ => { a := .k .vw, b := .k .vz, c := .k .vwz sz.words }
  | .atom _ o t _ _ _ sp _ =>
    { d := .k .vwz t.words, a := if sp then .k .vw else .k .w1 2, b := .k .vz, c := .k .vwz t.words,
      fo := if o = .cas then .k .vw t.words else .none }
  | .red _ _ t _ _ _ => { a := .k .w1 2, b := .k .vz, c := .k .vwz t.words }
  | .awaitCnt _ => { a := .k .wi }
  | .awaitPh _ _ => { a := .k .w1, b := .k .wi }
  | .awaitPhG _ _ => { a := .k .w1 2, b := .k .wi }
  | .awaitMem _ _ dw _ =>
    { d := .pred, a := .k .w1 2, b := .k .wz (if dw then 2 else 1), c := .k .wz (if dw then 2 else 1), fo := .k .w1 2 }
  | .bini _ | .bexp _ => { a := .k .w1, b := .k .wi }
  | .barv _ _ => { d := .k .wz, a := .k .w1, b := .k .wi }
  | .gbarGrid _ | .gbarFab _ => { b := .k .wi }
  | .qstat _ _ => { d := .k .vw }
  | .mma _ m | .mmaz _ m =>
    { d := if m.dsp then .k .w1 else .tile, a := .k (if m.asp then .w1 else .v1), b := .k (if m.bsp then .w1 else .v1),
      c := .run .vz 3, dsrc := m.dsp }
  | .accld _ _ s => { d := .tile, a := if s then .k .w1 else .run .v1 16 }
  | .accst _ _ s => { d := if s then .k .w1 else .run .v1 16, a := .tile, dsrc := s }
  | .accz _ _ => { d := .tile }
  | .rqnt _ _ _ _ => { d := .k .v1, a := .k .v1, b := .k .vz }
  | .qpack _ _ _ | .qunpk _ _ _ => { d := .k .v1, a := .k .v1 }
  | .plsplit _ => { d := .run .v1 2, a := .run .v1 8 }
  | .plmrg _ _ => { d := .run .v1 8, a := .k .v1 }
  | .topk _ _ _ => { d := .k .v1 2, a := .k .v1, b := .k .wi }
  | .cpy _ _ ds ss _ => { a := .k .w1 (if ds then 1 else 2), b := .k .w1 (if ss then 1 else 2), c := .k .wi }
  | .cpyt _ _ _ _ => { a := .k .w1 2, b := .run .w1 5, c := .k .w1 }
  | .cpyw _ _ _ => { a := .k .w1 2, b := .run .w1 6, c := .k .w1 }
  | .cpyg _ _ _ | .cpys _ _ _ => { a := .k .v1 2, b := .k .wi, c := .k .w1 }
  | .emit _ => { a := .k .vw, b := .k .wi }
  | .emitRem _ | .emitTask _ => { a := .k .vw, b := .k .wi, c := .k .w1 }
  | .spawn _ => { a := .k .w1, b := .k .wi, c := .k .w1 }
  | .tkget _ => { d := .k .w1, b := .k .wi }
  | .tkgetClaim _ => { d := .k .w1, b := .k .wi, c := .k .w1 }
  | .tkput _ => { d := .k .w1, a := .k .w1, b := .k .wi }
  | .tdec _ => { b := .k .wi }
  | .tdecRem _ => { b := .k .wi, c := .k .w1 }
  | .sret _ _ | .frep _ | .fdrop _ | .wpark _ | .wwake _ => { a := .k .w1 }
  | .mbrecv _ _ _ => { d := .run .w1 16 }
  | .mbpost _ => { a := .k .w1, b := .run .w1 8 }
  | .tlbi _ _ => { a := .k .w1 2, b := .k .wi, c := .k .w1 }
  | .sctxRd _ v => { d := .k .w1, a := .k .w1, b := if v then .k .w1 2 else .none }
  | .sctxWr _ _ => { a := .k .w1, b := .k .wz 2, c := .k .w1 }
  | _ => {}

/-- Instructions that take a rounding code in the prefix (R306, R348, R355, R359, R403, R414). -/
def Instr.rounds : Instr → Bool
  | .fadd _ _ | .fsub _ _ | .fmul _ _ | .ffma _ _ | .fdiv _ _ | .fsqrt _ _ | .fscale _ _ | .frnd _ _ | .fcvt _ _ _ _
  | .icvt _ _ _ _ | .mma _ _ | .mmaz _ _ | .rqnt _ _ _ _ | .qpack _ _ _ | .qunpk _ _ _ => true
  | .padd _ t _ | .psub _ t _ | .pmul _ t _ | .pfma _ t _ | .pdot _ t _ | .ppack _ t _ _ => !t.isPInt
  | .pcvt _ d s _ => !(d.isPInt && s.isPInt)
  | .lred _ _ o _ | .lscan _ _ o _ _ => o == .fadd
  | _ => false

/-- Types that the integer operations of lred and lscan accept, and f32 for the others (R359). -/
def ROp.tyOk (o : ROp) (t : Ty) : Bool :=
  match o with
  | .fadd | .fmin | .fmax => t == .f32
  | _ => t == .i32 || t == .n32

/-- Types of the operations of atom and red (R376). -/
def AOp.tyOk (o : AOp) (t : Ty) : Bool :=
  if o = .fadd then t == .f32 || t == .f64 else t.isI4

/-- Destination types of fcvt (R348). -/
def Ty.cvtDst (t : Ty) : Bool := t.code.toNat ≤ 14 || t == .e8m0 || t == .i64 || t == .n64
/-- Source types of fcvt (R348). -/
def Ty.fcvtSrc (t : Ty) : Bool := t.code.toNat ≤ 8 || t == .e8m0
/-- Source types of icvt (R348). -/
def Ty.icvtSrc (t : Ty) : Bool := (9 ≤ t.code.toNat && t.code.toNat ≤ 14) || t == .i64 || t == .n64

/-- The modifier values an instruction accepts: types, field ranges, combinations (R304; REASON 5). -/
def Instr.modsOk : Instr → Bool
  | .bra _ => true
  | .trap f | .svc f => f.x.toNat < 0x10000
  | .sset _ _ => true
  | .pset _ _ t | .add _ t _ | .sub _ t _ | .mul _ t | .mulhi _ t | .mad _ t | .madhi _ t | .div _ t | .rem _ t
  | .min _ t | .max _ t | .and _ t | .or _ t | .xor _ t | .not _ t | .andn _ t | .shl _ t | .shr _ t | .sar _ t | .rot _ t
  | .bfx _ t | .bfi _ t | .popc _ t | .clz _ t | .ctz _ t | .brev _ t => t.isI4
  | .psetf _ _ t | .fadd _ t | .fsub _ t | .fmul _ t | .ffma _ t | .fmin _ t | .fmax _ t | .fneg _ t | .fabs _ t
  | .fcsign _ t | .fdiv _ t | .fsqrt _ t | .fscale _ t | .fgexp _ t | .frnd _ t | .fcls _ t => t.isF4
  | .addc _ t _ | .subb _ t _ => t == .n32 || t == .n64
  | .abs _ t _ | .neg _ t _ => t == .i32 || t == .i64
  | .lea _ t sh => (t == .i32 || t == .n32) && sh.toNat ≤ 4
  | .sel _ t _ | .mov _ t | .movi _ t | .lbc _ t => t.isS
  | .lshf _ t _ s => t.isS && s.toNat ≤ 4
  | .movd _ t _ => t == .i64 || t == .n64 || t == .f64
  | .fcvt _ d s _ => d.cvtDst && s.fcvtSrc
  | .icvt _ d s _ => d.cvtDst && d != .e8m0 && s.icvtSrc
  | .padd _ t _ | .psub _ t _ | .pmul _ t _ | .pfma _ t _ | .pmin _ t | .pmax _ t | .pdot _ t _ | .pabs _ t _ => t.isP
  | .pcvt _ d s _ => d.isP && s != d && s.count == d.count
  | .ppack _ t p _ | .punpk _ t p => t.isP && p.toNat < t.count
  | .lred _ t o s | .lscan _ t o s _ => o.tyOk t && s.toNat ≤ 4
  | .ld _ sp _ o sc pr sh =>
    sh.toNat ≤ 4 && (o == .weak || o == .rlx || o == .acq) && (o != .weak || sc == .wp)
    && (!pr || (sp == .g && o == .acq && sc == .dv))
  | .ldro _ _ sh => sh.toNat ≤ 4
  | .ldk _ c => c.toNat ≤ 4
  | .st _ sp sz o sc sh =>
    sh.toNat ≤ 4 && (o == .weak || o == .rlx || o == .rel) && (o != .weak || sc == .wp)
    && sp != .c && sz != .sb8 && sz != .sb16
  | .atom _ op t o sc pr sp sh =>
    op.tyOk t && o != .weak && sh.toNat ≤ 4 && (!pr || (!sp && (o == .acq || o == .ar) && sc == .dv))
  | .red _ op t o _ sh => op.tyOk t && op != .exch && op != .cas && (o == .rlx || o == .rel) && sh.toNat ≤ 4
  | .fence _ o _ => o == .acq || o == .rel || o == .ar
  | .awaitMem _ _ _ sc => sc != .wp
  | .mma _ m | .mmaz _ m => m.nqm != 15 && (m.asp || m.apw == 0) && (m.bsp || m.bpw == 0)
  | .accld _ n _ | .accst _ n _ | .accz _ n => n != 15
  | .topk _ t _ => t == .f32 || t == .i32
  | .cpy _ c _ _ ct | .cpyt _ c _ ct | .cpyw _ c ct | .cpyg _ c ct | .cpys _ c ct => c != .cnt || ct == 0
  | _ => true

/-- Which source fields R545 binds: lred and lbc may take a v source with a w destination. -/
def Instr.wFree : Instr → Bool
  | .lred _ _ _ _ | .lbc _ _ => true
  | _ => false

/-- The largest number of words of a register file (R290). -/
def vRegs : Nat := 640
def wRegs : Nat := 128

end Sys2Proof
end

