-- ==== Sys2Proof/Machine/Float.lean ====
section
/-! DEFINITION. Numbers (chapter 05): exact values, the formats of R144 to R147, RoundTo with every rounding mode (R154, R155),
overflow and special sources (R157, R158), and the exact operations of R159 to R166 on them. -/

namespace Sys2Proof.Machine

/-- The five flags of FPSTAT, bit 4 NV to bit 0 NX (R167). -/
abbrev Flags := BitVec 5
def fNV : Flags := 16
def fDZ : Flags := 8
def fOF : Flags := 4
def fUF : Flags := 2
def fNX : Flags := 1

/-- A floating-point value: NaN (signalling or quiet), an infinity, or (−1)^neg × m × 2^e. -/
inductive FV where
  | nan (sig : Bool)
  | inf (neg : Bool)
  | fin (neg : Bool) (m : Nat) (e : Int)
  deriving DecidableEq, Repr

/-- Parameters of a format (R144, R145): fraction bits, exponent of the smallest normal, the code of the largest finite magnitude,
and the width. -/
structure FP where
  mb   : Nat
  emin : Int
  maxC : Nat
  w    : Nat
  hasInf : Bool
  hasNaN : Bool
  deriving DecidableEq, Repr

/-- The floating-point formats of R144 and R145; f32 for any type that is not one. -/
def fpOf : Ty → FP
  | .f64 => ⟨52, -1022, 0x7FEFFFFFFFFFFFFF, 64, true, true⟩
  | .f16 | .x2f16 => ⟨10, -14, 0x7BFF, 16, true, true⟩
  | .bf16 | .x2bf16 => ⟨7, -126, 0x7F7F, 16, true, true⟩
  | .e4m3 | .x4e4m3 => ⟨3, -6, 0x7E, 8, false, true⟩
  | .e5m2 | .x4e5m2 => ⟨2, -14, 0x7B, 8, true, true⟩
  | .e3m2 | .x5e3m2 => ⟨2, -2, 0x1F, 6, false, false⟩
  | .e2m3 | .x5e2m3 => ⟨3, 0, 0x1F, 6, false, false⟩
  | .e2m1 | .x8e2m1 => ⟨1, 0, 0x7, 4, false, false⟩
  | _ => ⟨23, -126, 0x7F7FFFFF, 32, true, true⟩

/-- The canonical NaN (R145). -/
def FP.cnan (p : FP) : Nat :=
  if p.w = 8 then (if p.hasInf then 0x7E else 0x7F) else p.maxC + 1 + 2 ^ (p.mb - 1)

/-- The value of an encoding (R144, R145). -/
def fvOf (p : FP) (bits : Nat) : FV :=
  let neg := bits.testBit (p.w - 1)
  let mag := bits % 2 ^ (p.w - 1)
  let fr := mag % 2 ^ p.mb
  let ex := mag / 2 ^ p.mb
  if p.maxC < mag then
    if p.hasInf && mag == p.maxC + 1 then .inf neg
    else .nan (16 ≤ p.w && !(fr.testBit (p.mb - 1)))
  else if ex = 0 then .fin neg fr (p.emin - p.mb)
  else .fin neg (2 ^ p.mb + fr) ((ex : Int) - 1 + p.emin - p.mb)

/-- A rounding mode with the draw H[63:32] of R155, which only SR reads. -/
structure RC where
  mode : Rnd
  h    : Nat
  deriving DecidableEq, Repr

def RC.rne : RC := ⟨.rne, 0⟩

/-- Whether a magnitude between n and n + 1 units, n + r / 2^d with 0 < r < 2^d, is rounded up in magnitude (R154, R155). -/
def roundUp (rc : RC) (neg : Bool) (n r d : Nat) : Bool :=
  match rc.mode with
  | .rtz => false
  | .rdn => neg
  | .rup => !neg
  | .rna => 2 ^ d ≤ 2 * r
  | .sr => if neg then !(rc.h * 2 ^ d < 2 ^ 32 * (2 ^ d - r)) else rc.h * 2 ^ d < 2 ^ 32 * r
  | _ => 2 ^ d < 2 * r || (2 ^ d == 2 * r && n % 2 == 1)

/-- Round m × 2^e to a multiple of 2^q: the count of units, and whether it is inexact. A remainder far below the unit is replaced by
one that every mode treats alike. -/
def roundQ (rc : RC) (neg : Bool) (m : Nat) (e q : Int) : Nat × Bool :=
  if m = 0 then (0, false)
  else if q ≤ e then (m * 2 ^ (e - q).toNat, false)
  else
    let d := (q - e).toNat
    let (n, r, d') := if Nat.log2 m + 70 < d then (0, 1, 66) else (m / 2 ^ d, m % 2 ^ d, d)
    if r = 0 then (n, false) else (if roundUp rc neg n r d' then n + 1 else n, true)

/-- An infinity or the largest finite value, as an overflow in this mode gives under .inf (R157). -/
def ovfToMax (mode : Rnd) (neg : Bool) : Bool :=
  match mode with
  | .rtz => true
  | .rdn => !neg
  | .rup => neg
  | _ => false

/-- A signed encoding of a magnitude code. -/
def FP.enc (p : FP) (neg : Bool) (mag : Nat) : Nat := if neg then 2 ^ (p.w - 1) + mag else mag

/-- RoundTo for a finite value into a floating-point format, with the overflow rule of R157 and the flags of R162. -/
def roundFin (p : FP) (inf : Bool) (rc : RC) (neg : Bool) (m : Nat) (e : Int) : Nat × Flags :=
  if m = 0 then (p.enc neg 0, 0)
  else
    let l : Int := (Nat.log2 m : Int) + e
    let q : Int := max l p.emin - p.mb
    let (n0, ix0) := roundQ rc neg m e q
    let code0 := ((q + p.mb - p.emin).toNat) * 2 ^ p.mb + n0
    -- E4M3 under SR: between 448 and 512 the upper neighbour is 2^(emax + 1) (R157)
    let top := p.w == 8 && !p.hasInf && rc.mode == .sr && l == 8 && p.maxC ≤ (8 - p.emin + 0).toNat * 2 ^ p.mb + (roundQ ⟨.rtz, 0⟩ neg m e q).1
    let (code, ix) :=
      if top then
        -- |x| = 448 + r × 2^(e'), with 64 between the neighbours
        let k := (min e 0)
        let big := m * 2 ^ (e - k).toNat
        let base := 448 * 2 ^ (-k).toNat
        let r := big - base
        if r = 0 then (p.maxC, false)
        else (if roundUp rc neg 0 r (6 + (-k).toNat) then p.maxC + 1 else p.maxC, true)
      else (code0, ix0)
    if p.maxC < code then
      if inf then
        if p.hasInf then (p.enc neg (if ovfToMax rc.mode neg then p.maxC else p.maxC + 1), fOF ||| fNX)
        else if p.hasNaN then (p.cnan, fOF ||| fNX)
        else (p.enc neg p.maxC, fOF ||| fNX)
      else (p.enc neg p.maxC, fOF ||| fNX)
    else
      let tiny := l < p.emin && !(l == p.emin - 1 && (roundQ rc neg m e (l - p.mb)).1 == 2 ^ (p.mb + 1))
      (p.enc neg code, if ix then (if tiny then fUF ||| fNX else fNX) else 0)

/-- The largest finite value of a sign. -/
def FP.maxFin (p : FP) (neg : Bool) : Nat := p.enc neg p.maxC

/-- A conversion to a floating-point format, infinite and NaN sources by R158. -/
def cvtFloat (p : FP) (inf : Bool) (rc : RC) (v : FV) : Nat × Flags :=
  match v with
  | .nan _ => (if p.hasNaN then p.cnan else p.maxC, fNV)
  | .inf neg =>
    if p.hasInf then (if inf then p.enc neg (p.maxC + 1) else p.maxFin neg, 0)
    else if p.hasNaN then (if inf then (p.cnan, fNV) else (p.maxFin neg, 0))
    else (p.maxFin neg, 0)
  | .fin neg m e => roundFin p inf rc neg m e

/-- A conversion to E8M0 (R146, R154, R353). An infinite source follows R157 as an overflow, with no flag (R158 gives none). Log entry 61. -/
def cvtE8m0 (inf : Bool) (rc : RC) (v : FV) : Nat × Flags :=
  match v with
  | .nan _ => (0xFF, fNV)
  | .inf neg => if neg then (0xFF, fNV) else (if inf then 0xFF else 0xFE, 0)
  | .fin neg m e =>
    if neg || m = 0 then (0xFF, fNV)
    else
      let k : Int := (Nat.log2 m : Int) + e
      if k < -127 then (0, fUF ||| fNX)
      else
        let d := Nat.log2 m
        let r := m - 2 ^ d
        let up := r != 0 && roundUp rc false ((k + 127).toNat) r d
        let c := (k + 127).toNat + (if up then 1 else 0)
        if 254 < c then (if inf then 0xFF else 0xFE, fOF ||| fNX)
        else (c, if r = 0 then 0 else fNX)

/-- The exact integer an m × 2^e rounds to (R161), and whether it differs from it. -/
def roundInt (rc : RC) (neg : Bool) (m : Nat) (e : Int) : Int × Bool :=
  let (n, ix) := roundQ rc neg m e 0
  (if neg then -(n : Int) else n, ix)

/-- A conversion to an integer of w bits (R157, R158, R161, R162). -/
def cvtInt (sgn : Bool) (w : Nat) (inf : Bool) (rc : RC) (v : FV) : Nat × Flags :=
  let special (i : Int) : Nat × Flags := (wrapN w i, fNV)
  let badInf : Int := if sgn then intMin true w else intMax false w
  match v with
  | .nan _ => special (if inf then badInf else 0)
  | .inf neg => special (if inf then badInf else if neg then intMin sgn w else intMax sgn w)
  | .fin neg m e =>
    let (i, ix) := roundInt rc neg m e
    if intMin sgn w ≤ i && i ≤ intMax sgn w then (wrapN w i, if ix then fNX else 0)
    else (wrapN w (if inf then i else clampInt sgn w i), fNV ||| fNX)

/-- An integer as an exact value. -/
def fvInt (i : Int) : FV := .fin (i < 0) i.natAbs 0

/-- An E8M0 code (R146). -/
def fvE8m0 (c : Nat) : FV := if c % 256 = 255 then .nan false else .fin false 1 (((c % 256 : Nat) : Int) - 127)

def FV.neg : FV → FV
  | .nan s => .nan s
  | .inf n => .inf (!n)
  | .fin n m e => .fin (!n) m e

def FV.isNaN : FV → Bool
  | .nan _ => true
  | _ => false
def FV.isSig : FV → Bool
  | .nan s => s
  | _ => false
def FV.isInf : FV → Bool
  | .inf _ => true
  | _ => false
def FV.isZero : FV → Bool
  | .fin _ m _ => m == 0
  | _ => false
def FV.sign : FV → Bool
  | .nan _ => false
  | .inf n => n
  | .fin n _ _ => n

/-- Signed magnitude in units of 2^k, for k at or below the exponent. -/
def scaledTo (neg : Bool) (m : Nat) (e k : Int) : Int :=
  let v : Int := ((m * 2 ^ (e - k).toNat : Nat) : Int)
  if neg then -v else v

/-- Numeric order of two values that are not NaN; −0 equals +0. -/
def FV.cmp (a b : FV) : Ordering :=
  match a, b with
  | .inf n, .inf n' => if n == n' then .eq else if n then .lt else .gt
  | .inf n, _ => if n then .lt else .gt
  | _, .inf n => if n then .gt else .lt
  | .fin n m e, .fin n' m' e' =>
    let k := min e e'
    compare (scaledTo n m e k) (scaledTo n' m' e' k)
  | _, _ => .eq

/-- An exact result with the flags that arise before rounding: NV or DZ. -/
structure Ex where
  v  : FV
  fl : Flags
  deriving DecidableEq, Repr

/-- NV of a signalling operand (R159). -/
def sigFl (vs : List FV) : Flags := if vs.any FV.isSig then fNV else 0

/-- Exact sum of two finite values; an exact zero is signed by R160. -/
def addFin (mode : Rnd) (n : Bool) (m : Nat) (e : Int) (n' : Bool) (m' : Nat) (e' : Int) : FV :=
  if m = 0 && m' = 0 then .fin (if n == n' then n else mode == .rdn) 0 0
  else if m = 0 then .fin n' m' e'
  else if m' = 0 then .fin n m e
  else
    let k := min e e'
    let s := scaledTo n m e k + scaledTo n' m' e' k
    if s = 0 then .fin (mode == .rdn) 0 0 else .fin (s < 0) s.natAbs k

/-- Exact sum (R159, R160). -/
def exAdd (mode : Rnd) (a b : FV) : Ex :=
  match a, b with
  | .nan _, _ | _, .nan _ => ⟨.nan false, sigFl [a, b]⟩
  | .inf n, .inf n' => if n == n' then ⟨.inf n, 0⟩ else ⟨.nan false, fNV⟩
  | .inf n, _ => ⟨.inf n, 0⟩
  | _, .inf n => ⟨.inf n, 0⟩
  | .fin n m e, .fin n' m' e' => ⟨addFin mode n m e n' m' e', 0⟩

/-- Exact product (R159). -/
def exMul (a b : FV) : Ex :=
  let s := a.sign != b.sign
  match a, b with
  | .nan _, _ | _, .nan _ => ⟨.nan false, sigFl [a, b]⟩
  | .inf _, .inf _ => ⟨.inf s, 0⟩
  | .inf _, .fin _ m _ => if m = 0 then ⟨.nan false, fNV⟩ else ⟨.inf s, 0⟩
  | .fin _ m _, .inf _ => if m = 0 then ⟨.nan false, fNV⟩ else ⟨.inf s, 0⟩
  | .fin _ m e, .fin _ m' e' => ⟨.fin s (m * m') (e + e'), 0⟩

/-- Infinity times zero, whatever the third operand (R159). -/
def infZero (a b : FV) : Bool := (a.isInf && b.isZero) || (a.isZero && b.isInf)

/-- Exact a × b + c (R159, R166). -/
def exFma (mode : Rnd) (a b c : FV) : Ex :=
  let p := exMul a b
  if a.isNaN || b.isNaN || c.isNaN then
    ⟨.nan false, sigFl [a, b, c] ||| (if infZero a b then fNV else 0)⟩
  else if p.v.isNaN then p
  else exAdd mode p.v c

/-- Quotient with at least 130 significant bits and a sticky last bit, which every mode rounds as the exact one. -/
def exDiv (a b : FV) : Ex :=
  let s := a.sign != b.sign
  match a, b with
  | .nan _, _ | _, .nan _ => ⟨.nan false, sigFl [a, b]⟩
  | .inf _, .inf _ => ⟨.nan false, fNV⟩
  | .inf _, _ => ⟨.inf s, 0⟩
  | _, .inf _ => ⟨.fin s 0 0, 0⟩
  | .fin _ m e, .fin _ m' e' =>
    if m' = 0 then (if m = 0 then ⟨.nan false, fNV⟩ else ⟨.inf s, fDZ⟩)
    else if m = 0 then ⟨.fin s 0 0, 0⟩
    else
      let k := Nat.log2 m' + 132
      let n := m * 2 ^ k
      let q := n / m'
      ⟨.fin s (2 * q + (if n % m' = 0 then 0 else 1)) (e - e' - k - 1), 0⟩

/-- Integer square root by bits, most significant first. -/
def isqrtGo : Nat → Nat → Nat → Nat
  | 0, _, r => r
  | k + 1, n, r =>
    let t := r + 2 ^ k
    isqrtGo k n (if t * t ≤ n then t else r)

def isqrt (n : Nat) : Nat := isqrtGo (Nat.log2 n / 2 + 1) n 0

/-- Square root with a sticky last bit (R166). -/
def exSqrt (a : FV) : Ex :=
  match a with
  | .nan s => ⟨.nan false, if s then fNV else 0⟩
  | .inf n => if n then ⟨.nan false, fNV⟩ else ⟨.inf false, 0⟩
  | .fin n m e =>
    if m = 0 then ⟨.fin n 0 0, 0⟩
    else if n then ⟨.nan false, fNV⟩
    else
      let odd := e % 2 != 0
      let m1 := if odd then 2 * m else m
      let e1 := if odd then e - 1 else e
      let big := m1 * 2 ^ 264
      let r := isqrt big
      ⟨.fin false (2 * r + (if r * r = big then 0 else 1)) (e1 / 2 - 133), 0⟩

/-- The rounded result of vector arithmetic: no .sat, so an infinite result stays one (R166). -/
def finish (p : FP) (rc : RC) (x : Ex) : Nat × Flags :=
  match x.v with
  | .nan _ => (p.cnan, x.fl)
  | .inf n => (p.enc n (p.maxC + 1), x.fl)
  | .fin n m e =>
    let (c, f) := roundFin p true rc n m e
    (c, f ||| x.fl)

/-- The rounded result of a packed sub-element or pdot: R157 and R158 under OVF; a format without NaN gives the positive largest
finite value and NV (R159). -/
def finishOvf (p : FP) (inf : Bool) (rc : RC) (x : Ex) : Nat × Flags :=
  match x.v with
  | .nan _ => if p.hasNaN then (p.cnan, x.fl) else (p.maxC, x.fl ||| fNV)
  | .inf n => ((cvtFloat p inf rc (.inf n)).1, x.fl)
  | .fin n m e =>
    let (c, f) := roundFin p inf rc n m e
    (c, f ||| x.fl)

/-- minimumNumber and maximumNumber on encodings (R159, R166, R350): the result's bits and NV for a signalling NaN. -/
def minMaxNum (p : FP) (wantMax : Bool) (a b : Nat) : Nat × Flags :=
  let x := fvOf p a
  let y := fvOf p b
  let fl := sigFl [x, y]
  let a' := a % 2 ^ p.w
  let b' := b % 2 ^ p.w
  if x.isNaN && y.isNaN then (p.cnan, fl)
  else if x.isNaN then (b', fl)
  else if y.isNaN then (a', fl)
  else
    match x.cmp y with
    | .lt => (if wantMax then b' else a', fl)
    | .gt => (if wantMax then a' else b', fl)
    | .eq => (if wantMax == x.sign then b' else a', fl)

/-- ⌊log2 |x|⌋ of a non-zero finite value. -/
def FV.ilog2 : FV → Int
  | .fin _ m e => (Nat.log2 m : Int) + e
  | _ => 0

/-- Width in bits of a scalar type. -/
def tyBits : Ty → Nat
  | .f64 | .i64 | .n64 => 64
  | .f16 | .bf16 | .i16 | .n16 => 16
  | .e4m3 | .e5m2 | .i8 | .n8 | .e8m0 => 8
  | .e3m2 | .e2m3 => 6
  | .e2m1 => 4
  | _ => 32

/-- Signed integer types. -/
def tySgn : Ty → Bool
  | .i8 | .i16 | .i32 | .i64 | .x4i8 | .x8i4 => true
  | _ => false

def tyIsInt : Ty → Bool
  | .i8 | .n8 | .i16 | .n16 | .i32 | .n32 | .i64 | .n64 => true
  | _ => false

/-- Width of a sub-element of a packed type (R170). -/
def subBits : Ty → Nat
  | .x2f16 | .x2bf16 => 16
  | .x4e4m3 | .x4e5m2 | .x4i8 => 8
  | .x5e3m2 | .x5e2m3 => 6
  | .x8e2m1 | .x8i4 => 4
  | _ => 32

/-- The exact value of the bits of a scalar type (R144 to R147). -/
def valOf (t : Ty) (bits : Nat) : FV :=
  if tyIsInt t then fvInt (rdInt (tySgn t) (tyBits t) bits)
  else if t == .e8m0 then fvE8m0 bits
  else fvOf (fpOf t) (bits % 2 ^ tyBits t)

/-- A conversion to any scalar type (R161, R352, R353), as the bits of the type's own width. -/
def cvtTo (t : Ty) (inf : Bool) (rc : RC) (v : FV) : Nat × Flags :=
  if tyIsInt t then cvtInt (tySgn t) (tyBits t) inf rc v
  else if t == .e8m0 then cvtE8m0 inf rc v
  else cvtFloat (fpOf t) inf rc v

/-- A result of a scalar type in its register (R324): integers of 8 and 16 bits extended to 32 by sign or zeros. -/
def extReg (t : Ty) (bits : Nat) : Nat :=
  match t with
  | .i8 => wrapN 32 (sInt 8 bits)
  | .i16 => wrapN 32 (sInt 16 bits)
  | _ => bits % 2 ^ (if tyBits t = 64 then 64 else tyBits t)

end Sys2Proof.Machine
end

