-- ==== Sys2Proof/Machine/Hash.lean ====
section
/-! DEFINITION. The hash of R174, the CRC-32 of links, and SHAKE256, with which the boot measures and attests (R281 to R283). -/

namespace Sys2Proof.Machine

/-- H of R174 for an element address and a seed. -/
def elemHash (a s : DWord) : DWord :=
  let x := a ^^^ (s * 0x9A3D5F17C2B4E86B)
  let x := (x ^^^ (x >>> 31)) * 0xB4F127C93E5AD08D
  let x := (x ^^^ (x >>> 29)) * 0xE37A91C65B0DF2A9
  x ^^^ (x >>> 32)

/-- Rotation offsets and round constants of Keccak-f[1600] (FIPS 202). -/
def keccakRot : List Nat :=
  [0, 1, 62, 28, 27, 36, 44, 6, 55, 20, 3, 10, 43, 25, 39, 41, 45, 15, 21, 8, 18, 2, 61, 56, 14]
def keccakRC : List DWord :=
  [0x0000000000000001, 0x0000000000008082, 0x800000000000808A, 0x8000000080008000, 0x000000000000808B, 0x0000000080000001,
   0x8000000080008081, 0x8000000000008009, 0x000000000000008A, 0x0000000000000088, 0x0000000080008009, 0x000000008000000A]
  ++ [0x000000008000808B, 0x800000000000008B, 0x8000000000008089, 0x8000000000008003, 0x8000000000008002, 0x8000000000000080,
   0x000000000000800A, 0x800000008000000A, 0x8000000080008081, 0x8000000000008080, 0x0000000080000001, 0x8000000080008008]

/-- One round on the 25 lanes, lane (x, y) at 5 y + x. -/
def keccakRound (a : List DWord) (rc : DWord) : List DWord :=
  let g (k : Nat) : DWord := a.getD k 0
  let c := (List.range 5).map (fun x => g x ^^^ g (x + 5) ^^^ g (x + 10) ^^^ g (x + 15) ^^^ g (x + 20))
  let d := (List.range 5).map (fun x => c.getD ((x + 4) % 5) 0 ^^^ (c.getD ((x + 1) % 5) 0).rotateLeft 1)
  let t := (List.range 25).map (fun k => (g k ^^^ d.getD (k % 5) 0).rotateLeft (keccakRot.getD k 0))
  -- b[y, 2x + 3y] := t[x, y]
  let b := (List.range 25).map (fun k =>
    let x' := k % 5
    let y' := k / 5
    -- x' = y and y' = 2 x + 3 y mod 5, so x = (y' + 2 x') × 3 mod 5
    t.getD (5 * x' + ((y' + 2 * x') * 3) % 5) 0)
  let e := (List.range 25).map (fun k =>
    let x := k % 5
    let r := k - x
    b.getD k 0 ^^^ (~~~ (b.getD (r + (x + 1) % 5) 0) &&& b.getD (r + (x + 2) % 5) 0))
  e.set 0 (e.getD 0 0 ^^^ rc)

def keccakF (a : List DWord) : List DWord := keccakRC.foldl keccakRound a

/-- The 136-byte blocks of a padded message. -/
def blocks136 : Nat → List Byte → List (List Byte)
  | 0, _ => []
  | k + 1, bs => bs.take 136 :: blocks136 k (bs.drop 136)

/-- SHAKE256 of a message, n bytes (n at most 136). -/
def shake256 (msg : List Byte) (n : Nat) : List Byte :=
  let padLen := 136 - msg.length % 136
  let pad : List Byte := if padLen = 1 then [0x9F] else 0x1F :: (List.replicate (padLen - 2) 0 ++ [0x80])
  let m := msg ++ pad
  let absorb (a : List DWord) (blk : List Byte) : List DWord :=
    keccakF ((List.range 25).map (fun k =>
      a.getD k 0 ^^^ (if k < 17 then BitVec.ofNat 64 (leVal ((blk.drop (8 * k)).take 8)) else 0)))
  let s := (blocks136 (m.length / 136) m).foldl absorb (List.replicate 25 0)
  ((s.flatMap (fun w => leBytes 8 w.toNat)).take n)

/-- One byte of the CRC-32 with the reversed polynomial 0xEDB88320 (IEEE 802.3). -/
def crcByte (c : Word) (b : Byte) : Word :=
  (List.range 8).foldl (fun (x : Word) _ => if x.getLsbD 0 then (x >>> 1) ^^^ 0xEDB88320 else x >>> 1) (c ^^^ b.setWidth 32)

/-- CRC-32 of bytes. -/
def crc32 (bs : List Byte) : Word := ~~~ (bs.foldl crcByte 0xFFFFFFFF)

end Sys2Proof.Machine
end

