-- ==== Sys2Proof/WellFormed.lean ====
section
/-! DEFINITION. Which instructions an encoding exists for (R290 to R306, R320, R321, R545), and which packets, commands and flits
have the sizes and codes of their rows. The decoder answers only well-formed instructions, and the encoder encodes exactly them. -/

namespace Sys2Proof

/-- The operand is one the field admits (R293, R305); imm: code 1020 reads an immediate here (R294). -/
def Opd.okFor (o : Opd) (k : OpK) (imm : Bool) : Bool :=
  match k, o with
  | .none, .none => true
  | .pred, .pred n => n < 16
  | .tile, .tile n => n < 128
  | .reg c _ _, .v n => c.v && n < 640
  | .reg c _ _, .w n => c.w && n < 128
  | .reg c _ _, .q n => c.q && n < 8
  | .reg c _ _, .imm => c.imm && imm
  | .reg c _ _, .width => c.fix
  | .reg c _ _, .lane => c.fix
  | .reg c _ _, .zero => c.zero
  | _, _ => false

/-- A register operand: the only ones that may carry a trap bit (R295). -/
def Opd.isReg : Opd → Bool
  | .v _ | .w _ | .q _ => true
  | _ => false

/-- A per-lane or queue register, which R545 forbids beside a w destination. -/
def Opd.isVQ : Opd → Bool
  | .v _ | .q _ => true
  | _ => false

def Opd.isW : Opd → Bool
  | .w _ => true
  | _ => false

/-- The alignment of R291. -/
def Opd.alignOk (o : Opd) (k : OpK) : Bool :=
  match k, o with
  | .reg _ n true, .v r | .reg _ n true, .w r | .reg _ n true, .q r => r % n == 0
  | _, _ => true

/-- The destination is a w register, and the instruction is not lred or lbc (R545). -/
def Instr.wDest (i : Instr) (d : Opd) : Bool :=
  d.isW && !i.shape.dsrc && !i.wFree

/-- Rules of single instructions on their D field: ldk (R374), mbrecv (R437). -/
def Instr.dRule (i : Instr) (d : Opd) : Bool :=
  match i, d with
  | .ldk _ c, .w n => n % (2 ^ c.toNat) == 0 && n + 2 ^ c.toNat ≤ 128
  | .mbrecv _ _ _, .w n => n % 16 == 0
  | _, _ => true

/-- Rules of single instructions on A: a w data source needs a w base (R371); sset names a writable register (R296). -/
def Instr.aRule (i : Instr) (a c : Opd) : Bool :=
  match i with
  | .st _ _ _ _ _ _ => !c.isW || a.isW
  | .sset _ x => x.toNat == 13 || x.toNat == 14
  | _ => true

/-- Rules of single instructions on B: a w data source takes no index (R371); mbpost names w120 or below (R437). -/
def Instr.bRule (i : Instr) (b c : Opd) : Bool :=
  match i, b with
  | .st _ _ _ _ _ _, _ => !c.isW || b == .zero
  | .mbpost _, .w n => n ≤ 120
  | _, _ => true

/-- atom.cas has a fourth operand (R376). -/
def Instr.foRule (i : Instr) (present : Bool) : Bool :=
  match i with
  | .atom _ .cas _ _ _ _ _ _ => present
  | _ => true

/-- The modes in which the opcode is legal (R309, R333, R296): sup is the supervisor warp. -/
def Instr.modeOk (i : Instr) (sup : Bool) : Bool :=
  match i with
  | .svc _ | .sset _ _ => !sup
  | .sret _ _ | .mbrecv _ _ _ | .mbpost _ | .frep _ | .fdrop _ | .tlbi _ _ | .wpark _ | .wwake _ | .sctxRd _ _
  | .sctxWr _ _ => sup
  | _ => true

/-- The prefix is one that R306 allows the instruction; an all-default prefix would be a pad (R299). -/
def Pre.ok (p : Pre) (i : Instr) : Bool :=
  p != ⟨none, .rne, none⟩ && (p.rnd == .rne || i.rounds)
  && (match p.fourth with | none => true | some o => i.shape.fo != .none && o.okFor i.shape.fo false && o.alignOk i.shape.fo)

/-- The immediate field is zero where the form has none (R303). -/
def Fmt.xOk (f : Fmt) (iab : Bool) : Bool :=
  match f.len with
  | .l64 => f.x == 0
  | .l96 => iab || f.x == 0
  | .l128 => true

/-- A warp instruction that an encoding exists for. -/
def Instr.wfWarp (i : Instr) (f : Fmt) : Bool :=
  match i.sig with
  | none => false
  | some s =>
    match lenRule s.op s.mod with
    | none => false
    | some r =>
      let iab := f.a == .imm || f.b == .imm
      let io := r.immOk f.len iab s.op
      let sh := i.shape
      let wd := i.wDest f.d
      r.ok f.len iab (iab || f.c == .imm) && i.modsOk && f.xOk iab
      && (match f.pre with | none => true | some p => p.ok i && !(wd && (p.fourth.getD .none).isVQ))
      && i.foRule ((f.pre.bind Pre.fourth).isSome)
      && f.d.okFor sh.d false && f.a.okFor sh.a io && f.b.okFor sh.b io && f.c.okFor sh.c io
      && (!f.ta || f.a.isReg) && (!f.tb || f.b.isReg) && (!f.tc || f.c.isReg)
      && !(wd && (f.a.isVQ || f.b.isVQ || f.c.isVQ))
      && i.dRule f.d && i.aRule f.a f.c && i.bRule f.b f.c
      && f.d.alignOk sh.d && f.a.alignOk sh.a && f.b.alignOk sh.b && f.c.alignOk sh.c

def Instr.cmd : Instr → Option Cmd
  | .nreg c | .nunreg c | .keygen c | .keykill c | .partset c | .attest c | .cmdUndefined c => some c
  | _ => none

/-- Packet opcodes (R222, R526). -/
def Instr.pktCode : Instr → Option Nat
  | .rd _ => some 0x01 | .wr _ => some 0x02 | .atomPacket _ => some 0x03 | .redPacket _ | .taskDecrementPacket _ => some 0x04
  | .mon _ => some 0x05 | .recPacket _ => some 0x06 | .claim _ => some 0x07 | .esct _ => some 0x08 | .escd _ => some 0x09
  | .rdr _ => some 0x10 | .atomr _ => some 0x11 | .claimr _ => some 0x12 | .errr _ => some 0x13 | .sack _ => some 0x18
  | .wake _ => some 0x19 | .fbar _ => some 0x1A | .frel _ => some 0x1B | .sdec _ => some 0x1C | .snot _ => some 0x1D
  | .tte _ => some 0x1E | .ttr _ => some 0x1F | .ptpm _ => some 0x20 | .pren _ => some 0x21 | .abrt _ => some 0x22
  | .fwdr _ => some 0x23 | .epoch _ => some 0x24
  | _ => none

/-- TDEC, bit 24 of the control word (R223), tells a task decrement from a reduction. -/
def Packet.tdec (p : Packet) : Bool := (p.pay.getD 3 0).getLsbD 0

def Instr.pkt : Instr → Option Packet
  | .rd p | .wr p | .atomPacket p | .redPacket p | .taskDecrementPacket p | .mon p | .recPacket p | .claim p | .esct p
  | .escd p | .rdr p | .atomr p | .claimr p | .errr p | .sack p | .wake p | .fbar p | .frel p | .sdec p | .snot p | .tte p
  | .ptpm p | .pren p | .ttr p | .abrt p | .fwdr p | .epoch p => some p
  | _ => none

/-- Well-formed: an instruction with an encoding; a packet whose code and payload length are those of its row (R221, R222). -/
def Instr.wf (i : Instr) : Bool :=
  match i.fmt with
  | some f => i.wfWarp f
  | none =>
    match i.pkt with
    | some p =>
      i.pktCode == some p.opc.toNat && p.pay.length ≤ 256
      && (match i with | .redPacket q => !q.tdec | .taskDecrementPacket q => q.tdec | _ => true)
    | none => true

end Sys2Proof
end

