-- ==== Sys2Proof/Decode.lean ====
section
/-! DEFINITION. The decoder: from the words of a unit to an instruction or the fault that R310 names first, total on any bits; the
encoder; the host-die words of R255 and R262; and the fields of a packet (R221 to R223). -/

namespace Sys2Proof

/-- Why a unit of the stream is not an instruction: the illegal-instruction fault with REASON and FIELD (R465), or the privileged
one (R309). -/
inductive DecErr where
  | illegal (reason field : Nat)
  | privileged
  deriving DecidableEq, Repr

/-- Little-endian value of bytes (R2). -/
def bytesVal : List Byte → Nat
  | [] => 0
  | b :: bs => b.toNat + 256 * bytesVal bs

/-- n bytes of a value, least significant first. -/
def valBytes : Nat → Nat → List Byte
  | 0, _ => []
  | n + 1, v => BitVec.ofNat 8 v :: valBytes n (v / 256)

/-- The fields of a unit, before any is judged (R301, R303). pre is the prefix word, 0 when there is none. -/
structure Raw where
  len  : Len
  mod  : BitVec 14
  op   : BitVec 10
  gs   : BitVec 1
  g    : BitVec 4
  ge   : BitVec 1
  tb   : BitVec 1
  ta   : BitVec 1
  b    : BitVec 10
  a    : BitVec 10
  d    : BitVec 10
  mod2 : BitVec 21
  tc   : BitVec 1
  c    : BitVec 10
  x    : Word
  lo   : Word
  pre  : Word
  deriving DecidableEq, Repr

/-- Code 1020 (R293). -/
def codeImm : BitVec 10 := 1020

/-- LEN of a first word (R298); none is a prefix. -/
def lenOf (w0 : Word) : Option Len :=
  match (w0.extractLsb' 0 2).toNat with
  | 1 => some .l64 | 2 => some .l96 | 3 => some .l128 | _ => none

def Len.code : Len → BitVec 2
  | .l64 => 1 | .l96 => 2 | .l128 => 3

/-- Bytes of an instruction (R298). -/
def Len.bytes : Len → Nat
  | .l64 => 8 | .l96 => 12 | .l128 => 16

/-- The fields of the words of an instruction. -/
def Raw.ofWords (len : Len) (pre w0 w1 w2 w3 : Word) : Raw :=
  let op := w0.extractLsb' 8 10
  let b := w1.extractLsb' 20 10
  let a := w1.extractLsb' 10 10
  let cForm := match len with
    | .l64 => false
    | .l96 => !(a == codeImm || b == codeImm)
    | .l128 => op != 0x042
  { len, pre, op, a, b
    mod := w0.extractLsb' 18 14, gs := w0.extractLsb' 7 1, g := w0.extractLsb' 3 4, ge := w0.extractLsb' 2 1
    tb := w1.extractLsb' 31 1, ta := w1.extractLsb' 30 1, d := w1.extractLsb' 0 10
    mod2 := if cForm then w2.extractLsb' 11 21 else 0
    tc := if cForm then w2.extractLsb' 10 1 else 0
    c := if cForm then w2.extractLsb' 0 10 else 0
    x := match len with | .l64 => 0 | .l96 => if cForm then 0 else w2 | .l128 => w3
    lo := match len with | .l128 => if cForm then 0 else w2 | _ => 0 }

/-- Word 0 and word 1 of the fields, and word 2 in the C layout. -/
def Raw.word0 (r : Raw) : Word := r.mod ++ r.op ++ r.gs ++ r.g ++ r.ge ++ r.len.code
def Raw.word1 (r : Raw) : Word := r.tb ++ r.ta ++ r.b ++ r.a ++ r.d
def Raw.word2 (r : Raw) : Word := r.mod2 ++ r.tc ++ r.c

/-- The words of an instruction, without its prefix (R303). -/
def Raw.words (r : Raw) : List Word :=
  match r.len with
  | .l64 => [r.word0, r.word1]
  | .l96 => [r.word0, r.word1, if r.a == codeImm || r.b == codeImm then r.x else r.word2]
  | .l128 => [r.word0, r.word1, if r.op == 0x042 then r.lo else r.word2, r.x]

/-- The operand that a code names in a register field (R293). -/
def Opd.ofCode (c : BitVec 10) : Option Opd :=
  let n := c.toNat
  if n < 640 then some (.v n)
  else if n < 768 then some (.w (n - 640))
  else if n < 776 then some (.q (n - 768))
  else if n = 1020 then some .imm
  else if n = 1021 then some .width
  else if n = 1022 then some .lane
  else if n = 1023 then some .zero
  else none

/-- The operand that a field of the given class holds, and whether its code, class and trap bit are permitted. -/
def Opd.parse (k : OpK) (imm : Bool) (c : BitVec 10) (trap : Bool) : Option Opd :=
  match k with
  | .none => if c == 0 && !trap then .some .none else .none
  | .pred => if c.toNat < 16 && !trap then .some (.pred c.toNat) else .none
  | .tile => if c.toNat < 128 && !trap then .some (.tile c.toNat) else .none
  | .reg _ _ _ => (Opd.ofCode c).filter (fun o => o.okFor k imm && (!trap || o.isReg))

/-- The code of an operand in a 10-bit field. -/
def Opd.code : Opd → BitVec 10
  | .v n => BitVec.ofNat 10 n | .w n => BitVec.ofNat 10 (640 + n) | .q n => BitVec.ofNat 10 (768 + n)
  | .imm => 1020 | .width => 1021 | .lane => 1022 | .zero => 1023
  | .pred n => BitVec.ofNat 10 n | .tile n => BitVec.ofNat 10 n
  | .none => 0

/-- The instruction of the opcode with these modifier fields, before its operands are known: a candidate for each opcode and form,
accepted only when encoding it gives the same fields back (so that an unassigned bit or value refuses it, R304). -/
def Raw.candidate (r : Raw) (f : Fmt) : Option Instr :=
  let m := r.mod
  let t := (Ty.ofCode (m.extractLsb' 0 6)).getD .f32
  let sty := (Ty.ofCode (m.extractLsb' 6 6)).getD .f32
  let b24 := m.getLsbD 6
  let b30 := m.getLsbD 12
  let b31 := m.getLsbD 13
  let l4 := m.extractLsb' 6 4
  let h4 := m.extractLsb' 10 4
  let l3 := m.extractLsb' 6 3
  let seg := m.extractLsb' 10 3
  let ctw := r.mod2.extractLsb' 14 7
  let cpl := (Cpl.ofCode (m.extractLsb' 12 2)).getD .cnt
  let mm : MmaMods := ⟨b31, b30, m.getLsbD 11, m.getLsbD 10, l4, m.extractLsb' 3 3, m.extractLsb' 0 3,
    r.mod2.extractLsb' 14 7, r.mod2.extractLsb' 7 7⟩
  match r.op.toNat with
  | 0x000 => some (.nop f) | 0x001 => some (.bra f) | 0x002 => some (.brx f) | 0x003 => some (.call f)
  | 0x004 => some (.ret f) | 0x005 => some (.exit f) | 0x006 => some (.cvset f) | 0x007 => some (.cvwait f)
  | 0x008 => some (.yield f) | 0x009 => some (.trap f) | 0x00A => some (.svc f) | 0x00B => some (.brk f)
  | 0x00C => some (.sget f l4) | 0x00D => some (.sset f l4) | 0x00E => some (.mxhint f)
  | 0x010 => (ICmp.ofCode l3).map (fun c => .pset f c t) | 0x011 => some (.psetf f (FCmp.ofCode l3) t)
  | 0x012 => some (.plog f (m.extractLsb' 6 8)) | 0x013 => some (if b24 then .pmovPut f else .pmovGet f)
  | 0x014 => some (.vote f (VOp.ofCode (m.extractLsb' 6 2)))
  | 0x020 => some (.add f t b24) | 0x021 => some (.sub f t b24) | 0x022 => some (.addc f t l4) | 0x023 => some (.subb f t l4)
  | 0x024 => some (.mul f t) | 0x025 => some (.mulhi f t) | 0x026 => some (.mad f t) | 0x027 => some (.madhi f t)
  | 0x028 => some (.div f t) | 0x029 => some (.rem f t) | 0x02A => some (.min f t) | 0x02B => some (.max f t)
  | 0x02C => some (.abs f t b24) | 0x02D => some (.neg f t b24) | 0x02E => some (.lea f t l3)
  | 0x030 => some (.and f t) | 0x031 => some (.or f t) | 0x032 => some (.xor f t) | 0x033 => some (.not f t)
  | 0x034 => some (.andn f t) | 0x035 => some (.shl f t) | 0x036 => some (.shr f t) | 0x037 => some (.sar f t)
  | 0x038 => some (.rot f t) | 0x039 => some (.bfx f t) | 0x03A => some (.bfi f t) | 0x03B => some (.popc f t)
  | 0x03C => some (.clz f t) | 0x03D => some (.ctz f t) | 0x03E => some (.brev f t) | 0x03F => some (.sel f t l4)
  | 0x040 => some (.mov f t) | 0x041 => some (.movi f t) | 0x042 => some (.movd f t r.lo) | 0x043 => some (.prmt f)
  | 0x060 => some (.fadd f t) | 0x061 => some (.fsub f t) | 0x062 => some (.fmul f t) | 0x063 => some (.ffma f t)
  | 0x064 => some (.fmin f t) | 0x065 => some (.fmax f t) | 0x066 => some (.fneg f t) | 0x067 => some (.fabs f t)
  | 0x068 => some (.fcsign f t) | 0x069 => some (.fdiv f t) | 0x06A => some (.fsqrt f t) | 0x06B => some (.fscale f t)
  | 0x06C => some (.fgexp f t) | 0x06D => some (.frnd f t) | 0x06E => some (.fcls f t)
  | 0x06F => some (.fcvt f t sty b30) | 0x070 => some (.icvt f t sty b30)
  | 0x080 => some (.vsin f) | 0x081 => some (.vcos f) | 0x082 => some (.vscs f) | 0x083 => some (.vex2 f)
  | 0x084 => some (.vlg2 f) | 0x085 => some (.vrcp f) | 0x086 => some (.vrsq f) | 0x087 => some (.vtanh f)
  | 0x090 => some (.padd f t b30) | 0x091 => some (.psub f t b30) | 0x092 => some (.pmul f t b30)
  | 0x093 => some (.pfma f t b30) | 0x094 => some (.pmin f t) | 0x095 => some (.pmax f t) | 0x096 => some (.pdot f t b30)
  | 0x097 => some (.pcvt f t sty b30) | 0x098 => some (.ppack f t l3 b30) | 0x099 => some (.punpk f t l3)
  | 0x09A => some (.pabs f t b30)
  | 0x0A0 => some (.lshf f t (SMode.ofCode (m.extractLsb' 6 2)) seg)
  | 0x0A1 => (ROp.ofCode l4).map (fun o => .lred f t o seg) | 0x0A2 => (ROp.ofCode l4).map (fun o => .lscan f t o seg b31)
  | 0x0A3 => some (.lbc f t) | 0x0B0 => some (.vhash f) | 0x0B1 => some (.vdrop f)
  | 0x100 => do
    let sp ← Space.ofCode (m.extractLsb' 0 2)
    let sz ← Sz.ofCode (m.extractLsb' 3 3)
    let o ← Ord.ofCodeLd (m.extractLsb' 12 2)
    let sc ← Scope.ofCode (m.extractLsb' 9 3)
    some (.ld f sp sz o sc (m.getLsbD 2) l3)
  | 0x101 => do
    let sz ← Sz.ofCode (m.extractLsb' 3 3)
    some (.ldro f sz l3)
  | 0x102 => some (.ldk f l3)
  | 0x103 => do
    let sp ← Space.ofCode (m.extractLsb' 0 2)
    let sz ← Sz.ofCode (m.extractLsb' 3 3)
    let o ← Ord.ofCodeSt (m.extractLsb' 12 2)
    let sc ← Scope.ofCode (m.extractLsb' 9 3)
    some (.st f sp sz o sc l3)
  | 0x104 => do
    let op ← AOp.ofCode h4
    let sc ← Scope.ofCode (r.mod2.extractLsb' 0 3)
    some (.atom f op t (Ord.ofCodeAt (m.extractLsb' 8 2)) sc (m.getLsbD 7) b24 (r.mod2.extractLsb' 3 3))
  | 0x105 => do
    let op ← AOp.ofCode h4
    let sc ← Scope.ofCode (r.mod2.extractLsb' 0 3)
    some (.red f op t (Ord.ofCodeAt (m.extractLsb' 8 2)) sc (r.mod2.extractLsb' 3 3))
  | 0x106 => do
    let o ← Ord.ofCodeFe (m.extractLsb' 12 2)
    let sc ← Scope.ofCode (m.extractLsb' 9 3)
    some (.fence f o sc)
  | 0x107 => some (.fro f) | 0x108 => some (.rcfence f)
  | 0x140 =>
    match (m.extractLsb' 4 2).toNat with
    | 0 => some (.awaitCnt f)
    | 1 => (Scope.ofCode (m.extractLsb' 7 3)).map (fun sc => if m.getLsbD 3 then .awaitPhG f sc else .awaitPh f sc)
    | 2 => do
      let c ← MCmp.ofCode h4
      let sc ← Scope.ofCode (m.extractLsb' 7 3)
      some (.awaitMem f c b24 sc)
    | _ => none
  | 0x141 => some (.bini f) | 0x142 => (Scope.ofCode (m.extractLsb' 9 3)).map (fun sc => .barv f sc)
  | 0x143 => some (.bexp f) | 0x144 => some (if b24 then .gbarFab f else .gbarGrid f)
  | 0x145 => some (.qcls f l3) | 0x146 => some (.qstat f l3)
  | 0x180 => some (.mma f mm) | 0x181 => some (.mmaz f mm)
  | 0x182 => some (.accld f l4 b30) | 0x183 => some (.accst f l4 b30) | 0x184 => some (.accz f l4)
  | 0x188 => some (.rqnt f b31 l3 (m.extractLsb' 3 3)) | 0x189 => some (.qpack f b31 l3) | 0x18A => some (.qunpk f b31 l3)
  | 0x18B => some (.plsplit f) | 0x18C => some (.plmrg f l3)
  | 0x18D => some (.topk f t (if m.getLsbD 10 then some l4 else none))
  | 0x1C0 => some (.cpy f cpl (m.getLsbD 11) (m.getLsbD 10) ctw) | 0x1C1 => some (.cpyt f cpl (m.getLsbD 11) ctw)
  | 0x1C2 => some (.cpyw f cpl ctw) | 0x1C3 => some (.cpyg f cpl ctw) | 0x1C4 => some (.cpys f cpl ctw)
  | 0x200 =>
    match (m.extractLsb' 12 2).toNat with
    | 0 => some (.emit f) | 1 => some (.emitRem f) | 2 => some (.emitTask f) | _ => none
  | 0x201 => some (.spawn f) | 0x202 => some (if b31 then .tkgetClaim f else .tkget f)
  | 0x203 => some (.tkput f) | 0x204 => some (if b31 then .tdecRem f else .tdec f)
  | 0x3C0 => some (.sret f b24) | 0x3C1 => some (.mbrecv f l4 h4) | 0x3C2 => some (.mbpost f) | 0x3C3 => some (.frep f)
  | 0x3C4 => some (.fdrop f) | 0x3C5 => some (.tlbi f b24) | 0x3C6 => some (.wpark f) | 0x3C7 => some (.wwake f)
  | 0x3C9 => some (if b24 then .sctxWr f (m.getLsbD 7) else .sctxRd f (m.getLsbD 7))
  | _ => none

/-- The candidate whose encoding has exactly these opcode and modifier fields. -/
def Raw.build (r : Raw) (f : Fmt) : Option Instr :=
  match r.candidate f with
  | some i => if i.sig = some ⟨r.op, r.mod, r.mod2⟩ then some i else none
  | none => none

/-- The prefix of the instruction, or none when a field breaks R306; the fourth operand is judged later (R310). -/
def Raw.prefixOk (r : Raw) (i : Instr) : Bool :=
  let p := r.pre
  let fe := p.getLsbD 21
  let me := p.getLsbD 10
  p.extractLsb' 22 10 == 0 && (fe || p.extractLsb' 11 10 == 0) && (!fe || i.shape.fo != .none)
  && (me || p.extractLsb' 5 5 == 0)
  && (match Rnd.ofCode (p.extractLsb' 2 3) with | none => false | some x => x == .rne || i.rounds)

/-- The prefix as data; fo is the fourth operand already parsed. -/
def Raw.prefixOf (r : Raw) (fo : Option Opd) : Option Pre :=
  if r.pre == 0 then none
  else some {
    mask := if r.pre.getLsbD 10 then some ⟨r.pre.extractLsb' 6 4, r.pre.getLsbD 5⟩ else none
    rnd := (Rnd.ofCode (r.pre.extractLsb' 2 3)).getD .rne
    fourth := fo }

/-- Steps 2 to 7 of R310 on the fields of a unit: the instruction, or the first fault that applies. Log entry 63. -/
def Raw.decode (r : Raw) (sup : Bool) : Except DecErr Instr :=
  if !opListed r.op then .error (.illegal 3 0)
  else if 0x3C0 ≤ r.op.toNat && !sup then .error .privileged
  else
    let iab := r.a == codeImm || r.b == codeImm
    let iabc := iab || r.c == codeImm
    match lenRule r.op r.mod with
    | none => .error (.illegal 5 0)
    | some lr =>
      if !lr.ok r.len iab iabc then .error (.illegal 4 0)
      else if r.ge == 0 && (r.g != 0 || r.gs != 0) then .error (.illegal 5 0)
      else
        let guard : Option Guard := if r.ge == 1 then some ⟨r.g, r.gs == 1⟩ else none
        let f0 : Fmt := ⟨r.len, none, guard, .none, .none, .none, .none, r.ta == 1, r.tb == 1, r.tc == 1, r.x⟩
        match r.build f0 with
        | none => .error (.illegal 5 0)
        | some i0 =>
          if !i0.modsOk || !r.prefixOk i0 then .error (.illegal 5 0)
          else
            let sh := i0.shape
            let io := lr.immOk r.len iab r.op
            match Opd.parse sh.d false r.d false with
            | none => .error (.illegal 6 0)
            | some d =>
              let wd := i0.wDest d
              if !i0.dRule d then .error (.illegal 6 0)
              else
              match Opd.parse sh.a io r.a (r.ta == 1) with
              | none => .error (.illegal 6 1)
              | some a =>
                let oc := (Opd.parse sh.c io r.c (r.tc == 1)).getD .none
                let modeBad := match i0 with | .svc _ | .sset _ _ => sup | _ => false
                if (wd && a.isVQ) || !i0.aRule a oc || modeBad then .error (.illegal 6 1)
                else
                match Opd.parse sh.b io r.b (r.tb == 1) with
                | none => .error (.illegal 6 2)
                | some b =>
                  if (wd && b.isVQ) || !i0.bRule b oc then .error (.illegal 6 2)
                  else
                  match Opd.parse sh.c io r.c (r.tc == 1) with
                  | none => .error (.illegal 6 3)
                  | some c =>
                    if wd && c.isVQ then .error (.illegal 6 3)
                    else
                    let fe := r.pre.getLsbD 21
                    let fo : Option Opd :=
                      if fe then Opd.parse sh.fo false (r.pre.extractLsb' 11 10) false else none
                    if fe && fo.isNone then .error (.illegal 6 4)
                    else if !i0.foRule fe || (wd && (fo.getD .none).isVQ) then .error (.illegal 6 4)
                    else if !d.alignOk sh.d then .error (.illegal 7 0)
                    else if !a.alignOk sh.a then .error (.illegal 7 1)
                    else if !b.alignOk sh.b then .error (.illegal 7 2)
                    else if !c.alignOk sh.c then .error (.illegal 7 3)
                    else if !(fo.getD .none).alignOk sh.fo then .error (.illegal 7 4)
                    else
                      match r.build { f0 with pre := r.prefixOf fo, d := d, a := a, b := b, c := c } with
                      | none => .error (.illegal 5 0)
                      | some i => .ok i

/-- One step of the stream (R300): a pad, a fault found before any decoding with the words read so far, or a unit. -/
inductive Unit1 where
  | pad
  | bad (reason : Nat) (ibytes : List Byte)
  | unit (size : Nat) (ibytes : List Byte) (r : Except DecErr Instr)
  deriving Repr

/-- The word at byte offset o of a block (zero beyond its end, where no word is used). -/
def blockWord (bs : List Byte) (o : Nat) : Word := BitVec.ofNat 32 (bytesVal ((bs.drop o).take 4))

/-- The first word's four bytes of the record, and those of the instruction (R457: FIBYTES are the prefix, or zeros, then the
instruction). -/
def ibytesOf (pre : Word) (ws : List Word) : List Byte :=
  valBytes 4 pre.toNat ++ ws.flatMap (fun w => valBytes 4 w.toNat)

/-- Decode the unit that starts at byte offset o (a multiple of 4) of an aligned 32-byte block (R298 to R300). A unit lies within
its block, so the block is all that a decode reads; next is the first word of the block that follows, read only to judge a prefix
in the last word of a block. -/
def decodeBlock (sup : Bool) (bs : List Byte) (next : Word) (o : Nat) : Unit1 :=
  let w := blockWord bs o
  if w == 0 then .pad
  else
    let isPre := w.extractLsb' 0 2 == 0
    let pre := if isPre then w else 0
    let p := if isPre then o + 4 else o
    let w0 := if p < 32 then blockWord bs p else next
    match lenOf w0 with
    | none => .bad 2 (ibytesOf pre [w0])
    | some l =>
      if 32 < p + l.bytes then
        .bad 1 (ibytesOf pre ((List.range ((32 - p) / 4)).map (fun k => blockWord bs (p + 4 * k))))
      else
        let r := Raw.ofWords l pre w0 (blockWord bs (p + 4)) (blockWord bs (p + 8)) (blockWord bs (p + 12))
        .unit (p + l.bytes - o) (ibytesOf pre ((List.range (l.bytes / 4)).map (fun k => blockWord bs (p + 4 * k)))) (r.decode sup)

/-- Decode a unit given as words: an optional prefix word and the words of the instruction. -/
def decodeWords (sup : Bool) (ws : List Word) : Except DecErr Instr :=
  match ws with
  | [] => .error (.illegal 2 0)
  | w :: rest =>
    let isPre := w.extractLsb' 0 2 == 0
    let pre := if isPre then w else 0
    let body := if isPre then rest else ws
    match lenOf (body.headD 0) with
    | none => .error (.illegal 2 0)
    | some l => (Raw.ofWords l pre (body.headD 0) (body.getD 1 0) (body.getD 2 0) (body.getD 3 0)).decode sup

/-- The fields that encode a warp instruction. -/
def Instr.raw (i : Instr) (f : Fmt) (s : Sig) : Raw :=
  let p : Word := match f.pre with
    | none => 0
    | some p =>
      let fo : BitVec 11 := match p.fourth with | none => 0#11 | some o => 1#1 ++ o.code
      let ms : BitVec 6 := match p.mask with | none => 0#6 | some m => 1#1 ++ m.pred ++ bit m.zero
      0#10 ++ fo ++ ms ++ p.rnd.code ++ 0#2
  { len := f.len, mod := s.mod, op := s.op
    gs := match f.guard with | none => 0 | some g => bit g.neg
    g := match f.guard with | none => 0 | some g => g.pred
    ge := match f.guard with | none => 0 | some _ => 1
    tb := bit f.tb, ta := bit f.ta, b := f.b.code, a := f.a.code, d := f.d.code
    mod2 := s.mod2, tc := bit f.tc, c := f.c.code, x := f.x
    lo := match i with | .movd _ _ lo => lo | _ => 0
    pre := p }

/-- The words of a well-formed instruction: its prefix when it has one, then the instruction (R299, R303); dpst and clret as R255
and R262 give them. -/
def encode (i : Instr) : List Word :=
  match i with
  | .dpst rd rs1 rs2 => [0#7 ++ rs2 ++ rs1 ++ 0#3 ++ rd ++ 0x0B#7]
  | .clret => [0x100B]
  | _ =>
    match i.fmt, i.sig with
    | some f, some s =>
      let r := i.raw f s
      (match f.pre with | none => [] | some _ => [r.pre]) ++ r.words
    | _, _ => []

/-- The host-die words that this manual describes (R255, R262). -/
def decodeHost (w : Word) : Option Instr :=
  if w == 0x100B then some .clret
  else if w &&& 0xFE00707F == 0x0B then some (.dpst (w.extractLsb' 7 5) (w.extractLsb' 15 5) (w.extractLsb' 20 5))
  else none

/-- The instruction that the decoder reads from the bits of an opcode-table row (bit 0 is the least significant bit of the first
word). A 32-bit word of the host die is one of R255 and R262; any other is a unit of the Ghenak stream. -/
def decodeTableWord (nbits w : Nat) : Option Instr :=
  let host := if nbits ≤ 32 then decodeHost (BitVec.ofNat 32 w) else none
  match host with
  | some i => some i
  | none =>
    let ws := (List.range 5).map (fun k => BitVec.ofNat 32 (w / 2 ^ (32 * k)))
    match decodeWords false ws with
    | .ok i => some i
    | .error _ =>
      match decodeWords true ws with
      | .ok i => some i
      | .error _ => none

/-- The row that performs a packet by its OPC (R222, R526); none for a reserved one. -/
def Packet.instr (p : Packet) : Option Instr :=
  match p.opc.toNat with
  | 0x01 => some (.rd p) | 0x02 => some (.wr p) | 0x03 => some (.atomPacket p)
  | 0x04 => some (if p.tdec then .taskDecrementPacket p else .redPacket p)
  | 0x05 => some (.mon p) | 0x06 => some (.recPacket p) | 0x07 => some (.claim p) | 0x08 => some (.esct p)
  | 0x09 => some (.escd p) | 0x10 => some (.rdr p) | 0x11 => some (.atomr p) | 0x12 => some (.claimr p)
  | 0x13 => some (.errr p) | 0x18 => some (.sack p) | 0x19 => some (.wake p) | 0x1A => some (.fbar p)
  | 0x1B => some (.frel p) | 0x1C => some (.sdec p) | 0x1D => some (.snot p) | 0x1E => some (.tte p)
  | 0x1F => some (.ttr p) | 0x20 => some (.ptpm p) | 0x21 => some (.pren p) | 0x22 => some (.abrt p)
  | 0x23 => some (.fwdr p) | 0x24 => some (.epoch p)
  | _ => none

/-- The 24 B header of a packet (R221), and its payload. -/
def Packet.bytes (p : Packet) : List Byte :=
  let h0 : DWord := p.gen ++ p.psn ++ p.src ++ p.dst ++ p.cls
  let h1 : DWord := p.vgrp ++ bit p.val ++ BitVec.ofNat 9 p.pay.length ++ p.opc ++ 0#4 ++ p.tag
  valBytes 8 h0.toNat ++ valBytes 8 h1.toNat ++ valBytes 8 p.addr.toNat ++ p.pay

/-- PLEN of a header (R221). -/
def plenOf (body : List Byte) : Nat :=
  ((BitVec.ofNat 64 (bytesVal ((body.drop 8).take 8))).extractLsb' 44 9).toNat

/-- The packet whose first bytes are these. -/
def Packet.ofBytes (bs : List Byte) : Packet :=
  let h0 : DWord := BitVec.ofNat 64 (bytesVal (bs.take 8))
  let h1 : DWord := BitVec.ofNat 64 (bytesVal ((bs.drop 8).take 8))
  { gen := h0.extractLsb' 48 16, psn := h0.extractLsb' 32 16, src := h0.extractLsb' 17 15, dst := h0.extractLsb' 2 15
    cls := h0.extractLsb' 0 2, vgrp := h1.extractLsb' 54 10, val := h1.getLsbD 53, opc := h1.extractLsb' 36 8
    tag := h1.extractLsb' 0 32, addr := BitVec.ofNat 64 (bytesVal ((bs.drop 16).take 8))
    pay := (bs.drop 24).take (plenOf bs) }

end Sys2Proof
end

