-- ==== Sys2Proof/Machine/Sparse.lean ====
section
/-! DEFINITION. Sparse maps from addresses or register numbers to words, in one canonical form: keys strictly rising, and no entry
that holds zero, the value of an unlisted key. Memory, registers, tiles, scratchpads and the CP register space are such maps. -/

namespace Sys2Proof.Machine

/-- A sparse map; an unlisted key holds zero. -/
abbrev SMap (w : Nat) := List (Nat × BitVec w)

/-- The value at a key. -/
def SMap.get {w : Nat} : SMap w → Nat → BitVec w
  | [], _ => 0
  | (a, v) :: t, k => if a = k then v else SMap.get t k

/-- The map without an entry for k. -/
def SMap.erase {w : Nat} (m : SMap w) (k : Nat) : SMap w := m.filter (fun p => p.1 != k)

/-- Insert before the first larger key. -/
def SMap.ins {w : Nat} (k : Nat) (v : BitVec w) : SMap w → SMap w
  | [] => [(k, v)]
  | (a, x) :: t => if k < a then (k, v) :: (a, x) :: t else (a, x) :: SMap.ins k v t

/-- Write a key; writing zero removes its entry. -/
def SMap.set {w : Nat} (m : SMap w) (k : Nat) (v : BitVec w) : SMap w :=
  if v = 0 then m.erase k else SMap.ins k v (m.erase k)

/-- The canonical form. -/
def SMap.wf {w : Nat} : SMap w → Bool
  | [] => true
  | [(_, v)] => v != 0
  | (a, v) :: (b, x) :: t => v != 0 && a < b && SMap.wf ((b, x) :: t)

/-- n consecutive values from a key. -/
def SMap.getN {w : Nat} (m : SMap w) : Nat → Nat → List (BitVec w)
  | 0, _ => []
  | n + 1, k => m.get k :: m.getN n (k + 1)

/-- Write consecutive values from a key. -/
def SMap.setN {w : Nat} (m : SMap w) (k : Nat) : List (BitVec w) → SMap w
  | [] => m
  | v :: t => SMap.setN (m.set k v) (k + 1) t

/-- Write the bytes of the list whose flag is set. -/
def SMap.setIf {w : Nat} (m : SMap w) (k : Nat) : List (Option (BitVec w)) → SMap w
  | [] => m
  | none :: t => SMap.setIf m (k + 1) t
  | some v :: t => SMap.setIf (m.set k v) (k + 1) t

end Sys2Proof.Machine
end

