-- ==== Sys2Proof/Machine/State.lean ====
section
/-! DEFINITION. The state of one package as plain data: everything the manual gives the machine (INVENTORY.md, State), the model's
own fields (agenda, cur, issued, rr, fresh, hb), the reasons a step can stop, and the state after reset. -/

namespace Sys2Proof.Machine

/-- Why the machine stops with a fault of the model. -/
inductive Fault where
  /-- Raised by any access to a local HBM location that R110 says does not exist (log entry 26): safe, since the hardware's fate
  is not given and the model goes no further. -/
  | noLocation (pa : Nat)
  deriving DecidableEq, Repr

/-- Why the machine has no meaning for what it is asked to do. -/
inductive Refusal where
  /-- Raised by an arm of exec whose instruction has no meaning yet: safe. -/
  | notModelled (mnemonic : String)
  /-- Raised by the step of an H-die hart whose word is neither dpst nor clret: the RISC-V architecture is outside the manual's scope
  (chapter 00; log entry 25): safe. -/
  | hostInstruction
  deriving DecidableEq, Repr

/-- Who makes an access (R128 to R134). -/
inductive Agent where
  | warp (core wix : Nat)
  /-- The matrix unit in the scratchpad on a warp's behalf (R139). -/
  | unit (core wix : Nat)
  | engine (core copy : Nat)
  | stage (core gid : Nat)
  | teller
  | cp
  | task (die : Nat)
  | host
  | hart (n : Nat)
  | remote (dev : Nat)
  /-- A warp (0), a matrix unit (1), an engine's copy (2) or a staging (3) whose generation is switched out of its core (R126, R539). -/
  | away (gen core kind idx : Nat)
  deriving DecidableEq, Repr

/-- How many releases of each agent are known. -/
abbrev Clock := List (Agent × Nat)

/-- A release that a read of the value may synchronise with: its scope, the agent, and what it carries (R132). -/
structure Msg where
  sc  : Scope
  who : Agent
  clk : Clock
  /-- It reaches only the observers of a barrier object's phase, at any scope (R395). -/
  bar : Bool := false
  deriving DecidableEq, Repr

/-- How an access is made: by whom, strong or weak, at which scope, whether it acquires or releases, and .pr (R128, R130, R136); sized: its
extent is known, as it is not of a request that names bytes of a sector (R227, R228). l1: it may be made in the L1 of a core (R117, R119).
bar: an operation on a barrier object (R390). -/
structure Acc where
  who : Agent
  strong : Bool := false
  sc : Scope := .wp
  acq : Bool := false
  rel : Bool := false
  pr : Bool := false
  sized : Bool := true
  l1 : Bool := true
  bar : Bool := false
  deriving DecidableEq, Repr

/-- A write to a range of locations, or a strong read of one: by whom, the agent's count of releases then, strength and scope, and the
releases that a read of the write may synchronise with. l1: it stands in the L1 of a core until it is written back (R117, R119, R500). -/
structure WRec where
  lo     : Nat
  len    : Nat
  who    : Agent
  ep     : Nat
  strong : Bool
  sc     : Scope
  msgs   : List Msg := []
  rel    : Bool := false
  sized  : Bool := true
  l1     : Bool := false
  bar    : Bool := false
  deriving DecidableEq, Repr

/-- What each agent has synchronised with, its count of releases, the acquires its relaxed reads may yet become by a fence, and the
scope of a release fence in effect (R130 to R134); co: what its releases at .co have carried (R136); out: its count of releases at the last that
went beyond its core, before which no L1 holds a write of it alone (R117, R500). -/
structure Know where
  who  : Agent
  rel  : Nat := 0
  clk  : Clock := []
  pend : List Msg := []
  fence : Option Scope := none
  co   : Clock := []
  out  : Nat := 0
  deriving DecidableEq, Repr

/-- What the releases at .co by warps of a core, up to one that wrote a range, have carried (R136). -/
structure CoRel where
  lo   : Nat
  len  : Nat
  core : Nat
  clk  : Clock
  deriving DecidableEq, Repr

/-- Happens-before as far as a step needs it, to say when an access is in a race: what each agent knows, the writes that a later access may
race with, newest first, the strong reads (R141), and the releases that a promoted acquire reaches (R136). far: what releases at .sy to
the memory of peers have carried (R132); clus: the physical cluster of each core (R11, R129). -/
structure HB where
  know : List Know := []
  wlog : List WRec := []
  rlog : List WRec := []
  colog : List CoRel := []
  far  : Clock := []
  clus : List Nat := []
  deriving DecidableEq, Repr

/-- A fault record before it is laid out (R457). -/
structure FRec where
  cls  : Nat
  code : Nat
  lane : Option Nat := none
  stop : Bool := false
  sup  : Bool := false
  async : Bool := false
  wix  : Nat := 0
  gen  : Nat := 0
  ptb  : Nat := 0
  nid  : Nat := 0
  slot : Nat := 0
  slice : Nat := 0
  core : Nat := 0
  pc   : Nat := 0
  va   : Nat := 0
  info : Nat := 0
  ib   : List Byte := []
  deriving DecidableEq, Repr

/-- Destinations that an outstanding operation fills, and the values they take (R54): lane and value; lane 0 for a w register. -/
structure Fill where
  isV  : Bool
  reg  : Nat
  vals : List (Nat × Word)
  deriving DecidableEq, Repr

/-- Counter classes of R137. -/
inductive CCls where
  | c | m | f | a
  deriving DecidableEq, Repr

/-- A lane of an outstanding remote request: lane, byte offset in its sector, bytes, and how the value fills the register. -/
structure ReqLane where
  lane : Nat
  off  : Nat
  n    : Nat
  sx   : Bool
  deriving DecidableEq, Repr

/-- A packet that an operation waits for (R226 to R229): its tag, destination and lanes. -/
structure Req where
  tag  : Nat
  dst  : Nat
  pa   : Nat
  lanes : List ReqLane
  deriving DecidableEq, Repr

/-- One lane of a reduction that the adders have yet to perform (R379): the operation, type, order and scope, address, operand, and
what the write carries as a release, fixed at issue. -/
structure RedLane where
  op  : AOp
  ty  : Ty
  rel : Bool
  sc  : Scope
  aper : Nat
  pa  : Nat
  val : Nat
  ep  : Nat := 0
  msgs : List Msg := []
  deriving DecidableEq, Repr

/-- What kind of operation is outstanding (R54, R137). -/
inductive OpKind where
  | load | atom | store | red | mat | copy (id : Nat) | emit | claim (deque dev : Nat) | fetch (va : Nat) | pop
  deriving DecidableEq, Repr

/-- An outstanding operation of a warp, in issue order. done: performed, and waiting for earlier ones of its class (R137). -/
structure Op where
  /-- Its number within the warp. -/
  id    : Nat
  /-- What it does. -/
  kind  : OpKind
  /-- The counter it adds to. -/
  cls   : Option CCls := none
  /-- The registers that it fills. -/
  fills : List Fill := []
  /-- The packets it still waits for. -/
  reqs  : List Req := []
  /-- Packets that follow an unanswered one of its own to the same bytes (R226), with what will wait for them. -/
  later : List (Packet × Req) := []
  /-- The ring entries it has claimed, which have yet to be delivered: ring and entry (R95). -/
  pops  : List (Nat × Nat) := []
  /-- How its accesses are made, when a peer answers them (R132). -/
  acc   : Option Acc := none
  /-- The lanes the adders have yet to perform. -/
  reds  : List RedLane := []
  /-- It fills D. -/
  w     : Bool := false
  /-- The first register of D. -/
  reg   : Nat := 0
  /-- Bytes of each lane. -/
  sz    : Nat := 4
  /-- A poisoned or failed location stops the warp when it ends (R496). -/
  stopVA : Option Nat := none
  /-- The PTB at issue. -/
  issued : Nat := 0
  /-- Performed, and waiting for earlier ones of its class (R137). -/
  done  : Bool := false
  deriving DecidableEq, Repr

/-- A convergence wait (R47): its register, MASK, ARRIVED, and where each waiting lane resumes. -/
structure Conv where
  reg  : Nat
  mask : Mask
  arrived : Mask
  resume : List (Nat × DWord)
  deriving DecidableEq, Repr

/-- What holds a warp besides its registers: await (R386 to R388), svc (R333), yield (R331). -/
inductive Wait where
  | none
  | cnt (thr : Word)
  | ph (core : Nat) (phys : Nat) (tok : Bool) (sc : Scope)
  | mem (lanes : Mask) (pd : Nat) (sc : Scope)
  | phg (sc : Scope)
  | svc
  | yield (untilCyc : Nat)
  deriving DecidableEq, Repr

/-- The state of a warp (R36) and what the core holds beside it. -/
structure Warp where
  /-- Admission index, 0 to 255 (R58). -/
  wix   : Nat
  /-- Its group. -/
  gid   : Nat
  /-- WARP: its index within the group (R32). -/
  warp  : Nat
  /-- v registers (R50). -/
  vBud  : Nat
  /-- w registers (R50). -/
  wBud  : Nat
  /-- Tiles (R50). -/
  aBud  : Nat
  /-- Queue bindings of its role (R90). -/
  qb    : Word := 0
  /-- PC of each lane (R36). -/
  pcs   : List DWord
  /-- Finished lanes (R35). -/
  fin   : Mask := 0
  /-- p0 to p15, a mask of lanes each (R290). -/
  preds : List Mask
  /-- v registers: register r of lane l at key 32 r + l. -/
  v     : SMap 32 := []
  /-- Lanes in which a v register is empty (R53). -/
  vE    : SMap 32 := []
  /-- w registers. -/
  w     : SMap 32 := []
  /-- Empty w registers. -/
  wE    : BitVec 128 := 0
  /-- Tiles a0 to a127, in 32-bit words, 128 to a tile (R290, R409). -/
  acc   : SMap 32 := []
  /-- Convergence waits (R46, R47). -/
  conv  : List Conv := []
  /-- Outstanding operations in issue order (R54, R137). -/
  ops   : List Op := []
  /-- Its requests to peers that are sent and not yet acknowledged (R226). -/
  unacked : List Req := []
  /-- FPSTAT (R167). -/
  fpstat : Word := 0
  /-- SEED (R156). -/
  seed  : DWord := 0
  /-- Queue registers whose push binding is closed (R399). -/
  qcls  : BitVec 8 := 0
  /-- What holds the warp besides its registers. -/
  wait  : Wait := .none
  /-- The PTB from which it has waited, or 0 (R59). -/
  since : Nat := 0
  /-- How the await of memory ended: HELD (R123, R124, R388). -/
  result : Option Bool := none
  /-- Stopped by a fault (R461). -/
  stopped : Bool := false
  /-- The faulted instruction, and the one after it, for sret (R438). -/
  stopAt : Option (DWord × DWord) := none
  /-- A stop that takes effect at the next instruction boundary (R458, R496). -/
  asyncStop : Option FRec := none
  /-- The fault-buffer entry it is held for (R478). -/
  replay : Option Nat := none
  /-- Held by wpark (R443). -/
  parkHeld : Bool := false
  /-- The supervisor warp (R263). -/
  sup   : Bool := false
  /-- Slice and slot while resident; none while parked (R58, R61). -/
  place : Option (Nat × Nat) := none
  /-- Where its v registers begin in the register file of the slice (R109). -/
  vBase : Nat := 0
  /-- Where its tiles begin in those of the slice. -/
  aBase : Nat := 0
  /-- The peer that holds its await.mem registration (R127). -/
  waitDev : Option Nat := none
  /-- Copies that have landed for it, which an await.cnt acquires (R138). -/
  landed : List Nat := []
  /-- Pieces of copies it has supplied (R420). -/
  pieces : Nat := 0
  /-- Where its park record begins in the core's park area (R10, R60). -/
  parkAt : Nat := 0
  /-- Instruction bytes read from a peer page, for one issue. -/
  fetched : List (Nat × List Byte) := []
  /-- The PA of that registration. -/
  waitPA : Nat := 0
  /-- The later of the cycle of its last issue and the cycle in which it last became ready (R39). -/
  age   : Nat := 0
  /-- It was ready in the last cycle of its slice (R38). -/
  ready : Bool := false
  /-- The cycle since which only the unit has kept it from issuing (R45). -/
  keen  : Option Nat := none
  /-- For each lane, how many issues of the warp its path has let pass; none: none yet (R42). -/
  skips : List Nat := []
  /-- For each path that waits for registers: their file (0 v, 1 w), number and empty lanes (R55, R56). -/
  needs : List (List (Nat × Nat × Mask)) := []
  deriving DecidableEq, Repr

/-- The four counts of a ring of the queue port (R92), its closing point (R399) and the entries claimed and not yet delivered. -/
structure Ring where
  /-- TAIL: entries reserved. -/
  tail   : Nat := 0
  /-- COMMIT: entries committed. -/
  commit : Nat := 0
  /-- HEAD: entries claimed. -/
  head   : Nat := 0
  /-- DLV: entries delivered. -/
  dlv    : Nat := 0
  /-- CLOSEAT (R399). -/
  closeAt : Option Nat := none
  /-- Entries claimed and not yet delivered, oldest first. -/
  claimed : List Nat := []
  deriving DecidableEq, Repr

/-- Where a record came from, for what its group's retirement owes: a grid (R35, R258), a named task (R88), a stolen tile (R240: victim,
deque, ticket), a tile its owner took (R241). -/
structure Prov where
  grid : Option Nat := none
  task : Option Nat := none
  stolen : Option (Nat × Nat × Nat) := none
  own : Bool := false
  deriving DecidableEq, Repr

/-- A group on a core (R32, R79, R83, R91). -/
structure Group where
  /-- Instance number (R74). -/
  gid    : Nat
  /-- Generation. -/
  gen    : Nat
  /-- Node. -/
  nid    : Nat
  /-- The node's descriptor as registered (R66). -/
  desc   : List Byte
  /-- Nesting depth (R34). -/
  depth  : Nat
  /-- Its records, 64 bytes each (R73). -/
  recs   : List (List Byte)
  /-- PTB of the launch. -/
  launch : Nat
  /-- Where its scratchpad begins. -/
  spBase : Nat
  /-- Bytes of scratchpad. -/
  spBytes : Nat
  /-- Warps. -/
  nWarps : Nat
  /-- Counts of its rings (R92). -/
  rings  : List Ring := []
  /-- Cluster placement: core and scratchpad base of each of the four (R80, R105). -/
  clp    : Option (List (Nat × Nat)) := none
  /-- Its staging is complete and its warps may issue (R83). -/
  started : Bool := false
  /-- Where its records came from. -/
  provs  : List Prov := []
  /-- Child grids not yet complete (R35). -/
  children : List Nat := []
  /-- A record, or its staging, was poisoned. -/
  poisoned : Bool := false
  deriving DecidableEq, Repr

/-- Where one piece of a copy reads or writes. -/
inductive CLoc where
  | va (a : Nat)
  | sp (core phys : Nat)
  | fill (pat : List Byte)
  | skip
  deriving DecidableEq, Repr

/-- One transfer of a started copy: at most 64 B, within one 64 B granule of any global side; tag, dev: of the packet it waits for,
a WR when wr is set. -/
structure Xfer where
  src : CLoc
  dst : CLoc
  n   : Nat
  done : Bool := false
  tag : Option Nat := none
  dev : Nat := 0
  wr  : Bool := false
  deriving DecidableEq, Repr

/-- A piece of a copy (R420): the warp, the instruction's place and bytes, and the operands read at issue. -/
structure Piece where
  wix  : Nat
  pc   : Nat
  op   : Nat
  empty : Bool
  args : List Nat
  lanesA : List (Nat × Nat) := []
  ib   : List Byte := []
  deriving DecidableEq, Repr

/-- A copy of a copy set (R420, R421), or a group's staging (R85; opc 0x1FF). want: the tag, package and VA of a shape record that a peer has yet
to send; got: the records that peers have sent it; stale: a record it waits for is older than an rcfence (R384); binds: core, slot, warp and generation of
the register windows it writes (R109). -/
structure Copy where
  id     : Nat
  gid    : Nat
  role   : Nat
  index  : Nat
  opc    : Nat
  mods   : Nat
  target : Nat
  cpl    : Cpl
  pieces : List Piece
  started : Bool := false
  discarded : Bool := false
  xfers  : List Xfer := []
  want   : Option (Nat × Nat × Nat) := none
  got    : List (Nat × List Byte) := []
  stale  : Bool := false
  faulted : Option Nat := none
  binds  : List (Nat × Nat × Nat × Nat) := []
  deriving DecidableEq, Repr

/-- A mailbox entry (R264): its kind and its 64 bytes. -/
structure MEntry where
  kind  : BitVec 2
  bytes : List Byte
  wix   : Nat
  gen   : Nat
  deriving DecidableEq, Repr

/-- A fault-buffer entry (R477). -/
structure FEntry where
  idx  : Nat
  rec_ : FRec
  gen  : Nat
  src  : Nat
  who  : Nat
  deriving DecidableEq, Repr

/-- A cached translation of a core (R116): the generation, the page and its leaf. -/
structure TlbE where
  gen  : Nat
  base : Nat
  bits : Nat
  leaf : DWord
  deriving DecidableEq, Repr

/-- A tlbi that has completed on a core (R442): generation, size class, VA, and how many writes to HBM came before it. -/
structure Flush where
  gen : Nat
  cls : Nat
  va  : Nat
  at_ : Nat
  deriving DecidableEq, Repr

/-- The last strong access to a sector as the mixed-size check keeps it (R492). -/
structure MixE where
  sec : Nat
  lo  : Nat
  len : Nat
  who : Agent
  ptb : Nat
  deriving DecidableEq, Repr

/-- Power states of a matrix unit (R413). -/
inductive MxPow where
  | cold | rampup | warm | rampdown
  deriving DecidableEq, Repr

/-- An issue slice (R8, R39). -/
structure Slice where
  /-- Its cycle. -/
  cyc   : Nat := 0
  /-- The cycle at which each unit is free again: control, integer, floating point, special, lane exchange, memory, matrix (R326, R369). -/
  busy  : List Nat := [0, 0, 0, 0, 0, 0, 0]
  /-- Cycles in which the oldest ready warp was passed over (R45). -/
  starv : Nat := 0
  /-- Which warp that is. -/
  starvWix : Option Nat := none
  /-- Power state of the matrix unit (R413). -/
  mx    : MxPow := .cold
  /-- The cycle from which the state counts. -/
  mxAt  : Nat := 0
  /-- A matrix operation or mxhint has asked for power. -/
  mxReq : Bool := false
  /-- The cycle at which the last quarter operation of mma or mmaz ends (R413). -/
  mxUse : Nat := 0
  /-- Accumulator memory that no warp holds, in 32-bit words, 128 to a physical tile (R107). -/
  tiles : SMap 32 := []
  deriving DecidableEq, Repr

/-- Phases of a switch on a core (R192). -/
inductive SwPh where
  | run | halt | drain | save | clock | restore
  deriving DecidableEq, Repr

/-- The slot that a core runs, or switches to (R186, R189, R190, R207): generation and job (0: idle), its SWT, whether it is a pre-emption
slot, whether it drains DIRECT, its clock (0: the current one) and the addresses of the core's vault and park area. -/
structure SlotIn where
  /-- Generation; 0 idle. -/
  gen  : Nat := 0
  /-- Job. -/
  job  : Nat := 0
  /-- SWT. -/
  swt  : Nat := 0
  /-- A pre-emption slot. -/
  pre  : Bool := false
  /-- It drains DIRECT. -/
  direct : Bool := false
  /-- Its clock in MHz; 0 the current one. -/
  aclk : Nat := 0
  /-- Address of the core's vault. -/
  vault : Nat := 0
  /-- Address of the core's park area (R10, R189). -/
  park  : Nat := 0
  deriving DecidableEq, Repr

/-- A core (R8, R13). slot, inc: what it runs and what a switch brings; swAt, phAt: when the switch was signalled and when its step began;
restart: the supervisor warp is to be restarted at the end of the save (R504); aclk: the arithmetic clock in MHz (R17, R200). -/
structure Core where
  /-- Generation it runs; 0 idle (R186). -/
  gen    : Nat := 0
  /-- Its job. -/
  job    : Nat := 0
  /-- Step of a switch (R192). -/
  phase  : SwPh := .run
  /-- The slot it runs. -/
  slot   : SlotIn := {}
  /-- The slot a switch brings. -/
  inc    : SlotIn := {}
  /-- PTB of the signal. -/
  swAt   : Nat := 0
  /-- PTB at which the step began. -/
  phAt   : Nat := 0
  /-- Its supervisor warp restarts at the end of the save (R504). -/
  restart : Bool := false
  /-- Prepared for the incoming slot (R191). -/
  prep   : Bool := false
  /-- Arithmetic clock in MHz (R17, R200). -/
  aclk   : Nat := 1600
  /-- Warps, resident and parked. -/
  warps  : List Warp := []
  /-- Groups. -/
  groups : List Group := []
  /-- Scratchpad, a byte to a key (R13). -/
  sp     : SMap 8 := []
  /-- Listed barrier objects, by offset (R394). -/
  bars   : List Nat := []
  /-- Mailbox (R264). -/
  mbox   : List MEntry := []
  /-- Fault records of its warps that wait for room in the mailbox, in the order of their faults: admission index and record (R458). -/
  heldRecs : List (Nat × FRec) := []
  /-- MBDB (R439). -/
  mbdb   : DWord := 0
  /-- Fault buffer (R477). -/
  fbuf   : List FEntry := []
  /-- Copy engine (R420). -/
  copies : List Copy := []
  /-- The next copy's number. -/
  nextId : Nat := 0
  /-- Record cache: VA and record, newest first (R430). -/
  rcache : List (Nat × List Byte) := []
  /-- Cached translations (R116). -/
  tlb    : List TlbE := []
  /-- Writes to HBM before its caches of table entries were last emptied as a whole (R116, R198). -/
  tlbAt  : Nat := 0
  /-- The tlbi that have completed on it since (R442). -/
  flushes : List Flush := []
  /-- Writes to HBM before its last fro (R142). -/
  roAt   : Nat := 0
  /-- Its four issue slices (R8). -/
  slices : List Slice := [{}, {}, {}, {}]
  deriving DecidableEq, Repr

/-- Monitor states (R121). -/
inductive MonSt where
  | armed | absent | done | deferred
  deriving DecidableEq, Repr

/-- A monitor entry (R121), resident or spilled; an entry here is in use. -/
structure Mon where
  pa    : Nat
  opnd  : DWord
  maskv : DWord
  dline : Nat
  dev   : Nat
  core  : Nat
  wix   : Nat
  gen   : Nat
  cmp   : MCmp
  dw    : Bool
  sc    : Scope
  st    : MonSt
  held  : Bool := false
  /-- The source and PSN of a MON whose registration is deferred: it is acknowledged when it is made (R225). -/
  ack   : Option (Nat × Nat) := none
  spilled : Bool := false
  deriving DecidableEq, Repr

/-- The path that is issuing (R37, R39). -/
structure Cur where
  core  : Nat
  wix   : Nat
  pc    : DWord
  lanes : Mask
  size  : Nat
  ib    : List Byte
  hart  : Option Nat := none
  deriving DecidableEq, Repr

/-- What moves next. -/
inductive Act where
  | slice (core slice : Nat)
  | hart (n : Nat)
  | command
  | packet (p : Packet)
  | occur (i : Instr)
  /-- The CP writes the completion record of a grid that has retired (R258). -/
  | completion (grid : Nat)
  deriving DecidableEq, Repr

/-- An H-die hart (R13, R261). -/
structure Hart where
  pc     : DWord := 0
  x      : List DWord := List.replicate 31 0
  user   : Bool := false
  key    : Nat := 0
  cluitx : DWord := 0
  cluie  : DWord := 0
  clutvec : DWord := 0
  cluepc : DWord := 0
  clupend : DWord := 0
  deriving DecidableEq, Repr

/-- What the package has sent out of itself, newest first: packets and flits to the fabric, interrupts (R260, R261, R460), accesses to host
memory (R276), answers. -/
inductive Out where
  | packet (p : Packet)
  | flit (port : Nat) (f : Flit)
  | errIrq (mask : DWord)
  | msix (vf : Nat) (vec : Nat)
  | userIrq (target : Nat)
  /-- An access to host memory: the function whose requester ID it carries (0 the physical function, n + 1 VF n) and its bus address. -/
  | pcie (fn addr : Nat)
  | note (code : Nat) (arg : Nat)
  deriving DecidableEq, Repr

/-- A registered node (R65, R267): the 256-byte copy, whether NUNREG has marked it, and how many messages of other packages have been
delivered to it (R75). -/
structure NodeReg where
  gen  : Nat
  nid  : Nat
  desc : List Byte
  unreg : Bool := false
  msgs : Nat := 0
  deriving DecidableEq, Repr

/-- A record in a till (R75 to R78): its bytes, its age in ns, whether it lies in the spill area and in which of its 64 B places, its origin, the number that R75
distributes it by, and what its delivery released. -/
structure TRec where
  bytes : List Byte
  age   : Nat := 0
  spilled : Bool := false
  at_   : Nat := 0
  prov  : Prov := {}
  idx   : Nat := 0
  clk   : Clock := []
  deriving DecidableEq, Repr

/-- The till of a node on a die (R75), since when it has been ready, and whether it ranks as NORM (R81). Die 4 holds what has reached the
package while the generation runs nowhere on it (R75, R78). -/
structure Till where
  gen  : Nat
  nid  : Nat
  die  : Nat
  recs : List TRec := []
  ready : Option Nat := none
  promoted : Bool := false
  deriving DecidableEq, Repr

/-- A grid (R34, R35, R258): its deposit page and the deposit's words, or its parent group; records not yet in a group, live groups,
groups launched, STATUS, the PTB at acceptance, and that at retirement while its completion record is still to be written (R449). -/
structure Grid where
  id   : Nat
  gen  : Nat
  page : Option Nat := none
  dep  : List Byte := []
  parent : Option (Nat × Nat) := none
  recs : Nat
  live : Nat := 0
  launched : Nat := 0
  status : Nat := 0
  at_  : Nat := 0
  retired : Option Nat := none
  deriving DecidableEq, Repr

/-- An accepted deposit that is not yet records (R254, R256). -/
structure Dep where
  page : Nat
  data : List Byte
  at_  : Nat
  clk  : Clock := []
  deriving DecidableEq, Repr

/-- What the teller keeps beside an escrow entry (R239, R502): its place in the table, the generation of its thief, the record, whether the
tile waits to return, and whether its thief was cut off and it waits for a fence entry (R528). -/
structure EscRec where
  at_ : Nat
  gen : Nat
  rec_ : List Byte
  back : Bool := false
  cut  : Bool := false
  deriving DecidableEq, Repr

/-- A pre-emption of a standing reservation (R207 to R211): the reservation's set words, T, U once sent, whether the slot is in force,
whether this package accepted the deposit, whether its reservation is withdrawn, and the package that sends its instants. -/
structure Preempt where
  gen  : Nat
  job  : Nat
  t    : Nat
  u    : Option Nat := none
  on   : Bool := false
  mine : Bool := false
  wdr  : Bool := false
  src  : Nat := 0
  deriving DecidableEq, Repr

/-- State of a fabric barrier beside its descriptor (R233 to R237, R530 to R532): the local count, the member's episode on the root,
arrivals waiting on the root (member, PTB), lags of past episodes newest first, members withdrawn or lost, members declared, releases
applied here, and whether the root is lost to this member. -/
structure FBar where
  idx  : Nat
  gen  : Nat := 0
  count : Nat := 0
  arr  : List (Nat × Nat) := []
  epi  : Nat := 0
  lags : List (List (Nat × Nat)) := []
  withdrawn : List Nat := []
  lost : List Nat := []
  declared : List Nat := []
  rels : Nat := 0
  noRoot : Bool := false
  deriving DecidableEq, Repr

/-- A packet sent and not yet acknowledged (R224, R521, R522). -/
structure Sent where
  psn  : Nat
  pkt  : Packet
  first : Nat
  last  : Nat
  deriving DecidableEq, Repr

/-- What a source keeps for one destination (R224, R522); ever: a packet with a PSN has been sent to it since reset, or since it was last
found reachable (R540). -/
structure Dest where
  dst  : Nat
  next : Nat := 0
  ever : Bool := false
  unacked : List Sent := []
  waiting : List Packet := []
  bad  : Bool := false
  noPath : Option Nat := none
  epochAt : Nat := 0
  epochNext : Option Nat := none
  deriving DecidableEq, Repr

/-- What a destination keeps for one source (R224, R522): PSNs performed, blocks with bits not yet reported (block, bits, since when),
the window an EPOCH has set, and by how much it has moved up since. -/
structure Source where
  src  : Nat
  done : List Nat := []
  fresh : List (Nat × Nat × Nat) := []
  low  : Option Nat := none
  slid : Nat := 0
  deriving DecidableEq, Repr

/-- A link port (R217 to R220, R247, R248, R520): totals of the 20 pairs, flits queued for sending, flits of packets not yet whole, the
next pair reported, the next audit group, drain markers, when its state last changed, and the times of the CRC failures of the last 1 ms
(R518). A flit that is queued to go on holds its slot in the receive buffer of the port and pair that it came by (R219). tOut, tIn: the
timestamps of the last clock-class flit at departure and at arrival (R179). -/
structure Port where
  sent : List Nat := List.replicate 20 0
  ret  : List Nat := List.replicate 20 0
  freed : List Nat := List.replicate 20 0
  rcvd : List Nat := List.replicate 20 0
  queue : List (Nat × Flit × Option (Nat × Nat)) := []
  rx   : List (Nat × List Byte × Nat) := []
  ridx : Nat := 0
  audit : Nat := 0
  marked : Bool := false
  farMarked : Bool := false
  at_  : Nat := 0
  crcs : List Nat := []
  tOut : Nat := 0
  tIn  : Nat := 0
  deriving DecidableEq, Repr

/-- A phase word at a peer page that the CP reads and then writes (R548): tag of the packet on its way, package, generation, PA, STATUS, scope,
and the step: 0 waits for the write of an earlier episode, 1 reads, 2 writes. -/
structure CpRead where
  tag  : Nat
  dst  : Nat
  gen  : Nat
  pa   : Nat
  status : Nat
  sc   : Scope
  step : Nat
  deriving DecidableEq, Repr

/-- What the CP or the teller does when a packet of its own is acknowledged: send the next (R259), after which an interrupt may follow (R260:
page, DCOOK, DSEQ), deliver that interrupt, or free an escrow entry (R240). -/
inductive Next where
  | send (p : Packet) (irq : Option (Nat × Nat × Nat))
  | irq (page cook seq : Nat)
  | escrow (at_ : Nat)
  deriving DecidableEq, Repr

/-- A read that the CP has sent for part k of a descriptor at a peer page (R65): its data, or bad when it was poisoned or abandoned. -/
structure CmdRead where
  tag  : Nat
  dst  : Nat
  k    : Nat
  data : Option (List Byte) := none
  bad  : Bool := false
  deriving DecidableEq, Repr

/-- A context saved in a vault (R197, R202), by the physical addresses of the vault and of the core's park area; the layout below the field level is the device's own.
splog: the writes to its scratchpad. -/
structure Vault where
  pa   : Nat
  park : Nat := 0
  core : Nat
  gen  : Nat
  job  : Nat
  warps : List Warp
  groups : List Group
  sp   : SMap 8
  bars : List Nat
  mbox : List MEntry
  heldRecs : List (Nat × FRec) := []
  copies : List Copy
  splog : List WRec := []
  deriving DecidableEq, Repr

/-- Discipline of the PTB (R179, R180, R506, R507): rate in ppm, exchanges in and out of bounds in a row, the last exchange, holdover since
when, whether its 100 ms record was made, whether a lock was ever reached, the path delay to the parent, and when the parent was last asked. -/
structure Ptp where
  rate : Int := 0
  ok   : Nat := 0
  bad  : Nat := 0
  last : Nat := 0
  hold : Option Nat := none
  said : Bool := false
  ever : Bool := false
  delay : Nat := 0
  asked : Nat := 0
  deriving DecidableEq, Repr

/-- What the fuses fix of a part (R8, R11, R21 to R28): stepping, the physical numbers of the enabled cores in ascending order, the
enabled slices and their number, H-die cores, lanes of the local links, global ports, and the fewest wavelengths of one. -/
structure Part where
  step   : Nat
  phys   : List Nat
  chanEn : Nat
  chans  : Nat
  hcores : Nat
  llanes : List Byte
  gports : Nat
  wlmin  : Nat
  deriving DecidableEq, Repr

/-- A full part of stepping 0: the last of the 21 clusters of each C-die is the disabled one. Log entry 6. -/
def fullPart : Part :=
  { step := 0, phys := (List.range 4).flatMap (fun d => (List.range 80).map (fun i => 84 * d + i)), chanEn := 2 ^ 512 - 1, chans := 512
    hcores := 64, llanes := List.replicate 31 0xFF, gports := 2 ^ 64 - 1, wlmin := 128 }

/-- The package. undo: for every write to local HBM, newest first, where it wrote and what stood there, so that a read through the
read-only path can take an older value (R142); roAt of a core counts the writes before its last fro. -/
structure State where
  /-- What the fuses fix (R21, R28). -/
  part   : Part := fullPart
  /-- Device ID (R18). -/
  dev    : Nat := 0
  /-- PTB in ns (R177). -/
  ptb    : Nat := 0
  /-- The PTB's fraction, in units of 2^-16 ns (R177). -/
  ptbFrac : Nat := 0
  /-- Bring-up is done (R280). -/
  booted : Bool := false
  /-- The CP firmware has failed its verification and does not run (R280). -/
  noCp   : Bool := false
  /-- Shatus has failed its verification and does not run (R280). -/
  noShatus : Bool := false
  /-- Root of Shatus's translation tree (R263). -/
  supRoot : Nat := 0
  /-- Where a supervisor warp starts (R504). -/
  supEntry : DWord := 0
  /-- The CP register space: each 8-byte word by its offset / 8 (R269). -/
  cp     : SMap 64 := []
  /-- Local HBM, by location (R110). -/
  mem    : List Host.Cell := []
  /-- For a sector, the draw of the key that wrote it; 0 none (R111). -/
  keyTag : SMap 64 := []
  /-- Poisoned sectors (R495). -/
  poison : List Nat := []
  /-- L2 slices and pseudo-channel pairs that have failed in service, by home slice (R537). -/
  badSl  : List Nat := []
  /-- The last strong accesses to sectors whose key has the mixed-size check on (R492). -/
  strong : List MixE := []
  /-- Earlier contents of local HBM, for R142 and R116. -/
  undo   : List (Nat × List Byte) := []
  /-- Host memory, by bus address (R115). -/
  hostMem : List Host.Cell := []
  /-- Loaded keys: key ID and draw (R277). -/
  keys   : List (Nat × Nat) := []
  /-- Keys drawn. -/
  draws  : Nat := 0
  /-- Monitor entries (R121). -/
  mons   : List Mon := []
  /-- Cores (R8). -/
  cores  : List Core := List.replicate 320 {}
  /-- H-die harts (R13). -/
  harts  : List Hart := List.replicate 64 {}
  /-- When each record that is made at most once in 1 ms was last made. -/
  rate   : List (Nat × Nat) := []
  /-- What has left the package, newest first. -/
  outs   : List Out := []
  /-- Registered nodes (R65). -/
  nodes  : List NodeReg := []
  /-- Tills (R75). -/
  tills  : List Till := []
  /-- Grids (R34). -/
  grids  : List Grid := []
  /-- Instance counter (R74). -/
  inst   : Nat := 0
  /-- The next grid's number. -/
  gridNo : Nat := 0
  /-- Deposit queue (R254). -/
  depQ   : List Dep := []
  /-- Accepted timetable entries (R184). -/
  table  : List (List Byte) := []
  /-- Pre-emptions (R207). -/
  preempt : List Preempt := []
  /-- Fabric-barrier packets held for a generation that does not run (R196). -/
  held   : List (Nat × Packet) := []
  /-- Arrivals at grid barriers: generation, entry, count (R396). -/
  gbCount : List (Nat × Nat × Nat) := []
  /-- Fabric barriers (R233). -/
  fbars  : List FBar := []
  /-- User interrupts that wait (R261): target, COOK, SEQ. -/
  uirqs  : List (Nat × Nat × Nat) := []
  /-- What the teller keeps beside escrow entries (R239). -/
  esc    : List EscRec := []
  /-- Aborted generations (R500). -/
  aborted : List Nat := []
  /-- Generations whose spill pressure has been reported (R486). -/
  spillSaid : List Nat := []
  /-- Destinations (R224). -/
  dests  : List Dest := []
  /-- Sources (R224). -/
  srcs   : List Source := []
  /-- 31 local and 64 global ports (R213). -/
  ports  : List Port := List.replicate 95 {}
  /-- The next packet tag. -/
  tag    : Nat := 0
  /-- The CP's reads of phase words at peers (R548). -/
  cpReads : List CpRead := []
  /-- Adds to doorbell words in the on-chip map that are still to be made: core and offset (R439). -/
  bells  : List (Nat × Nat) := []
  /-- What follows the acknowledgement of a packet of the CP or the teller: destination, tag, what (R240, R259). -/
  after  : List (Nat × Nat × Next) := []
  /-- Its reads of descriptors at peers (R65). -/
  cmdReads : List CmdRead := []
  /-- Saved contexts (R197). -/
  vaults : List Vault := []
  /-- M0 to M7 (R281). -/
  meas   : List (List Byte) := List.replicate 8 (List.replicate 64 0)
  /-- The certificate of the attestation key (R285). -/
  cert   : List Byte := []
  /-- Times of corrected errors by sector (R494). -/
  hist   : List (Nat × List Nat) := []
  /-- Hot-page counters: generation, page, device, count (R288). -/
  hot    : List (Nat × Nat × Nat × Nat) := []
  /-- Discipline of the PTB. -/
  ptp    : Ptp := {}
  /-- Neighbours that an exchange has been made with, and the hops to the root that each announced (R179). -/
  nbrs   : List (Nat × Nat) := []
  /-- The package whose H-die is scheduler peer (R183). -/
  peer   : Option Nat := none
  /-- PTB at which the hot-page epoch began (R288). -/
  hotAt  : Nat := 0
  /-- Patrol position of each slice (R286). -/
  patrol : List (Nat × Nat) := []
  /-- The model's own: what moves next, and the ns before it (log entry 1). -/
  agenda : List (Nat × Act) := []
  /-- The model's own: the path that issues. -/
  cur    : Option Cur := none
  /-- The model's own: the last issue completed. -/
  issued : Bool := false
  /-- The model's own: a fault met on the way. -/
  stop   : Option Fault := none
  /-- The model's own: whose turn an empty agenda gives (log entry 1). -/
  rr     : Nat := 0
  /-- The model's own: the counter of free values (log entry 3). -/
  fresh  : Nat := 0
  /-- Happens-before (R132). -/
  hb     : HB := { clus := fullPart.phys.map (· / 4) }
  deriving DecidableEq, Repr

/-- The machine right after package reset (chapters 01, 06, 08): nothing runs until bring-up (R280). Log entry 5. Log entry 7. -/
def State.reset : State := {}

end Sys2Proof.Machine
end

