-- ==== Sys2Proof/Machine/Ops.lean ====
section
/-! DEFINITION. The named operations over the state: cores and warps, the CP register space, keys and memory, happens-before,
translation, fault records and their two paths, taking an instruction's fault and returning from it. -/

namespace Sys2Proof.Machine

/-! ### Cores, warps, groups -/

def State.core (s : State) (c : Nat) : Core := s.cores.getD c {}
def State.updCore (s : State) (c : Nat) (f : Core → Core) : State := { s with cores := modNth s.cores c f }

def emptyWarp : Warp := { wix := 0, gid := 0, warp := 0, vBud := 0, wBud := 0, aBud := 0, pcs := [], preds := [] }

/-- Admission index under which the supervisor warp is held in a core's list (it has none of its own). -/
def supWix : Nat := 256

def Core.warp? (c : Core) (wix : Nat) : Option Warp := c.warps.find? (fun w => w.wix == wix)
def State.warp (s : State) (c wix : Nat) : Warp := ((s.core c).warp? wix).getD emptyWarp
def Core.updWarp (c : Core) (wix : Nat) (f : Warp → Warp) : Core :=
  { c with warps := c.warps.map (fun w => if w.wix == wix then f w else w) }
def State.updWarp (s : State) (c wix : Nat) (f : Warp → Warp) : State := s.updCore c (fun k => k.updWarp wix f)

def Core.group? (c : Core) (gid : Nat) : Option Group := c.groups.find? (fun g => g.gid == gid)
def emptyGroup : Group :=
  { gid := 0, gen := 0, nid := 0, desc := [], depth := 0, recs := [], launch := 0, spBase := 0, spBytes := 0, nWarps := 0 }
def State.group (s : State) (c gid : Nat) : Group := ((s.core c).group? gid).getD emptyGroup
def State.updGroup (s : State) (c gid : Nat) (f : Group → Group) : State :=
  s.updCore c (fun k => { k with groups := k.groups.map (fun g => if g.gid == gid then f g else g) })

/-- A doubleword of the registered descriptor of a group (R66). -/
def Group.dw (g : Group) (off : Nat) : Nat := leVal ((g.desc.drop off).take 8)

/-! ### Free values (log entry 3) -/

def State.tick (s : State) : State := { s with fresh := s.fresh + 1 }

/-- n free bytes, and the state in which their numbers are used up. -/
def State.freeBytes (s : State) (n : Nat) : List Byte × State :=
  ((List.range n).map (fun k => Config.freeByte (s.fresh + k)), { s with fresh := s.fresh + n })

/-- A free choice among k alternatives. -/
def State.choose (s : State) (k : Nat) : Nat × State := (Config.freeChoice s.fresh % (max k 1), s.tick)

/-! ### The CP register space (R269, R270) -/

def State.cpw (s : State) (off : Nat) : Nat := (s.cp.get (off / 8)).toNat
def State.setCpw (s : State) (off v : Nat) : State := { s with cp := s.cp.set (off / 8) (BitVec.ofNat 64 v) }

def oPTBSTAT : Nat := 0x1000000
def oPTPCFG  : Nat := 0x1000008
def oGRTSEL  : Nat := 0x1000010
def oPSETB   : Nat := 0x1000018
def oERCFG   : Nat := 0x1000020
def oERPOS   : Nat := 0x1000028
def oERLOST  : Nat := 0x1000030
def oERIMASK : Nat := 0x1000038
def oMSPCFG  : Nat := 0x1000040
def oCMDCFG  : Nat := 0x1000048
def oCMDPOS  : Nat := 0x1000050
def oHPCFG   : Nat := 0x1000058
def oHPPCFG  : Nat := 0x1000060
def oHPPPOS  : Nat := 0x1000068
def oHPNCFG  : Nat := 0x1000070
def oHPNPOS  : Nat := 0x1000078
def oPATCFG  : Nat := 0x1000080
def oMSCHK   : Nat := 0x10000A0
def oDPCFG   : Nat := 0x1010000
def oPARTCFG : Nat := 0x1018000
def oGPCTL   : Nat := 0x1018800
def oGPSTAT  : Nat := 0x1018A00
def oLLSTAT  : Nat := 0x1018C00
def oFNCE    : Nat := 0x1018D00
def oCKPT    : Nat := 0x1019000
def oGRT0    : Nat := 0x1020000
def oGRT1    : Nat := 0x1022000
def oCSET    : Nat := 0x1024000
def oFBAR    : Nat := 0x1028000
def oTSPILL  : Nat := 0x102C000
def oUITCFG  : Nat := 0x1030000
def oGTAB    : Nat := 0x1038000
def oDQ      : Nat := 0x1048000
def oESC     : Nat := 0x1048800

/-- The window offset of the valid generation-table entry of a generation (R271). -/
def State.genEntry (s : State) (gen : Nat) : Option Nat :=
  if gen = 0 then none
  else ((List.range 1024).map (fun i => oGTAB + 64 * i)).find? (fun o =>
    let w := s.cpw o
    w % 2 == 1 && fld w 63 48 == gen)

/-- The partition of a generation (R271, R274); 0 without an entry. -/
def State.partOf (s : State) (gen : Nat) : Nat :=
  match s.genEntry gen with
  | some o => fld (s.cpw o) 47 40
  | none => 0

/-! ### Keys and physical memory (R110, R111, R495, R498) -/

/-- The draw under which a key ID is loaded (R277). -/
def State.keyDraw (s : State) (k : Nat) : Option Nat := (s.keys.find? (fun p => p.1 == k)).map Prod.snd

def keyOf (pa : Nat) : Nat := fld pa 55 48
def locOf (pa : Nat) : Nat := pa % 2 ^ 48

/-- The location exists (R110). -/
def State.locExists (s : State) (loc : Nat) : Bool := loc / 256 < s.part.chans * Config.linesPerChan

/-- Home slice of a location, counted among the enabled ones (R110). -/
def State.homeSlice (s : State) (loc : Nat) : Nat := loc / 256 % s.part.chans

/-- The index in CHAN_EN of the k-th enabled slice (R22, R110). -/
def State.sliceIndex (s : State) (k : Nat) : Nat :=
  if s.part.chans = 512 then k else ((List.range 512).filter (fun i => s.part.chanEn.testBit i)).getD k 0

/-- Logical cores (R11), the C-die of one, and its logical cluster. -/
def State.nCores (s : State) : Nat := s.part.phys.length
def State.dieOf (s : State) (c : Nat) : Nat := s.part.phys.getD c 0 / 84
def State.clusterOf (s : State) (c : Nat) : Nat :=
  (distinct ((s.part.phys.take (c + 1)).map (fun p => p / 4))).length - 1

/-- The 64 bytes of a sector as it was written. -/
def State.sector (s : State) (sec : Nat) : List Byte := SMap.getN s.mem 64 (64 * sec)

/-- The bytes of a sector as a read under the draw d sees them (R111; log entry 14). -/
def State.sectorAs (s : State) (d sec : Nat) : List Byte :=
  let tag := (s.keyTag.get sec).toNat
  let plain := s.sector sec
  if tag = 0 || tag = d then plain
  else (List.range 64).map (fun i => Config.recrypt tag d sec plain i)

/-- n bytes at a physical address of local HBM, within one sector. An unloaded key reads zero (R498). -/
def State.peek (s : State) (pa n : Nat) : List Byte :=
  match s.keyDraw (keyOf pa) with
  | none => List.replicate n 0
  | some d =>
    let loc := locOf pa
    let tag := (s.keyTag.get (loc / 64)).toNat
    if tag = 0 || tag = d then SMap.getN s.mem n loc
    else ((s.sectorAs d (loc / 64)).drop (loc % 64)).take n

/-- The sector is poisoned (R495), or lies in a slice or pair that has failed in service (R537). -/
def State.poisoned (s : State) (pa : Nat) : Bool := s.poison.contains (locOf pa / 64) || s.badSl.contains (s.homeSlice (locOf pa))

/-- A model fault, the first of a step. -/
def State.halt (s : State) (f : Fault) : State := { s with stop := s.stop.or (some f) }

/-- Stop the model on an access to a location that does not exist (R110; log entry 26). -/
def State.touch (s : State) (pa : Nat) : State := if s.locExists (locOf pa) then s else s.halt (.noLocation pa)

/-- Write bytes (none: not written) within one sector, and nothing else: no monitor, no record. A partial write under a key other
than the sector's first takes the sector as this key reads it (R111); a write of all 64 bytes clears a poison mark (R495). -/
def State.pokeRaw (s : State) (d loc : Nat) (bs : List (Option Byte)) : State :=
  let sec := loc / 64
  let tag := (s.keyTag.get sec).toNat
  let m0 := if tag = 0 || tag = d then s.mem else SMap.setN s.mem (64 * sec) (s.sectorAs d sec)
  let full := bs.length == 64 && bs.all Option.isSome
  let old := if tag = 0 || tag = d then (loc, SMap.getN s.mem bs.length loc) else (64 * sec, SMap.getN s.mem 64 (64 * sec))
  { s with
    undo := old :: s.undo
    mem := SMap.setIf m0 loc bs
    keyTag := s.keyTag.set sec (BitVec.ofNat 64 d)
    poison := if full then s.poison.filter (· != sec) else s.poison }

/-- What stood at n bytes of local HBM since the first k writes to it, newest first, without what stands there now; nothing for a sector
that another key has written. -/
def State.past (s : State) (k pa n : Nat) : List (List Byte) :=
  let loc := locOf pa
  if some (s.keyTag.get (loc / 64)).toNat != s.keyDraw (keyOf pa) then []
  else
    ((s.undo.take (s.undo.length - k)).foldl (fun (a : List Byte × List (List Byte)) u =>
      if u.1 < loc + n && loc < u.1 + u.2.length then
        let v := (List.range n).map (fun i => if u.1 ≤ loc + i && loc + i < u.1 + u.2.length then u.2.getD (loc + i - u.1) 0 else a.1.getD i 0)
        (v, a.2 ++ [v])
      else a) (s.peek pa n, [])).2

/-! ### Scopes and happens-before (R129 to R136; log entries 8, 9) -/

def Agent.core? : Agent → Option Nat
  | .warp c _ | .unit c _ | .engine c _ | .stage c _ | .away _ c _ _ => some c
  | _ => none

/-- An agent of a core while its generation is switched out. -/
def Agent.out (gen : Nat) : Agent → Agent
  | .warp c w => .away gen c 0 w
  | .unit c w => .away gen c 1 w
  | .engine c i => .away gen c 2 i
  | .stage c g => .away gen c 3 g
  | a => a

/-- The agent of a core that a switched-out one of a generation is when it is back. -/
def Agent.back (gen core : Nat) : Agent → Option Agent
  | .away g c k i => if g = gen && c = core then some (match k with | 0 => .warp c i | 1 => .unit c i | 2 => .engine c i | _ => .stage c i) else none
  | _ => none

/-- The warp that a matrix unit works for; any other agent is its own. Accesses of one owner are ordered where they overlap (R131). -/
def Agent.owner : Agent → Agent
  | .unit c w | .away _ c 0 w | .away _ c 1 w => .warp c w
  | .away _ c 2 i => .engine c i
  | .away _ c _ g => .stage c g
  | a => a

/-- The scope instance of a at sc contains b (R129). -/
def HB.inScope (h : HB) (sc : Scope) (a b : Agent) : Bool :=
  if a.owner == b.owner then true
  else
    match sc with
    | .wp => false
    | .co => match a.core?, b.core? with | some x, some y => x == y | _, _ => false
    | .cl => match a.core?, b.core? with | some x, some y => h.clus.getD x 0 == h.clus.getD y 0 | _, _ => false
    | .dv => match a, b with | .host, _ | _, .host | .remote _, _ | _, .remote _ => false | _, _ => true
    | .sy => true

def HB.mutualScope (h : HB) (s1 : Scope) (a : Agent) (s2 : Scope) (b : Agent) : Bool := h.inScope s1 a b && h.inScope s2 b a

def HB.of (h : HB) (a : Agent) : Know := (h.know.find? (fun k => k.who == a)).getD { who := a }
def HB.put (h : HB) (k : Know) : HB :=
  if h.know.any (fun x => x.who == k.who) then { h with know := h.know.map (fun x => if x.who == k.who then k else x) }
  else { h with know := k :: h.know }

def Clock.get (c : Clock) (a : Agent) : Nat := ((c.find? (fun p => p.1 == a)).map Prod.snd).getD 0
def Clock.put (c : Clock) (a : Agent) (n : Nat) : Clock :=
  if c.any (fun p => p.1 == a) then c.map (fun p => if p.1 == a then (a, max n p.2) else p) else (a, n) :: c
def Clock.join (c d : Clock) : Clock := d.foldl (fun k p => k.put p.1 p.2) c

def Acc.weak (a : Agent) : Acc := { who := a }

/-- The access of the order and scope of an instruction. -/
def Acc.of (a : Agent) (o : Ord) (sc : Scope) (pr : Bool := false) : Acc :=
  { who := a, strong := o != .weak, sc := sc, acq := o == .acq || o == .ar, rel := o == .rel || o == .ar, pr := pr }

def WRec.overlaps (r : WRec) (lo n : Nat) : Bool := r.lo < lo + n && lo < r.lo + r.len

def WRec.inside (r : WRec) (lo n : Nat) : Bool := lo ≤ r.lo && r.lo + r.len ≤ lo + n

/-- The releases of b that a has synchronised with: another package may have acquired what was released to any (log entry 85); the matrix
unit follows the issue of the warp (R401). -/
def HB.seen (h : HB) (a b : Agent) : Nat :=
  match a with
  | .remote _ => max ((h.of a).clk.get b) (h.far.get b)
  | .unit c w => max ((h.of a).clk.get b) ((h.of (.warp c w)).clk.get b)
  | _ => (h.of a).clk.get b

/-- The earlier access r does not happen before an access by a (R131, R132). -/
def HB.unordered (h : HB) (a : Agent) (r : WRec) : Bool := r.who.owner != a.owner && h.seen a r.who ≤ r.ep

/-- The scope of a release at .co as a promoted acquire takes it (R136). -/
def Acc.promotes (ac : Acc) (sc : Scope) : Scope := if ac.pr && sc == .co then .dv else sc

/-- Both are strong and mutually in scope; a promoted acquire takes a release at .co as one at .dv (R134, R136). Operations on a barrier
object take their steps one after the other (R390, R395). -/
def HB.strongWith (h : HB) (ac : Acc) (r : WRec) : Bool :=
  (ac.bar && r.bar) || ac.strong && r.strong && h.mutualScope ac.sc ac.who (if r.rel then ac.promotes r.sc else r.sc) r.who

/-- The access races with the earlier write (R134). -/
def HB.races (h : HB) (ac : Acc) (r : WRec) : Bool := h.unordered ac.who r && !h.strongWith ac r

/-- Both are strong, they do not coincide, and neither happens before the other (R141). -/
def HB.mixes (h : HB) (ac : Acc) (lo n : Nat) (r : WRec) : Bool :=
  ac.strong && r.strong && ac.sized && r.sized && !(r.lo == lo && r.len == n) && h.unordered ac.who r

/-- The bytes of lo to lo + n − 1 that some access of a list touches. -/
def touched (lo n : Nat) (rs : List WRec) : List Bool :=
  (List.range n).map (fun i => rs.any (fun r => r.lo ≤ lo + i && lo + i < r.lo + r.len))

/-- The bytes of an access that another strong access of a different extent leaves undefined (R141). -/
def HB.mixed (h : HB) (ac : Acc) (lo n : Nat) : List Bool :=
  touched lo n ((h.wlog ++ h.rlog).filter (fun r => r.overlaps lo n && h.mixes ac lo n r))

/-- The bytes of an access that an earlier write races with, or that R141 leaves undefined. -/
def HB.raced (h : HB) (ac : Acc) (lo n : Nat) : List Bool :=
  let rs := h.wlog.filter (fun r => r.overlaps lo n && h.races ac r)
  (touched lo n rs).zipWith (fun a b => a || b) (h.mixed ac lo n)

/-- A release that the access may synchronise with; .pr widens a release at .co to the package (R136). -/
def HB.reaches (h : HB) (m : Msg) (ac : Acc) : Bool :=
  (ac.bar || !m.bar) && h.mutualScope (ac.promotes m.sc) m.who (if m.bar then .cl else ac.sc) ac.who

/-- What a strong read learns from releases: an acquire joins what they carry, a relaxed read keeps them for a fence (R130, R132). -/
def HB.hear (h : HB) (k : Know) (ac : Acc) (ms : List Msg) : Know :=
  let k1 : Know :=
    if ac.acq then ms.foldl (fun (k : Know) m => if h.reaches m ac then { k with clk := k.clk.join m.clk } else k) k else k
  { k1 with pend := ms ++ k1.pend }

/-- What a promoted acquire joins: the releases at .co of the warps of each other core, up to one that wrote the location (R136). -/
def HB.promoted (h : HB) (ac : Acc) (lo n : Nat) (k : Know) : Know :=
  if ac.acq && ac.pr then
    (h.colog.filter (fun r => r.lo < lo + n && lo < r.lo + r.len && some r.core != ac.who.core?)).foldl
      (fun (k : Know) r => { k with clk := k.clk.join r.clk }) k
  else k

/-- Note a strong read (R141). -/
def HB.noteRead (h : HB) (ac : Acc) (lo n : Nat) : HB :=
  { h with rlog := { lo := lo, len := n, who := ac.who, ep := (h.of ac.who).rel, strong := true, sc := ac.sc, sized := ac.sized } :: h.rlog.filter (fun r => !(r.who == ac.who && r.lo == lo && r.len == n)) }

/-- What a strong read learns. -/
def HB.learn (h : HB) (ac : Acc) (lo n : Nat) : HB :=
  if !ac.strong then h
  else
    let ms := (h.wlog.filter (fun r => r.overlaps lo n)).flatMap WRec.msgs
    (h.put (h.hear (h.promoted ac lo n (h.of ac.who)) ac ms)).noteRead ac lo n

/-- What the packages that have written here have released, for an access that one of them answers: it may have read any of their
writes (log entry 85). -/
def HB.farMsgs (h : HB) : List Msg :=
  h.know.filterMap (fun k => match k.who with | .remote d => some { sc := .sy, who := .remote d, clk := k.clk.put (.remote d) k.rel } | _ => none)

/-- The release that a write by this agent is, if it is one: by its own order, or by an earlier release fence. A release at .wp has no
other agent in scope; an arrival at a barrier object reaches those that observe its phase in any case (R395). -/
def HB.release (h : HB) (ac : Acc) : HB × List Msg :=
  let k := h.of ac.who
  let scs := ((if ac.strong && ac.rel then [ac.sc] else []) ++ (match k.fence with | some f => if ac.strong then [f] else [] | none => [])).filter
    (· != .wp)
  let bar := ac.bar && ac.rel
  if scs.isEmpty && !bar then (h, [])
  else
    let n := k.rel + 1
    let clk := k.clk.put ac.who n
    (h.put { k with rel := n, clk := clk, co := if scs.contains .co then k.co.join clk else k.co, out := if scs.all (· == .co) then k.out else n },
      scs.map (fun sc => { sc := sc, who := ac.who, clk := clk }) ++ (if bar then [{ sc := .cl, who := ac.who, clk := clk, bar := true }] else []))

/-- Note a release at .co with those that precede it in its core (R136). -/
def HB.noteCo (h : HB) (ac : Acc) (lo n : Nat) (ms : List Msg) : HB :=
  match ac.who.core? with
  | some c =>
    if ms.any (fun m => m.sc == .co) then
      let clk := (h.know.filter (fun k => k.who.core? == some c)).foldl (fun (a : Clock) k => a.join k.co) []
      { h with colog := ⟨lo, n, c, clk⟩ :: h.colog.filter (fun r => !(r.core == c && lo ≤ r.lo && r.lo + r.len ≤ lo + n)) }
    else h
  | none => h

/-- After the write w an earlier write within its range is no longer needed: whoever races with it races with w as well. -/
def HB.hidden (h : HB) (w r : WRec) : Bool :=
  !h.unordered w.who r && (!w.strong || (r.strong && r.sc == w.sc && r.lo == w.lo && r.len == w.len))

/-- Note a write with what it carries: it heads a release sequence, or continues the ones it modifies (rmw). What it overwrites can be read
no more, but may still be in a race (R134). -/
def HB.writeWith (h : HB) (ac : Acc) (lo n : Nat) (rmw : Bool) (ep : Nat) (ms : List Msg) : HB :=
  let old := if rmw then (h.wlog.filter (fun r => r.overlaps lo n)).flatMap WRec.msgs else []
  let w : WRec := { lo := lo, len := n, who := ac.who, ep := ep, strong := ac.strong, sc := ac.sc, msgs := ms ++ old, rel := !ms.isEmpty, sized := ac.sized
                    bar := ac.bar, l1 := ac.l1 && (!ac.strong || rmw || ac.sc == .wp || ac.sc == .co) }
  let keep := h.wlog.filterMap (fun r =>
    if r.inside lo n then (if h.hidden w r then none else some { r with msgs := [] }) else some r)
  ({ h with wlog := w :: keep } : HB).noteCo ac lo n ms

/-- Note a write. -/
def HB.write (h : HB) (ac : Acc) (lo n : Nat) (rmw : Bool) : HB :=
  let ep := (h.of ac.who).rel
  let (h1, ms) := h.release ac
  h1.writeWith ac lo n rmw ep ms

/-- A write to the memory of a peer, which its package may show to any (R132; log entry 85). -/
def HB.farWrite (h : HB) (ac : Acc) (key n : Nat) (rmw : Bool) : HB :=
  let ep := (h.of ac.who).rel
  let (h1, ms) := h.release ac
  { (h1.writeWith ac key n rmw ep ms) with far := (ms.filter (fun m => m.sc == .sy)).foldl (fun (c : Clock) m => c.join m.clk) h1.far }

/-- A later strong write of the agent is a release (R130). -/
def HB.fenced (h : HB) (a : Agent) : Bool := (h.of a).fence.isSome

/-- A fence (R130, R382): an acquire fence turns earlier relaxed reads into acquires at its scope; a release fence makes later strong
writes releases at its scope. -/
def HB.fence (h : HB) (a : Agent) (o : Ord) (sc : Scope) : HB :=
  let k := h.of a
  let k1 : Know :=
    if o == .acq || o == .ar then
      k.pend.foldl (fun (k : Know) m => if h.mutualScope m.sc m.who sc a then { k with clk := k.clk.join m.clk } else k) k
    else k
  h.put (if o == .rel || o == .ar then { k1 with fence := some (match k1.fence with | some f => if f.code.toNat < sc.code.toNat then sc else f | none => sc) } else k1)

/-- A release by an agent, and what it carries. -/
def HB.stamp (h : HB) (a : Agent) : HB × Clock :=
  let k := h.of a
  let n := k.rel + 1
  (h.put { k with rel := n, out := n }, k.clk.put a n)

/-- A release at .sy to another package, which may show it to any (R132; log entry 85). -/
def HB.farStamp (h : HB) (a : Agent) : HB :=
  let (h1, k) := h.stamp a
  { h1 with far := h1.far.join k }

/-- b learns everything a has done so far (a completion event, R132, R138; a launch, R86). -/
def HB.pass (h : HB) (a b : Agent) : HB :=
  let k := h.of a
  let n := k.rel + 1
  let h1 := h.put { k with rel := n, out := match b with | .stage _ _ => k.out | _ => n }
  let kb := h1.of b
  h1.put { kb with clk := (kb.clk.join k.clk).put a n }

/-- Keys of the locations in the logs: local HBM as it is, host memory, scratchpads, the on-chip memory and the memory of a peer. -/
def hbHost (a : Nat) : Nat := 2 ^ 50 + a
def hbSp (core phys : Nat) : Nat := 2 ^ 52 + 2 ^ 20 * core + phys
def hbOcm (o : Nat) : Nat := 2 ^ 54 + o
def hbPeer (dev pa : Nat) : Nat := 2 ^ 64 + 2 ^ 48 * dev + locOf pa

/-- Writes to locations lo to lo + n − 1 that lie wholly within them. -/
def HB.within (h : HB) (lo n : Nat) : List WRec := h.wlog.filter (fun r => r.inside lo n)

/-- The locations are allocated afresh: no earlier access to them is in a race with a new holder's accesses. -/
def HB.forget (h : HB) (lo n : Nat) : HB :=
  { h with
    wlog := h.wlog.filter (fun r => !r.inside lo n), rlog := h.rlog.filter (fun r => !r.inside lo n)
    colog := h.colog.filter (fun r => !(lo ≤ r.lo && r.lo + r.len ≤ lo + n)) }

/-- The write may stand in the L1 of one of some cores alone: its warp has released nothing beyond the core since (R117, R119). -/
def HB.inL1 (h : HB) (on : Nat → Bool) (r : WRec) : Bool :=
  r.l1 && decide (r.lo + r.len ≤ 2 ^ 48) && (match r.who with | .warp c _ => on c | _ => false) && decide ((h.of r.who).out ≤ r.ep)

/-- The agents of a core but its supervisor warp leave with their generation and keep what they know; who takes their place here knows
nothing yet, and its releases are numbered on. The save writes back what the L1 holds (R197, R278). -/
def HB.depart (h : HB) (gen c : Nat) : HB :=
  { h with
    wlog := h.wlog.map (fun r => if r.who.core? == some c then { r with l1 := false } else r)
    know := (h.know.filter (fun k => (k.who.back gen c).isNone)).flatMap (fun k =>
      if k.who.core? == some c && k.who != .warp c supWix && k.who.out gen != k.who then [{ k with who := k.who.out gen }, { who := k.who, rel := k.rel, out := k.rel }]
      else [k]) }

/-- The agents of a generation are back on their core with what they know by now (R126, R539). -/
def HB.recall (h : HB) (gen c : Nat) : HB :=
  let back := h.know.filterMap (fun k => (k.who.back gen c).map (fun a => { k with who := a, rel := max k.rel (h.of a).rel : Know }))
  { h with know := back ++ h.know.filter (fun k => (k.who.back gen c).isNone && !back.any (fun b => b.who == k.who)) }

/-- The agent as whom a warp, a copy or a staging of a generation acts: here, or while it is switched out. -/
def State.actor (s : State) (gen : Nat) (a : Agent) : Agent :=
  match a with
  | .warp c w => if w = supWix || (s.core c).gen == gen then a else a.out gen
  | .unit c _ | .engine c _ | .stage c _ => if (s.core c).gen == gen then a else a.out gen
  | _ => a

/-- The value read when some bytes are in a race: those are free (R134, R141). -/
def State.raceRead (s : State) (ac : Acc) (lo : Nat) (bs : List Byte) : List Byte × State :=
  let rc := s.hb.raced ac lo bs.length
  let s1 := { s with hb := s.hb.learn ac lo bs.length }
  if rc.any id then
    let (fs, s2) := s1.freeBytes bs.length
    ((bs.zip (rc.zip fs)).map (fun p => if p.2.1 then p.2.2 else p.1), s2)
  else (bs, s1)

/-- The bytes a write leaves when it races with an earlier one: in each raced byte, one of the two values, or any value where R141 leaves
it undefined (R134, R141). -/
def State.raceWrite (s : State) (ac : Acc) (lo : Nat) (old : List Byte) (new : List (Option Byte)) : List (Option Byte) × State :=
  let rc := s.hb.raced ac lo new.length
  if rc.any id then
    let mixed := s.hb.mixed ac lo new.length
    let (fs, s1) := s.freeBytes new.length
    let pick (k : Nat) (o n : Byte) : Byte :=
      if mixed.getD k false then fs.getD k 0 else if (fs.getD k 0).getLsbD 0 then n else o
    (((List.range new.length).map (fun k =>
      match new.getD k none with
      | none => none
      | some n => some (if rc.getD k false then pick k (old.getD k 0) n else n))), s1)
  else (new, s)

/-- The value that a peer gives n bytes of its memory, as this access takes it: undefined where a write of this package races with it
(R134); what it learns is what those writes and the other packages released (R132). -/
def State.farRead (s : State) (ac : Acc) (dev pa : Nat) (bs : List Byte) : List Byte × State :=
  let (out, s1) := s.raceRead ac (hbPeer dev pa) bs
  if ac.strong then (out, { s1 with hb := s1.hb.put (s1.hb.hear (s1.hb.of ac.who) ac s1.hb.farMsgs) }) else (out, s1)

/-! ### Records (R457 to R460) -/

/-- The 64 bytes of a record (R457). -/
def FRec.bytes (s : State) (r : FRec) : List Byte :=
  let hdr := r.gen * 2 ^ 48 + (r.wix % 256) * 2 ^ 40 + (r.lane.getD 0) * 2 ^ 33 + (if r.lane.isSome then 2 ^ 32 else 0)
    + (if r.stop then 2 ^ 26 else 0) + (if r.sup then 2 ^ 25 else 0) + (if r.async then 2 ^ 24 else 0) + r.code * 2 ^ 8 + r.cls
  let loc := r.nid * 2 ^ 32 + r.slot * 2 ^ 26 + r.slice * 2 ^ 24 + r.core * 2 ^ 15 + s.dev
  leBytes 8 hdr ++ leBytes 8 r.ptb ++ leBytes 8 loc ++ leBytes 8 r.pc ++ leBytes 8 r.va ++ leBytes 4 r.info
    ++ ((r.ib ++ List.replicate 20 0).take 20)

/-- The instant of detection (R457): now, unless the record has been kept since. -/
def FRec.now (r : FRec) (ptb : Nat) : FRec := if r.ptb = 0 then { r with ptb := ptb } else r

/-- Bytes written by the CP in key-0 memory, sector by sector. -/
def State.pokeKey0 (s : State) (loc : Nat) (bs : List Byte) : State :=
  match s.keyDraw 0 with
  | none => s
  | some d =>
    (List.range ((loc % 64 + bs.length + 63) / 64)).foldl (fun (t : State) k =>
      let lo := if k = 0 then loc else (loc / 64 + k) * 64
      let hi := min (loc + bs.length) ((loc / 64 + k + 1) * 64)
      (t.touch lo).pokeRaw d lo (((bs.drop (lo - loc)).take (hi - lo)).map some)) s

/-- The CP writes one of its own registers as a release at .sy (R270, R460). -/
def State.cpRelease (s : State) (off v : Nat) : State :=
  { s.setCpw off v with hb := s.hb.write { who := .cp, strong := true, sc := .sy, rel := true } (hbOcm (0x40000000 + off)) 8 false }

/-- A record to the CP error ring, with the PA where it lies, or a count in ERLOST (R459, R460). -/
def State.ringPut (s : State) (r0 : FRec) : State × Option Nat :=
  let r := r0.now s.ptb
  let cfg := s.cpw oERCFG
  let pos := s.cpw oERPOS
  let size := 2 ^ (fld cfg 7 4 + 6)
  let tail := fld pos 63 32
  let headc := fld pos 31 0
  if cfg % 2 = 1 && (tail + 2 ^ 32 - headc) % 2 ^ 32 < size then
    let at_ := fld cfg 55 12 * 2 ^ 12 + 64 * (tail % size)
    let s1 := s.pokeKey0 at_ (r.bytes s)
    let s2 := ({ s1 with hb := s1.hb.write { who := .cp, strong := true, sc := .sy } at_ 64 false } : State).cpRelease oERPOS (setFld pos 63 32 (tail + 1))
    ({ s2 with outs := .errIrq (BitVec.ofNat 64 (s2.cpw oERIMASK)) :: s2.outs }, some at_)
  else
    let w := s.cpw oERLOST
    let c := r.cls
    let n := fld w (8 * c - 1) (8 * c - 8)
    (s.setCpw oERLOST (setFld w (8 * c - 1) (8 * c - 8) (min 255 (n + 1))), none)

/-! ### Warps: identity, waking -/

def State.agentOf (_s : State) (c wix : Nat) : Agent := .warp c wix

/-- Cycle count of the slice a warp is on; for a parked warp, that of the slice that has counted most (log entry 1). -/
def State.cycOf (s : State) (c : Nat) (w : Warp) : Nat :=
  match w.place with
  | some (sl, _) => ((s.core c).slices.getD sl {}).cyc
  | none => (s.core c).slices.foldl (fun m x => max m x.cyc) 0

/-- A wait whose result has come ends, unless the warp is stopped or held for replay, which keep it (R461, R478): the predicate of
await.mem takes HELD (R388). -/
def Warp.settle (w : Warp) (cyc : Nat) : Warp :=
  if w.stopped || w.replay.isSome then w
  else
    match w.wait, w.result with
    | .mem ls pd _, some h =>
      { w with
        preds := modNth w.preds pd (fun m => (m &&& ~~~ ls) ||| (if h then ls else 0))
        wait := .none, result := none, age := cyc }
    | .phg _, some _ => { w with wait := .none, result := none, age := cyc }
    | _, _ => w

/-- Deliver a monitor's wake to a warp of this package (R123, R124): true when the warp was there to take it. -/
def State.wakeWarp (s : State) (c wix gen : Nat) (held : Bool) : Option State :=
  let k := s.core c
  if k.gen != gen && wix != supWix then none
  else
    match k.warp? wix with
    | some w =>
      match w.wait with
      | .mem _ _ _ | .phg _ =>
        some (s.updWarp c wix (fun w => ({ w with result := some held }).settle (s.cycOf c w)))
      | _ => none
    | none => none

/-! ### Monitors (R121 to R127) -/

/-- The condition of R121 on the word's value. -/
def monCond (m : Mon) (v : Nat) : Bool :=
  let w := if m.dw then 64 else 32
  let x := v % 2 ^ w
  let o := m.opnd.toNat % 2 ^ w
  match m.cmp with
  | .eq => x == o
  | .ne => x != o
  | .lt => sInt w x < sInt w o
  | .ge => sInt w o ≤ sInt w x
  | .ltu => x < o
  | .geu => o ≤ x
  | .meq => x &&& (m.maskv.toNat % 2 ^ w) == o

def Mon.bytes (m : Mon) : Nat := if m.dw then 8 else 4

/-- The deadline has been reached (R124). -/
def Mon.late (m : Mon) (ptb : Nat) : Bool := m.dline != 0 && m.dline ≤ ptb

/-- The WAKE packet to another package (R127, R222). Log entry 84. -/
def wakePacket (s : State) (m : Mon) (held : Bool) : Packet :=
  { gen := BitVec.ofNat 16 m.gen, psn := 0, src := BitVec.ofNat 15 s.dev, dst := BitVec.ofNat 15 m.dev, cls := 2, vgrp := 0, val := false,
    opc := 0x19, tag := 0, addr := BitVec.ofNat 64 (m.gen * 2 ^ 32 + (m.wix % 256) * 2 ^ 24 + m.core * 2 ^ 15 + m.dev),
    pay := leBytes 8 (if held then 1 else 0) }

/-! ### Sending (R213 to R224) -/

/-- Local link that leads to a member of the own group (R213). -/
def linkTo (own mem : Nat) : Nat := (mem + 63 - own) % 32
def State.linkUp (s : State) (j : Nat) : Bool := (s.cpw (oLLSTAT + 8 * j)).testBit 0
def State.portState (s : State) (i : Nat) : Nat := fld (s.cpw (oGPCTL + 8 * i)) 2 0

/-- Route field k of the active table's entry for a group (R214): gateway member and port, when valid. -/
def State.route (s : State) (g k : Nat) : Option (Nat × Nat) :=
  let base := if (s.cpw oGRTSEL).testBit 0 then oGRT1 else oGRT0
  let fl := fld (s.cpw (base + 8 * g)) (16 * k + 15) (16 * k)
  if fl.testBit 15 then some (fld fl 14 10, fld fl 5 0) else none

/-- A candidate for the first hop (R215, R216): the output port (0 to 30 local links, 31 on global ports), its hop count and the group of
a Valiant leg. -/
structure Cand where
  port : Nat
  hops : Nat
  vgrp : Option Nat := none
  deriving DecidableEq, Repr

/-- The minimal legs to another group by its route fields, each with the package it lands on: the hop to the gateway, unless it is this
package, and the global hop (R215). Log entry 65. -/
def State.legs (s : State) (g : Nat) : List (Cand × Nat) :=
  let own := s.dev
  (List.range 4).filterMap (fun k =>
    match s.route g k with
    | none => none
    | some (gw, gp) =>
      if gw = own % 32 then
        if s.portState gp = 1 then some (⟨31 + gp, 1, none⟩, fld (s.cpw (oGPCTL + 8 * gp)) 46 32) else none
      else
        let j := linkTo (own % 32) gw
        let far := own / 32 * 32 + gw
        if s.linkUp j && Config.farUp s.ptb far gp then some (⟨j, 2, none⟩, Config.farEnd s.ptb far gp) else none)

/-- Minimal candidates towards a package (R215). -/
def State.minimal (s : State) (d : Nat) : List Cand :=
  if d / 32 = s.dev / 32 then
    let j := linkTo (s.dev % 32) (d % 32)
    if s.linkUp j then [⟨j, 1, none⟩] else []
  else (s.legs (d / 32)).map (fun c => { c.1 with hops := c.1.hops + (if c.2 = d then 0 else 1) })

/-- The Valiant paths to a package by way of a group (R215): the legs to it, then from where they land. -/
def State.valiant (s : State) (v d : Nat) : List Cand :=
  (s.legs v).map (fun c => { c.1 with hops := c.1.hops + 1 + Config.onHops s.ptb c.2 d % 3, vgrp := some v })

def State.port (s : State) (i : Nat) : Port := s.ports.getD i {}
def State.updPort (s : State) (i : Nat) (f : Port → Port) : State := { s with ports := modNth s.ports i f }

/-- The wavelengths of a port that carry flits in a state (R517, R537): none in DOWN and DARK; all from RELOCK on (DESIGN CHOICE, log entry 97). -/
def State.lightOf (s : State) (i st : Nat) : Nat := if st = 0 || st = 3 then 0 else if st = 4 then s.part.wlmin else fld (s.cpw (oGPSTAT + 8 * i)) 7 0

/-- A port changes its state by itself (R246, R247, R535). -/
def State.setPort (s : State) (i st : Nat) : State :=
  ((s.setCpw (oGPCTL + 8 * i) (setFld (s.cpw (oGPCTL + 8 * i)) 2 0 st)).setCpw (oGPSTAT + 8 * i)
    (setFld (s.cpw (oGPSTAT + 8 * i)) 7 0 (s.lightOf i st))).updPort (31 + i) (fun p => { p with at_ := s.ptb })

/-- A port or link may send packet flits: a local link that is up, a global port that is UP or in DRAIN (R247). -/
def State.portSends (s : State) (i : Nat) : Bool := if i < 31 then s.linkUp i else i < 95 && [1, 2].contains (s.portState (i - 31))

/-- n slots of a pair's receive buffer are empty again (R219). -/
def Port.free (p : Port) (pair n : Nat) : Port := { p with freed := modNth p.freed pair (fun v => (v + n) % 2 ^ 16) }

/-- What has been received of packets that will not be whole is dropped, and its slots are free. -/
def Port.dropRx (p : Port) : Port := { (p.rx.foldl (fun (q : Port) x => q.free x.1 x.2.2) p) with rx := [] }

/-- A queued flit came by the port. -/
def cameBy (p : Nat) (x : Nat × Flit × Option (Nat × Nat)) : Bool := x.2.2.map Prod.fst == some p

/-- A port that has sent its marker and received the far end's, and has passed every received packet on, goes dark (R247). -/
def State.darkIf (s : State) (i : Nat) : State :=
  let p := s.port (31 + i)
  if s.portState i = 2 && p.marked && p.farMarked && !s.ports.any (fun q => q.queue.any (cameBy (31 + i))) then
    (s.setPort i 3).updPort (31 + i) Port.dropRx
  else s

/-- The candidate with the least (queued flits + 1) × hops, ties to the earlier (R216). -/
def State.best (s : State) (cs : List Cand) : Option Cand :=
  cs.foldl (fun (b : Option Cand) c =>
    let cost (x : Cand) : Nat := ((s.port x.port).queue.length + 1) * x.hops
    match b with
    | none => some c
    | some x => if cost c < cost x then some c else some x) none

/-- The route a source takes (R216): the minimal candidates, then two drawn at random (log entry 3) from the groups that have a route
onward (log entry 52). -/
def State.sourceRoute (s : State) (dst : Nat) : Option Cand × State :=
  let g := dst / 32
  let own := s.dev
  let mins := s.minimal dst
  let pool : List Cand :=
    if g = own / 32 then
      ((List.range 32).filter (fun m => m != own % 32 && m != dst % 32 && s.linkUp (linkTo (own % 32) m))).map
        (fun m => ⟨linkTo (own % 32) m, 2, none⟩)
    else
      ((List.range 1024).filter (fun v => v != g && v != own / 32 && Config.onward s.ptb v g)).filterMap (fun v =>
        s.best (s.valiant v dst))
  if pool.isEmpty then (s.best mins, s)
  else
    let (i, s1) := s.choose pool.length
    let (j, s2) := s1.choose pool.length
    (s2.best (mins ++ [pool.getD i ⟨0, 9, none⟩, pool.getD j ⟨0, 9, none⟩]), s2)

/-- R216 finds a candidate path to a package (log entry 52). -/
def State.pathTo (s : State) (dst : Nat) : Bool :=
  let g := dst / 32
  let own := s.dev
  dst == own || !(s.minimal dst).isEmpty
    || (if g = own / 32 then (List.range 32).any (fun m => m != own % 32 && m != dst % 32 && s.linkUp (linkTo (own % 32) m))
        else (List.range 1024).any (fun v => v != g && v != own / 32 && !(s.legs v).isEmpty && Config.onward s.ptb v g))

/-- The flits of a packet on one hop (R218, R221); SLOTRET and the CRC are filled in when a flit leaves. -/
def flitsOf (p : Packet) (hop : Nat) : List Flit :=
  let bs := p.bytes
  let n := (bs.length + 55) / 56
  (List.range n).map (fun k =>
    { hdr := BitVec.ofNat 64 (p.cls.toNat * 2 ^ 9 + hop * 2 ^ 6 + k * 2 ^ 3 + (if k + 1 = n then 4 else 0))
      body := ((bs.drop (56 * k)).take 56 ++ List.replicate 56 0).take 56 })

def Flit.cls (f : Flit) : Nat := fld f.hdr.toNat 10 9
def Flit.hop (f : Flit) : Nat := fld f.hdr.toNat 8 6
def Flit.pair (f : Flit) : Nat := 5 * Flit.cls f + Flit.hop f

/-- CRC of a flit: over bits 31:0 of the header and the body (R218). Log entry 17. -/
def Flit.crc (f : Flit) : Word := crc32 (leBytes 4 f.hdr.toNat ++ f.body)

/-- Depth of a receive buffer (R219). -/
def portDepth (i : Nat) : Nat := if i < 31 then 64 else 256

/-- Put a flit on the link: SLOTRET reports the pairs in turn, then the CRC is made (R218, R219). -/
def State.putFlit (s : State) (i : Nat) (f : Flit) : State :=
  let p := s.port i
  let h := f.hdr.toNat % 2 ^ 11 + p.ridx * 2 ^ 11 + p.freed.getD p.ridx 0 * 2 ^ 16
  let f1 : Flit := { f with hdr := BitVec.ofNat 64 h }
  let f2 : Flit := { f1 with hdr := BitVec.ofNat 64 (h + (Flit.crc f1).toNat * 2 ^ 32) }
  { s.updPort i (fun p => { p with ridx := (p.ridx + 1) % 20 }) with outs := .flit i f2 :: s.outs }

/-- The sender may send a flit of a pair (R219). -/
def Port.allows (p : Port) (i pair : Nat) : Bool := (p.sent.getD pair 0 + 2 ^ 16 - p.ret.getD pair 0) % 2 ^ 16 < portDepth i

/-- The queued flit that goes next (R217): the highest class that has an allowance, the oldest of its pair. -/
def Port.pick (p : Port) (i : Nat) : Option (Nat × Flit × Option (Nat × Nat)) :=
  [3, 2, 1, 0].findSome? (fun c => p.queue.find? (fun x => x.1 / 5 == c && p.allows i x.1))

/-- A flit goes out, and frees the slot in which it waited (R219); one of the clock class is timestamped (R179). -/
def State.sendFlit (s : State) (i : Nat) (x : Nat × Flit × Option (Nat × Nat)) : State :=
  let s1 := (s.updPort i (fun p =>
    { p with
      queue := p.queue.erase x, sent := modNth p.sent x.1 (fun v => (v + 1) % 2 ^ 16), tOut := if x.1 / 5 = 3 then s.ptb else p.tOut })).putFlit i x.2.1
  match x.2.2 with
  | none => s1
  | some (p, pair) =>
    let s2 := s1.updPort p (fun q => q.free pair 1)
    if p < 31 then s2 else s2.darkIf (p - 31)

/-- Send what may be sent. -/
def State.drainPort (s : State) (i : Nat) : Nat → State
  | 0 => s
  | n + 1 =>
    if !s.portSends i then s
    else match (s.port i).pick i with
    | none => s
    | some x => (s.sendFlit i x).drainPort i n

/-- Queue a packet on a port for its hop; by: the port and pair that it came by. -/
def State.onPort (s : State) (i hop : Nat) (p : Packet) (by_ : Option (Nat × Nat) := none) : State :=
  let s1 := s.updPort i (fun q => { q with queue := q.queue ++ (flitsOf p hop).map (fun f => (Flit.pair f, f, by_)) })
  s1.drainPort i (s1.port i).queue.length

/-- An idle or link-control flit (R218). -/
def nulFlit (kind : Byte) (rest : List Byte) : Flit :=
  { hdr := 2, body := (kind :: rest ++ List.replicate 56 0).take 56 }

/-- A link always sends: an idle flit where it has no packet flit to send (R218). Log entry 46. -/
def State.idleLinks (s : State) : State :=
  (List.range 95).foldl (fun (t : State) i =>
    if t.portSends i && ((t.port i).pick i).isNone then t.putFlit i (nulFlit 0 []) else t) s

def State.dest (s : State) (d : Nat) : Dest := (s.dests.find? (fun x => x.dst == d)).getD { dst := d }
def State.updDest (s : State) (d : Nat) (f : Dest → Dest) : State :=
  if s.dests.any (fun x => x.dst == d) then { s with dests := s.dests.map (fun x => if x.dst == d then f x else x) }
  else { s with dests := f { dst := d } :: s.dests }

/-- SACK, PTPM, PREN and EPOCH carry no PSN of their own (R224, R522; log entry 40 for EPOCH). -/
def noPsn (opc : Nat) : Bool := opc == 0x18 || opc == 0x20 || opc == 0x21 || opc == 0x24

/-- A packet that comes at once, after those that do already. -/
def comesNow : Nat × Act → Bool
  | (0, .packet _) => true
  | _ => false

/-- A packet for this package arrives with the next step. Log entry 69. -/
def State.arrive (s : State) (p : Packet) : State :=
  { s with agenda := s.agenda.takeWhile comesNow ++ (0, .packet p) :: s.agenda.dropWhile comesNow }

/-- Send a packet on the route of R216, or note that there is none (R522): packets without a PSN do not count (R540). One to this package
itself (R233) arrives with the next step. -/
def State.transmit (s : State) (p : Packet) : State :=
  let d := p.dst.toNat
  let out := fun (t : State) => { t with outs := .packet p :: t.outs }
  if d = s.dev then (out s).arrive p
  else
    let (c, s1) := s.sourceRoute d
    match c with
    | none => if noPsn p.opc.toNat then s1 else s1.updDest d (fun x => { x with noPath := x.noPath.or (some s.ptb) })
    | some c =>
      let q : Packet := match c.vgrp with | some v => { p with val := true, vgrp := BitVec.ofNat 10 v } | none => p
      ((out s1).updDest d (fun x => { x with noPath := none })).onPort c.port 0 q

/-- A queued flit taken back, if it is of a packet of this package of which nothing has been sent: packets begun, whole ones, and what
stays queued. -/
def takeBack (a : List (Nat × List Byte) × List Packet × List (Nat × Flit × Option (Nat × Nat))) (x : Nat × Flit × Option (Nat × Nat)) :
    List (Nat × List Byte) × List Packet × List (Nat × Flit × Option (Nat × Nat)) :=
  let h := x.2.1.hdr.toNat
  let got := if fld h 5 3 = 0 then some x.2.1.body else (a.1.find? (fun b => b.1 == x.1)).map (fun b => b.2 ++ x.2.1.body)
  let rest := a.1.filter (fun b => b.1 != x.1)
  match x.2.2, got with
  | none, some bs => if h.testBit 2 then (rest, a.2.1 ++ [Packet.ofBytes bs], a.2.2) else ((x.1, bs) :: rest, a.2.1, a.2.2)
  | _, _ => (a.1, a.2.1, a.2.2 ++ [x])

/-- The packets of this package that a port has queued and not begun to send are routed again (R250). -/
def State.reroute (s : State) (i : Nat) : State :=
  let (_, ps, kept) := (s.port i).queue.foldl takeBack ([], [], [])
  ps.foldl (fun (t : State) p => t.transmit { p with val := false, vgrp := 0 }) (s.updPort i (fun q => { q with queue := kept }))

/-- Number the packets that the window of 1,024 allows, and send them (R224); without a path they wait (R522). -/
def State.flush (s : State) (d : Nat) : Nat → State
  | 0 => s
  | n + 1 =>
    let x := s.dest d
    match x.waiting with
    | [] => s
    | p :: t =>
      if 1024 ≤ x.unacked.length then s
      else if !s.pathTo d then s.updDest d (fun x => { x with noPath := x.noPath.or (some s.ptb) })
      else
        let q : Packet := { p with psn := BitVec.ofNat 16 x.next }
        ((s.updDest d (fun x => { x with
          waiting := t, next := (x.next + 1) % 2 ^ 16, ever := true
          unacked := x.unacked ++ [⟨x.next, q, s.ptb, s.ptb⟩] })).transmit q).flush d n

/-- For how long there has been no path to a destination (R522, R540); what waited for a path goes when one is found. -/
def State.scanPaths (s : State) : State :=
  let s1 := { s with
    dests := s.dests.map (fun (x : Dest) =>
      if x.bad then x
      else if !(x.ever || !x.waiting.isEmpty) then { x with noPath := none }
      else if s.pathTo x.dst then { x with noPath := none } else { x with noPath := x.noPath.or (some s.ptb) }) }
  (s1.dests.filter (fun x => !x.bad && !x.waiting.isEmpty && x.noPath.isNone)).foldl
    (fun (t : State) (x : Dest) => t.flush x.dst x.waiting.length) s1

/-- Send a packet to another package (R224): at most 1,024 to one destination are unacknowledged; to a destination declared unreachable
nothing is sent (R522). -/
def State.sendPacket (s : State) (p : Packet) : State :=
  let d := p.dst.toNat
  if noPsn p.opc.toNat then s.transmit p
  else if (s.dest d).bad then s
  else
    let s1 := s.updDest d (fun x => { x with waiting := x.waiting ++ [p] })
    s1.flush d (s1.dest d).waiting.length

/-- A packet of this package. -/
def State.mkPacket (s : State) (gen dst cls opc tag addr : Nat) (pay : List Byte) : Packet :=
  { gen := BitVec.ofNat 16 gen, psn := 0, src := BitVec.ofNat 15 s.dev, dst := BitVec.ofNat 15 dst, cls := BitVec.ofNat 2 cls
    vgrp := 0, val := false, opc := BitVec.ofNat 8 opc, tag := BitVec.ofNat 32 tag, addr := BitVec.ofNat 64 addr, pay := pay }

/-! ### The destination's side of R224 and R522 -/

def State.srcOf (s : State) (d : Nat) : Source := (s.srcs.find? (fun x => x.src == d)).getD { src := d }
def State.updSrc (s : State) (d : Nat) (f : Source → Source) : State :=
  if s.srcs.any (fun x => x.src == d) then { s with srcs := s.srcs.map (fun (x : Source) => if x.src == d then f x else x) }
  else { s with srcs := f { src := d } :: s.srcs }

/-- Send a SACK for a block: what has been performed of it. -/
def State.sendSack (s : State) (src block : Nat) : State :=
  let x := s.srcOf src
  let bits := (List.range 64).foldl (fun n i => if x.done.contains (block + i) then n + 2 ^ i else n) 0
  (s.updSrc src (fun x => { x with fresh := x.fresh.filter (fun b => b.1 != block) })).sendPacket
    (s.mkPacket 0 src 2 0x18 0 block (leBytes 8 bits))

/-- Distance between two sequence numbers, the shorter way round. -/
def psnDist (a b : Nat) : Nat := min ((a + 2 ^ 16 - b) % 2 ^ 16) ((b + 2 ^ 16 - a) % 2 ^ 16)

/-- The window moves up over what has been performed (R522; log entry 40). -/
def slideLow (done : List Nat) : Nat → Nat → Nat
  | 0, l => l
  | n + 1, l => if done.contains l then slideLow done n ((l + 1) % 2 ^ 16) else l

/-- A PSN that a source of which EPOCH has set the window may no longer send: outside the window, and not one that was performed since and lies
just below it (R224, R522). -/
def Source.bars (x : Source) (psn : Nat) : Bool :=
  match x.low with
  | some l => decide (1024 ≤ (psn + 2 ^ 16 - l) % 2 ^ 16) && decide (x.slid < (l + 2 ^ 16 - psn) % 2 ^ 16)
  | none => false

/-- A packet has been performed: its bit, and a SACK at 16 unreported bits of its block. -/
def State.performed (s : State) (src psn : Nat) : State :=
  let block := psn / 64 * 64
  let s1 := s.updSrc src (fun x =>
    let done := psn :: x.done.filter (fun q => psnDist psn q < 16384)
    let bits := ((x.fresh.find? (fun b => b.1 == block)).map (fun b => b.2.1)).getD 0
    let since := ((x.fresh.find? (fun b => b.1 == block)).map (fun b => b.2.2)).getD s.ptb
    let low := x.low.map (fun l => slideLow done 1024 l)
    { x with
      done := done, fresh := (block, bits ||| 2 ^ (psn - block), since) :: x.fresh.filter (fun b => b.1 != block)
      low := low, slid := match x.low, low with | some l, some m => min 16383 (x.slid + (m + 2 ^ 16 - l) % 2 ^ 16) | _, _ => 0 })
  let n := (((s1.srcOf src).fresh.find? (fun b => b.1 == block)).map (fun b => popN 64 b.2.1)).getD 0
  if 16 ≤ n then s1.sendSack src block else s1

/-- The MON whose registration was deferred has been performed (R225, R483). -/
def State.ackMon (s : State) (m : Mon) : State := match m.ack with | some (src, psn) => s.performed src psn | none => s

/-- Count an outgoing peer access of a generation by 64 KiB granule of VA (R288): generation, granule, peer, count. -/
def State.hotCount (s : State) (gen va dev : Nat) : State :=
  let g := va / 65536
  if gen = 0 then s
  else if s.hot.any (fun h => h.1 == gen && h.2.1 == g) then
    { s with hot := s.hot.map (fun (h : Nat × Nat × Nat × Nat) => if h.1 == gen && h.2.1 == g then (gen, g, dev, h.2.2.2 + 1) else h) }
  else if s.hot.length < 2048 then { s with hot := (gen, g, dev, 1) :: s.hot }
  else s

/-- The record of an entry whose sector is poisoned (R496): the warp concerned, when it is one of this package. Log entry 82. -/
def Mon.poisonRec (m : Mon) (own : Nat) : FRec :=
  let r : FRec := { cls := 3, code := 3, gen := m.gen, va := m.pa }
  if m.dev = own then { r with sup := m.wix == supWix, wix := if m.wix = supWix then 0 else m.wix, core := m.core } else r

/-- An entry fires: a local warp takes the wake at once and the entry is free; a warp that is switched out finds it DONE at its
restore (R126); a warp of another package is woken over the fabric (R127). -/
def State.fireMon (s : State) (m : Mon) (held : Bool) : State :=
  if m.dev != s.dev then
    (({ s with mons := s.mons.filter (· != m) }).sendPacket (wakePacket s m held)).ackMon m
  else
    match s.wakeWarp m.core m.wix m.gen held with
    | some s1 => { s1 with mons := s1.mons.filter (· != m) }
    | none => { s with mons := s.mons.map (fun x => if x == m then { m with st := .done, held := held } else x) }

/-- Entries of a slice in its table, and spilled (R125). -/
def State.monTable (s : State) (slice : Nat) : Nat :=
  (s.mons.filter (fun m => s.homeSlice (locOf m.pa) == slice && !m.spilled && m.st != .deferred)).length
def State.monSpilled (s : State) (slice : Nat) : Nat :=
  (s.mons.filter (fun m => s.homeSlice (locOf m.pa) == slice && m.spilled)).length

/-- What makes a record of the CP error ring. -/
abbrev Recorder := State → FRec → State

/-- A record that is made at most once in each 1 ms for one key of the limit table (R483, R498, R518, R520, R527). -/
def State.rateRecBy (rec_ : Recorder) (s : State) (key : Nat) (r : FRec) : State :=
  match s.rate.find? (fun p => p.1 == key) with
  | some p =>
    if s.ptb < p.2 + 1000000 then s
    else rec_ { s with rate := s.rate.map (fun (q : Nat × Nat) => if q.1 == key then (key, s.ptb) else q) } r
  | none => rec_ { s with rate := (key, s.ptb) :: s.rate } r

/-- The record of an access under an unloaded key (R498). -/
def State.keyRecBy (rec_ : Recorder) (s : State) (pa : Nat) : State :=
  s.rateRecBy rec_ (0x700000000 + s.homeSlice (locOf pa) * 256 + keyOf pa) { cls := 7, code := 1, va := pa, info := keyOf pa }

/-- The logical core of an access, and the admission index of a warp's, as R492 reports the first issuer; the place of the two within bits 31:8
is the model's choice (log entry 27). -/
def Agent.issuer : Agent → Nat
  | .warp c w | .unit c w | .away _ c 0 w => c * 256 + w % 256
  | a => (a.core?.getD 0) * 256

/-- The mixed-size check (R491, R492; log entry 27): the slice keeps the last strong access to each sector under the key. -/
def State.mixCheckBy (rec_ : Recorder) (s : State) (ac : Acc) (pa n : Nat) : State :=
  let k := keyOf pa
  let loc := locOf pa
  if ac.strong && ac.sized && (s.cpw (oMSCHK + 8 * (k / 64))).testBit (k % 64) then
    let mine (e : MixE) : Bool := e.sec == loc / 64
    let s1 : State := { s with strong := ⟨loc / 64, loc, n, ac.who, s.ptb⟩ :: s.strong.filter (fun e => !mine e) }
    match s.strong.find? mine with
    | some e =>
      if e.lo < loc + n && loc < e.lo + e.len && !(e.lo == loc && e.len == n) && e.who != ac.who && s.ptb < e.ptb + 10000 then
        rec_ s1 { cls := 3, code := 8, va := pa, info := Nat.log2 e.len + 16 * Nat.log2 n + 256 * e.who.issuer }
      else s1
    | none => s1
  else s

/-- The access of an entry's comparison: a strong read with order acquire at its scope (R122), by the warp that waits, wherever it is. -/
def State.monAcc (s : State) (m : Mon) : Acc :=
  { who := if m.dev = s.dev then s.actor m.gen (.warp m.core m.wix) else .remote m.dev, strong := true, sc := m.sc, acq := true }

/-- The word of an entry as its comparison reads it, with what the reader learns (R123, R132); free where it is in a race (R134). -/
def State.monReadBy (rec_ : Recorder) (s : State) (m : Mon) : Nat × State :=
  let ac := s.monAcc m
  let s1 := if (s.keyDraw (keyOf m.pa)).isNone then s.keyRecBy rec_ m.pa else s
  let (bs, s2) := (s1.mixCheckBy rec_ ac m.pa m.bytes).raceRead ac (locOf m.pa) (s.peek m.pa m.bytes)
  (leVal bs, s2)

/-- The 64 bytes of an entry (R121). -/
def Mon.entry (m : Mon) : List Byte :=
  let st := match m.st with | .armed => 1 | .absent => 2 | .done => 3 | .deferred => 0
  leBytes 8 (m.pa % 2 ^ 56 / 4 * 4) ++ leBytes 8 m.opnd.toNat ++ leBytes 8 m.maskv.toNat ++ leBytes 8 m.dline
    ++ leBytes 8 (m.dev + m.core * 2 ^ 15 + (m.wix % 256) * 2 ^ 24 + m.gen * 2 ^ 32)
    ++ leBytes 8 (m.cmp.code.toNat + (if m.dw then 16 else 0) + st * 2 ^ 5 + (if m.held then 128 else 0)) ++ List.replicate 16 0

/-- The entries that a write to n bytes at a physical address overlaps (R123). -/
def State.monHits (s : State) (pa n : Nat) : List Mon :=
  s.mons.filter (fun m =>
    (m.st == .armed || m.st == .absent) && !m.late s.ptb && locOf m.pa < locOf pa + n && locOf pa < locOf m.pa + m.bytes)

/-- Evaluate the entries that a write to n bytes at a physical address overlaps (R123, R496). -/
def State.fireHits (rec_ : Recorder) (s : State) (pa n : Nat) : State :=
  (s.monHits pa n).foldl (fun (t : State) m =>
      if t.poisoned m.pa then rec_ (t.fireMon m false) (m.poisonRec t.dev)
      else
        let (x, t1) := t.monReadBy rec_ m
        if monCond m x then t1.fireMon m true else t1) s

/-- Lay the spill list of a slice in its area (R125, R482): the entries in use, in order of registration, the rest of the list zero. Log
entry 86. -/
def State.layMons (rec_ : Recorder) (s : State) (slice : Nat) : State :=
  let cfg := s.cpw oMSPCFG
  let base := fld cfg 55 16 * 2 ^ 16 + s.sliceIndex slice * 64 * 2 ^ (fld cfg 4 1 + 8)
  let bs := (s.mons.filter (fun m => s.homeSlice (locOf m.pa) == slice && m.spilled)).flatMap Mon.entry ++ List.replicate 64 0
  (s.pokeKey0 base bs).fireHits rec_ base bs.length

/-- Room in a slice for one more entry (R125, R483): spill, if spill lists are in use, an ABSENT entry before an ARMED one, the oldest
first. -/
def State.monRoom (rec_ : Recorder) (s : State) (slice : Nat) : Option State :=
  if s.monTable slice < Config.monEntries then some s
  else
    let cfg := s.cpw oMSPCFG
    if cfg.testBit 0 && s.monSpilled slice < 2 ^ (fld cfg 4 1 + 8) then
      let cand (st : MonSt) := s.mons.find? (fun m => s.homeSlice (locOf m.pa) == slice && !m.spilled && m.st == st)
      match (cand .absent).or (cand .armed) with
      | some v => some (({ s with mons := s.mons.map (fun m => if m == v then { m with spilled := true } else m) } : State).layMons rec_ slice)
      | none => none
    else none

/-- As entries of a slice free: spilled entries return to the table, then the oldest deferred registration is made, with its comparison
at that moment (R125, R483). -/
def State.monRefillBy (rec_ : Recorder) (slice : Nat) : Nat → State → State
  | 0, s => s
  | fuel + 1, s =>
    let mine (m : Mon) : Bool := s.homeSlice (locOf m.pa) == slice
    let go := State.monRefillBy rec_ slice fuel
    if s.monTable slice < Config.monEntries then
      match s.mons.find? (fun m => mine m && m.spilled) with
      | some v => go (({ s with mons := s.mons.map (fun m => if m == v then { m with spilled := false } else m) } : State).layMons rec_ slice)
      | none =>
        match s.mons.find? (fun m => mine m && m.st == .deferred) with
        | some v =>
          if v.late s.ptb then go (s.fireMon v false)
          else if s.poisoned v.pa then go ((rec_ s (v.poisonRec s.dev)).fireMon v false)
          else
            let (x, s1) := s.monReadBy rec_ v
            if monCond v x then go (s1.fireMon v true)
            else go (({ s1 with mons := s1.mons.filter (· != v) ++ [{ v with st := .armed, ack := none }] } : State).ackMon v)
        | none => s
    else s

/-- Every slice's entries that can return do so, after entries were freed (R125). -/
def State.monRefillAllBy (rec_ : Recorder) (s : State) : State :=
  (distinct ((s.mons.filter (fun m => m.spilled || m.st == .deferred)).map (fun m => s.homeSlice (locOf m.pa)))).foldl
    (fun (t : State) sl => State.monRefillBy rec_ sl (s.mons.length + 1) t) s

/-- A write to n bytes at a physical address is evaluated (R123), and entries return to the slices where it has freed some (R125). -/
def State.evalMonsBy (rec_ : Recorder) (s : State) (pa n : Nat) : State :=
  if (s.monHits pa n).isEmpty then s else (s.fireHits rec_ pa n).monRefillAllBy rec_

/-- A record, and the entries that wait for a word of the ring (R123): fuel bounds how often one such entry leads to another record. -/
def State.ringRecN : Nat → Recorder
  | 0, s, r => (s.ringPut r).1
  | n + 1, s, r =>
    match s.ringPut r with
    | (t, some pa) => t.evalMonsBy (State.ringRecN n) pa 64
    | (t, none) => t

/-- A record to the CP error ring (R459, R460). -/
def State.ringRec (s : State) (r : FRec) : State := State.ringRecN (s.mons.length + 1) s r

/-- Every slice's entries that can return do so, after entries were freed all over (R125). -/
def State.monRefillAll (s : State) : State := s.monRefillAllBy State.ringRec

def State.evalMons (s : State) (pa n : Nat) : State := s.evalMonsBy State.ringRec pa n

def State.rateRec (s : State) (key : Nat) (r : FRec) : State := s.rateRecBy State.ringRec key r
def State.keyRec (s : State) (pa : Nat) : State := s.keyRecBy State.ringRec pa
def State.mixCheck (s : State) (ac : Acc) (pa n : Nat) : State := s.mixCheckBy State.ringRec ac pa n

/-- Bytes that a core or the CP lays at a physical address as device state: in no race, and seen by the monitors (R123). -/
def State.pokePA (s : State) (pa : Nat) (bs : List Byte) : State :=
  match s.keyDraw (keyOf pa) with
  | none => s.keyRec pa
  | some d =>
    let loc := locOf pa
    ((List.range ((loc % 64 + bs.length + 63) / 64)).foldl (fun (t : State) k =>
      let lo := if k = 0 then loc else (loc / 64 + k) * 64
      let hi := min (loc + bs.length) ((loc / 64 + k + 1) * 64)
      (t.touch lo).pokeRaw d lo (((bs.drop (lo - loc)).take (hi - lo)).map some)) s).evalMons pa bs.length

/-- Registration at the home slice (R122, R388, R483): the result at once, or none when the warp parks with an entry made or deferred. -/
def State.monRegister (s : State) (m : Mon) : Option Bool × State :=
  if s.poisoned m.pa then (some false, s.ringRec (m.poisonRec s.dev))
  else
    let (x, s1) := s.monReadBy State.ringRec m
    if monCond m x then (some true, s1)
    else if m.late s.ptb then (some false, s1)
    else
      let slice := s.homeSlice (locOf m.pa)
      match s1.monRoom State.ringRec slice with
      | some s2 => (none, { s2 with mons := s2.mons ++ [{ m with st := .armed, ack := none }] })
      | none =>
        (none, ({ s1 with mons := s1.mons ++ [{ m with st := .deferred }] }).rateRec (0x300000000 + slice) { cls := 3, code := 9, info := 0 })

/-! ### Accesses to local HBM -/

/-- Read n bytes of local HBM within one sector. Log entry 10. -/
def State.loadPA (s : State) (ac : Acc) (pa n : Nat) : List Byte × State :=
  let s1 := if (s.keyDraw (keyOf pa)).isNone then s.keyRec pa else s
  ((s1.mixCheck ac pa n).touch pa).raceRead ac (locOf pa) (s.peek pa n)

/-- Write bytes of local HBM within one sector, in coherence order, and evaluate the monitors (R118, R123); note: how
happens-before notes the write. -/
def State.storeNote (s : State) (ac : Acc) (pa : Nat) (bs : List (Option Byte)) (note : HB → HB) : State :=
  match s.keyDraw (keyOf pa) with
  | none => s.keyRec pa
  | some d =>
    let loc := locOf pa
    let (bs', s0) := ((s.mixCheck ac pa bs.length).touch pa).raceWrite ac loc (s.peek pa bs.length) bs
    let s1 := s0.pokeRaw d loc bs'
    ({ s1 with hb := note s1.hb }).evalMons pa bs.length

def State.storePA (s : State) (ac : Acc) (pa : Nat) (bs : List (Option Byte)) (rmw : Bool := false) : State :=
  s.storeNote ac pa bs (fun h => h.write ac (locOf pa) bs.length rmw)

/-- The function whose requester ID an access to host memory under a key carries: that of the VF bound to the partition, and the physical
function, 0, without one (R276). -/
def State.requester (s : State) (k : Nat) : Nat :=
  let p := s.cpw (oPARTCFG + 8 * k)
  if k != 0 && p.testBit 9 then fld p 15 10 + 1 else 0

/-- An access to host memory goes out to its bus address (R276). -/
def State.onBus (s : State) (pa : Nat) : State := { s with outs := .pcie (s.requester (keyOf pa)) (locOf pa) :: s.outs }

/-- Host memory (R115, R129): strong only at .sy. -/
def Acc.hostSc (a : Acc) : Acc := { a with sc := if a.strong then .sy else a.sc }
def State.loadHost (s : State) (ac : Acc) (pa n : Nat) : List Byte × State :=
  (s.onBus pa).raceRead ac.hostSc (hbHost (locOf pa)) (SMap.getN s.hostMem n (locOf pa))
def State.hostNote (s : State) (ac : Acc) (pa : Nat) (bs : List (Option Byte)) (note : HB → HB) : State :=
  let (bs', s1) := (s.onBus pa).raceWrite ac.hostSc (hbHost (locOf pa)) (SMap.getN s.hostMem bs.length (locOf pa)) bs
  { s1 with hostMem := SMap.setIf s1.hostMem (locOf pa) bs', hb := note s1.hb }
def State.storeHost (s : State) (ac : Acc) (pa : Nat) (bs : List (Option Byte)) (rmw : Bool := false) : State :=
  s.hostNote ac pa bs (fun h => h.write ac.hostSc (hbHost (locOf pa)) bs.length rmw)

/-- The scratchpad of a core, by physical offset (R105, R129): .dv and .sy act as .cl. -/
def Acc.spSc (a : Acc) : Acc := { a with sc := match a.sc with | .dv | .sy => .cl | x => x }
def State.loadSpBy (s : State) (ac : Acc) (c a n : Nat) : List Byte × State := s.raceRead ac (hbSp c a) (SMap.getN (s.core c).sp n a)
def State.loadSp (s : State) (ac : Acc) (c a n : Nat) : List Byte × State := s.loadSpBy ac.spSc c a n
def State.storeSpBy (s : State) (ac : Acc) (c a : Nat) (bs : List (Option Byte)) (rmw : Bool) : State :=
  let (bs', s1) := s.raceWrite ac (hbSp c a) (SMap.getN (s.core c).sp bs.length a) bs
  let s2 := { s1 with hb := s1.hb.write ac (hbSp c a) bs.length rmw }
  s2.updCore c (fun k => { k with sp := SMap.setIf k.sp a bs' })
def State.storeSp (s : State) (ac : Acc) (c a : Nat) (bs : List (Option Byte)) (rmw : Bool := false) : State := s.storeSpBy ac.spSc c a bs rmw

/-! ### Translation (R112 to R116, R475) -/

/-- What an access is made for. -/
inductive AKind where
  | read | write | fetch | atomic
  deriving DecidableEq, Repr

def AKind.code : AKind → Nat
  | .read => 0 | .write => 1 | .fetch => 2 | .atomic => 3

/-- A translation: the physical address and the leaf, or the fault's code and level, or poison in the walk. -/
inductive XRes where
  | ok (pa : Nat) (leaf : Nat)
  | bad (code level : Nat)
  | poison (pa : Nat)
  deriving DecidableEq, Repr

/-- Page-offset bits at a level (R112). -/
def pageBits (level : Nat) : Nat := 16 + 11 * level

/-- An entry of a table taken as a leaf at its level (R113, R114); rd gives the entries. A table at a location that does not exist reads as
memory that nothing has written, so its entries are invalid (DESIGN CHOICE, log entry 26: R110 is silent). -/
def State.walkLeaf (s : State) (rd : Nat → Nat) (va level tab : Nat) : XRes :=
  let a := tab + 8 * fld va (16 + 11 * level + 10) (16 + 11 * level)
  if s.poisoned a then .poison a
  else
    let e := rd a
    if e % 2 = 0 then .bad 2 level
    else if fld e 2 1 = 3 then .bad 3 level
    else if level = 3 || fld e 2 1 != level then .bad 3 level
    else
      let n := pageBits level
      if fld e 63 24 * 2 ^ 16 % 2 ^ n != 0 then .bad 3 level
      else .ok (fld e 63 24 * 2 ^ 16 + va % 2 ^ n) e

/-- The walk of R114, from a level downwards. -/
def State.walk (s : State) (rd : Nat → Nat) (va : Nat) : Nat → Nat → XRes
  | 0, tab => s.walkLeaf rd va 0 tab
  | lv + 1, tab =>
    let a := tab + 8 * fld va (16 + 11 * (lv + 1) + 10) (16 + 11 * (lv + 1))
    if s.poisoned a then .poison a
    else
      let e := rd a
      if e % 2 = 1 && fld e 2 1 = 3 then State.walk s rd va lv (fld e 63 24 * 2 ^ 16 + fld e 23 22 * 2 ^ 14)
      else s.walkLeaf rd va (lv + 1) tab

/-- The level-3 table of a generation, or of the supervisor (R112, R263, R271). -/
def State.rootOf (s : State) (sup : Bool) (gen : Nat) : Option Nat :=
  if sup then some s.supRoot
  else (s.genEntry gen).map (fun o => fld (s.cpw (o + 8)) 55 14 * 2 ^ 14)

/-- A walk for a generation: bits 63:60 first (R104), then the walk; without a generation-table entry its level-3 entry is
invalid (R271). -/
def State.xlateBy (s : State) (rd : Nat → Nat) (sup : Bool) (gen va : Nat) : XRes :=
  if fld va 63 60 != 0 then .bad 1 0
  else
    match s.rootOf sup gen with
    | none => .bad 2 3
    | some r => s.walk rd va 3 r

/-- A table entry as it stands. -/
def State.entryNow (s : State) (a : Nat) : Nat := leVal (s.peek a 8)

/-- A fresh walk. -/
def State.xlateFresh (s : State) (sup : Bool) (gen va : Nat) : XRes := s.xlateBy s.entryNow sup gen va

/-- A table entry for a unit that has seen the first k writes: what stood there then, if it was valid, and else the first valid value since
(R116). -/
def State.entrySeen (s : State) (k a : Nat) : Nat :=
  ((s.peek a 8 :: s.past k a 8).reverse.map leVal).foldl (fun e v => if e % 2 = 0 then v else e) 0

/-- The requirement of R115 on the leaf, as the code of the fault it raises. -/
def permCode (k : AKind) (leaf : Nat) : Option Nat :=
  let w := leaf.testBit 5
  let x := leaf.testBit 6
  let rap := leaf.testBit 7
  let peer := fld leaf 4 3 == 1
  match k with
  | .read => none
  | .write => if w then none else some 4
  | .fetch => if x then none else some 5
  | .atomic => if !w then some 4 else if peer && !rap then some 6 else none

def aperOf (leaf : Nat) : Nat := fld leaf 4 3
def devOf (leaf : Nat) : Nat := fld leaf 23 9

def XRes.perm (k : AKind) (x : XRes) : XRes :=
  match x with
  | .ok _ leaf => match permCode k leaf with | some c => .bad c 0 | none => x
  | _ => x

/-- A tlbi covers a VA of a generation (R442). -/
def Flush.covers (f : Flush) (gen va : Nat) : Bool :=
  f.gen == gen && (f.cls == 3 || va / 2 ^ (16 + 11 * f.cls) == f.va / 2 ^ (16 + 11 * f.cls))

/-- The writes that a core has surely seen in the tables for a VA: those before the last tlbi that covers it, or before its caches were
emptied. -/
def Core.seen (k : Core) (gen va : Nat) : Nat := (k.flushes.filter (fun f => f.covers gen va)).foldl (fun m f => max m f.at_) k.tlbAt

/-- The address of the entry at which a walk ends. -/
def walkEnd (rd : Nat → Nat) (va : Nat) : Nat → Nat → Nat
  | 0, tab => tab + 8 * fld va 26 16
  | lv + 1, tab =>
    let a := tab + 8 * fld va (16 + 11 * (lv + 1) + 10) (16 + 11 * (lv + 1))
    let e := rd a
    if e % 2 = 1 && fld e 2 1 = 3 then walkEnd rd va lv (fld e 63 24 * 2 ^ 16 + fld e 23 22 * 2 ^ 14) else a

/-- A walk that has ended at a table under a key that is not loaded, which reads as zero, is reported (R498). -/
def State.walkKey (s : State) (rd : Nat → Nat) (sup : Bool) (gen va : Nat) : State :=
  match s.rootOf sup gen with
  | none => s
  | some r =>
    let a := walkEnd rd va 3 r
    if fld va 63 60 = 0 && (s.keyDraw (keyOf a)).isNone then s.keyRec a else s

/-- A core's walk that has found no entry (R475, R498). -/
def State.walkRec (s : State) (c : Nat) (sup : Bool) (gen : Nat) (r : FRec) : State :=
  let g := if sup then 0 else gen
  if r.cls = 2 && r.code = 2 then s.walkKey (s.entrySeen ((s.core c).seen g r.va)) sup gen r.va else s

/-- Translation for a core (R116): an entry that it has cached, or a walk in which a changed valid entry has not yet taken effect. Log
entry 11. -/
def State.xlate (s : State) (c : Nat) (sup : Bool) (gen va : Nat) (k : AKind) : XRes × State :=
  let g := if sup then 0 else gen
  let hit := if fld va 63 60 != 0 then none else (s.core c).tlb.find? (fun e => e.gen == g && va / 2 ^ e.bits == e.base)
  match hit with
  | some e => ((XRes.ok (fld e.leaf.toNat 63 24 * 2 ^ 16 + va % 2 ^ e.bits) e.leaf.toNat).perm k, s)
  | none =>
    let r := s.xlateBy (s.entrySeen ((s.core c).seen g va)) sup gen va
    let s1 := match r with
      | .ok _ leaf =>
        let b := pageBits (fld leaf 2 1)
        s.updCore c (fun q => { q with tlb := ⟨g, va / 2 ^ b, b, BitVec.ofNat 64 leaf⟩ :: q.tlb })
      | _ => s
    (r.perm k, s1)

/-- Translation for the CP, a task engine or a teller on a job's behalf (R481). -/
def State.xlateCp (s : State) (gen va : Nat) (k : AKind) : XRes := (s.xlateFresh false gen va).perm k

/-- Whether a core's cached translations and a walk agree that an access may be made, without choosing (for tests of eligibility). -/
def XRes.isOk : XRes → Bool
  | .ok _ _ => true
  | _ => false

/-! ### Taking a fault and returning from it (R456 to R464) -/

/-- The RED packet that adds one to a doorbell word at a peer page (R223, R439). -/
def State.farBell (s : State) (ac : Acc) (dev pa : Nat) : State :=
  let ctl := AOp.add.code.toNat + Ty.n64.code.toNat * 2 ^ 8 + 2 * 2 ^ 14 + Scope.co.code.toNat * 2 ^ 16
  let p := s.mkPacket 0 dev 0 0x04 s.tag (pa / 64 * 64) (leBytes 8 ctl ++ leBytes 8 (pa % 64) ++ leBytes 8 1)
  ({ s with hb := s.hb.farWrite ac (hbPeer dev pa) 8 true, tag := (s.tag + 1) % 2 ^ 32 } : State).sendPacket p

/-- Ring the doorbell of R439: one added to the word at MBDB through the supervisor's translation; an add that is not made writes
class 8, CODE 0x0004. Log entry 28. -/
def State.doorbell (s : State) (c : Nat) : State :=
  let va := (s.core c).mbdb.toNat
  let miss : State := s.ringRec { cls := 8, code := 4, va := va, info := c }
  let ac : Acc := { who := .warp c supWix, strong := true, sc := .co, rel := true }
  if va = 0 then s
  else
    match (s.xlateFresh true 0 va).perm .write with
    | .ok pa leaf =>
      if va % 8 != 0 then miss
      else if aperOf leaf = 0 then
        if s.poisoned pa then miss
        else s.storePA ac pa ((leBytes 8 (leVal (s.peek pa 8) + 1)).map some) true
      else if aperOf leaf = 2 then s.storeHost ac pa ((leBytes 8 (leVal (SMap.getN s.hostMem 8 (locOf pa)) + 1)).map some) true
      else if aperOf leaf = 1 then s.farBell ac (devOf leaf) pa
      else { s with bells := s.bells ++ [(c, locOf pa)] }
    | _ => miss

/-- Make a mailbox entry (R264) and ring the doorbell. -/
def State.mboxAdd (s : State) (c : Nat) (e : MEntry) : State :=
  (s.updCore c (fun k => { k with mbox := k.mbox ++ [e] })).doorbell c

/-- Enter a fault record of a user warp: in the mailbox, or held while the mailbox is full (R458). -/
def State.mboxRec (s : State) (c wix : Nat) (r0 : FRec) : State :=
  let r := r0.now s.ptb
  if (s.core c).mbox.length < 64 then s.mboxAdd c ⟨1, r.bytes s, wix, r.gen⟩
  else s.updCore c (fun k => { k with heldRecs := k.heldRecs ++ [(wix, r)] })

/-- Enter some held records, in the order in which their faults occurred, as entries are free (R458). -/
def State.mboxEnter (c : Nat) : List (Nat × FRec) → State → State
  | [], s => s
  | (wix, r) :: rest, s =>
    if (s.core c).mbox.length < 64 then
      State.mboxEnter c rest ((s.updCore c (fun k => { k with heldRecs := k.heldRecs.drop 1 })).mboxAdd c ⟨1, r.bytes s, wix, r.gen⟩)
    else s

def State.mboxRefill (s : State) (c : Nat) : State := State.mboxEnter c (s.core c).heldRecs s

/-- The record of a warp's instruction, with the fields that say where it was (R457). -/
def State.recAt (s : State) (c wix : Nat) (pc : Nat) (ib : List Byte) (r : FRec) : FRec :=
  let w := s.warp c wix
  let g := s.group c w.gid
  { r with
    sup := w.sup, wix := if w.sup then 0 else wix, gen := if w.sup then 0 else (s.core c).gen
    nid := if w.sup then 0 else g.nid
    slice := (w.place.map Prod.fst).getD 0, slot := (w.place.map Prod.snd).getD 0, core := c, pc := pc, ib := ib }

/-- The record of a warp of a generation, here or saved (R457). -/
def State.recFor (s : State) (c gen wix : Nat) (r : FRec) : FRec :=
  if wix = supWix || (s.core c).gen == gen then s.recAt c wix 0 [] r
  else
    let at_ := (s.vaults.find? (fun v => v.core == c && v.gen == gen)).bind (fun v =>
      (v.warps.find? (fun w => w.wix == wix)).map (fun w => (w, (v.groups.find? (fun g => g.gid == w.gid)).map Group.nid)))
    let place := at_.bind (fun x => x.1.place)
    { r with
      wix := wix, gen := gen, core := c, nid := (at_.bind Prod.snd).getD 0, slice := (place.map Prod.fst).getD 0
      slot := (place.map Prod.snd).getD 0 }

/-- TAKING A FAULT (R456, R458, R461): the warp stops at the instruction, which has no effect, and the record goes to the core's
mailbox when it is one of a user warp in class 1, 2 or 4, and to the CP error ring otherwise (R458, R459). at_: the instruction's PC
and the one after it, for sret.skip. A warp that stops stays where it is, and its waits begin anew when it resumes. A stop by poison
marks the group (R490). -/
def State.takeFault (s : State) (c wix : Nat) (at_ : Option (DWord × DWord)) (r : FRec) : State :=
  let s0 := s.updWarp c wix (fun w => { w with stopped := true, stopAt := at_, since := 0 })
  let s1 := if r.cls = 3 then s0.updGroup c (s.warp c wix).gid (fun g => { g with poisoned := true }) else s0
  if (s.warp c wix).sup || !(r.cls == 1 || r.cls == 2 || r.cls == 4) then s1.ringRec { r with stop := true }
  else s1.mboxRec c wix { r with stop := true }

/-- A stop at the next instruction boundary, as after a poisoned load (R496, R523): between steps every warp stands at one; a warp
that is already stopped stops again when it is resumed. -/
def State.stopAsync (s : State) (c wix : Nat) (r0 : FRec) : State :=
  let r : FRec := { r0.now s.ptb with async := true }
  if (s.warp c wix).stopped then s.updWarp c wix (fun w => { w with asyncStop := w.asyncStop.or (some r) })
  else s.takeFault c wix none r

/-- A wait that parks the warp after 2 µs (R59). -/
def Warp.held2us (w : Warp) : Bool :=
  match w.wait with
  | .cnt _ | .ph _ _ _ _ => true
  | _ => false

/-- RETURNING FROM A FAULT (R438, R464): the warp issues again at its PCs; with skip, the lanes that stand at the faulted instruction
continue after it. -/
def State.resumeWarp (s : State) (c wix : Nat) (skip : Bool) : State :=
  let s1 := s.updWarp c wix (fun w =>
    let w1 := { w with
      stopped := false, stopAt := none, asyncStop := none, age := s.cycOf c w, since := if w.held2us then max s.ptb 1 else 0 }
    let w2 := match skip, w.stopAt with
      | true, some (pc, nx) => { w1 with pcs := w1.pcs.map (fun p => if p == pc then nx else p) }
      | _, _ => w1
    w2.settle (s.cycOf c w2))
  match (s.warp c wix).asyncStop with
  | some r => s1.takeFault c wix none r
  | none => s1

/-- A replayable translation fault (R477, R478): the lowest free entry of the core's fault buffer holds the access, the warp is held
for replay and the record goes to the mailbox; none when all 32 entries are in use (the access is tried again later). The supervisor warp
stops, as for any fault of it, and the core restarts (R464, R504; log entry 98). -/
def freeEntry (k : Core) : Option Nat := (List.range 32).find? (fun i => !k.fbuf.any (fun e => e.idx == i))

def State.takeReplay (s0 : State) (c wix : Nat) (src : Nat) (r0 : FRec) : Option State :=
  let s := s0.walkRec c (s0.warp c wix).sup (s0.core c).gen r0
  if (s.warp c wix).sup then some (s.takeFault c wix none r0)
  else
    match freeEntry (s.core c) with
    | none => none
    | some i =>
      let r := { r0 with info := r0.info + 32 + i, ptb := s.ptb }
      let s1 := s.updCore c (fun k => { k with fbuf := ⟨i, r, k.gen, src, wix⟩ :: k.fbuf })
      some ((s1.updWarp c wix (fun w => { w with replay := some i, since := 0 })).mboxRec c wix r)

end Sys2Proof.Machine
end

