-- ==== Sys2Proof/Machine/Flags.lean ====
section
/-! DEFINITION. FPSTAT and rounding: the sticky flags (R167, R325), the mode in force (R154), and the draws of stochastic rounding
(R155). -/

namespace Sys2Proof.Machine

/-- Bits 4:0 of FPSTAT. -/
def Warp.orFlags (w : Warp) (f : Flags) : Warp := { w with fpstat := w.fpstat ||| f.setWidth 32 }

/-- DRM, bits 10:8 (R167). -/
def Warp.drm (w : Warp) : Rnd := (Rnd.ofCode (w.fpstat.extractLsb' 8 3)).getD .rne

/-- The mode of an instruction: its prefix's code, or DRM under .dyn (R154). -/
def Warp.mode (w : Warp) (p : Option Pre) : Rnd :=
  match p with
  | none => .rne
  | some q => if q.rnd = .dyn then w.drm else q.rnd

/-- What sset stores in FPSTAT: bits 4:0 and DRM, with DRM 6 and 7 stored as 0 (R167, R335). -/
def fpstatOf (v : Nat) : Word :=
  let d := fld v 10 8
  BitVec.ofNat 32 (v % 32 + (if 6 ≤ d then 0 else d) * 2 ^ 8)

/-- H[63:32] for an element address under the warp's SEED (R155). -/
def Warp.draw (w : Warp) (a : Nat) : Nat := (elemHash (BitVec.ofNat 64 a) w.seed).toNat / 2 ^ 32

/-- Element address of sub-element e of a lane (R155). -/
def Warp.laneAddr (w : Warp) (l e : Nat) : Nat := 0xF000000000000000 + 0x10000 * w.warp + 0x100 * l + e

/-- Element address of an element of an accumulator tile (R155). -/
def Warp.tileAddr (w : Warp) (i j : Nat) : Nat := 0xE000000000000000 + 0x10000 * w.warp + 0x100 * i + j

/-- Mode and draw for sub-element e of lane l. -/
def Warp.rc (w : Warp) (p : Option Pre) (l e : Nat) : RC :=
  let m := w.mode p
  ⟨m, if m = .sr then w.draw (w.laneAddr l e) else 0⟩

end Sys2Proof.Machine
end

