-- ==== Sys2Proof/Machine/Operands.lean ====
section
/-! DEFINITION. Operands: the context of an issue, reading a source in a lane (R293, R294), the rings of the queue port (R92 to R95),
writing a destination (R54, R307, R319), full and empty registers (R53 to R56), and budgets (R50). -/

namespace Sys2Proof

/-- The number named by an operand field. -/
def Opd.predN : Opd → Nat
  | .pred n => n
  | _ => 0

/-- The tile named by a field. -/
def Opd.tileN : Opd → Nat
  | .tile n => n
  | _ => 0

/-- The w register named by a field. -/
def Opd.wN : Opd → Nat
  | .w n => n
  | _ => 0

/-- The v register named by a field. -/
def Opd.vN : Opd → Nat
  | .v n => n
  | _ => 0

/-- Registers an operand of this kind takes. -/
def OpK.words : OpK → Nat
  | .reg _ n _ => n
  | _ => 1

end Sys2Proof

namespace Sys2Proof.Machine

/-- The issue of one instruction by one path (R37): the warp as it stood, the path, the lanes that pass the guard, ACTIVE, the address
of the first word (or of the prefix), the address after the last, and the lane that stands for the path in the uniform pipe. -/
structure Ctx where
  core : Nat
  wix  : Nat
  w    : Warp
  f    : Fmt
  lanes  : Mask
  passed : Mask
  active : Mask
  pc   : DWord
  next : DWord
  ib   : List Byte
  low  : Nat
  unif : Bool
  deriving DecidableEq, Repr

/-! ### Registers -/

def Warp.vGet (w : Warp) (r l : Nat) : Nat := (w.v.get (32 * r + l)).toNat
def Warp.wGet (w : Warp) (r : Nat) : Nat := (w.w.get r).toNat
def Warp.vEmpty (w : Warp) (r : Nat) : Mask := w.vE.get r

/-- n consecutive v registers of a lane as one value (R291). -/
def Warp.vVal (w : Warp) (r l : Nat) : Nat → Nat
  | 0 => 0
  | n + 1 => w.vGet r l + 2 ^ 32 * w.vVal (r + 1) l n

/-- n consecutive w registers as one value. -/
def Warp.wVal (w : Warp) (r : Nat) : Nat → Nat
  | 0 => 0
  | n + 1 => w.wGet r + 2 ^ 32 * w.wVal (r + 1) n

/-- Write one lane of a v register, full. -/
def Warp.vSet (w : Warp) (r l v : Nat) : Warp :=
  { w with
    v := w.v.set (32 * r + l) (BitVec.ofNat 32 v)
    vE := w.vE.set r (w.vE.get r &&& ~~~ (BitVec.ofNat 32 (2 ^ l))) }

/-- Write a w register, full. -/
def Warp.wSet (w : Warp) (r v : Nat) : Warp :=
  { w with w := w.w.set r (BitVec.ofNat 32 v), wE := w.wE &&& ~~~ (BitVec.ofNat 128 (2 ^ r)) }

def Warp.vSetN (w : Warp) (r l : Nat) : Nat → Nat → Warp
  | 0, _ => w
  | n + 1, v => Warp.vSetN (w.vSet r l v) (r + 1) l n (v / 2 ^ 32)

def Warp.wSetN (w : Warp) (r : Nat) : Nat → Nat → Warp
  | 0, _ => w
  | n + 1, v => Warp.wSetN (w.wSet r v) (r + 1) n (v / 2 ^ 32)

/-- Mark a v register empty in the lanes of a mask, or a w register empty (R54). -/
def Warp.vClear (w : Warp) (r : Nat) (m : Mask) : Warp := { w with vE := w.vE.set r (w.vE.get r ||| m) }
def Warp.wClear (w : Warp) (r : Nat) : Warp := { w with wE := w.wE ||| BitVec.ofNat 128 (2 ^ r) }

/-- Predicate p of a lane (R290). -/
def Warp.pGet (w : Warp) (p l : Nat) : Bool := (w.preds.getD p 0).getLsbD l
def Warp.pMask (w : Warp) (p : Nat) : Mask := w.preds.getD p 0

/-- Set predicate p to b's values in the lanes of m, others unchanged. -/
def Warp.pPut (w : Warp) (p : Nat) (m b : Mask) : Warp :=
  { w with preds := modNth w.preds p (fun x => (x &&& ~~~ m) ||| (b &&& m)) }

/-- No v or w register of the warp is empty (R53). -/
def Warp.allFull (w : Warp) : Bool := w.vE.isEmpty && w.wE == 0

/-- A counter of R137: the operations of the class that have not retired. -/
def Warp.counter (w : Warp) (k : CCls) : Nat := (w.ops.filter (fun o => o.cls == some k)).length

/-- CNT of R297. -/
def Warp.cnt (w : Warp) : Nat :=
  w.counter .c % 64 + 2 ^ 6 * (w.counter .m % 64) + 2 ^ 12 * (w.counter .f % 64) + 2 ^ 18 * (w.counter .a % 64)

/-- Operations of one class retire in issue order (R137): drop the performed ones that no earlier one of the class precedes. -/
def retireGo (k : CCls) : Bool → List Op → List Op
  | _, [] => []
  | blocked, o :: t =>
    if o.cls == some k then
      if o.done && !blocked then retireGo k blocked t else o :: retireGo k true t
    else o :: retireGo k blocked t

def Warp.retire (w : Warp) : Warp :=
  let o1 := retireGo .a false (retireGo .f false (retireGo .m false (retireGo .c false w.ops)))
  { w with ops := o1.filter (fun o => !(o.done && o.cls.isNone)) }

def Warp.nextOp (w : Warp) : Nat := w.ops.foldl (fun (m : Nat) (o : Op) => max m (o.id + 1)) 0

def Warp.addOp (w : Warp) (o : Op) : Warp := { w with ops := w.ops ++ [{ o with id := w.nextOp }] }

/-- Mark an operation performed, and retire. -/
def Warp.opDone (w : Warp) (id : Nat) : Warp :=
  ({ w with ops := w.ops.map (fun (o : Op) => if o.id == id then { o with done := true } else o) }).retire

/-- Write the fills of an operation (R54, R57). -/
def Warp.fill (w : Warp) (fs : List Fill) : Warp :=
  fs.foldl (fun (w : Warp) f =>
    if f.isV then f.vals.foldl (fun (w : Warp) p => w.vSet f.reg p.1 p.2.toNat) w
    else match f.vals with | p :: _ => w.wSet f.reg p.2.toNat | [] => w) w

/-! ### Rings (R72, R92 to R95, R398, R399) -/

/-- Definition of ring k from RINGS: defined, entries, byte offset in the group's scratchpad. -/
def Group.ringDef (g : Group) (k : Nat) : Bool × Nat × Nat :=
  let d := fld (g.dw 0x28) (16 * k + 15) (16 * k)
  (d.testBit 15, 2 ^ (fld d 14 12 + 1), 128 * fld d 11 0)

/-- Binding of qn in a warp: bound, push, ring (R90). -/
def Warp.binding (w : Warp) (n : Nat) : Bool × Bool × Nat :=
  let b := fld w.qb.toNat (4 * n + 3) (4 * n)
  (b.testBit 3, b.testBit 2, b % 4)

/-- The warp has closed its push binding to ring k (R399). -/
def Warp.qClosed (w : Warp) (k : Nat) : Bool :=
  (List.range 8).any (fun n => w.qcls.getLsbD n && (w.binding n).2.2 == k)

/-- The warp binds ring k for pushing. -/
def Warp.pushes (w : Warp) (k : Nat) : Bool :=
  (List.range 8).any (fun n => let b := w.binding n; b.1 && b.2.1 && b.2.2 == k)

def Group.ring (g : Group) (k : Nat) : Ring := g.rings.getD k {}

/-- A pop-bound register is full (R92): an entry is written and not claimed, or the ring is closed. -/
def Ring.popFull (r : Ring) : Bool := r.head < r.commit || r.closeAt.isSome
/-- A push-bound register is full (R92). -/
def Ring.pushFull (r : Ring) (depth : Nat) : Bool := r.tail - r.dlv < depth

/-- The full bit of qn in a warp of a group (R53, R92); a register that is not bound is full. -/
def Warp.qFull (w : Warp) (g : Group) (n : Nat) : Bool :=
  let (b, push, k) := w.binding n
  !b || (if push then (g.ring k).pushFull (g.ringDef k).2.1 else (g.ring k).popFull)

/-- Physical scratchpad address of an entry of a ring. -/
def Group.ringAddr (g : Group) (k i : Nat) : Nat :=
  let (_, depth, off) := g.ringDef k
  g.spBase + off + 128 * (i % depth)

/-- The word a pop gives a lane: the entry's bytes 4l to 4l + 3, or zero at or above the closing point (R95, R399). -/
def State.popWord (s : State) (c : Nat) (g : Group) (k l : Nat) : Nat :=
  let r := g.ring k
  if (r.closeAt.map (fun x => decide (x ≤ r.head))).getD false then 0
  else leVal (SMap.getN (s.core c).sp 4 (g.ringAddr k r.head + 4 * l))

/-- Claim the entry at HEAD (R95). -/
def Ring.claim (r : Ring) : Ring := { r with head := r.head + 1, claimed := r.claimed ++ [r.head] }

/-- The entry can be delivered: it is written, or lies at or above the closing point (R95, R399). -/
def Ring.arrived (r : Ring) (e : Nat) : Bool := e < r.commit || (r.closeAt.map (fun x => decide (x ≤ e))).getD false

/-- Deliver a claimed entry: DLV counts up to the lowest entry that is still on its way (R92). -/
def Ring.deliver (e : Nat) (r : Ring) : Ring :=
  let l := r.claimed.erase e
  { r with claimed := l, dlv := l.foldl min r.head }

/-- Raise COMMIT to a notice's count, which has the low 32 bits of the index (R92, R94). Log entry 87. -/
def Ring.notice (count : Word) (r : Ring) : Ring :=
  let n := r.commit + (count.toNat + 2 ^ 32 - r.commit % 2 ^ 32) % 2 ^ 32
  if n ≤ r.tail then { r with commit := n } else r

def State.updRing (s : State) (c gid k : Nat) (f : Ring → Ring) : State :=
  s.updGroup c gid (fun g => { g with rings := modNth g.rings k f })

/-! ### Sources -/

/-- A source in a lane, of n registers (R293, R294, R323). Log entry 62. -/
def Ctx.src (c : Ctx) (s : State) (o : Opd) (n : Nat) (l : Nat) : Nat :=
  match o with
  | .v r => c.w.vVal r l n
  | .w r => c.w.wVal r n
  | .q r =>
    let g := s.group c.core c.w.gid
    (List.range n).foldl (fun a k => a + 2 ^ (32 * k) * s.popWord c.core g (c.w.binding (r + k)).2.2 l) 0
  | .imm => if n = 1 then c.f.x.toNat else wrapN 64 (sInt 32 c.f.x.toNat)
  | .width => 32
  | .lane => l
  | _ => 0

/-- Sources A, B, C and the fourth operand. -/
def Ctx.a (c : Ctx) (s : State) (n l : Nat) : Nat := c.src s c.f.a n l
def Ctx.b (c : Ctx) (s : State) (n l : Nat) : Nat := c.src s c.f.b n l
def Ctx.c (c : Ctx) (s : State) (n l : Nat) : Nat := c.src s c.f.c n l
def Ctx.fourth (c : Ctx) (s : State) (n l : Nat) : Nat :=
  match c.f.pre.bind Pre.fourth with
  | some o => c.src s o n l
  | none => 0

/-- The lanes for which a computation runs: the ACTIVE ones, or the lowest of them once in the uniform pipe (R43). What belongs to a lane, the
record that ld.c reads (R143) and the element address of an SR draw (R155, R349), is then that lane's (DESIGN CHOICE, log entry 109). -/
def Ctx.runs (c : Ctx) : List Nat := if c.unif then [c.low] else maskLanes c.active

/-! ### Destinations -/

def Ctx.upd (c : Ctx) (s : State) (f : Warp → Warp) : State := s.updWarp c.core c.wix f

/-- Push one entry: reserve TAIL, write the 32-bit results with zero in lanes outside ACTIVE (R93). The commit notice comes later
(R94). -/
def Ctx.push (c : Ctx) (s : State) (q : Nat) (vals : Nat → Nat) : State :=
  let g := s.group c.core c.w.gid
  let k := (c.w.binding q).2.2
  let r := g.ring k
  let bs := Sys2Proof.Machine.lanes.flatMap (fun l => leBytes 4 (if c.active.getLsbD l then vals l else 0))
  let s1 := s.updCore c.core (fun x => { x with sp := SMap.setN x.sp (g.ringAddr k r.tail) bs })
  s1.updRing c.core c.w.gid k (fun r => { r with tail := r.tail + 1 })

/-- Write the destination D of n registers: the ACTIVE lanes of a v register, a w register once, a ring entry, or nothing for code
1023 (R293, R43). A w register takes the value of the lowest ACTIVE lane, with the SR draws of that lane (DESIGN CHOICE, log entry 109). -/
def Ctx.wr (c : Ctx) (s : State) (n : Nat) (vals : Nat → Nat) : State :=
  match c.f.d with
  | .v r => c.upd s (fun w => (maskLanes c.active).foldl (fun (w : Warp) l => w.vSetN r l n (vals (if c.unif then c.low else l))) w)
  | .w r => c.upd s (fun w => w.wSetN r n (vals c.low))
  | .q r => (List.range n).foldl (fun s k => c.push s (r + k) (fun l => vals l / 2 ^ (32 * k))) s
  | _ => s

/-- Write a predicate in the ACTIVE lanes (R323). -/
def Ctx.wrP (c : Ctx) (s : State) (p : Nat) (vals : Nat → Bool) : State :=
  let b := maskOf (fun l => vals (if c.unif then c.low else l))
  c.upd s (fun w => w.pPut p c.active b)

/-- Predicate of a lane, or of the lowest ACTIVE lane in the uniform pipe (R323). -/
def Ctx.pred (c : Ctx) (p l : Nat) : Bool := c.w.pGet p (if c.unif then c.low else l)

/-- OR flags into FPSTAT (R167). -/
def Ctx.flags (c : Ctx) (s : State) (f : Flags) : State := c.upd s (fun w => w.orFlags f)

/-- Write D by lane from values with flags, the flags of every lane accumulated (R167); in the uniform pipe both are those of the lowest
ACTIVE lane, SR draws included (R155; DESIGN CHOICE, log entry 109). -/
def Ctx.wrF (c : Ctx) (s : State) (n : Nat) (vals : Nat → Nat × Flags) : State :=
  let fl := c.runs.foldl (fun (a : Flags) l => a ||| (vals l).2) 0
  c.flags (c.wr s n (fun l => (vals l).1)) fl

/-! ### Format slots (R152) -/

/-- A slot of the node's descriptor. -/
structure Slot where
  ef   : Nat
  blk  : Nat
  sf   : Nat
  npl  : Nat
  ctr  : Bool
  sloc : Nat
  soff : Nat
  deriving DecidableEq, Repr

def slotOf (v : Nat) : Slot :=
  { ef := fld v 4 0
    blk := match fld v 7 5 with | 1 => 16 | 2 => 32 | 3 => 64 | 4 => 256 | _ => 0
    sf := fld v 10 8, npl := fld v 14 11, ctr := v.testBit 15, sloc := fld v 19 16, soff := fld v 43 20 }

def Group.slot (g : Group) (k : Nat) : Slot := slotOf (g.dw (0x40 + 8 * k))

/-- Registers that a slot's block spans in the conversion instructions (R414). -/
def Slot.regs (sl : Slot) : Nat := max 1 (sl.blk / 32)

/-- Bits of storage of an element in a matrix operand (R404). -/
def efBits (ef : Nat) : Nat :=
  match ef with
  | 1 => 64 | 0 => 32 | 2 | 3 => 16 | 8 => 4 | _ => 8

/-- Operand classes of R404: 0 narrow float, 1 wide float, 2 double, 3 integer; none for the others. -/
def efClass (ef : Nat) : Option Nat :=
  if 4 ≤ ef && ef ≤ 8 then some 0
  else if ef = 0 || ef = 2 || ef = 3 then some 1
  else if ef = 1 then some 2
  else if ef = 9 || ef = 10 || ef = 15 then some 3
  else none

/-- K and N of a quarter operation on two slots of one class (R404). -/
def mmaShape (a b : Slot) : Option (Nat × Nat) :=
  match efClass a.ef, efClass b.ef with
  | some x, some y =>
    if x != y then none
    else match x with
      | 0 => some (if a.ef = 8 && b.ef = 8 then 64 else 32, 16)
      | 1 => some (if a.ef = 0 || b.ef = 0 then 2 else 16, 16)
      | 2 => some (1, 8)
      | _ => some (if a.ef = 15 && b.ef = 15 && a.npl ≤ 4 && b.npl ≤ 4 then 64 else 32, 16)
  | _, _ => none

/-! ### Budgets (R50, R409, R465) -/

/-- Consecutive registers an operand names: file (0 v, 1 w, 2 tiles), first, count. -/
def runOf (o : Opd) (n : Nat) : List (Nat × Nat × Nat) :=
  match o with
  | .v r => [(0, r, n)]
  | .w r => [(1, r, n)]
  | _ => []

/-- Tiles T + j of the quarters that take part (R409). -/
def tileRun (t : Nat) (nqm : BitVec 4) : List (Nat × Nat × Nat) :=
  (List.range 4).filterMap (fun j => if nqm.getLsbD j then none else some (2, t + j, 1))

/-- Registers that field A names beyond its first (R405, R414, R418). -/
def wideA (i : Instr) (f : Fmt) (g : Group) : List (Nat × Nat × Nat) :=
  match i with
  | .mma _ m | .mmaz _ m =>
    let sa := g.slot m.sla.toNat
    match mmaShape sa (g.slot m.slb.toNat) with
    | some (k, _) => if m.asp then [] else runOf f.a (k * efBits sa.ef / 32)
    | none => []
  | .qpack _ _ sl | .qunpk _ _ sl | .rqnt _ _ sl _ => runOf f.a (g.slot sl.toNat).regs
  | .plmrg _ sl => if 4 < (g.slot sl.toNat).npl then runOf f.a 2 else []
  | _ => []

/-- Registers that field B names beyond its first (R405). -/
def wideB (i : Instr) (f : Fmt) (g : Group) : List (Nat × Nat × Nat) :=
  match i with
  | .mma _ m | .mmaz _ m =>
    let sb := g.slot m.slb.toNat
    match mmaShape (g.slot m.sla.toNat) sb with
    | some (k, n) => if m.bsp then [] else runOf f.b (k * efBits sb.ef / 32 * (n / 8))
    | none => []
  | _ => []

/-- Registers that an instruction reads through fields that are no operand: place words, scales and targets (R402, R421). -/
def besideRuns (i : Instr) : List (Nat × Nat × Nat) :=
  match i with
  | .mma _ m | .mmaz _ m => (if m.asp then [(1, m.apw.toNat, 1)] else []) ++ (if m.bsp then [(1, m.bpw.toNat, 1)] else [])
  | .cpy _ c _ _ t | .cpyt _ c _ t | .cpyw _ c t | .cpyg _ c t | .cpys _ c t => if c = .cnt then [] else [(1, t.toNat, 1)]
  | _ => []

/-- Registers of D, and tiles, that an instruction names beyond the one of each field (R405, R409, R414). -/
def wideRest (i : Instr) (f : Fmt) (g : Group) : List (Nat × Nat × Nat) :=
  match i with
  | .mma _ m | .mmaz _ m => if m.dsp then [] else tileRun (Opd.tileN f.d) m.nqm
  | .accld _ n _ | .accz _ n => tileRun (Opd.tileN f.d) n
  | .accst _ n _ => tileRun (Opd.tileN f.a) n
  | .qpack _ _ sl | .qunpk _ _ sl | .rqnt _ _ sl _ => runOf f.d (g.slot sl.toNat).regs
  | _ => []

/-- The registers and tiles that an instruction names beyond the one of each field. -/
def extraRunsOf (i : Instr) (f : Fmt) (g : Group) : List (Nat × Nat × Nat) :=
  wideA i f g ++ wideB i f g ++ besideRuns i ++ wideRest i f g

/-- Every run of registers an instruction names, in the order D, A, B, C, FOURTH and then the rest. -/
def runsOf (i : Instr) (f : Fmt) (g : Group) : List (Nat × Nat × Nat) :=
  let sh := i.shape
  runOf f.d sh.d.words ++ runOf f.a sh.a.words ++ runOf f.b sh.b.words ++ runOf f.c sh.c.words
    ++ (match f.pre.bind Pre.fourth with | some o => runOf o sh.fo.words | none => []) ++ extraRunsOf i f g

/-- The first register or tile beyond its budget, as FINFO of the budget fault (R465). -/
def Warp.overBudget (w : Warp) (rs : List (Nat × Nat × Nat)) : Option Nat :=
  rs.findSome? (fun r =>
    let bud := match r.1 with | 0 => w.vBud | 1 => w.wBud | _ => w.aBud
    if r.2.1 + r.2.2 ≤ bud then none else some (max r.2.1 bud + 2 ^ 10 * r.1))

/-! ### Full and empty (R53 to R56) -/

/-- The ACTIVE lanes in which a run of registers is empty. -/
def Warp.emptyIn (w : Warp) (act : Mask) (r : Nat × Nat × Nat) : Mask :=
  match r.1 with
  | 0 => (List.range r.2.2).foldl (fun (m : Mask) k => m ||| (w.vEmpty (r.2.1 + k) &&& act)) 0
  | 1 => if (List.range r.2.2).any (fun k => w.wE.getLsbD (r.2.1 + k)) then act else 0
  | _ => 0

/-- The ACTIVE lanes in which a source operand is empty. -/
def Ctx.emptyLanes (c : Ctx) (s : State) (o : Opd) (n : Nat) : Mask :=
  match o with
  | .v r => c.w.emptyIn c.active (0, r, n)
  | .w r => c.w.emptyIn c.active (1, r, n)
  | .q r =>
    let g := s.group c.core c.w.gid
    if (List.range n).all (fun k => (g.ring (c.w.binding (r + k)).2.2).popFull) then 0 else c.active
  | _ => 0

/-- The registers of some runs that are empty in some of the lanes, with those lanes. -/
def Warp.emptyRegs (w : Warp) (act : Mask) (rs : List (Nat × Nat × Nat)) : List (Nat × Nat × Mask) :=
  rs.flatMap (fun r => (List.range r.2.2).filterMap (fun k =>
    let m := w.emptyIn act (r.1, r.2.1 + k, 1)
    if m = 0 then none else some (r.1, r.2.1 + k, m)))

/-- Every register that a path waits for is full. -/
def Warp.met (w : Warp) (p : List (Nat × Nat × Mask)) : Bool := p.all (fun x => w.emptyIn x.2.2 (x.1, x.2.1, 1) == 0)

/-- A parked warp is ready (R61): its wait has ended, or the registers that one of its paths waited for have filled. -/
def Warp.parkReady (w : Warp) : Bool :=
  !w.sup && w.place.isNone && w.wait == .none && !w.parkHeld && !w.stopped && w.replay.isNone && (w.needs.isEmpty || w.needs.any w.met)

/-- A parked warp that a change has made ready has that cycle as its age (R62). -/
def Warp.nowReady (w w1 : Warp) (cyc : Nat) : Warp := if w1.parkReady && !w.parkReady then { w1 with age := cyc } else w1

/-- Destination registers of an instruction: D unless it names a source; the conversion instructions write R registers (R414). -/
def destRunsOf (i : Instr) (f : Fmt) (g : Group) : List (Nat × Nat × Nat) :=
  let sh := i.shape
  if sh.dsrc then []
  else match i with
    | .qpack _ _ sl | .qunpk _ _ sl | .rqnt _ _ sl _ => runOf f.d (g.slot sl.toNat).regs
    | _ => runOf f.d sh.d.words

/-- Sources that an instruction reads beside A, B, C and FOURTH: none has a trap bit of its own. -/
def extraSrcOf (i : Instr) (f : Fmt) (w : Warp) : List (Nat × Nat × Nat) :=
  match i with
  | .svc _ => [(1, 0, min 12 w.wBud)]
  | .accz _ _ | .accld _ _ _ => []
  | .accst _ _ s => if s then runOf f.d 1 else []
  | _ => besideRuns i ++ (if i.shape.dsrc then runOf f.d 1 else [])

end Sys2Proof.Machine
end

