-- ==== Sys2Proof/Machine/Issue.lean ====
section
/-! DEFINITION. Issuing one instruction (R37, R38, R466): the lanes that pass the guard and the mask, the checks on budgets and queue
bindings, what holds a path, the empty-register trap, the PC advance, the zero writes of the mask (R307), the claims of queue entries,
and what becomes of the warp when the instruction completes, is held, faults, or meets a replayable translation fault. -/

namespace Sys2Proof

/-- Instructions on predicates themselves, which act lane by lane (R43). -/
def Instr.onPreds : Instr → Bool
  | .plog _ _ | .pmovGet _ | .pmovPut _ | .vote _ _ => true
  | _ => false

/-- Instructions that zero the lanes the mask shuts out even when ACTIVE is empty (log entry 37). -/
def Instr.zeroesAlone : Instr → Bool
  | .ld _ _ _ _ _ _ _ | .ldro _ _ _ | .atom _ _ _ _ _ _ _ _ => true
  | _ => false

/-- Instructions that access memory, or order accesses (chapters 11 and 12). -/
def Instr.accesses (i : Instr) : Bool :=
  match i.sig with
  | some g => 0x100 ≤ g.op.toNat
  | none => false

/-- Copy instructions: an issue with ACTIVE empty is a piece too (R420). -/
def Instr.isCopy : Instr → Bool
  | .cpy _ _ _ _ _ | .cpyt _ _ _ _ | .cpyw _ _ _ | .cpyg _ _ _ | .cpys _ _ _ => true
  | _ => false

/-- The counter an instruction adds to by its form alone (R137): the matrix unit's, and copies with counter completion. -/
def Instr.counts (i : Instr) : Option Bool :=
  match i with
  | .mma _ _ | .mmaz _ _ | .accld _ _ _ | .accst _ _ _ | .accz _ _ | .rqnt _ _ _ _ | .qpack _ _ _ | .qunpk _ _ _ | .plsplit _
  | .plmrg _ _ | .topk _ _ _ => some true
  | .cpy _ c _ _ _ | .cpyt _ c _ _ | .cpyw _ c _ | .cpyg _ c _ | .cpys _ c _ => if c = .cnt then some false else none
  | _ => none

/-- Issue units (R326, R369): 0 control, 1 integer, 2 floating point, 3 special, 4 lane exchange, 5 memory, 6 matrix. Which of the
first five a class uses, where R326 does not say, follows its name (log entry 36). -/
def Instr.unit (i : Instr) : Nat :=
  match i.sig with
  | none => 0
  | some s =>
    let n := s.op.toNat
    if n < 0x010 then 0 else if n = 0x014 then 4 else if n = 0x011 then 2 else if n < 0x060 then 1 else if n < 0x080 then 2
    else if n < 0x090 then 3 else if n < 0x0A0 then 2 else if n < 0x0B0 then 4 else if n < 0x100 then 1
    else if 0x180 ≤ n && n < 0x190 then 6 else 5

/-- Type of an instruction, for its occupancy. -/
def Instr.ty? (i : Instr) : Option Ty := i.sig.bind (fun s => Ty.ofCode (s.mod.extractLsb' 0 6))

/-- Occupancy of the unit in cycles (R326, R410), outside the uniform pipe; global and scratchpad accesses are counted by their
meanings (R369). -/
def Instr.occ (i : Instr) (regs quarters : Nat) (fused : Bool) : Nat :=
  let wide := match i.ty? with | some t => t.words == 2 | none => false
  match i with
  | .mul _ _ | .mulhi _ _ | .mad _ _ | .madhi _ _ => if wide then 4 else 2
  | .div _ _ | .rem _ _ | .fdiv _ _ | .fsqrt _ _ => if wide then 16 else 8
  | .fcvt _ d s _ | .icvt _ d s _ => if d.words == 2 || s.words == 2 then 2 else 1
  | .vscs _ => 8
  | .vsin _ | .vcos _ | .vex2 _ | .vlg2 _ | .vrcp _ | .vrsq _ | .vtanh _ => 4
  | .pdot _ _ _ | .lshf _ _ _ _ | .lred _ _ _ _ | .lscan _ _ _ _ _ | .lbc _ _ | .vhash _ | .vdrop _ => 2
  | .mma _ _ | .mmaz _ _ => if fused then quarters else 2 * quarters
  | .accz _ _ | .accld _ _ _ | .accst _ _ _ => quarters
  | .qpack _ _ _ | .qunpk _ _ _ | .rqnt _ _ _ _ => 2 * regs
  | .plsplit _ | .plmrg _ _ => 2
  | .topk _ _ _ => 8
  | .pset _ _ _ | .psetf _ _ _ => 1
  | _ => if wide && (i.unit == 1 || i.unit == 2) then 2 else 1

/-- Instructions whose effect may yet have to wait, beyond R55 and R56: for a counter or a unit (R38), or for what they follow (R131, R139). -/
def Instr.mayWait (i : Instr) : Bool :=
  match i with
  | .lbc _ _ | .svc _ => true
  | _ => i.accesses

/-- Instructions of which A and B say where they access memory, and so whether they wait. -/
def Instr.addressed (i : Instr) : Bool :=
  match i with
  | .ld _ _ _ _ _ _ _ | .ldro _ _ _ | .st _ _ _ _ _ _ | .atom _ _ _ _ _ _ _ _ | .red _ _ _ _ _ _ | .awaitMem _ _ _ _ | .awaitPhG _ _ => true
  | _ => false

/-- Every operand field of an instruction that holds a register, for R43. -/
def Fmt.anyVQ (f : Fmt) : Bool :=
  f.d.isVQ || f.a.isVQ || f.b.isVQ || f.c.isVQ || ((f.pre.bind Pre.fourth).getD .none).isVQ

/-- The fourth operand of an instruction. -/
def Fmt.fo (f : Fmt) : Opd := (f.pre.bind Pre.fourth).getD .none

end Sys2Proof

namespace Sys2Proof.Machine

/-- What a meaning answers: the state after it, a path that must wait (with what the wait changes: a power-up request), a fault of the
warp, a fault that changes something else too (a piece that discards its copy, R420), or a replayable translation fault and its SOURCE. -/
inductive Res where
  | ok (s : State)
  | hold (s : State)
  | fault (r : FRec)
  | faultIn (s : State) (r : FRec)
  | replay (src : Nat) (r : FRec)
  deriving DecidableEq, Repr

/-- The context of an issue (R37, R43, R306). -/
def mkCtx (s : State) (cu : Cur) (i : Instr) (f : Fmt) : Ctx :=
  let w := s.warp cu.core cu.wix
  let passed := match f.guard with
    | none => cu.lanes
    | some g => cu.lanes &&& (if g.neg then ~~~ (w.pMask g.pred.toNat) else w.pMask g.pred.toNat)
  let active := match f.pre.bind Pre.mask with
    | none => passed
    | some m => passed &&& w.pMask m.pred.toNat
  { core := cu.core, wix := cu.wix, w := w, f := f, lanes := cu.lanes, passed := passed, active := active, pc := cu.pc
    next := cu.pc + BitVec.ofNat 64 cu.size, ib := cu.ib, low := lowLane active, unif := !f.anyVQ && !i.onPreds }

/-- Queue registers that operand fields name: number, and whether as the destination. Log entry 62. -/
def queueUses (i : Instr) (f : Fmt) : List (Nat × Bool) :=
  let sh := i.shape
  let one (o : Opd) (k : OpK) (dst : Bool) : List (Nat × Bool) :=
    match o with | .q n => (List.range k.words).map (fun j => (n + j, dst)) | _ => []
  one f.d sh.d true ++ one f.a sh.a false ++ one f.b sh.b false ++ one f.c sh.c false ++ one f.fo sh.fo false

/-- A queue-binding fault (R292, R465): its reason and the queue register. -/
def Warp.queueFault (w : Warp) : List Nat → List (Nat × Bool) → Option (Nat × Nat)
  | _, [] => none
  | seen, (n, dst) :: t =>
    let (b, push, ring) := w.binding n
    if !b then some (1, n)
    else if push != dst || seen.contains ring then some (2, n)
    else w.queueFault (ring :: seen) t

/-- The lanes that the mask clause zeroes (R307). With ACTIVE empty only a load or an atomic has any (R322, R370, R401; log entry 37). -/
def Ctx.zeroed (c : Ctx) (i : Instr) : Mask :=
  match c.f.pre.bind Pre.mask with
  | some m => if m.zero && (c.active != 0 || i.zeroesAlone) then c.passed &&& ~~~ c.active else 0
  | none => 0

/-- The ACTIVE lanes in which a source field is empty, in its first register or in those it names beyond it (R55, R295). -/
def Ctx.emptySrc (c : Ctx) (s : State) (o : Opd) (k : OpK) (wide : List (Nat × Nat × Nat)) : Mask :=
  wide.foldl (fun (m : Mask) r => m ||| c.w.emptyIn c.active r) (c.emptyLanes s o k.words)

/-- An acquire of the warp that a peer has yet to answer: its later accesses wait for it (R131). -/
def Warp.acqOut (w : Warp) : Bool := w.ops.any (fun o => !o.reqs.isEmpty && (o.acc.map Acc.acq).getD false)

/-- R55, R56, R38: an empty source whose trap bit is clear, an empty destination, a full counter. -/
def Ctx.blocked (c : Ctx) (s : State) (i : Instr) : Bool :=
  let f := c.f
  let sh := i.shape
  let g := s.group c.core c.w.gid
  let src (o : Opd) (k : OpK) (t : Bool) (wide : List (Nat × Nat × Nat)) : Bool := !t && c.emptySrc s o k wide != 0
  src f.a sh.a f.ta (wideA i f g) || src f.b sh.b f.tb (wideB i f g) || src f.c sh.c f.tc [] || src f.fo sh.fo false []
  || (extraSrcOf i f c.w).any (fun r => c.w.emptyIn c.active r != 0)
  || (destRunsOf i f g).any (fun r => c.w.emptyIn (c.active ||| c.zeroed i) r != 0)
  || (match f.d with
      | .q n => (List.range sh.d.words).any (fun k =>
          let r := (c.w.binding (n + k)).2.2
          !(g.ring r).pushFull (g.ringDef r).2.1)
      | _ => false)
  || (i.accesses && c.w.acqOut)
  || (match i.counts with | some m => 63 ≤ c.w.counter (if m then .m else .c) | none => false)

/-- The empty-register fault (R55, R466 step 10). -/
def Ctx.trapEmpty (c : Ctx) (s : State) (i : Instr) : Option FRec :=
  let f := c.f
  let sh := i.shape
  let g := s.group c.core c.w.gid
  let one (o : Opd) (k : OpK) (t : Bool) (wide : List (Nat × Nat × Nat)) (n : Nat) : Option FRec :=
    let e := c.emptySrc s o k wide
    if t && e != 0 then some { cls := 1, code := 3, lane := some (lowLane e), info := n } else none
  (one f.a sh.a f.ta (wideA i f g) 1).or ((one f.b sh.b f.tb (wideB i f g) 2).or (one f.c sh.c f.tc [] 3))

/-- The queue register of a push after the warp's own qcls on its ring (R399). -/
def Ctx.pushClosed (c : Ctx) (i : Instr) : Option Nat :=
  ((queueUses i c.f).find? (fun p => p.2 && c.w.qClosed (c.w.binding p.1).2.2)).map Prod.fst

/-- A push after the warp's own qcls is a queue-state fault (R399): of step 12 of R466, after the faults of addresses, accesses and barriers and
before those of matrix, copy, task and supervisor operations. -/
def Ctx.closedPush (c : Ctx) (i : Instr) (r : Res) : Res :=
  match c.pushClosed i with
  | none => r
  | some q =>
    let closed : Res := .fault { cls := 1, code := 0xD, info := 3 + 256 * q }
    match r with
    | .ok _ | .faultIn _ _ => closed
    | .fault x => if x.cls == 4 || (x.cls == 1 && 0xE ≤ x.code) then closed else r
    | _ => r

/-- What a path that is held waits for: its empty sources without a trap bit and its empty destinations (R55, R56). -/
def Ctx.needsOf (c : Ctx) (s : State) (i : Instr) : List (Nat × Nat × Mask) :=
  let f := c.f
  let sh := i.shape
  let g := s.group c.core c.w.gid
  let src (o : Opd) (k : OpK) (t : Bool) (wide : List (Nat × Nat × Nat)) := if t then [] else runOf o k.words ++ wide
  c.w.emptyRegs c.active (src f.a sh.a f.ta (wideA i f g) ++ src f.b sh.b f.tb (wideB i f g) ++ src f.c sh.c f.tc []
      ++ src f.fo sh.fo false [] ++ extraSrcOf i f c.w)
    ++ c.w.emptyRegs (c.active ||| c.zeroed i) (destRunsOf i f g)

/-- A path that is held waits for a queue register. -/
def Ctx.queueWait (c : Ctx) (s : State) (i : Instr) : Bool :=
  let g := s.group c.core c.w.gid
  (queueUses i c.f).any (fun p =>
    let k := (c.w.binding p.1).2.2
    if p.2 then !(g.ring k).pushFull (g.ringDef k).2.1 else !(g.ring k).popFull)

/-- A path is held, but not for a register that is empty. -/
def Ctx.heldElse (c : Ctx) (s : State) : State := c.upd s (fun w => { w with needs := [] :: w.needs })

/-- A path is held: what it waits for is noted on its warp. -/
def Ctx.held (c : Ctx) (s : State) (i : Instr) : State :=
  let p := c.needsOf s i
  if p.isEmpty && c.queueWait s i then s else c.upd s (fun w => { w with needs := p :: w.needs })

/-- The empty-register fault comes when the instruction is otherwise eligible (R466): one whose effect has to wait waits first, unless the empty
register says where it accesses memory. -/
def Ctx.trapped (c : Ctx) (i : Instr) (t : FRec) (r : Res) : Res :=
  if i.mayWait && !(i.addressed && t.info != 3) then (match r with | .hold u => .hold (c.heldElse u) | _ => .fault t) else .fault t

/-- Every lane of the path takes the next PC (R37), and the warp waits for nothing. -/
def Warp.advance (w : Warp) (ls : Mask) (pc : DWord) : Warp :=
  { w with since := 0, needs := [], pcs := (w.pcs.zip lanes).map (fun p => if ls.getLsbD p.2 then pc else p.1) }

/-- Zero, full, in the lanes that fail the mask (R307). -/
def Ctx.zeroWrites (c : Ctx) (i : Instr) (g : Group) (w : Warp) : Warp :=
  if c.zeroed i = 0 then w
  else (destRunsOf i c.f g).foldl (fun (w : Warp) r =>
    if r.1 = 0 then (List.range r.2.2).foldl (fun (w : Warp) k => (maskLanes (c.zeroed i)).foldl (fun (w : Warp) l => w.vSet (r.2.1 + k) l 0) w) w
    else w) w

/-- The ring entries that an instruction claims (R95): ring and entry. -/
def Ctx.pops (c : Ctx) (i : Instr) (s : State) : List (Nat × Nat) :=
  (queueUses i c.f).filterMap (fun p =>
    if p.2 then none
    else
      let k := (c.w.binding p.1).2.2
      some (k, ((s.group c.core c.w.gid).ring k).head))

/-- What D's registers take when the popped entries are delivered. -/
def Ctx.landing (c : Ctx) (rs : List (Nat × Nat × Nat)) (w : Warp) : List Fill :=
  rs.flatMap (fun r => (List.range r.2.2).map (fun k =>
    if r.1 = 0 then ⟨true, r.2.1 + k, (maskLanes c.active).map (fun l => (l, w.v.get (32 * (r.2.1 + k) + l)))⟩
    else ⟨false, r.2.1 + k, [(0, w.w.get (r.2.1 + k))]⟩))

/-- D's registers as they stood, and empty. -/
def Ctx.unland (c : Ctx) (rs : List (Nat × Nat × Nat)) (w : Warp) : Warp :=
  rs.foldl (fun (w : Warp) r => (List.range r.2.2).foldl (fun (w : Warp) k =>
    let n := r.2.1 + k
    if r.1 = 0 then
      ({ w with v := (maskLanes c.active).foldl (fun v l => v.set (32 * n + l) (c.w.v.get (32 * n + l))) w.v } : Warp).vClear n c.active
    else ({ w with w := w.w.set n (c.w.w.get n) } : Warp).wClear n) w) w

/-- D waits for the popped entries (R54, R95): the operation that fills D takes them on, or one of its own does. -/
def Ctx.awaitPops (c : Ctx) (rs : List (Nat × Nat × Nat)) (es : List (Nat × Nat)) (ptb : Nat) (w : Warp) : Warp :=
  if rs.any (fun r => w.emptyIn c.active r != 0) then
    { w with ops := modNth w.ops (w.ops.length - 1) (fun (o : Op) => { o with pops := es }) }
  else (c.unland rs w).addOp { id := 0, kind := .pop, fills := c.landing rs w, pops := es, issued := ptb }

/-- Claim the entries of the queue registers that were read, s being the machine before the issue and t after its effect (R95). A
destination that has no full bit takes its value at issue (log entry 21). -/
def Ctx.popAll (c : Ctx) (i : Instr) (s t : State) : State :=
  let es := c.pops i s
  if es.isEmpty then t
  else es.foldl (fun (u : State) e => u.updRing c.core c.w.gid e.1 Ring.claim)
    (c.upd t (c.awaitPops (destRunsOf i c.f (s.group c.core c.w.gid)) es s.ptb))

/-- The slice of a warp, and a change of it. -/
def Ctx.slice (c : Ctx) : Nat := (c.w.place.map Prod.fst).getD 0
def State.updSlice (s : State) (c sl : Nat) (f : Slice → Slice) : State :=
  s.updCore c (fun k => { k with slices := modNth k.slices sl f })
def State.slice (s : State) (c sl : Nat) : Slice := (s.core c).slices.getD sl {}

/-- The unit is free in the slice's present cycle (R38). -/
def Ctx.unitFree (c : Ctx) (s : State) (u : Nat) : Bool :=
  let sl := s.slice c.core c.slice
  sl.busy.getD u 0 ≤ sl.cyc

def Ctx.occupy (c : Ctx) (s : State) (u n : Nat) : State :=
  s.updSlice c.core c.slice (fun sl => { sl with busy := setNth sl.busy u (sl.cyc + max n 1) })

/-- Registers and quarters of an issue, for its occupancy (R410). -/
def Ctx.occOf (c : Ctx) (s : State) (i : Instr) : Nat :=
  if c.unif && i.unit ≤ 4 then 1
  else
    let g := s.group c.core c.w.gid
    let nq (n : BitVec 4) : Nat := 4 - popN 4 n.toNat
    match i with
    | .mma f m | .mmaz f m =>
      let tp := fld (c.w.wGet m.bpw.toNat) 27 16
      let _ := f
      i.occ 0 (nq m.nqm) (m.bsp && tp = 0 && 2 ≤ nq m.nqm)
    | .accz _ n | .accld _ n _ | .accst _ n _ => i.occ 0 (nq n) false
    | .qpack _ _ sl | .qunpk _ _ sl | .rqnt _ _ sl _ => i.occ (g.slot sl.toNat).regs 0 false
    | _ => i.occ 0 0 false

/-- One issue (R466): budgets, queue bindings, then, with ACTIVE not empty, what holds the path, the trap bits, and the effect. occ is
the occupancy of the unit; with ACTIVE empty it is one cycle (DESIGN CHOICE, log entry 103). The meaning is given the context and the state in which the lanes have advanced, the unit is taken and the
masked-out lanes are zeroed. -/
def run (i : Instr) (f : Fmt) (occ : Ctx → State → Nat) (body : Ctx → State → Res) (cu : Cur) (s : State) : Res :=
  let c := mkCtx s cu i f
  let g := s.group c.core c.w.gid
  match c.w.overBudget (runsOf i f g) with
  | some n => .fault { cls := 1, code := 4, info := n }
  | none =>
    match c.w.queueFault [] (queueUses i f) with
    | some (why, q) => .fault { cls := 1, code := 0xD, info := why + 256 * q }
    | none =>
      if !c.unitFree s i.unit then .hold (c.heldElse s)
      else
        let adv := c.upd s (fun w => w.advance c.lanes c.next)
        if c.active = 0 && !i.isCopy then
          if (destRunsOf i f g).any (fun r => c.w.emptyIn (c.zeroed i) r != 0) then .hold (c.held s i)
          else .ok (c.upd (c.occupy adv i.unit 1) (c.zeroWrites i g))
        else if c.blocked s i then .hold (c.held s i)
        else
          let r := body c (c.upd (c.occupy adv i.unit (occ c s)) (c.zeroWrites i g))
          match c.trapEmpty s i with
          | some t => c.trapped i t r
          | none =>
            c.closedPush i (match r with
              | .ok t => .ok (c.popAll i s t)
              | .hold t => .hold (c.heldElse t)
              | r => r)

/-- What becomes of the machine: a completed issue, a held one, a stopped warp, or one held for replay. -/
def settleRes (cu : Cur) (size : Nat) (s : State) (r : Res) : Host.Outcome State Fault Refusal :=
  let halted (t : State) : Host.Outcome State Fault Refusal :=
    match t.stop with | some f => .fault f | none => .next t
  let fin (t : State) (b : Bool) : Host.Outcome State Fault Refusal := halted { t with cur := none, issued := b }
  let held (t : State) := fin t false
  let at_ (r : FRec) : FRec := s.recAt cu.core cu.wix cu.pc.toNat cu.ib r
  match r with
  | .ok t => fin t true
  | .hold t => held t
  | .fault r => fin (s.takeFault cu.core cu.wix (some (cu.pc, cu.pc + BitVec.ofNat 64 size)) (at_ r)) true
  | .faultIn t r => fin (t.takeFault cu.core cu.wix (some (cu.pc, cu.pc + BitVec.ofNat 64 size)) (at_ r)) true
  | .replay src r =>
    match s.takeReplay cu.core cu.wix src (at_ r) with
    | some t => fin t true
    | none => held s

/-- The meaning of a warp instruction: nothing when no path is issuing. -/
def issueOcc (i : Instr) (f : Fmt) (occ : Ctx → State → Nat) (body : Ctx → State → Res) (s : State) :
    Host.Outcome State Fault Refusal :=
  match s.cur with
  | none => .next s
  | some cu => settleRes cu cu.size s (run i f occ body cu s)

def issue (i : Instr) (f : Fmt) (body : Ctx → State → Res) (s : State) : Host.Outcome State Fault Refusal :=
  issueOcc i f (fun c t => c.occOf t i) body s

/-- The meaning of an instruction that cannot fail once its operands are there. -/
def issueOk (i : Instr) (f : Fmt) (eff : Ctx → State → State) (s : State) : Host.Outcome State Fault Refusal :=
  issue i f (fun c t => .ok (eff c t)) s

end Sys2Proof.Machine
end

