-- ==== Sys2Proof/Machine/Control.lean ====
section
/-! DEFINITION. Control and system instructions (R327 to R335, R413) and the convergence waits (R46 to R49). -/

namespace Sys2Proof.Machine

/-- An entry whose ARRIVED equals its MASK releases its lanes: each takes the address after the cvwait it executed (R47, R48). -/
def Warp.converge (w : Warp) : Warp :=
  let done := w.conv.filter (fun e => e.arrived == e.mask)
  { w with
    conv := w.conv.filter (fun e => e.arrived != e.mask)
    pcs := done.foldl (fun (ps : List DWord) e => e.resume.foldl (fun (ps : List DWord) p => setNth ps p.1 p.2) ps) w.pcs }

/-- The lanes that wait at a cvwait. -/
def Warp.waiting (w : Warp) : Mask := w.conv.foldl (fun (m : Mask) e => m ||| e.arrived) 0

/-- Finish lanes (R35, R48). -/
def Warp.finish (w : Warp) (ls : Mask) : Warp :=
  ({ w with fin := w.fin ||| ls, conv := w.conv.map (fun (e : Conv) => { e with mask := e.mask &&& ~~~ ls }) }).converge

/-- Arrive at the wait for register r (R47), resuming at next. -/
def Warp.arrive (w : Warp) (r : Nat) (val : Mask) (ls : Mask) (next : DWord) : Warp :=
  let arr := ls &&& val
  if arr = 0 then w
  else
    let res := (maskLanes arr).map (fun l => (l, next))
    let conv :=
      if w.conv.any (fun e => e.reg == r) then
        w.conv.map (fun (e : Conv) => if e.reg == r then { e with arrived := e.arrived ||| arr, resume := e.resume ++ res } else e)
      else w.conv ++ [⟨r, val &&& ~~~ w.fin, arr, res⟩]
    ({ w with conv := conv }).converge

/-- The branch target of a lane (R328). -/
def Ctx.target (c : Ctx) (s : State) (l : Nat) : Nat :=
  match c.f.a with
  | .imm => wrapN 64 ((c.pc.toNat : Int) + sInt 32 c.f.x.toNat)
  | _ => c.a s 2 l

def badTarget (t : Nat) : Bool := t % 4 != 0 || fld t 63 60 != 0

/-- bra, brx, call and ret (R328): no lane branches when any lane of ACTIVE fails the target test. -/
def branch (link : Bool) (c : Ctx) (s : State) : Res :=
  let ls := maskLanes c.active
  match ls.find? (fun l => badTarget (c.target s l)) with
  | some l => .fault { cls := 1, code := 8, lane := some l, va := c.target s l }
  | none =>
    let s1 := if link then c.wr s 2 (fun _ => c.next.toNat) else s
    .ok (c.upd s1 (fun w => { w with pcs := ls.foldl (fun ps l => setNth ps l (BitVec.ofNat 64 (c.target s l))) w.pcs }))

/-- nop (R327). -/
def execNop (f : Fmt) (s : State) := issueOk (.nop f) f (fun _ s => s) s
/-- bra (R328). -/
def execBra (f : Fmt) (s : State) := issue (.bra f) f (branch false) s
/-- brx (R328). -/
def execBrx (f : Fmt) (s : State) := issue (.brx f) f (branch false) s
/-- call (R328). -/
def execCall (f : Fmt) (s : State) := issue (.call f) f (branch true) s
/-- ret: as brx (R328). -/
def execRet (f : Fmt) (s : State) := issue (.ret f) f (branch false) s
/-- exit (R329). -/
def execExit (f : Fmt) (s : State) := issueOk (.exit f) f (fun c s => c.upd s (fun w => w.finish c.active)) s
/-- cvset (R46). -/
def execCvset (f : Fmt) (s : State) := issueOk (.cvset f) f (fun c s => c.wr s 1 (fun _ => c.active.toNat)) s
/-- cvwait (R47). -/
def execCvwait (f : Fmt) (s : State) :=
  issueOk (.cvwait f) f (fun c s =>
    c.upd s (fun w => w.arrive f.a.wN (BitVec.ofNat 32 (c.a s 1 c.low)) c.active c.next)) s
/-- yield (R331): not ready for the 16 cycles that follow. -/
def execYield (f : Fmt) (s : State) :=
  issueOk (.yield f) f (fun c s => c.upd s (fun w => { w with wait := .yield ((s.slice c.core c.slice).cyc + 17) })) s
/-- trap (R332). -/
def execTrap (f : Fmt) (s : State) := issue (.trap f) f (fun _ _ => .fault { cls := 1, code := 9, info := f.x.toNat % 65536 }) s
/-- brk (R332). -/
def execBrk (f : Fmt) (s : State) := issue (.brk f) f (fun _ _ => .fault { cls := 1, code := 0xA }) s

/-- Warp slot number of a warp, 16 × slice + slot (R265). -/
def Warp.slotNo (w : Warp) : Nat := 16 * (w.place.map Prod.fst).getD 0 + (w.place.map Prod.snd).getD 0

/-- The 64 bytes of a request (R265, R333). -/
def Ctx.request (c : Ctx) (s : State) (code : Nat) : List Byte :=
  leBytes 8 ((s.core c.core).gen * 2 ^ 40 + code * 2 ^ 24 + (c.wix % 256) * 2 ^ 16 + c.w.slotNo * 2 ^ 8) ++ leBytes 8 c.pc.toNat
    ++ (List.range 12).flatMap (fun k => leBytes 4 (if k < c.w.wBud then c.w.wGet k else 0))

/-- svc (R333): a request entry, and the warp waits for the reply; not eligible while the mailbox is full (R264). -/
def execSvc (f : Fmt) (s : State) :=
  issue (.svc f) f (fun c t =>
    if 64 ≤ (t.core c.core).mbox.length then .hold s
    else
      .ok ((c.upd t (fun w => { w with wait := .svc })).mboxAdd c.core
        ⟨0, c.request t (f.x.toNat % 65536), c.wix, (t.core c.core).gen⟩)) s

/-- The value of a status register in a lane (R296, R297, R334). The supervisor warp belongs to no job: GEN, JOB, NODE, DEPTH and
WARP read zero in it (log entry 38). -/
def Ctx.status (c : Ctx) (s : State) (x l : Nat) : Nat :=
  let k := s.core c.core
  let g := s.group c.core c.w.gid
  match x with
  | 0 => 32
  | 1 => l
  | 2 => c.w.warp
  | 3 => c.slice
  | 4 => c.core
  | 5 => s.clusterOf c.core
  | 6 => s.dieOf c.core
  | 7 => s.dev
  | 8 => s.ptb
  | 9 => if c.w.sup then 0 else k.gen
  | 10 => if c.w.sup then 0 else k.job
  | 11 => if c.w.sup then 0 else g.nid
  | 12 => if c.w.sup then 0 else g.depth
  | 13 => c.w.seed.toNat
  | 14 => c.w.fpstat.toNat
  | _ => c.w.cnt

/-- sget (R334). -/
def execSget (f : Fmt) (x : BitVec 4) (s : State) :=
  issueOk (.sget f x) f (fun c s =>
    c.wr s (if x.toNat = 8 || x.toNat = 13 then 2 else 1) (fun l => c.status s x.toNat l)) s

/-- sset of SEED or FPSTAT (R335). -/
def execSset (f : Fmt) (x : BitVec 4) (s : State) :=
  issueOk (.sset f x) f (fun c s =>
    if x.toNat = 13 then let v := c.a s 2 c.low; c.upd s (fun w => { w with seed := BitVec.ofNat 64 v })
    else let v := c.a s 1 c.low; c.upd s (fun w => { w with fpstat := fpstatOf v })) s

/-- What an mxhint, or an arriving mma, does to the power state (R413). -/
def Slice.wake (sl : Slice) : Slice :=
  match sl.mx with
  | .cold => { sl with mx := .rampup, mxAt := sl.cyc }
  | .warm => { sl with mxAt := sl.cyc }
  | .rampdown => { sl with mxReq := true }
  | .rampup => sl

/-- What the passing of cycles does to the power state (R413). -/
def Slice.ramp (sl : Slice) : Slice :=
  match sl.mx with
  | .cold => sl
  | .rampup => if sl.mxAt + 64 ≤ sl.cyc then { sl with mx := .warm, mxAt := sl.mxAt + 64 } else sl
  | .warm => if max sl.mxAt sl.mxUse + 64 ≤ sl.cyc then { sl with mx := .rampdown, mxAt := sl.cyc, mxReq := false } else sl
  | .rampdown =>
    if sl.mxAt + 32 ≤ sl.cyc then
      { sl with mx := if sl.mxReq then .rampup else .cold, mxAt := sl.cyc, mxReq := false }
    else sl

/-- mxhint (R413). -/
def execMxhint (f : Fmt) (s : State) :=
  issueOk (.mxhint f) f (fun c s => s.updSlice c.core c.slice Slice.wake) s

end Sys2Proof.Machine
end

