-- ==== Sys2Proof/Machine/CpRegs.lean ====
section
/-! DEFINITION. The capability block (R21 to R27), the CP register space as loads and stores see it (R269 to R275), and the core windows
of the on-chip map (R107 to R109). -/

namespace Sys2Proof.Machine

/-! ### The capability block -/

/-- The 256 bytes of the capability block (R22 to R27). MEMGB of an odd number of slices is rounded down (DESIGN CHOICE, log entry 108). -/
def Part.block (p : Part) : List Byte :=
  let lanesOf (b : Byte) : Nat := popN 8 b.toNat
  leBytes 8 (0xC1A0 * 2 ^ 32 + 0x0B48 * 2 ^ 16 + p.step % 16 * 2 ^ 12 + 0x1 * 2 ^ 8 + 0x20)
  ++ leBytes 8 (p.phys.length * 2 ^ 32 + (distinct (p.phys.map (fun i => i / 4))).length * 2 ^ 25 + 4 * 2 ^ 22 + p.hcores * 2 ^ 15 + 64 * 2 ^ 8)
  ++ leBytes 8 (p.chans * 2 ^ 32 + 3 * p.chans / 2 * 2 ^ 16 + 512)
  ++ leBytes 8 (popN 64 p.gports * 2 ^ 40 + p.wlmin * 2 ^ 32 + (p.llanes.filter (fun b => b != 0)).length * 2 ^ 24
      + (p.llanes.map lanesOf).foldl (· + ·) 0 * 2 ^ 16 + 64 * 2 ^ 8)
  ++ leBytes 8 (4400 * 2 ^ 32 + 1600 * 2 ^ 16 + 7 * 2 ^ 8 + 16)
  ++ List.replicate 24 0
  ++ leBytes 48 (p.phys.foldl (fun m i => m ||| 2 ^ i) 0) ++ List.replicate 16 0
  ++ leBytes 64 p.chanEn ++ (p.llanes.take 31 ++ List.replicate (31 - p.llanes.length) 0) ++ [0] ++ leBytes 8 p.gports ++ List.replicate 24 0

/-! ### The CP register space -/

/-- Bits hi to lo set. -/
def bitsOf (hi lo : Nat) : Nat := 2 ^ (hi + 1) - 2 ^ lo

/-- The bits of a word of the CP window that hold a field (R3: a reserved field reads as zero); 0 for a reserved offset. The words that
the device alone writes, and the conditions on others, are in cpStore. Log entry 64. -/
def cpMask (off : Nat) : Nat :=
  let all := 2 ^ 64 - 1
  let ring := bitsOf 47 12 + bitsOf 7 4 + 1
  if off < oPTBSTAT then 0
  else if off < 0x1001000 then
    match off with
    | 0x1000008 => bitsOf 16 0
    | 0x1000010 => 1
    | 0x1000018 => bitsOf 47 12
    | 0x1000020 | 0x1000048 | 0x1000060 | 0x1000070 => ring
    | 0x1000028 | 0x1000068 | 0x1000078 => bitsOf 31 0
    | 0x1000050 => bitsOf 63 32
    | 0x1000038 => all
    | 0x1000040 => bitsOf 47 16 + bitsOf 4 0
    | 0x1000058 => bitsOf 63 32 + bitsOf 16 0
    | 0x1000080 => bitsOf 7 0
    | 0x10000A0 | 0x10000A8 | 0x10000B0 | 0x10000B8 => all
    | _ => 0
  else if oDPCFG ≤ off && off < oDPCFG + 0x8000 then bitsOf 63 32 + bitsOf 21 12 + bitsOf 7 4 + 1
  else if oFNCE ≤ off && off < oFNCE + 512 then 1
  else if oCKPT ≤ off && off < oCKPT + 1536 then
    match (off - oCKPT) / 8 % 3 with | 0 => bitsOf 47 16 | 1 => bitsOf 31 0 | _ => all
  else if oGRT0 ≤ off && off < oGRT1 + 0x2000 then 0xFC3FFC3FFC3FFC3F
  else if oCSET ≤ off && off < oCSET + 0x4000 then if (off - oCSET) % 64 < 40 then all else 0
  else if oFBAR ≤ off && off < oFBAR + 0x4000 then
    match (off - oFBAR) % 64 with
    | 0 => bitsOf 63 40 + 3
    | 8 => bitsOf 30 16 + bitsOf 9 0
    | 24 => bitsOf 31 0
    | 40 => bitsOf 29 24 + bitsOf 21 0
    | 56 => bitsOf 9 0
    | _ => all
  else if oTSPILL ≤ off && off < oTSPILL + 0x4000 then
    if (off - oTSPILL) % 16 = 0 then bitsOf 55 12 + 1 else bitsOf 63 48 + bitsOf 39 32
  else if oUITCFG ≤ off && off < oUITCFG + 0x2000 then bitsOf 55 12 + bitsOf 7 4 + 1
  else if oGTAB ≤ off && off < oGTAB + 0x10000 then
    match (off - oGTAB) % 64 with
    | 0 => bitsOf 63 40 + 1
    | 8 => bitsOf 55 14
    | 16 => bitsOf 55 12 + bitsOf 4 0
    | 24 => bitsOf 55 23
    | 32 => bitsOf 55 12
    | _ => 0
  else if oDQ ≤ off && off < oDQ + 0x800 then
    match (off - oDQ) % 32 with
    | 0 => bitsOf 59 16 + bitsOf 7 4 + 3
    | 8 => all
    | 16 => bitsOf 15 0
    | _ => 0
  else 0

/-- New value of a word whose masked bits take the store's and whose other bits stay. -/
def blend (old v m : Nat) : Nat := (old &&& (2 ^ 64 - 1 - m)) ||| (v &&& m)

/-- ERLOST (R459): each LOSTc byte written as zero is cleared. -/
def erlostStore (old v : Nat) : Nat :=
  (List.range 8).foldl (fun r c => if fld v (8 * c + 7) (8 * c) = 0 then setFld r (8 * c + 7) (8 * c) 0 else r) old

/-- The counts of LLSTAT that a store clears by writing zero (R516). -/
def linkStore (old v : Nat) : Nat :=
  let r := if fld v 63 48 = 0 then setFld old 63 48 0 else old
  if fld v 47 32 = 0 then setFld r 47 32 0 else r

/-- A table word that is written only while V, bit 0 of a control word, is clear, or by a write that clears it (R251, R273). -/
def guardedStore (old v m : Nat) : Nat := if old % 2 = 1 && v % 2 = 1 then old else blend old v m

/-- DPCFG i (R251): setting V starts the count of DPSTAT again (R252). -/
def State.dpcfgStore (s : State) (i v : Nat) : State :=
  let off := oDPCFG + 8 * i
  let old := s.cpw off
  let new := guardedStore old v (cpMask off)
  let s1 := s.setCpw off new
  if old % 2 = 0 && new % 2 = 1 then s1.setCpw (0x1000 * i + 0x80) (fld (s.cpw (0x1000 * i + 0x80)) 31 0) else s1

/-- UITCFG t (R273). -/
def State.uitcfgStore (s : State) (t v : Nat) : State :=
  let off := oUITCFG + 8 * t
  s.setCpw off (guardedStore (s.cpw off) v (cpMask off))

/-- Word k of deque entry i (R272): DQPOS and DQASN only while V = 0; STEAL is the CP's; DQTS is read-only. -/
def State.dequeStore (s : State) (i k v : Nat) : State :=
  let off := oDQ + 32 * i + 8 * k
  let open_ := s.cpw (oDQ + 32 * i) % 2 = 0
  if k = 0 then s.setCpw off (blend (s.cpw off) v (cpMask off))
  else if k < 3 && open_ then s.setCpw off (blend (s.cpw off) v (cpMask off))
  else s

/-- The neighbours over the local links and the ports that are up: in RELOCK or DRAIN a port is not used for timing (R249). -/
def State.upNbrs (s : State) : List Nat :=
  ((List.range 32).filter (fun m => m != s.dev % 32 && s.linkUp (linkTo (s.dev % 32) m))).map (fun m => s.dev / 32 * 32 + m)
    ++ ((List.range 64).filter (fun i => s.portState i == 1)).map (fun i => fld (s.cpw (oGPCTL + 8 * i)) 46 32)

/-- The parent of R179: of the neighbours heard from, the one with the fewest hops to a timing root, the lower device ID before the
higher; with the hops by way of it. -/
def State.ptpPick (s : State) : Option (Nat × Nat) :=
  (s.nbrs.filter (fun n => s.upNbrs.contains n.1)).foldl (fun (b : Option (Nat × Nat)) n =>
    match b with
    | none => some n
    | some x => if n.2 < x.2 || (n.2 == x.2 && n.1 < x.1) then some n else b) none

/-- One IEEE 1588 message to a neighbour, of which the manual gives no content (R179, R222; log entry 29). -/
def State.sendPtpm (s : State) (d : Nat) : State :=
  let (bs, s1) := s.freeBytes 44
  s1.sendPacket (s1.mkPacket 0 d 3 0x20 0 0 bs)

/-- A package that has lost the way to its parent chooses another at once (R249). Log entry 80. -/
def State.reparent (s : State) : State :=
  let w := s.cpw oPTBSTAT
  if w.testBit 1 || s.upNbrs.contains (fld w 47 32) then s
  else match s.ptpPick with
    | some (d, h) => s.setCpw oPTBSTAT (setFld (setFld w 47 32 d) 15 8 (min h 255))
    | none => s

/-- GPCTL i (R246): software writes STATE only, and only with 2 while it reads 1; what is queued there and not begun is routed again (R250). -/
def State.gpctlStore (s : State) (i v : Nat) : State :=
  let off := oGPCTL + 8 * i
  let old := s.cpw off
  if fld old 2 0 = 1 && fld v 2 0 = 2 then
    ((s.setCpw off (setFld old 2 0 2)).updPort (31 + i) (fun p => { p with marked := false, at_ := s.ptb })).reparent.reroute (31 + i)
  else s

/-- The election of R183: who holds the role keeps it until it withdraws; then the candidate with the highest rank takes it, the lower
device ID before the higher. Which other packages are candidates is an input (log entry 44). -/
def State.elect (s : State) : Option Nat :=
  let cfg := s.cpw oPTPCFG
  let all := (if cfg.testBit 16 then [(s.dev, fld cfg 15 8)] else []) ++ Config.candidates s.ptb
  (s.peer.filter (fun d => all.any (fun p => p.1 == d))).or
    ((all.foldl (fun (b : Option (Nat × Nat)) p =>
      match b with
      | none => some p
      | some q => if q.2 < p.2 || (q.2 == p.2 && p.1 < q.1) then some p else b) none).map Prod.fst)

/-- PTPCFG (R183). -/
def State.ptpcfgStore (s : State) (v : Nat) : State :=
  let s1 := s.setCpw oPTPCFG (v % 2 ^ 17)
  { s1 with peer := s1.elect }

/-- A store to the CP window (R269): aligned 8 B words only. GPSTAT is not written (log entry 41). -/
def State.cpStore (s : State) (off size v : Nat) : State :=
  if size != 8 || off % 8 != 0 then s
  else if oDPCFG ≤ off && off < oDPCFG + 0x8000 then s.dpcfgStore ((off - oDPCFG) / 8) v
  else if oUITCFG ≤ off && off < oUITCFG + 0x2000 then s.uitcfgStore ((off - oUITCFG) / 8) v
  else if oDQ ≤ off && off < oDQ + 0x800 then s.dequeStore ((off - oDQ) / 32) ((off - oDQ) % 32 / 8) v
  else if oGPCTL ≤ off && off < oGPCTL + 512 then s.gpctlStore ((off - oGPCTL) / 8) v
  else if off = oPTPCFG then s.ptpcfgStore v
  else if off = oERLOST then s.setCpw off (erlostStore (s.cpw off) v)
  else if oLLSTAT ≤ off && off < oLLSTAT + 248 then s.setCpw off (linkStore (s.cpw off) v)
  else if oFNCE ≤ off && off < oFNCE + 512 then if v % 2 = 0 then s.setCpw off 0 else s
  else if cpMask off = 0 then s
  else
    let s1 := s.setCpw off (blend (s.cpw off) v (cpMask off))
    if oFBAR ≤ off && off < oFBAR + 0x4000 then
      { s1 with fbars := s1.fbars.filter (fun b => b.idx != (off - oFBAR) / 64) }
    else if oGTAB ≤ off && off < oGTAB + 0x10000 && (off - oGTAB) % 64 = 0 && v % 2 = 1 then
      { s1 with aborted := s1.aborted.filter (· != fld v 63 48), spillSaid := s1.spillSaid.filter (· != fld v 63 48) }
    else s1

/-- A load from the CP window (R269, R252). KEY of PARTCFG k follows the key loaded (R275), PEER of PTPCFG the election (R183). -/
def State.cpLoad (s : State) (off size : Nat) : Nat :=
  if size != 8 || off % 8 != 0 then 0
  else if off < oPTBSTAT then if off % 0x1000 = 0x80 then s.cpw off else 0
  else if oPARTCFG < off && off < oPARTCFG + 0x800 then
    setFld (s.cpw off) 1 1 (if (s.keyDraw ((off - oPARTCFG) / 8)).isSome then 1 else 0)
  else if off = oPTPCFG then s.cpw off + (if s.peer == some s.dev then 2 ^ 24 else 0)
  else s.cpw off

/-! ### Core windows of the on-chip map (R107) -/

/-- The user or supervisor warp in slot n = 16 × slice + slot of a core. -/
def Core.slotWarp (k : Core) (n : Nat) : Option Warp := k.warps.find? (fun w => w.place == some (n / 16, n % 16))

/-- Where a 4-byte aligned offset of a core window lies. -/
inductive Win where
  | vreg (wix r l : Nat)
  | wreg (wix r : Nat)
  | noWarp
  | sp (off : Nat)
  | tile (wix t byte : Nat)
  | free (slice word : Nat)
  | reserved
  deriving DecidableEq, Repr

def Core.window (k : Core) (o : Nat) : Win :=
  if o < 0x800000 then
    let r := o % 0x20000
    if r < 0x14000 then
      match k.slotWarp (o / 0x20000) with
      | some w => if r / 128 < w.vBud then .vreg w.wix (r / 128) (r % 128 / 4) else .noWarp
      | none => .noWarp
    else if r < 0x14200 then
      match k.slotWarp (o / 0x20000) with
      | some w => if (r - 0x14000) / 4 < w.wBud then .wreg w.wix ((r - 0x14000) / 4) else .noWarp
      | none => .noWarp
    else .reserved
  else if o < 0x800000 + Config.spadBytes then .sp (o - 0x800000)
  else if 0x900000 ≤ o && o < 0x940000 then
    let sl := (o - 0x900000) / 0x10000
    let t := (o - 0x900000) % 0x10000 / 512
    match k.warps.find? (fun w => (w.place.map Prod.fst) == some sl && w.aBase ≤ t && t < w.aBase + w.aBud) with
    | some w => .tile w.wix (t - w.aBase) (o % 512)
    | none => .free sl ((o - 0x900000) % 0x10000 / 4)
  else .reserved

/-- Every OCM access is strong at .dv (R108). -/
def Acc.ocm (ac : Acc) : Acc := { ac with strong := true, sc := .dv }

/-- The location of a word of a core window. -/
def hbWin (c o : Nat) : Nat := hbOcm (0x100000000 + 0x1000000 * c + o)

/-- A word of a core window outside the scratchpad, as it stands: registers and tiles. -/
def Core.winWord (k : Core) (o : Nat) : Option Word :=
  match k.window o with
  | .vreg x r l => some ((((k.warp? x).getD emptyWarp).v.get (32 * r + l)))
  | .wreg x r => some (((k.warp? x).getD emptyWarp).w.get r)
  | .tile x t b => some (((k.warp? x).getD emptyWarp).acc.get (128 * t + b / 4))
  | .free sl w => some ((k.slices.getD sl {}).tiles.get w)
  | .sp _ | .noWarp | .reserved => none

/-- One aligned word of a core window; a register that no warp holds is a free value (log entry 3). -/
def State.winLoad (s : State) (ac : Acc) (c o : Nat) : Nat × State :=
  match (s.core c).window o, (s.core c).winWord o with
  | .sp a, _ => let (bs, t) := s.loadSpBy ac.ocm c a 4; (leVal bs, t)
  | .noWarp, _ => ((Config.freeWord s.fresh).toNat, s.tick)
  | _, some v => let (bs, t) := s.raceRead ac.ocm (hbWin c o) (leBytes 4 v.toNat); (leVal bs, t)
  | _, none => (0, s)

/-- Set a word of a register, of a warp's tile or of a free one. -/
def State.winPut (s : State) (c : Nat) (at_ : Win) (v : Word) : State :=
  match at_ with
  | .vreg x r l => s.updWarp c x (fun w => { w with v := w.v.set (32 * r + l) v })
  | .wreg x r => s.updWarp c x (fun w => { w with w := w.w.set r v })
  | .tile x t b => s.updWarp c x (fun w => { w with acc := w.acc.set (128 * t + b / 4) v })
  | .free sl w => s.updCore c (fun k => { k with slices := modNth k.slices sl (fun (x : Slice) => { x with tiles := x.tiles.set w v }) })
  | .sp _ | .noWarp | .reserved => s

/-- Store bytes (none: not written) of one aligned word of a core window. A full bit is unchanged, as by sctx (R444; log entry 42). -/
def State.winStore (s : State) (ac : Acc) (c o : Nat) (bs : List (Option Byte)) : State :=
  match (s.core c).window o, (s.core c).winWord o with
  | .sp a, _ => s.storeSpBy ac.ocm c a bs false
  | at_, some old =>
    let (new, s1) := s.raceWrite ac.ocm (hbWin c o) (leBytes 4 old.toNat) bs
    ({ s1 with hb := s1.hb.write ac.ocm (hbWin c o) bs.length false } : State).winPut c at_
      (BitVec.ofNat 32 (leVal ((leBytes 4 old.toNat).zipWith (fun b n => n.getD b) new)))
  | _, none => s

/-- The tiles of a warp that leaves its slice keep what they hold (R107). -/
def State.leaveTiles (s : State) (c : Nat) (w : Warp) : State :=
  match w.place with
  | none => s
  | some (sl, _) =>
    s.updCore c (fun k => { k with
      slices := modNth k.slices sl (fun (x : Slice) =>
        { x with tiles := (List.range (128 * w.aBud)).foldl (fun (m : SMap 32) i => m.set (128 * w.aBase + i) (w.acc.get i)) x.tiles }) })

/-! ### The on-chip map -/

/-- A core window: the core and the offset in it. -/
def State.winAt (s : State) (o : Nat) : Option (Nat × Nat) :=
  if 0x100000000 ≤ o && o < 0x100000000 + 0x1000000 * s.nCores then some ((o - 0x100000000) / 0x1000000, o % 0x1000000) else none

/-- n bytes at an OCM offset (R107, R108): the capability block, the CP window, the core windows; reserved offsets read zero. A
register of the CP window is one location: a load of it acquires what the CP's store to it released (R270). -/
def State.ocmLoad (s : State) (ac : Acc) (o n : Nat) : List Byte × State :=
  if o < 256 then ((s.part.block.drop o).take n, s)
  else if 0x40000000 ≤ o && o < 0x44000000 then
    (leBytes n (s.cpLoad (o - 0x40000000) n), { s with hb := s.hb.learn ac.ocm (hbOcm o) n })
  else
    match s.winAt o with
    | some (c, w) =>
      let k := (w % 4 + n + 3) / 4
      let (vs, s1) := (List.range k).foldl (fun (a : List Byte × State) j =>
        let (v, t) := a.2.winLoad ac c (w / 4 * 4 + 4 * j)
        (a.1 ++ leBytes 4 v, t)) ([], s)
      ((vs.drop (w % 4)).take n, s1)
    | none => (List.replicate n 0, s)

/-- Store n bytes at an OCM offset; a store to the capability block leaves it unchanged (R21). -/
def State.ocmStore (s : State) (ac : Acc) (o : Nat) (bs : List Byte) : State :=
  if 0x40000000 ≤ o && o < 0x44000000 then
    ({ s with hb := s.hb.write ac.ocm (hbOcm o) bs.length false } : State).cpStore (o - 0x40000000) bs.length (leVal bs)
  else
    match s.winAt o with
    | some (c, w) =>
      (List.range ((w % 4 + bs.length + 3) / 4)).foldl (fun (t : State) j =>
        let a := w / 4 * 4 + 4 * j
        t.winStore ac c a ((List.range 4).map (fun i => if w ≤ a + i && a + i < w + bs.length then bs[a + i - w]? else none))) s
    | none => s

end Sys2Proof.Machine
end

