-- ==== Sys2Proof/Machine/Access.lean ====
section
/-! DEFINITION. Memory accesses of a warp instruction: addresses (R367), the checks of every lane before any access (R368), the routes
by aperture (R115), local reads and writes, packets to a peer (R226 to R230), atomics and reductions (R376 to R380). -/

namespace Sys2Proof.Machine

/-- Where a lane's access goes (R103, R115). -/
inductive Loc where
  | hbm (pa : Nat)
  | peer (dev pa : Nat)
  | host (a : Nat)
  | ocm (o : Nat)
  | sp (core phys : Nat)
  | const (off : Nat)
  deriving DecidableEq, Repr

/-- A lane's access: its address and where it goes. -/
structure LAcc where
  lane : Nat
  a    : Nat
  loc  : Loc
  deriving DecidableEq, Repr

/-- The outcome of the checks of R368. -/
inductive Chk where
  | ok (ls : List LAcc) (s : State)
  | bad (r : Res)
  deriving DecidableEq, Repr

/-! ### Addresses (R105, R106, R367) -/

def spaceCode : Space → Nat
  | .g => 0 | .s => 1 | .c => 2

/-- The address of a lane (R367). -/
def Ctx.memAddr (c : Ctx) (s : State) (sp : Space) (sh l : Nat) : Nat :=
  let off := if c.f.len = .l128 then sInt 32 c.f.x.toNat else 0
  match sp with
  | .g => wrapN 64 ((c.a s 2 l : Int) + sInt 32 (c.b s 1 l) * (2 ^ sh : Nat) + off)
  | _ => wrapN 32 ((c.a s 1 l : Int) + sInt 32 (c.b s 1 l) * (2 ^ sh : Nat) + off)

/-- The core and physical offset that a scratchpad address reaches (R105). -/
def State.spadAt (s : State) (core gid a : Nat) : Option (Nat × Nat) :=
  let g := s.group core gid
  let off := fld a 18 0
  if 2 ^ 25 ≤ a || fld a 21 19 != 0 then none
  else if !a.testBit 24 then
    if fld a 23 22 = 0 && off < g.spBytes then some (core, g.spBase + off) else none
  else
    match g.clp.bind (fun ps => ps[fld a 23 22]?) with
    | none => none
    | some (c', gid') =>
      let h := s.group c' gid'
      if off < h.spBytes then some (c', h.spBase + off) else none

/-- A byte of the constant space as a lane sees it (R79, R106). In the supervisor warp, which no launch has snapshotted, it reads 0 (DESIGN
CHOICE, log entry 38: R79 and R263 are silent). -/
def Group.constByte (g : Group) (warp lane off : Nat) : Byte :=
  let n := g.recs.length
  let byteOf (v k : Nat) : Byte := BitVec.ofNat 8 (v / 2 ^ (8 * k))
  if off < 0x100 then g.desc.getD off 0
  else if off < 0x108 then byteOf n (off - 0x100)
  else if off < 0x110 then byteOf (g.gid % 2 ^ 32) (off - 0x108)
  else if off < 0x118 then byteOf g.launch (off - 0x110)
  else if 0x140 ≤ off && off < 0x180 then (g.recs.getD ((32 * warp + lane) % max n 1) []).getD (off - 0x140) 0
  else if 0x200 ≤ off && off < 0x1200 then (g.recs.getD ((off - 0x200) / 64) []).getD ((off - 0x200) % 64) 0
  else 0

/-! ### Checks (R368, R466) -/

/-- The checks of one lane's address, and where it goes. -/
def Ctx.locate (c : Ctx) (s : State) (sp : Space) (k : AKind) (n l a : Nat) : Except Res Loc × State :=
  let info := spaceCode sp + 16 * Nat.log2 n
  if a % n != 0 then (.error (.fault { cls := 1, code := 5, lane := some l, va := a, info := info }), s)
  else
    match sp with
    | .s =>
      match s.spadAt c.core c.w.gid a with
      | some (core, phys) => (.ok (.sp core phys), s)
      | none => (.error (.fault { cls := 1, code := 6, lane := some l, va := a, info := info }), s)
    | .c =>
      if 0x2000 ≤ a then (.error (.fault { cls := 1, code := 7, lane := some l, va := a, info := info }), s)
      else (.ok (.const a), s)
    | .g =>
      let (x, s1) := s.xlate c.core c.w.sup (s.core c.core).gen a k
      match x with
      | .ok pa leaf =>
        let dev := devOf leaf
        (.ok (match aperOf leaf with
          | 0 => .hbm pa
          | 1 => .peer dev pa
          | 2 => .host pa
          | _ => .ocm (locOf pa)), s1)
      | .bad code level =>
        let r : FRec := { cls := 2, code := code, lane := some l, va := a, info := level * 2 ^ 8 + k.code * 2 ^ 6 }
        (.error (if code = 1 then .fault r else .replay 0 r), s1)
      | .poison pa => (.error (.fault { cls := 3, code := 7, lane := some l, va := pa }), s1)

/-- Every lane's checks, in ascending lane order: the first that fails decides (R368). -/
def Ctx.locateAll (c : Ctx) (sp : Space) (k : AKind) (n : Nat) (addr : Nat → Nat) : List Nat → List LAcc → State → Chk
  | [], acc, s => .ok acc.reverse s
  | l :: t, acc, s =>
    match c.locate s sp k n l (addr l) with
    | (.error r, _) => .bad r
    | (.ok loc, s1) => Ctx.locateAll c sp k n addr t (⟨l, addr l, loc⟩ :: acc) s1

/-- Aperture and code of the access fault (R108, R378, R380): aop is none for a load or a store. -/
def LAcc.denied (x : LAcc) (sup : Bool) (red : Bool) (aop : Option AOp) : Option FRec :=
  let f (aper c : Nat) : Option FRec := some { cls := 1, code := 0xB, lane := some x.lane, va := x.a, info := aper + 16 * c }
  match x.loc, aop with
  | .ocm o, none => if sup || o < 256 then none else f 3 15
  | .ocm _, some op => f 3 op.code.toNat
  | .host _, some op =>
    if op = .add || (!red && (op = .exch || op = .cas)) then none else f 2 op.code.toNat
  | _, _ => none

/-- The checks of step 12 (R466): access faults, then an unreachable destination (R524). Log entry 66. -/
def Ctx.opFault (c : Ctx) (s : State) (ls : List LAcc) (red : Bool) (aop : Option AOp) : Option FRec :=
  (ls.findSome? (fun x => x.denied c.w.sup red aop)).or
    (ls.findSome? (fun x =>
      match x.loc with
      | .peer d _ => if (s.dest d).bad then some { cls := 6, code := 0xD, va := (ls.head?.map LAcc.a).getD 0, info := d } else none
      | _ => none))

/-! ### What an access must wait for -/

def Req.touches (r : Req) (dev pa n : Nat) : Bool :=
  r.dst == dev && r.lanes.any (fun q => r.pa + q.off < pa + n && pa < r.pa + q.off + q.n)

/-- Two requests name some of the same bytes. -/
def Req.meets (r q : Req) : Bool := q.lanes.any (fun x => r.touches q.dst (q.pa + x.off) x.n)

def tyBytes (t : Ty) : Nat := 4 * t.words

def RedLane.touches (r : RedLane) (aper pa n : Nat) : Bool :=
  r.aper == aper && locOf r.pa < locOf pa + n && locOf pa < locOf r.pa + tyBytes r.ty

/-- An earlier operation of the warp to the same bytes is outstanding: a fabric access not yet acknowledged, or not yet sent (R226), or a
reduction not yet performed (R131). Log entry 71. -/
def Warp.mustFollow (w : Warp) (x : LAcc) (n : Nat) : Bool :=
  match x.loc with
  | .peer d pa => w.unacked.any (fun r => r.touches d pa n) || w.ops.any (fun o => o.later.any (fun r => r.2.touches d pa n))
  | .hbm pa => w.ops.any (fun o => !o.done && o.reds.any (fun r => r.touches 0 pa n))
  | .host a => w.ops.any (fun o => !o.done && o.reds.any (fun r => r.touches 2 a n))
  | _ => false

/-- A release waits for the warp's F-class and A-class operations (R139), and for what peers have yet to answer (R131). Log entry 77. -/
def Warp.mayRelease (w : Warp) : Bool :=
  w.counter .f == 0 && w.counter .a == 0
    && !w.ops.any (fun o => !o.reqs.isEmpty && !(match o.kind with | .fetch _ => true | _ => false))

/-- A write that is a release, by its own order or by an earlier release fence (R130), and must wait. -/
def Ctx.mustWait (c : Ctx) (s : State) (ac : Acc) : Bool := ac.strong && (ac.rel || s.hb.fenced ac.who) && !c.w.mayRelease

def LAcc.isPeer (x : LAcc) : Bool := match x.loc with | .peer _ _ => true | _ => false

def Ord.releases : Sys2Proof.Ord → Bool
  | .rel | .ar => true
  | _ => false

/-! ### Local reads and writes -/

/-- Values that the read-only path may still give (R142): what stood at the location at each point since the core's last fro. Log entry 12. -/
def State.olderValues (s : State) (core pa n : Nat) : List (List Byte) := s.past (s.core core).roAt pa n

/-- The value of a local access: its bytes, and the PA when the sector is poisoned, which reads as zero (R496). ro: the read-only path. -/
def Ctx.readLoc (c : Ctx) (s : State) (ac : Acc) (ro : Bool) (x : LAcc) (n : Nat) : List Byte × Option Nat × State :=
  match x.loc with
  | .hbm pa =>
    if s.poisoned pa then (List.replicate n 0, some pa, s)
    else
      let (bs, s1) := s.loadPA ac pa n
      let older := if ro then s.olderValues c.core pa n else []
      if older.isEmpty then (bs, none, s1)
      else
        let (k, s2) := s1.choose (older.length + 1)
        ((bs :: older).getD k bs, none, s2)
  | .host a => let (bs, s1) := s.loadHost ac a n; (bs, none, s1)
  | .ocm o => let (bs, s1) := s.ocmLoad ac o n; (bs, none, s1)
  | .sp k a => let (bs, s1) := s.loadSp ac k a n; (bs, none, s1)
  | .const off => ((List.range n).map (fun i => (s.group c.core c.w.gid).constByte c.w.warp x.lane (off + i)), none, s)
  | .peer _ _ => (List.replicate n 0, none, s)

/-- A local write. -/
def State.writeLoc (s : State) (ac : Acc) (x : Loc) (bs : List Byte) (rmw : Bool) : State :=
  match x with
  | .hbm pa => s.storePA ac pa (bs.map some) rmw
  | .host a => s.storeHost ac a (bs.map some) rmw
  | .ocm o => s.ocmStore ac o bs
  | .sp k a => s.storeSp ac k a (bs.map some) rmw
  | _ => s

/-! ### Requests to a peer -/

/-- The lanes of a peer access by package and sector, in the order of their first lane. -/
def bySector (ls : List LAcc) : List ((Nat × Nat) × List LAcc) :=
  ls.foldl (fun (a : List ((Nat × Nat) × List LAcc)) x =>
    match x.loc with
    | .peer d pa =>
      let key := (d, pa / 64 * 64)
      if a.any (fun p => p.1 == key) then a.map (fun p => if p.1 == key then (p.1, p.2 ++ [x]) else p) else a ++ [(key, [x])]
    | _ => a) []

def LAcc.pa (x : LAcc) : Nat := match x.loc with | .peer _ pa => pa | .hbm pa => pa | .host a => a | _ => 0

/-- The generation that a warp's packets carry (R221). -/
def Ctx.pktGen (c : Ctx) (s : State) : Nat := if c.w.sup then 0 else (s.core c.core).gen

/-- A request and the entry that waits for its answer. -/
def Ctx.mkReq (c : Ctx) (s : State) (d sec opc : Nat) (pay : List Byte) (lanes : List ReqLane) : (Packet × Req) × State :=
  ((s.mkPacket (c.pktGen s) d 0 opc s.tag sec pay, ⟨s.tag, d, sec, lanes⟩), { s with tag := (s.tag + 1) % 2 ^ 32 })

/-- Send a request of a warp. -/
def State.sendReq (s : State) (c wix : Nat) (x : Packet × Req) : State :=
  (s.updWarp c wix (fun w => { w with unacked := x.2 :: w.unacked })).sendPacket x.1

/-- One request per sector (R227 to R230), or several where the lanes do not fit: per is the most lanes of one packet. -/
def chunks {α : Type} (per : Nat) : Nat → List α → List (List α)
  | 0, _ => []
  | fuel + 1, l => if l.isEmpty then [] else l.take per :: chunks per fuel (l.drop per)

/-- The requests of an access: all that will be answered, and those that follow an earlier one of them to the same bytes and are sent
when it is acknowledged (R226). -/
def Ctx.requests (c : Ctx) (s : State) (ls : List LAcc) (opc per n : Nat) (sx : Bool) (pay : List LAcc → List Byte) :
    (List Req × List (Packet × Req)) × State :=
  (bySector ls).foldl (fun (a : (List Req × List (Packet × Req)) × State) g =>
    (chunks per 32 g.2).foldl (fun (a : (List Req × List (Packet × Req)) × State) xs =>
      let va := (xs.head?.map LAcc.a).getD 0
      let (x, s1) := c.mkReq (a.2.hotCount (c.pktGen s) va g.1.1) g.1.1 g.1.2 opc (pay xs) (xs.map (fun x => ⟨x.lane, x.pa % 64, n, sx⟩))
      if a.1.1.any (fun r => r.meets x.2) then ((a.1.1 ++ [x.2], a.1.2 ++ [x]), s1)
      else ((a.1.1 ++ [x.2], a.1.2), s1.sendReq c.core c.wix x)) a) (([], []), s)

/-- Note the writes that lanes on peer pages will make there (R132). -/
def State.noteFar (s : State) (ac : Acc) (ls : List LAcc) (n : Nat) (rmw : Bool) : State :=
  { s with hb := ls.foldl (fun (h : HB) x => match x.loc with | .peer d pa => h.farWrite ac (hbPeer d pa) n rmw | _ => h) s.hb }

/-- Send what waited for an acknowledgement of the warp (R226): the first of each operation's, when nothing that it meets is still
unacknowledged. -/
def State.sendLater (s : State) (c wix : Nat) : State :=
  (s.warp c wix).ops.foldl (fun (t : State) o =>
    match o.later with
    | [] => t
    | x :: rest =>
      if (t.warp c wix).unacked.any (fun r => r.meets x.2) then t
      else (t.updWarp c wix (fun w => { w with ops := w.ops.map (fun (q : Op) => if q.id == o.id then { q with later := rest } else q) })).sendReq c wix x) s

/-- The byte mask of a sector's lanes. -/
def sectorMask (n : Nat) (xs : List LAcc) : Nat :=
  xs.foldl (fun m x => m ||| ((2 ^ n - 1) * 2 ^ (x.pa % 64))) 0

/-! ### Filling a destination -/

/-- The fills of a destination from the values of the lanes (R372). -/
def Ctx.fillsOf (c : Ctx) (words : Nat) (vals : List (Nat × Nat)) : List Fill :=
  match c.f.d with
  | .v r => (List.range words).map (fun k => ⟨true, r + k, vals.map (fun p => (p.1, BitVec.ofNat 32 (p.2 / 2 ^ (32 * k))))⟩)
  | .w r => (List.range words).map (fun k => ⟨false, r + k, vals.map (fun p => (p.1, BitVec.ofNat 32 (p.2 / 2 ^ (32 * k))))⟩)
  | _ => []

/-- Empty the destination (R54). -/
def Ctx.emptyD (c : Ctx) (words : Nat) (w : Warp) : Warp :=
  match c.f.d with
  | .v r => (List.range words).foldl (fun (w : Warp) k => w.vClear (r + k) c.active) w
  | .w r => (List.range words).foldl (fun (w : Warp) k => w.wClear (r + k)) w
  | _ => w

/-- An operation that fills D when its data returns. -/
def Ctx.loadOp (c : Ctx) (s : State) (kind : OpKind) (words sz : Nat) (vals : List (Nat × Nat)) (reqs : List Req)
    (bad : Option Nat) (later : List (Packet × Req) := []) (acc : Option Acc := none) : State :=
  let (reg, isR) := match c.f.d with | .v r => (r, true) | .w r => (r, true) | _ => (0, false)
  c.upd s (fun w => (c.emptyD words w).addOp
    { id := 0, kind := kind, fills := c.fillsOf words vals, reqs := reqs, later := later, acc := acc, w := isR, reg := reg, sz := sz
      stopVA := bad, issued := s.ptb })

/-! ### Loads and stores -/

/-- What a load makes of the bytes read (R372). -/
def loadVal (sx : Bool) (bs : List Byte) : Nat :=
  if sx then wrapN 32 (sInt (8 * bs.length) (leVal bs)) else leVal bs

/-- A load: checks, then the local lanes' values, and a request for each peer sector (R372, R227; log entry 18). -/
def Ctx.load (c : Ctx) (s0 s : State) (sp : Space) (n : Nat) (sx : Bool) (sh : Nat) (ac : Acc) (ro : Bool) : Res :=
  match c.locateAll sp .read n (c.memAddr s sp sh) c.runs [] s with
  | .bad r => r
  | .ok ls s1 =>
    match c.opFault s1 ls false none with
    | some r => .fault r
    | none =>
      if ls.any (fun x => c.w.mustFollow x n) then .hold s0
      else
        let (vals, bad, s2) := (ls.filter (fun x => !x.isPeer)).foldl (fun (a : List (Nat × Nat) × Option Nat × State) x =>
          let (bs, p, t) := c.readLoc a.2.2 ac ro x n
          (a.1 ++ [(x.lane, loadVal sx bs)], a.2.1.or p, t)) ([], none, s1)
        let (reqs, s3) := c.requests s2 ls 0x01 32 n sx (fun xs => leBytes 8 (sectorMask n xs))
        .ok (c.loadOp s3 .load (max 1 (n / 4)) n vals reqs.1 bad reqs.2 (some ac))

/-- The 64 bytes of a WR, later lanes over earlier ones (R120). -/
def sectorData (n : Nat) (val : Nat → Nat) (xs : List LAcc) : List Byte :=
  xs.foldl (fun (d : List Byte) x =>
    let bs := leBytes n (val x.lane)
    d.take (x.pa % 64) ++ bs ++ d.drop (x.pa % 64 + n)) (List.replicate 64 0)

/-- The poison marks that a store clears: those of the sectors of which its lanes together write all 64 bytes (R495; DEDUCED, log entry
51). -/
def State.wholeSectors (s : State) (ls : List LAcc) (n : Nat) : State :=
  let ps := ls.filterMap (fun x => match x.loc with | .hbm pa => if (s.keyDraw (keyOf pa)).isSome then some (locOf pa) else none | _ => none)
  if s.poison.isEmpty then s
  else { s with
    poison := s.poison.filter (fun sec => !(List.range 64).all (fun i => ps.any (fun a => decide (a ≤ 64 * sec + i) && decide (64 * sec + i < a + n)))) }

/-- A store (R375, R228). -/
def Ctx.store (c : Ctx) (s0 s : State) (sp : Space) (n sh : Nat) (ac : Acc) : Res :=
  match c.locateAll sp .write n (c.memAddr s sp sh) c.runs [] s with
  | .bad r => r
  | .ok ls s1 =>
    match c.opFault s1 ls false none with
    | some r => .fault r
    | none =>
      let peers := ls.any LAcc.isPeer
      if c.mustWait s1 ac || (peers && 63 ≤ c.w.counter .f) || ls.any (fun x => c.w.mustFollow x n) then .hold s0
      else
        let val (l : Nat) : Nat := c.c s (max 1 (n / 4)) l
        let s2 := (ls.filter (fun x => !x.isPeer)).foldl (fun (t : State) x => t.writeLoc ac x.loc (leBytes n (val x.lane)) false) (s1.wholeSectors ls n)
        if peers then
          let (reqs, s3) := c.requests (s2.noteFar ac ls n false) ls 0x02 32 n false (fun xs => leBytes 8 (sectorMask n xs) ++ sectorData n val xs)
          .ok (c.upd s3 (fun w => w.addOp { id := 0, kind := .store, cls := some .f, reqs := reqs.1, later := reqs.2, issued := s.ptb }))
        else .ok s2

/-! ### Atomics and reductions -/

/-- The new value of R376. -/
def aopNew (o : AOp) (t : Ty) (old c f : Nat) : Nat :=
  let w := 32 * t.words
  let sg := t == .i32 || t == .i64
  match o with
  | .add => (old + c) % 2 ^ w
  | .min => if rdInt sg w c < rdInt sg w old then c else old
  | .max => if rdInt sg w old < rdInt sg w c then c else old
  | .and => old &&& c
  | .or => old ||| c
  | .xor => old ^^^ c
  | .exch => c
  | .cas => if old = c then f else old
  | .fadd => (finish (fpOf t) ⟨.rne, 0⟩ (exAdd .rne (valOf t old) (valOf t c))).1

/-- An atomic writes unless it is a .cas that leaves the value as it is (R377). -/
def aopWrites (o : AOp) (old c f : Nat) : Bool := o != .cas || (old == c && f != old)

def ordCode : Sys2Proof.Ord → Nat
  | .acq => 1 | .rel => 2 | .ar => 3
  | _ => 0

/-- The control word of ATOM and RED (R223). -/
def ctlWord (o : AOp) (t : Ty) (ord : Sys2Proof.Ord) (sc : Scope) (pr : Bool) : Nat :=
  o.code.toNat + t.code.toNat * 2 ^ 8 + ordCode ord * 2 ^ 14 + sc.code.toNat * 2 ^ 16 + (if pr then 2 ^ 19 else 0)

/-- The payload of ATOM and RED (R222, R223). -/
def atomPay (o : AOp) (t : Ty) (ctl : Nat) (cv fv : Nat → Nat) (xs : List LAcc) : List Byte :=
  leBytes 8 ctl ++ xs.flatMap (fun x =>
    leBytes 8 (x.pa % 64 + x.lane * 2 ^ 8) ++ leBytes (tyBytes t) (cv x.lane)
      ++ (if o = .cas then leBytes (tyBytes t) (fv x.lane) else []))

/-- Lanes that fit one packet (R223). -/
def atomPer (o : AOp) (t : Ty) : Nat := 248 / (8 + tyBytes t * (if o = .cas then 2 else 1))

/-- One local read-modify-write (R377): the old value, the PA of a poisoned sector, and the state after. -/
def Ctx.rmw (c : Ctx) (s : State) (ac : Acc) (o : AOp) (t : Ty) (x : LAcc) (cv fv : Nat) : Nat × Option Nat × State :=
  let (bs, bad, s1) := c.readLoc s { ac with rel := false } false x (tyBytes t)
  let old := leVal bs
  if bad.isSome then (0, bad, s1)
  else if aopWrites o old cv fv then (old, none, s1.writeLoc { ac with acq := false } x.loc (leBytes (tyBytes t) (aopNew o t old cv fv)) true)
  else (old, none, s1)

/-- atom (R377, R378, R229). -/
def Ctx.atom (c : Ctx) (s0 s : State) (o : AOp) (t : Ty) (ord : Sys2Proof.Ord) (sc : Scope) (pr sp : Bool) (sh : Nat) : Res :=
  let n := tyBytes t
  let space : Space := if sp then .s else .g
  match c.locateAll space .atomic n (c.memAddr s space sh) c.runs [] s with
  | .bad r => r
  | .ok ls s1 =>
    match c.opFault s1 ls false (some o) with
    | some r => .fault r
    | none =>
      let ac := Acc.of (.warp c.core c.wix) ord sc pr
      if c.mustWait s1 ac || ls.any (fun x => c.w.mustFollow x n) then .hold s0
      else
        let cv (l : Nat) : Nat := c.c s t.words l
        let fv (l : Nat) : Nat := c.fourth s t.words l
        let (vals, bad, s2) := (ls.filter (fun x => !x.isPeer)).foldl (fun (a : List (Nat × Nat) × Option Nat × State) x =>
          let (old, p, u) := c.rmw a.2.2 ac o t x (cv x.lane) (fv x.lane)
          (a.1 ++ [(x.lane, old)], a.2.1.or p, u)) ([], none, s1)
        let (reqs, s3) := c.requests (s2.noteFar ac ls n true) ls 0x03 (atomPer o t) n false (atomPay o t (ctlWord o t ord sc pr) cv fv)
        .ok (c.loadOp s3 .atom t.words n vals reqs.1 bad reqs.2 (some ac))

/-- red (R379, R380, R230): the local lanes wait for the adders (log entry 19). -/
def Ctx.reduce (c : Ctx) (s0 s : State) (o : AOp) (t : Ty) (ord : Sys2Proof.Ord) (sc : Scope) (sh : Nat) : Res :=
  let n := tyBytes t
  match c.locateAll .g .atomic n (c.memAddr s .g sh) c.runs [] s with
  | .bad r => r
  | .ok ls s1 =>
    match c.opFault s1 ls true (some o) with
    | some r => .fault r
    | none =>
      let peers := ls.any LAcc.isPeer
      let locals := ls.filter (fun x => !x.isPeer)
      let ac := Acc.of (.warp c.core c.wix) ord sc
      if c.mustWait s1 ac || (peers && 63 ≤ c.w.counter .f) || (!locals.isEmpty && 63 ≤ c.w.counter .a)
        || ls.any (fun x => x.isPeer && c.w.mustFollow x n) then .hold s0
      else
        let cv (l : Nat) : Nat := c.c s t.words l
        let (hb, reds) := locals.foldl (fun (a : HB × List RedLane) x =>
          let aper := match x.loc with | .host _ => 2 | _ => 0
          let ep := (a.1.of ac.who).rel
          let (h, ms) := a.1.release (if aper = 2 then ac.hostSc else ac)
          (h, a.2 ++ [⟨o, t, Ord.releases ord, sc, aper, x.pa, cv x.lane, ep, ms⟩])) (s1.hb, [])
        let s2 := { s1 with hb := hb }
        let s3 := if locals.isEmpty then s2
          else c.upd s2 (fun w => w.addOp { id := 0, kind := .red, cls := some .a, reds := reds, issued := s.ptb })
        if peers then
          let (reqs, s4) := c.requests (s3.noteFar ac ls n true) ls 0x04 (atomPer o t) n false (atomPay o t (ctlWord o t ord sc false) cv (fun _ => 0))
          .ok (c.upd s4 (fun w => w.addOp { id := 0, kind := .red, cls := some .f, reqs := reqs.1, later := reqs.2, issued := s.ptb }))
        else .ok s3

/-- The record of a reduction that met poison (R496): of the warp that issued it and has moved on, or of an engine. Log entry 82. -/
def State.redPoison (s : State) (who : Agent) (pa : Nat) : State :=
  match who with
  | .warp c wix => s.ringRec { s.recAt c wix 0 [] { cls := 3, code := 3, va := pa } with async := true }
  | _ => s.ringRec { cls := 3, code := 4, gen := ((who.core?.map (fun c => (s.core c).gen)).getD 0), va := pa }

/-- One lane of a reduction at the adders (R380, R496): a poisoned sector is not written. -/
def State.redLane (s : State) (who : Agent) (r : RedLane) : State :=
  let n := tyBytes r.ty
  let ac : Acc := { who := who, strong := true, sc := r.sc, rel := r.rel, l1 := false }
  if r.aper = 2 then
    let (bs, s1) := s.loadHost { ac with rel := false } r.pa n
    s1.hostNote ac r.pa ((leBytes n (aopNew r.op r.ty (leVal bs) r.val 0)).map some)
      (fun h => h.writeWith ac.hostSc (hbHost (locOf r.pa)) n true r.ep r.msgs)
  else if s.poisoned r.pa then s.redPoison who r.pa
  else
    let (bs, s1) := (s.touch r.pa).raceRead { ac with rel := false } (locOf r.pa) (s.peek r.pa n)
    s1.storeNote ac r.pa ((leBytes n (aopNew r.op r.ty (leVal bs) r.val 0)).map some)
      (fun h => h.writeWith ac (locOf r.pa) n true r.ep r.msgs)

/-! ### Occupancy of the memory unit (R369) -/

/-- Cycles of a global or scratchpad access of n bytes per lane. -/
def Ctx.memOcc (c : Ctx) (s : State) (sp : Space) (n sh : Nat) : Nat :=
  let as := c.runs.map (c.memAddr s sp sh)
  match sp with
  | .g => max 1 (distinct (as.map (fun a => a / 64))).length
  | .s =>
    let ws := distinct (as.flatMap (fun a => (List.range (max 1 (n / 4))).map (fun k => a / 4 + k)))
    max 1 ((List.range 32).foldl (fun m b => max m (ws.filter (fun w => w % 32 == b)).length) 0)
  | .c => 1

end Sys2Proof.Machine
end

