-- ==== Sys2Proof/Machine/Barrier.lean ====
section
/-! DEFINITION. Writes that the CP, a task engine or a teller makes on a job's behalf (R481, R548), package sets (R188), the phase words of
grid barriers (R396, R397) and fabric barriers from arrival to release (R232 to R237, R530 to R532). -/

namespace Sys2Proof.Machine

/-! ### Writes on a job's behalf (R548) -/

/-- The record of a translation that fails on such a write (R481). Log entry 68. -/
def State.cpXlateRec (s : State) (gen va code level kind : Nat) : State :=
  (s.walkKey s.entryNow false gen va).ringRec { cls := 2, code := code, gen := gen, va := va, info := level * 2 ^ 8 + kind * 2 ^ 6 + 4 * 2 ^ 10 }

/-- The record of a write to the OCM, which is not made (R548). -/
def State.cpOcmRec (s : State) (gen va : Nat) : State :=
  s.ringRec { cls := 1, code := 0xB, async := true, gen := gen, va := va, info := 3 + 16 * 15 }

/-- A request of the CP to another package. -/
def State.cpRequest (s : State) (gen dst opc pa : Nat) (pay : List Byte) : Nat × State :=
  let tag := s.tag
  (tag, ({ s with tag := (tag + 1) % 2 ^ 32 }).sendPacket (s.mkPacket gen dst 0 opc tag (pa / 64 * 64) pay))

/-- A WR of a few bytes. -/
def wrPay (pa : Nat) (bs : List Byte) : List Byte :=
  leBytes 8 ((2 ^ bs.length - 1) * 2 ^ (pa % 64)) ++ (List.replicate (pa % 64) 0 ++ bs ++ List.replicate 64 0).take 64

/-- The packet of a write of the CP or a teller that goes to a peer page (R288, R548): the write is counted, and noted as what it
releases. -/
def State.farPacket (s : State) (gen va dev pa opc n : Nat) (ac : Acc) (pay : List Byte) : Packet × State :=
  let s1 := s.hotCount gen va dev
  (s1.mkPacket gen dev 0 opc s1.tag (pa / 64 * 64) pay,
    { s1 with hb := s1.hb.farWrite ac (hbPeer dev pa) n (opc == 0x04), tag := (s1.tag + 1) % 2 ^ 32 })

/-- Such a write, sent; its destination and tag. -/
def State.farStore (s : State) (gen va dev pa opc n : Nat) (ac : Acc) (pay : List Byte) : (Nat × Nat) × State :=
  let (p, s1) := s.farPacket gen va dev pa opc n ac pay
  ((dev, p.tag.toNat), s1.sendPacket p)

/-- Write bytes within one sector under a generation's translation (R481, R548); the destination and tag of a packet. -/
def State.jobWrite (s : State) (gen va : Nat) (ac : Acc) (bs : List Byte) : Option (Nat × Nat) × State :=
  match s.xlateCp gen va .write with
  | .ok pa leaf =>
    match aperOf leaf with
    | 0 => (none, s.storePA ac pa (bs.map some))
    | 1 => let (k, t) := s.farStore gen va (devOf leaf) pa 0x02 bs.length ac (wrPay pa bs); (some k, t)
    | 2 => (none, s.storeHost ac pa (bs.map some))
    | _ => (none, s.cpOcmRec gen va)
  | .bad code level => (none, s.cpXlateRec gen va code level 1)
  | .poison pa => (none, s.ringRec { cls := 3, code := 7, gen := gen, va := pa })

def State.jobStore (s : State) (gen va : Nat) (ac : Acc) (bs : List Byte) : State := (s.jobWrite gen va ac bs).2

/-- Add 1 to an 8 B word as a release at .sy (R241); the destination and tag of a packet. -/
def State.jobAdd (s : State) (gen va : Nat) (who : Agent) : Option (Nat × Nat) × State :=
  let ac : Acc := { who := who, strong := true, sc := .sy, rel := true }
  match s.xlateCp gen va .write with
  | .ok pa leaf =>
    match aperOf leaf with
    | 0 =>
      let (h, ms) := s.hb.release ac
      (none, ({ s with hb := h } : State).redLane who ⟨.add, .n64, true, .sy, 0, pa, 1, (s.hb.of who).rel, ms⟩)
    | 1 =>
      let (k, t) := s.farStore gen va (devOf leaf) pa 0x04 8 ac (leBytes 8 (ctlWord .add .n64 .rel .sy false) ++ leBytes 8 (pa % 64) ++ leBytes 8 1)
      (some k, t)
    | 2 =>
      let (bs, t) := s.loadHost { ac with rel := false } pa 8
      (none, t.storeHost ac pa ((leBytes 8 (leVal bs + 1)).map some) true)
    | _ => (none, s.cpOcmRec gen va)
  | .bad code level => (none, s.cpXlateRec gen va code level 1)
  | .poison pa => (none, s.ringRec { cls := 3, code := 7, gen := gen, va := pa })

/-- The CP, a task engine or a teller reads n bytes of local HBM on a job's behalf; a poisoned sector is consumed as zero (R496; log entry 99). -/
def State.cpRead (s : State) (gen : Nat) (ac : Acc) (pa n : Nat) : Nat × State :=
  if s.poisoned pa then (0, s.ringRec { cls := 3, code := 4, gen := gen, va := pa })
  else let (bs, s1) := s.loadPA ac pa n; (leVal bs, s1)

/-- A phase word released (R234): PHASE inverted, STATUS, EPISODE + 1. Log entry 70. -/
def phaseNext (v status : Nat) : Nat := (fld v 63 32 + 1) % 2 ^ 32 * 2 ^ 32 + status % 256 * 2 ^ 8 + (1 - v % 2)

/-- Send the read of a phase word at a peer page. -/
def State.phaseRead (s : State) (r : CpRead) : State :=
  let (tag, s1) := s.cpRequest r.gen r.dst 0x01 r.pa (leBytes 8 (255 * 2 ^ (r.pa % 64)))
  { s1 with cpReads := s1.cpReads.map (fun q => if q == r then { r with tag := tag, step := 1 } else q) }

/-- The next of the writes that wait for an earlier episode's write of a phase word. -/
def State.phaseTurn (s : State) (dst pa : Nat) : State :=
  let mine (q : CpRead) : Bool := q.dst == dst && q.pa == pa
  if s.cpReads.any (fun q => mine q && q.step != 0) then s
  else match s.cpReads.find? mine with | some r => s.phaseRead r | none => s

/-- The read of a phase word has come back: the word is written as a release. -/
def State.phaseWrite (s : State) (r : CpRead) (old : Nat) : State :=
  let ac : Acc := { who := .cp, strong := true, sc := r.sc, rel := true }
  let (tag, s1) := ({ s with hb := s.hb.farWrite ac (hbPeer r.dst r.pa) 8 false } : State).cpRequest r.gen r.dst 0x02 r.pa
    (wrPay r.pa (leBytes 8 (phaseNext old r.status)))
  { s1 with cpReads := s1.cpReads.map (fun q => if q == r then { r with tag := tag, step := 2 } else q) }

/-- A read or a write of a phase word has ended: its turn is the next's. -/
def State.phaseEnd (s : State) (r : CpRead) : State := ({ s with cpReads := s.cpReads.erase r } : State).phaseTurn r.dst r.pa

/-- The CP writes a phase word (R233, R397): a word at a peer page is read there first, the episodes in turn. -/
def State.jobPhase (s : State) (gen va status : Nat) (sc : Scope) : State :=
  let ac : Acc := { who := .cp, strong := true, sc := sc, rel := true }
  match s.xlateCp gen va .write with
  | .ok pa leaf =>
    match aperOf leaf with
    | 0 =>
      let (v, s1) := s.cpRead gen { ac with rel := false } pa 8
      s1.storePA ac pa ((leBytes 8 (phaseNext v status)).map some) true
    | 1 =>
      let s1 := (s.hotCount gen va (devOf leaf)).hotCount gen va (devOf leaf)
      ({ s1 with cpReads := s1.cpReads ++ [⟨0, devOf leaf, gen, pa, status, sc, 0⟩] } : State).phaseTurn (devOf leaf) pa
    | 2 =>
      let (bs, s1) := s.loadHost { ac with rel := false } pa 8
      s1.storeHost ac pa ((leBytes 8 (phaseNext (leVal bs) status)).map some) true
    | _ => s.cpOcmRec gen va
  | .bad code level => s.cpXlateRec gen va code level 1
  | .poison pa => s.ringRec { cls := 3, code := 7, gen := gen, va := pa }

/-! ### Package sets and core sets (R188) -/

/-- Members of a package set, ascending, from the array at PSETB in key-0 memory. -/
def State.pset (s : State) (p : Nat) : List Nat :=
  let base := fld (s.cpw oPSETB) 55 12 * 2 ^ 12 + 4096 * p
  (List.range 64).flatMap (fun k =>
    let bs := s.peek (base + 64 * k) 64
    (List.range 512).filterMap (fun b => if (bs.getD (b / 8) 0).getLsbD (b % 8) then some (512 * k + b) else none))

/-- Bit c of core set k. -/
def State.cset (s : State) (k c : Nat) : Bool := (s.cpw (oCSET + 64 * k + 8 * (c / 64))).testBit (c % 64)

/-! ### Grid barriers (R396, R397) -/

/-- A doubleword of entry g of a generation's grid-barrier table. -/
def State.gbWord (s : State) (gen g k : Nat) : Nat :=
  match s.genEntry gen with
  | some o => leVal (s.peek (fld (s.cpw (o + 0x20)) 55 12 * 2 ^ 12 + 16 * g + 8 * k) 8)
  | none => 0

/-- The entry takes arrivals of the generation. -/
def State.gbValid (s : State) (gen g : Nat) : Bool :=
  let w := s.gbWord gen g 0
  w.testBit 0 && fld w 32 1 != 0 && fld w 63 48 == gen

/-- One arrival (R397). -/
def State.gbArrive (s : State) (gen g : Nat) : State :=
  let n := ((s.gbCount.find? (fun p => p.1 == gen && p.2.1 == g)).map (fun p => p.2.2)).getD 0 + 1
  let rest := s.gbCount.filter (fun p => !(p.1 == gen && p.2.1 == g))
  if n < fld (s.gbWord gen g 0) 32 1 then { s with gbCount := (gen, g, n) :: rest }
  else ({ s with gbCount := rest }).jobPhase gen (s.gbWord gen g 1) 0 .dv

/-! ### Fabric barriers -/

/-- Doubleword k of descriptor b (R232). -/
def State.fbDesc (s : State) (b k : Nat) : Nat := s.cpw (oFBAR + 64 * b + 8 * k)
def State.fbValid (s : State) (b : Nat) : Bool := (s.fbDesc b 0).testBit 0 && fld (s.fbDesc b 3) 31 0 != 0
def State.fb (s : State) (b : Nat) : FBar := (s.fbars.find? (fun x => x.idx == b)).getD { idx := b }
def State.updFb (s : State) (b : Nat) (f : FBar → FBar) : State :=
  if s.fbars.any (fun x => x.idx == b) then { s with fbars := s.fbars.map (fun x => if x.idx == b then f x else x) }
  else { s with fbars := f { idx := b } :: s.fbars }

/-- A message of the CP about a barrier to a package, which shows there what the CP knows (R233). -/
def State.fbSend (s : State) (gen dst opc b : Nat) (pay : List Byte) : State :=
  ({ s with hb := s.hb.farStamp .cp } : State).sendPacket (s.mkPacket gen dst 2 opc 0 b pay)

/-- One local arrival (R233): at LEXP the CP sends FBAR with its PTB. The first arrival after the descriptor is written gives the
barrier its generation (R530). -/
def State.fbArrive (s : State) (gen b : Nat) : State :=
  let s1 := s.updFb b (fun x => { x with gen := if x.gen = 0 then gen else x.gen, count := x.count + 1 })
  if (s1.fb b).count < fld (s.fbDesc b 3) 31 0 then s1
  else
    (s1.updFb b (fun x => { x with count := 0 })).fbSend gen (fld (s.fbDesc b 1) 30 16) 0x1A b (leBytes 8 s.ptb)

/-- The member writes its phase word (R233 step 4). -/
def State.fbRelease (s : State) (b status : Nat) : State :=
  (s.updFb b (fun x => { x with rels := x.rels + 1 })).jobPhase (s.fb b).gen (s.fbDesc b 2) status .sy

/-- What a member does on SDEC (R237). -/
def State.fbDeclare (s : State) (b bits : Nat) : State :=
  if bits % 4 = 0 then s
  else
    let on := bits.testBit 0
    let mask := s.fbDesc b 6
    let tset := fld (s.fbDesc b 7) 9 0
    let s1 := (List.range 64).foldl (fun (t : State) i =>
      let off := oDQ + 32 * i
      if mask.testBit i && (t.cpw off).testBit 0 then
        let u := t.setCpw off (setFld (t.cpw off) 2 2 (if on then 1 else 0))
        if on then u.setCpw (off + 24) tset else u
      else t) s
    (s.pset tset).foldl (fun (t : State) d =>
      t.sendPacket (t.mkPacket (s.fb b).gen d 2 0x1D 0 s.dev
        (leBytes 8 mask ++ leBytes 8 ((s.fb b).rels + 1) ++ leBytes 8 (if on then 1 else 0)))) s1

/-- Members of the barrier that still count (R531). -/
def State.fbLive (s : State) (b : Nat) : List Nat :=
  let x := s.fb b
  (s.pset (fld (s.fbDesc b 1) 9 0)).filter (fun p => !(x.withdrawn.contains p || x.lost.contains p))

/-- The straggler record of an episode (R235): every lag, then the earliest arrival, then EPI. A root whose SRVA is zero has none (DEDUCED
from R232, log entry 49). -/
def State.fbRecord (s : State) (b k e : Nat) (lags : List (Nat × Nat)) : State :=
  let gen := (s.fb b).gen
  let va := s.fbDesc b 4
  let ac : Acc := { who := .cp, strong := true, sc := .sy, rel := true }
  let s1 := ((List.range lags.length).zip lags).foldl (fun (t : State) p =>
    t.jobStore gen (va + 0x40 + 128 * p.1 + 2 * (k % 64)) ac (leBytes 2 p.2.2)) s
  if va = 0 then s
  else (s1.jobStore gen (va + 8) ac (leBytes 8 e)).jobStore gen va ac (leBytes 8 ((k + 1) % 2 ^ 32 + lags.length * 2 ^ 32))

/-- The root's judgement of a member after episode k (R236): whether it is late in enough of the last episodes. -/
def fbLate (spol : Nat) (hist : List (List (Nat × Nat))) (p : Nat) : Bool :=
  let l := ((hist.take (fld spol 29 24 + 1)).filter (fun e =>
    match e.find? (fun q => q.1 == p) with | some q => decide (fld spol 15 0 < q.2) | none => false)).length
  decide (fld spol 21 16 ≤ l)

/-- SEN of a member's descriptor (R236): the root's own, or that of a descriptor on another package. -/
def State.memberSen (s : State) (b p : Nat) : Bool := if p = s.dev then (s.fbDesc b 0).testBit 1 else Config.memberSen s.ptb b p

/-- An episode of which the root holds every arrival (R233 step 3, R235, R236, R531). fuel bounds how many such episodes wait. -/
def State.fbCheck (s : State) (b : Nat) : Nat → State
  | 0 => s
  | fuel + 1 =>
    let x := s.fb b
    let live := s.fbLive b
    let got := live.map (fun p => x.arr.find? (fun a => a.1 == p))
    if live.isEmpty || got.any Option.isNone then s
    else
      let arr := got.filterMap id
      let e := arr.foldl (fun m a => min m a.2) (arr.headD (0, 0)).2
      let lags := (s.pset (fld (s.fbDesc b 1) 9 0)).map (fun p =>
        (p, match arr.find? (fun a => a.1 == p) with | some a => min 0xFFFF ((a.2 - e) / 64) | none => 0xFFFF))
      let k := x.epi
      let s1 := s.fbRecord b k e lags
      let hist := (lags :: x.lags).take 64
      let s2 := s1.updFb b (fun y => { y with epi := k + 1, lags := hist, arr := arr.foldl (fun (l : List (Nat × Nat)) a => l.erase a) y.arr })
      let s3 := (live.filter (s.memberSen b)).foldl (fun (t : State) p =>
        let late := fbLate (s.fbDesc b 5) hist p
        if late == (t.fb b).declared.contains p then t
        else
          (t.updFb b (fun y => { y with declared := if late then p :: y.declared else y.declared.erase p })).fbSend x.gen p 0x1C b
            (leBytes 8 (if late then 1 else 2))) s2
      let status := if !x.lost.isEmpty then 2 else if !x.withdrawn.isEmpty then 1 else 0
      let word := (k + 1) % 2 ^ 32 * 2 ^ 32 + status * 2 ^ 8 + (k + 1) % 2
      (live.foldl (fun (t : State) p => t.fbSend x.gen p 0x1B b (leBytes 8 word)) s3).fbCheck b fuel

/-- An arrival that reaches the root (R233). FBAR carries no episode number: the arrivals of a member count for its episodes in the order in
which they come (DESIGN CHOICE, log entry 100). -/
def State.fbRoot (s : State) (gen b src ptb : Nat) : State :=
  let x := s.fb b
  if !(s.pset (fld (s.fbDesc b 1) 9 0)).contains src || x.withdrawn.contains src || x.lost.contains src then s
  else
    let s1 := s.updFb b (fun x => { x with gen := if x.gen = 0 then gen else x.gen, arr := x.arr ++ [(src, ptb)] })
    s1.fbCheck b (x.arr.length + 2)

/-- The root counts a member out (R531); one that has withdrawn may yet be lost, which is not reported again. -/
def State.fbOut (s : State) (b src : Nat) (lost : Bool) : State :=
  let x := s.fb b
  let again := x.withdrawn.contains src || x.lost.contains src
  if !(s.pset (fld (s.fbDesc b 1) 9 0)).contains src || x.lost.contains src || (!lost && again) then s
  else
    let s1 := s.updFb b (fun x =>
      { x with
        withdrawn := if lost then x.withdrawn else src :: x.withdrawn, lost := if lost then src :: x.lost else x.lost
        arr := x.arr.filter (fun a => a.1 != src), declared := x.declared.erase src })
    let s2 := if again then s1 else s1.ringRec { cls := 6, code := 0xB, info := b + src * 2 ^ 8 + (if lost then 2 ^ 23 else 0) }
    s2.fbCheck b (x.arr.length + 2)

/-- What every other package has released is known to the CP when it applies a release of a barrier (R233; log entry 9). -/
def HB.joinRemotes (h : HB) : HB :=
  h.know.foldl (fun (h : HB) k => match k.who with | .remote d => h.pass (.remote d) .cp | _ => h) h

/-- Apply FBAR, FREL, SDEC or FWDR (R233, R237, R531). -/
def State.barrierPacket (s : State) (p : Packet) : State :=
  let b := p.addr.toNat % 256
  let v := leVal (p.pay.take 8)
  if !s.fbValid b then s
  else if p.opc = 0x1A then s.fbRoot p.gen.toNat b p.src.toNat v
  else if p.opc = 0x1B then ({ s with hb := s.hb.joinRemotes } : State).fbRelease b (fld v 15 8)
  else if p.opc = 0x23 then s.fbOut b p.src.toNat false
  else s.fbDeclare b v

/-- A member that declares the root unreachable (R532). -/
def State.fbNoRoot (s : State) (b : Nat) : State :=
  let s1 := (s.updFb b (fun x => { x with noRoot := true })).ringRec { cls := 6, code := 0xC, info := b }
  if (s.fb b).gen = 0 then s1 else s1.jobPhase (s.fb b).gen (s.fbDesc b 2) 3 .sy

end Sys2Proof.Machine
end

