-- ==== Sys2Proof/Machine/Layout.lean ====
section
/-! DEFINITION. The images of warps and cores in memory: park records (R10, R60, R189) and vaults (R197, R202, R203). Below the field level
the layout is the device's own (log entry 23). -/

namespace Sys2Proof.Machine

/-- Bytes cut or filled with zeros to a length. -/
def padTo (n : Nat) (bs : List Byte) : List Byte := (bs ++ List.replicate (n - bs.length) 0).take n

/-- The full/empty bits of q0 to q7 (R53, R92), and each one's position: the entry that a push reserves or a pop claims next. -/
def Warp.queueState (w : Warp) (g : Group) : List Byte :=
  leBytes 4 ((List.range 8).foldl (fun m n => if w.qFull g n then m + 2 ^ n else m) 0)
    ++ (List.range 8).flatMap (fun n => let (b, push, k) := w.binding n; leBytes 4 (if !b then 0 else if push then (g.ring k).tail else (g.ring k).head))

/-- The state of R36 besides v registers and tiles, with the warp's bases and SEED: the control part of a park record (R60), and a slot
record (R202). -/
def Warp.control (w : Warp) (g : Group) : List Byte :=
  let resume (l : Nat) : Nat := ((w.conv.findSome? (fun c => c.resume.find? (fun p => p.1 == l))).map (fun p => p.2.toNat)).getD 0
  padTo 2048
    (padTo 256 (w.pcs.flatMap (fun p => leBytes 8 p.toNat)) ++ leBytes 4 w.fin.toNat ++ padTo 64 (w.preds.flatMap (fun p => leBytes 4 p.toNat))
      ++ (List.range 128).flatMap (fun r => leBytes 4 (w.wGet r)) ++ leBytes 16 (~~~ w.wE).toNat ++ leBytes 4 w.cnt ++ leBytes 4 w.fpstat.toNat
      ++ leBytes 8 w.seed.toNat ++ leBytes 4 w.qb.toNat ++ leBytes 4 w.qcls.toNat ++ w.queueState g ++ leBytes 4 w.vBase ++ leBytes 4 w.aBase
      ++ padTo 384 (w.conv.flatMap (fun c => leBytes 4 c.reg ++ leBytes 4 c.mask.toNat ++ leBytes 4 c.arrived.toNat))
      ++ lanes.flatMap (fun l => leBytes 8 (resume l)))

/-- Lane data of a v register, and its full bits. -/
def Warp.vData (w : Warp) (r : Nat) : List Byte := lanes.flatMap (fun l => leBytes 4 (w.vGet r l))
def Warp.vFull (w : Warp) (r : Nat) : List Byte := leBytes 4 (~~~ (w.vEmpty r)).toNat

/-- A tile. -/
def Warp.tileData (w : Warp) (k : Nat) : List Byte := (List.range 128).flatMap (fun j => leBytes 4 (w.acc.get (128 * k + j)).toNat)

/-! ### Park records -/

/-- Bytes of a park record (R60). -/
def Warp.parkBytes (w : Warp) : Nat := 2048 + 132 * w.vBud + 512 * w.aBud

/-- The park record of a warp (R60). -/
def Warp.parkRecord (w : Warp) (g : Group) : List Byte :=
  w.control g ++ (List.range w.vBud).flatMap (fun r => w.vData r ++ w.vFull r) ++ (List.range w.aBud).flatMap w.tileData

/-- Lay the park record of a warp in its core's park area, under the job's key (R10, R60). -/
def State.layPark (s : State) (c : Nat) (w : Warp) : State :=
  s.pokePA ((s.core c).slot.park + w.parkAt) (w.parkRecord (s.group c w.gid))

/-- The parked warps of a core. -/
def Core.parked (k : Core) : List Warp := k.warps.filter (fun w => w.place.isNone && !w.sup)

/-- Lay the park records of a core one after another; one that stands where it did is not laid again. fresh: the warp that parks now. -/
def State.layParks (s : State) (c fresh : Nat) : State :=
  ((s.core c).parked.foldl (fun (a : Nat × State) w =>
    (a.1 + w.parkBytes,
      if w.wix == fresh || w.parkAt != a.1 then
        let w1 := { w with parkAt := a.1 }
        (a.2.updWarp c w.wix (fun x => { x with parkAt := a.1 })).layPark c w1
      else a.2)) (0, s)).2

/-! ### Vaults -/

/-- The images of a resident warp in a vault (R202): its v registers, their full bits, its tiles and its slot record. -/
def State.layWarp (s : State) (pa : Nat) (g : Group) (w : Warp) : State :=
  match w.place with
  | none => s
  | some (sl, n) =>
    let s1 := (List.range w.vBud).foldl (fun (t : State) r =>
      (t.pokePA (pa + 0x30000 + 0x20000 * sl + 128 * (w.vBase + r)) (w.vData r)).pokePA
        (pa + 0x29000 + 4 * (1024 * sl + w.vBase + r)) (w.vFull r)) s
    let s2 := (List.range w.aBud).foldl (fun (t : State) k => t.pokePA (pa + 0xB0000 + 0x10000 * sl + 512 * (w.aBase + k)) (w.tileData k)) s1
    s2.pokePA (pa + 0x1000 + 0x800 * (16 * sl + n)) (w.control g)

/-- What a wait is, for the parked-warp table. -/
def Wait.code : Wait → List Byte
  | .none => leBytes 8 0
  | .cnt thr => leBytes 8 (1 + thr.toNat * 2 ^ 32)
  | .ph core phys tok sc => leBytes 8 (2 + (if tok then 2 ^ 8 else 0) + sc.code.toNat * 2 ^ 16) ++ leBytes 8 (phys + core * 2 ^ 32)
  | .mem ls pd sc => leBytes 8 (3 + pd * 2 ^ 8 + sc.code.toNat * 2 ^ 16 + ls.toNat * 2 ^ 32)
  | .phg sc => leBytes 8 (4 + sc.code.toNat * 2 ^ 16)
  | .svc => leBytes 8 5
  | .yield n => leBytes 8 (6 + n * 2 ^ 8)

/-- The entry of a parked warp in the parked-warp table: its scheduling state (R197). -/
def Warp.parkEntry (w : Warp) : List Byte :=
  padTo 64 (leBytes 4 w.gid ++ leBytes 4 w.warp ++ leBytes 4 w.parkAt ++ leBytes 4 w.vBud ++ leBytes 4 w.wBud ++ leBytes 4 w.aBud
    ++ leBytes 1 ((if w.stopped then 1 else 0) + (if w.parkHeld then 2 else 0) + (if w.replay.isSome then 4 else 0)) ++ leBytes 7 0 ++ w.wait.code
    ++ (w.needs.flatten.flatMap (fun x => leBytes 2 (x.1 + x.2.1 * 2))))

def State.layEntry (s : State) (pa : Nat) (w : Warp) : State := s.pokePA (pa + 0x21000 + 64 * (w.wix % 256)) w.parkEntry

/-- A group in a vault. -/
def Vault.group (v : Vault) (gid : Nat) : Group := (v.groups.find? (fun g => g.gid == gid)).getD emptyGroup

/-- Progress of a copy, with the shape record it read (R193). -/
def Copy.progress (x : Copy) : List Byte :=
  padTo 128 (leBytes 4 x.id ++ leBytes 4 x.gid ++ leBytes 4 x.role ++ leBytes 4 x.index ++ leBytes 4 x.opc ++ leBytes 4 x.mods ++ leBytes 8 x.target
    ++ leBytes 4 (x.xfers.filter Xfer.done).length ++ leBytes 4 x.xfers.length ++ padTo 64 ((x.got.head?.map Prod.snd).getD []))

/-- The state area (R202): copies, queue ports, barrier objects, monitor registrations and the mailbox. -/
def Vault.stateArea (v : Vault) (mons : List Mon) : List Byte :=
  padTo 0x1000 (v.copies.flatMap Copy.progress)
    ++ padTo 0x1000 (v.groups.flatMap (fun g => g.rings.flatMap (fun r => leBytes 4 r.tail ++ leBytes 4 r.commit ++ leBytes 4 r.head ++ leBytes 4 r.dlv)))
    ++ padTo 0x400 (v.bars.flatMap (leBytes 4)) ++ padTo 0x800 (mons.flatMap (fun m => leBytes 8 m.pa))
    ++ padTo 0x1400 (v.mbox.flatMap MEntry.bytes)

/-- A saved warp is laid again where its image is: in the vault, or in the park area (R61, R194). -/
def State.layAgain (s : State) (v : Vault) (w : Warp) : State :=
  let g := v.group w.gid
  if w.place.isSome then s.layWarp v.pa g w else (s.pokePA (v.park + w.parkAt) (w.parkRecord g)).layEntry v.pa w

/-- A vault as the save writes it (R197, R202, R203). -/
def State.layVault (s : State) (v : Vault) (aclk : Nat) : State :=
  let s1 := s.pokePA v.pa (leBytes 8 (v.job % 2 ^ 32 * 2 ^ 16 + v.gen) ++ leBytes 8 s.ptb ++ leBytes 8 (aclk % 2 ^ 16))
  let s2 := v.groups.foldl (fun (t : State) g => t.pokePA (v.pa + 0xF0000 + g.spBase) (SMap.getN v.sp g.spBytes g.spBase)) s1
  let s3 := v.warps.foldl (fun (t : State) w => t.layWarp v.pa (v.group w.gid) w) s2
  let s4 := (v.warps.filter (fun w => w.place.isNone)).foldl (fun (t : State) w => t.layEntry v.pa w) s3
  s4.pokePA (v.pa + 0x25000) (v.stateArea (s.mons.filter (fun m => m.dev == s.dev && m.core == v.core && m.gen == v.gen)))

end Sys2Proof.Machine
end

