-- ==== Sys2Proof/Machine/Memory.lean ====
section
/-! DEFINITION. Loads, stores, atomics, reductions and fences (R371 to R384). -/

namespace Sys2Proof.Machine

/-- Bytes of a size code, and whether it sign-extends (R371). -/
def szBytes : Sz → Nat
  | .b32 => 4 | .b8 | .sb8 => 1 | .b16 | .sb16 => 2 | .b64 => 8 | .b128 => 16

def szSx (z : Sz) : Bool := z == .sb8 || z == .sb16

/-- ld (R371, R372). -/
def execLd (f : Fmt) (sp : Space) (sz : Sz) (ord : Sys2Proof.Ord) (sco : Scope) (pr : Bool) (sh : BitVec 3) (s : State) :=
  issueOcc (.ld f sp sz ord sco pr sh) f (fun c t => c.memOcc t sp (szBytes sz) sh.toNat)
    (fun c t => c.load s t sp (szBytes sz) (szSx sz) sh.toNat (Acc.of (.warp c.core c.wix) ord sco pr) false) s

/-- ldro (R373, R142). -/
def execLdro (f : Fmt) (sz : Sz) (sh : BitVec 3) (s : State) :=
  issueOcc (.ldro f sz sh) f (fun c t => c.memOcc t .g (szBytes sz) sh.toNat)
    (fun c t => c.load s t .g (szBytes sz) (szSx sz) sh.toNat (Acc.weak (.warp c.core c.wix)) true) s

/-- ldk (R374). -/
def execLdk (f : Fmt) (cnt : BitVec 3) (s : State) :=
  issue (.ldk f cnt) f (fun c t =>
    let n := 2 ^ cnt.toNat
    let a := c.a t 1 c.low
    let info := 2 + 16 * Nat.log2 (4 * n)
    if a % (4 * n) != 0 then .fault { cls := 1, code := 5, lane := some c.low, va := a, info := info }
    else if 0x2000 ≤ a then .fault { cls := 1, code := 7, lane := some c.low, va := a, info := info }
    else
      let bs := (List.range (4 * n)).map (fun i => (t.group c.core c.w.gid).constByte c.w.warp c.low (a + i))
      .ok (c.loadOp t .load n (4 * n) [(c.low, leVal bs)] [] none)) s

/-- st (R375). -/
def execSt (f : Fmt) (sp : Space) (sz : Sz) (ord : Sys2Proof.Ord) (sco : Scope) (sh : BitVec 3) (s : State) :=
  issueOcc (.st f sp sz ord sco sh) f (fun c t => c.memOcc t sp (szBytes sz) sh.toNat)
    (fun c t => c.store s t sp (szBytes sz) sh.toNat (Acc.of (.warp c.core c.wix) ord sco)) s

/-- atom (R376 to R378). -/
def execAtom (f : Fmt) (op : AOp) (ty : Ty) (ord : Sys2Proof.Ord) (sco : Scope) (pr sp : Bool) (sh : BitVec 3) (s : State) :=
  issueOcc (.atom f op ty ord sco pr sp sh) f (fun c t => c.memOcc t (if sp then .s else .g) (tyBytes ty) sh.toNat)
    (fun c t => c.atom s t op ty ord sco pr sp sh.toNat) s

/-- red (R379, R380). -/
def execRed (f : Fmt) (op : AOp) (ty : Ty) (ord : Sys2Proof.Ord) (sco : Scope) (sh : BitVec 3) (s : State) :=
  issueOcc (.red f op ty ord sco sh) f (fun c t => c.memOcc t .g (tyBytes ty) sh.toNat)
    (fun c t => c.reduce s t op ty ord sco sh.toNat) s

/-- Every earlier read of the warp has returned. -/
def Warp.readsBack (w : Warp) : Bool :=
  !w.ops.any (fun o => (o.kind == .load || o.kind == .atom) && !o.done)

/-- fence (R382): an acquire waits for earlier reads, a release for F-class and A-class operations; earlier stores have been performed at
their issue (log entry 8). -/
def execFence (f : Fmt) (ord : Sys2Proof.Ord) (sco : Scope) (s : State) :=
  issue (.fence f ord sco) f (fun c t =>
    let acq := ord == .acq || ord == .ar
    if (acq && !c.w.readsBack) || (Ord.releases ord && !c.w.mayRelease) then .hold s
    else .ok { t with hb := t.hb.fence (.warp c.core c.wix) ord sco }) s

/-- fro (R383). -/
def execFro (f : Fmt) (s : State) :=
  issueOk (.fro f) f (fun c t => t.updCore c.core (fun k => { k with roAt := t.undo.length })) s

/-- rcfence (R384): a record on its way from a peer is not entered when it comes. -/
def execRcfence (f : Fmt) (s : State) :=
  issue (.rcfence f) f (fun c t =>
    if c.w.ops.any (fun o => o.kind == .store && !o.done) then .hold s
    else .ok (t.updCore c.core (fun k => { k with
      rcache := [], copies := k.copies.map (fun (x : Copy) => if x.want.isSome then { x with stale := true } else x) }))) s

end Sys2Proof.Machine
end

