-- ==== Sys2Proof/Machine/Sync.lean ====
section
/-! DEFINITION. Waiting, barrier objects, grid and fabric barriers, and queue control (R385 to R400), and parking (R59, R60). -/

namespace Sys2Proof.Machine

/-! ### Parking -/

/-- Park a warp if its record fits in the free space of the core's park area (R59). Its tiles stay in accumulator memory (R107). -/
def State.parkWarp (s : State) (c wix : Nat) : State :=
  let used := (s.core c).parked.foldl (fun n w => n + w.parkBytes) 0
  let w := s.warp c wix
  if w.sup || w.place.isNone || 2 ^ 20 < used + w.parkBytes then s
  else ((s.leaveTiles c w).updWarp c wix (fun w => { w with place := none })).layParks c wix

/-! ### Barrier objects (R390 to R395) -/

/-- A barrier object: EXPECTED, PENDING, BYTES, PHASE, and its reserved bits as they stand. -/
structure Bar where
  exp   : Nat
  pend  : Nat
  bytes : Int
  phase : Bool
  rest  : Nat := 0
  deriving DecidableEq, Repr

def barOf (bs : List Byte) : Bar :=
  let v := leVal bs
  ⟨fld v 63 48, fld v 47 32, sInt 32 v, v.testBit 64, fld v 127 65⟩

def Bar.enc (b : Bar) : List Byte :=
  leBytes 16 (wrapN 32 b.bytes + b.pend * 2 ^ 32 + b.exp * 2 ^ 48 + (if b.phase then 2 ^ 64 else 0) + b.rest % 2 ^ 63 * 2 ^ 65)

/-- The completion test of R392. -/
def Bar.settle (b : Bar) : Bar :=
  if b.pend = 0 && b.bytes = 0 then { b with phase := !b.phase, pend := b.exp } else b

/-- The object is listed on the core whose scratchpad holds it (R394). -/
def State.listed (s : State) (core phys : Nat) : Bool := (s.core core).bars.contains phys

/-- A barrier operation is strong at its scope (R390); an arrival reaches those that observe the phase at any scope (R395). -/
def barAcc (who : Agent) (sc : Scope) (rel : Bool) : Acc := { who := who, strong := true, sc := sc, rel := rel, bar := true }

/-- One atomic step on an object (R390): what it held, and the state with what it holds after. -/
def State.barStep (s : State) (who : Agent) (sc : Scope) (rel : Bool) (core phys : Nat) (f : Bar → Bar) : Bar × State :=
  let (bs, s1) := s.loadSp (barAcc who sc false) core phys 16
  let b := barOf bs
  (b, s1.storeSp (barAcc who sc rel) core phys ((f b).enc.map some) true)

/-- A posting of n bytes (R393), a release at .cl by the copy engine (R395). -/
def State.barPost (s : State) (who : Agent) (core phys n : Nat) : State :=
  (s.barStep who .cl true core phys (fun b => { b with bytes := sInt 32 (wrapN 32 (b.bytes - n)) : Bar }.settle)).2

/-- The address of a barrier instruction: A is a scratchpad address of 16 B (R391). -/
def Ctx.barAt (c : Ctx) (s : State) : Except Res (Nat × Nat × Nat) :=
  let a := c.a s 1 c.low
  match c.locate s .s .atomic 16 c.low a with
  | (.ok (.sp core phys), _) => .ok (a, core, phys)
  | (.error r, _) => .error r
  | _ => .error (.fault { cls := 1, code := 6, lane := some c.low, va := a })

def barFault (a why : Nat) : Res := .fault { cls := 1, code := 0xC, va := a, info := why }

/-- bini (R392, R394). -/
def execBini (f : Fmt) (s : State) :=
  issue (.bini f) f (fun c t =>
    match c.barAt t with
    | .error r => r
    | .ok (a, core, phys) =>
      let n := c.b t 1 c.low
      if n = 0 || 65535 < n then barFault a 3
      else if t.listed core phys then
        let (b, t1) := t.barStep (.warp c.core c.wix) .cl false core phys (fun b => { b with exp := n, pend := n, rest := 0 })
        if b.pend = b.exp && b.bytes = 0 then .ok t1 else barFault a 6
      else if 256 ≤ (t.core core).bars.length then barFault a 2
      else
        .ok ((t.storeSp (barAcc (.warp c.core c.wix) .cl false) core phys ((Bar.enc { exp := n, pend := n, bytes := 0, phase := false }).map some)).updCore core
          (fun k => { k with bars := k.bars ++ [phys] }))) s

/-- barv (R392, R395): a release waits by R139. -/
def execBarv (f : Fmt) (sco : Scope) (s : State) :=
  issue (.barv f sco) f (fun c t =>
    match c.barAt t with
    | .error r => r
    | .ok (a, core, phys) =>
      let n := c.b t 1 c.low
      if !c.w.mayRelease then .hold s
      else if !t.listed core phys then barFault a 1
      else
        let (b, t1) := t.barStep (.warp c.core c.wix) sco true core phys (fun b => ({ b with pend := b.pend - n } : Bar).settle)
        if b.pend < n then barFault a 4
        else .ok (c.wr t1 1 (fun _ => if b.phase then 1 else 0))) s

/-- bexp (R392). -/
def execBexp (f : Fmt) (s : State) :=
  issue (.bexp f) f (fun c t =>
    match c.barAt t with
    | .error r => r
    | .ok (a, core, phys) =>
      let n := c.b t 1 c.low
      if !t.listed core phys then barFault a 1
      else
        let (b, t1) := t.barStep (.warp c.core c.wix) .cl false core phys (fun b => ({ b with bytes := b.bytes + n } : Bar).settle)
        if b.bytes + n < -(2 ^ 31) || 2 ^ 31 ≤ b.bytes + n then barFault a 5 else .ok t1) s

/-! ### await (R385 to R389) -/

/-- Each counter is at or below its threshold (R386). -/
def Warp.atMost (w : Warp) (thr : Nat) : Bool :=
  w.counter .c ≤ fld thr 5 0 && w.counter .m ≤ fld thr 11 6 && w.counter .f ≤ fld thr 17 12 && w.counter .a ≤ fld thr 23 18

/-- The warp comes after the accesses of its retired matrix operations (R138): all but the outstanding ones. -/
def HB.learnUnit (h : HB) (c wix out : Nat) : HB :=
  let k := h.of (.warp c wix)
  h.put { k with clk := k.clk.put (.unit c wix) ((h.of (.unit c wix)).rel - out) }

/-- A copy that has landed for the warp still waits for an earlier operation of its class to retire (R137). -/
def Warp.unretired (w : Warp) (id : Nat) : Bool := w.ops.any (fun o => o.kind == .copy id)

/-- What the end of an await.cnt orders (R138): the engines of the warp's retired copies, and its retired matrix operations, come before
what the warp issues next. -/
def State.learnRetired (s : State) (c wix : Nat) : State :=
  let w := s.warp c wix
  let s1 := (w.landed.filter (fun id => !w.unretired id)).foldl (fun (t : State) id => { t with hb := t.hb.pass (.engine c id) (.warp c wix) }) s
  ({ s1 with hb := s1.hb.learnUnit c wix (w.counter .m) } : State).updWarp c wix (fun w => { w with landed := w.landed.filter w.unretired })

/-- await.cnt (R386). -/
def execAwaitCnt (f : Fmt) (s : State) :=
  issueOk (.awaitCnt f) f (fun c t =>
    let thr := c.a t 1 c.low
    if c.w.atMost thr then t.learnRetired c.core c.wix
    else c.upd t (fun w => { w with wait := .cnt (BitVec.ofNat 32 thr), since := max t.ptb 1 })) s

/-- The phase of an object, read as a strong acquire at the scope of the instruction (R387, R395). -/
def State.phase (s : State) (c wix core phys : Nat) (sc : Scope) : Bool × State :=
  let (bs, s1) := s.loadSp { who := .warp c wix, strong := true, sc := sc, acq := true, bar := true } core phys 16
  ((barOf bs).phase, s1)

/-- await.ph on a barrier object (R387). -/
def execAwaitPh (f : Fmt) (sco : Scope) (s : State) :=
  issue (.awaitPh f sco) f (fun c t =>
    match c.barAt t with
    | .error r => r
    | .ok (a, core, phys) =>
      if !t.listed core phys then barFault a 1
      else
        let tok := (c.b t 1 c.low).testBit 0
        let (ph, t1) := t.phase c.core c.wix core phys sco
        if ph != tok then .ok t1
        else .ok (c.upd t (fun w => { w with wait := .ph core phys tok sco, since := max t.ptb 1 }))) s

/-- Re-examine the wait of a warp for a counter or a barrier object (R61, R386, R387): true in the first part when it ends. -/
def State.retest (s : State) (c wix : Nat) : State :=
  let w := s.warp c wix
  let done (t : State) : State := t.updWarp c wix (fun w => { w with wait := .none, since := 0, age := t.cycOf c w })
  match w.wait with
  | .cnt thr => if w.atMost thr.toNat then done (s.learnRetired c wix) else s
  | .ph core phys tok sc =>
    let (ph, s1) := s.phase c wix core phys sc
    if ph != tok then done s1 else s
  | _ => s

/-- CTL and WHO of an entry, as MON carries them (R121, R222). -/
def Mon.ctl (m : Mon) : Nat := m.cmp.code.toNat + (if m.dw then 16 else 0)
def Mon.whoWord (m : Mon) : Nat := m.dev + m.core * 2 ^ 15 + (m.wix % 256) * 2 ^ 24 + m.gen * 2 ^ 32

/-- Register, locally or at a peer (R122, R127, R231, R388); the wait that then holds the warp parks it (R59). -/
def Ctx.register (c : Ctx) (s0 s : State) (x : LAcc) (m : Mon) (wait : Wait) : Res :=
  let parked (t : State) (d : Option Nat) : Res :=
    .ok ((c.upd t (fun w => { w with wait := wait, result := none, waitDev := d, waitPA := x.pa })).parkWarp c.core c.wix)
  let ended (t : State) (h : Bool) : Res :=
    .ok (c.upd t (fun w => ({ w with wait := wait, result := some h } : Warp).settle (t.cycOf c.core w)))
  match x.loc with
  | .hbm pa =>
    if c.w.mustFollow x m.bytes then .hold s0
    else
      match s.monRegister { m with pa := pa } with
      | (some h, t) => ended t h
      | (none, t) => parked t none
  | .peer d pa =>
    if c.w.mustFollow x m.bytes then .hold s0
    else
      let (q, t) := c.mkReq (s.hotCount (c.pktGen s) x.a d) d pa 0x05
        (leBytes 8 m.opnd.toNat ++ leBytes 8 m.maskv.toNat ++ leBytes 8 m.dline ++ leBytes 8 m.ctl ++ leBytes 8 m.whoWord) [⟨0, 0, m.bytes, false⟩]
      parked (t.sendReq c.core c.wix q) (some d)
  | _ => .hold s0

/-- The checks of an await on global memory (R388). -/
def Ctx.awaitAt (c : Ctx) (s : State) (n a : Nat) (k : State → LAcc → Res) : Res :=
  match c.locateAll .g .read n (fun _ => a) [c.low] [] s with
  | .bad r => r
  | .ok ls s1 =>
    match ls with
    | x :: _ =>
      match x.loc with
      | .host _ => .fault { cls := 1, code := 0xB, lane := some c.low, va := a, info := 2 + 16 * 15 }
      | .ocm _ => .fault { cls := 1, code := 0xB, lane := some c.low, va := a, info := 3 + 16 * 15 }
      | _ =>
        match c.opFault s1 ls false none with
        | some r => .fault r
        | none => k s1 x
    | [] => .hold s

def Ctx.monOf (c : Ctx) (s : State) (cmp : MCmp) (dw : Bool) (sc : Scope) (opnd maskv dline : Nat) : Mon :=
  { pa := 0, opnd := BitVec.ofNat 64 opnd, maskv := BitVec.ofNat 64 maskv, dline := dline, dev := s.dev, core := c.core, wix := c.wix
    gen := c.pktGen s, cmp := cmp, dw := dw, sc := sc, st := .armed }

/-- await.ph.g (R387). -/
def execAwaitPhG (f : Fmt) (sco : Scope) (s : State) :=
  issue (.awaitPhG f sco) f (fun c t =>
    c.awaitAt t 8 (c.a t 2 c.low) (fun u x =>
      c.register s u x (c.monOf u .meq true sco (1 - c.b t 1 c.low % 2) 1 0) (.phg sco))) s

/-- await.mem (R388). -/
def execAwaitMem (f : Fmt) (cmp : Sys2Proof.MCmp) (dw : Bool) (sco : Scope) (s : State) :=
  issue (.awaitMem f cmp dw sco) f (fun c t =>
    let off := if c.f.len = .l128 then sInt 32 c.f.x.toNat else 0
    let n := if dw then 2 else 1
    c.awaitAt t (4 * n) (wrapN 64 ((c.a t 2 c.low : Int) + off)) (fun u x =>
      c.register s u x (c.monOf u cmp dw sco (c.b t n c.low) (c.c t n c.low) (c.fourth t 2 c.low)) (.mem c.active f.d.predN sco))) s

/-! ### Grid and fabric barriers (R397) -/

/-- gbar.grid. -/
def execGbarGrid (f : Fmt) (s : State) :=
  issue (.gbarGrid f) f (fun c t =>
    let g := c.b t 1 c.low % 256
    let gen := (t.core c.core).gen
    if !c.w.mayRelease then .hold s
    else if !t.gbValid gen g then barFault g 7
    else .ok (({ t with hb := t.hb.pass (.warp c.core c.wix) .cp }).gbArrive gen g)) s

/-- gbar.fab. -/
def execGbarFab (f : Fmt) (s : State) :=
  issue (.gbarFab f) f (fun c t =>
    let b := c.b t 1 c.low % 256
    if !c.w.mayRelease then .hold s
    else if !t.fbValid b || (t.fb b).noRoot then barFault b 7
    else .ok (({ t with hb := t.hb.pass (.warp c.core c.wix) .cp }).fbArrive (t.core c.core).gen b)) s

/-! ### Queue control (R398 to R400) -/

/-- The ring closes when every warp of the group that binds it for pushing has closed it or completed (R399). -/
def State.tryClose (s : State) (c gid k : Nat) : State :=
  let open_ := (s.core c).warps.any (fun w => w.gid == gid && w.pushes k && !w.qClosed k)
  if open_ then s
  else s.updRing c gid k (fun r => if r.closeAt.isSome then r else { r with closeAt := some r.tail })

def queueFaultRes (why q : Nat) : Res := .fault { cls := 1, code := 0xD, info := why + 256 * q }

/-- qcls (R399). -/
def execQcls (f : Fmt) (qn : BitVec 3) (s : State) :=
  issue (.qcls f qn) f (fun c t =>
    let (bound, push, ring) := c.w.binding qn.toNat
    if !bound then queueFaultRes 1 qn.toNat
    else if !push then queueFaultRes 4 qn.toNat
    else
      .ok ((c.upd t (fun w => { w with qcls := w.qcls ||| BitVec.ofNat 8 (2 ^ qn.toNat) })).tryClose c.core c.w.gid ring)) s

/-- qstat (R400). -/
def execQstat (f : Fmt) (qn : BitVec 3) (s : State) :=
  issue (.qstat f qn) f (fun c t =>
    let (bound, push, ring) := c.w.binding qn.toNat
    if !bound then queueFaultRes 1 qn.toNat
    else
      let g := t.group c.core c.w.gid
      let r := g.ring ring
      let depth := (g.ringDef ring).2.1
      let closed := r.closeAt.isSome
      let drained := match r.closeAt with | some x => decide (x ≤ r.head) | none => false
      .ok (c.wr t 1 (fun _ =>
        (r.commit - r.head) + (depth + r.dlv - r.tail) % 2 ^ 9 * 2 ^ 9 + (if push then 2 ^ 18 else 0)
          + (if drained then 2 ^ 30 else 0) + (if closed then 2 ^ 31 else 0)))) s

end Sys2Proof.Machine
end

