-- ==== Sys2Proof/Machine/Path.lean ====
section
/-! DEFINITION. What a slice does in a cycle before an instruction's meaning: the passing of time, which warps are candidates and in
which order, the paths of a warp and their ranking (R37 to R45), and fetching an instruction's bytes (R300, R475). -/

namespace Sys2Proof.Machine

/-- The outcome of an event: the next state, or the model's fault if the event ran into one. -/
def State.out (s : State) : Host.Outcome State Fault Refusal :=
  match s.stop with
  | some f => .fault f
  | none => .next s

/-- A generation is running: some core is in its slot and has not begun to halt (R196). -/
def State.running (s : State) (gen : Nat) : Bool :=
  gen != 0 && s.cores.any (fun k => k.gen == gen && k.phase == .run)

/-- The PTB and its fraction, in units of 2^-16 ns, after dt ns of the package's own clock at the corrected rate (R177, R180). Log entry 53. -/
def State.ptbAfter (s : State) (dt : Nat) : Nat :=
  s.ptb * 65536 + s.ptbFrac + dt * 65536 * (1000000 + s.ptp.rate).toNat / 1000000

/-- Nanoseconds pass: the PTB counts, records age in PTB nanoseconds while their generation runs (R77, R78), and the role of scheduler
peer follows the candidates (R183). -/
def State.elapse (s : State) (dt : Nat) : State :=
  if dt = 0 then s
  else
    let now := s.ptbAfter dt / 65536
    { s.scanPaths.idleLinks with
      ptb := now, ptbFrac := s.ptbAfter dt % 65536, peer := ({ s with ptb := now } : State).elect
      tills := s.tills.map (fun (t : Till) =>
        if s.running t.gen then { t with recs := t.recs.map (fun (r : TRec) => { r with age := r.age + (now - s.ptb) }) } else t) }

/-! ### Paths (R37, R39, R42) -/

/-- The paths of a warp: PC and lanes. -/
def Warp.paths (w : Warp) : List (DWord × Mask) :=
  let run := ~~~ (w.fin ||| w.waiting)
  (maskLanes run).foldl (fun (ps : List (DWord × Mask)) l =>
    let pc := w.pcs.getD l 0
    let b := BitVec.ofNat 32 (2 ^ l)
    if ps.any (fun p => p.1 == pc) then ps.map (fun p => if p.1 == pc then (pc, p.2 ||| b) else p) else ps ++ [(pc, b)]) []

/-- The skip count of a path, the greatest of its lanes' (R42). Log entry 89. -/
def Warp.skipOf (w : Warp) (ls : Mask) : Nat := (maskLanes ls).foldl (fun m l => max m (w.skips.getD l 0)) 0

/-- p issues before q: a skip count of 16 first, then more lanes, then the lower PC. -/
def Warp.before (w : Warp) (p q : DWord × Mask) : Bool :=
  let sp := decide (16 ≤ w.skipOf p.2)
  let sq := decide (16 ≤ w.skipOf q.2)
  if sp != sq then sp
  else
    let np := if sp then 0 else popN 32 p.2.toNat
    let nq := if sq then 0 else popN 32 q.2.toNat
    if np != nq then decide (nq < np) else decide (p.1.toNat < q.1.toNat)

/-- Insert into a list ordered by a test. -/
def insertBy {α : Type} (lt : α → α → Bool) (x : α) : List α → List α
  | [] => [x]
  | y :: t => if lt x y then x :: y :: t else y :: insertBy lt x t

def sortBy {α : Type} (lt : α → α → Bool) (l : List α) : List α := l.foldr (insertBy lt) []

/-- The paths of a warp in the order in which they are tried. -/
def Warp.ranked (w : Warp) : List (DWord × Mask) := sortBy w.before w.paths

/-- What one issue of a warp leaves: its age, and the skip counts of its paths, one more for each that was left out (R39, R42).
The count is kept for each lane, so that it goes with the lanes where paths merge, split or move on: R42 does not say how
(DESIGN CHOICE, log entry 89). -/
def State.noteIssue (s : State) (c wix : Nat) (ps : List (DWord × Mask)) (did : Mask) (cyc : Nat) : State :=
  let out : Mask := (ps.foldl (fun (m : Mask) p => m ||| p.2) 0) &&& ~~~ did
  s.updWarp c wix (fun w => { w with
    age := cyc, ready := true, keen := none
    skips := lanes.map (fun l => if out.getLsbD l then w.skips.getD l 0 + 1 else 0) })

/-! ### Candidates (R38, R39, R192, R331) -/

/-- The warp may issue as far as its own state says. -/
def Warp.free (w : Warp) : Bool :=
  w.wait == .none && !w.stopped && w.replay.isNone && !w.parkHeld && w.place.isSome && w.fin != 0xFFFFFFFF#32

/-- The core issues to this warp: the supervisor warp always; a user warp while its core is in a slot and its group has started (R85,
R192). -/
def Core.issues (k : Core) (w : Warp) : Bool :=
  w.sup || (k.phase == .run && ((k.group? w.gid).map Group.started).getD false)

/-- The cycle by which a candidate is ranked: its age while it stays ready, the present cycle when it is only now ready (R39). -/
def Warp.rank (w : Warp) (cyc : Nat) : Nat := if w.ready then w.age else cyc

/-- Candidates of a slice, oldest first, ties to the lower slot. -/
def State.candidates (s : State) (c sl : Nat) : List Nat :=
  let k := s.core c
  let cyc := (s.slice c sl).cyc
  (sortBy (fun (x y : Warp) =>
    let p (w : Warp) : Nat := (w.place.map Prod.snd).getD 0
    if x.rank cyc != y.rank cyc then decide (x.rank cyc < y.rank cyc) else decide (p x < p y))
    (k.warps.filter (fun w => w.free && k.issues w && w.place.map Prod.fst == some sl))).map Warp.wix

/-- A cycle of a slice begins: its count, the matrix unit's power (R413), yields that end (R331), and waits for counters and barrier
objects (R61). A warp that is held by a wait, or may not issue, is not ready (R38). -/
def State.tickSlice (s : State) (c sl : Nat) : State :=
  let s1 := s.updSlice c sl (fun x => ({ x with cyc := x.cyc + 1 } : Slice).ramp)
  let here := (s1.core c).warps.filter (fun w => (w.place.map Prod.fst).getD 0 == sl)
  here.foldl (fun (t : State) w0 =>
    let t1 := t.updWarp c w0.wix (fun w =>
      match w.wait with
      | .yield n => if n ≤ t.cycOf c w then { w with wait := .none, age := n } else w
      | _ => w)
    let t2 := if w0.stopped || w0.replay.isSome then t1 else t1.retest c w0.wix
    t2.updWarp c w0.wix (fun w => if w.place.isSome && !(w.free && (t2.core c).issues w) then { w with ready := false, keen := none } else w)) s1

/-! ### Fetch -/

/-- What a fetch gives a path. -/
inductive Fetched where
  | instr (cu : Cur) (i : Instr)
  | fault (cu : Cur) (r : FRec)
  | replay (cu : Cur) (r : FRec)
  | wait
  deriving DecidableEq, Repr

/-- The aligned 32 bytes at a virtual address as a fetch reads them: none while a peer page has not answered. -/
def State.fetchBlock (s : State) (c wix va : Nat) : Except (Bool × FRec) (Option (List Byte)) × State :=
  let w := s.warp c wix
  let gen := (s.core c).gen
  let ac := Acc.weak (.warp c wix)
  let (x, s1) := s.xlate c w.sup gen va .fetch
  match x with
  | .bad code level =>
    (.error (code != 1, { cls := 2, code := code, va := va, info := level * 2 ^ 8 + 2 * 2 ^ 6 + 2 ^ 10 }), s1)
  | .poison pa => (.error (false, { cls := 3, code := 7, va := pa }), s1)
  | .ok pa leaf =>
    match aperOf leaf with
    | 0 =>
      if s1.poisoned pa then (.error (false, { cls := 3, code := 3, va := pa }), s1)
      else let (bs, s2) := s1.loadPA ac pa 32; (.ok (some bs), s2)
    | 1 =>
      let d := devOf leaf
      match w.fetched.find? (fun p => p.1 == va) with
      | some p => (.ok (some p.2), s1)
      | none =>
        if w.ops.any (fun o => o.kind == .fetch va) then (.ok none, s1)
        else if (s1.dest d).bad then (.error (false, { cls := 6, code := 0xD, va := va, info := d }), s1)
        else
          let tag := s1.tag
          let sec := pa / 64 * 64
          let p := s1.mkPacket (if w.sup then 0 else gen) d 0 0x01 tag sec (leBytes 8 ((2 ^ 32 - 1) * 2 ^ (pa % 64)))
          let s2 := (({ s1 with tag := (tag + 1) % 2 ^ 32 }).hotCount (if w.sup then 0 else gen) va d).sendPacket p
          (.ok none, s2.updWarp c wix (fun w => w.addOp
            { id := 0, kind := .fetch va, reqs := [⟨tag, d, sec, [⟨0, pa % 64, 32, false⟩]⟩], issued := s.ptb }))
    | 2 => let (bs, s2) := s1.loadHost ac pa 32; (.ok (some bs), s2)
    | _ =>
      if w.sup || locOf pa < 256 then let (bs, s2) := s1.ocmLoad ac (locOf pa) 32; (.ok (some bs), s2)
      else (.error (false, { cls := 1, code := 0xB, va := va, info := 3 + 16 * 15 }), s1)

/-- The aligned 32 bytes at a virtual address as a path's fetch reads them, or what the fetch then gives. -/
def State.fetchAt (s : State) (cu : Cur) (va : Nat) : Except Fetched (List Byte) × State :=
  match s.fetchBlock cu.core cu.wix va with
  | (.error (true, r), s1) => (.error (.replay cu r), s1)
  | (.error (false, r), s1) => (.error (.fault cu r), s1)
  | (.ok none, s1) => (.error .wait, s1)
  | (.ok (some bs), s1) => (.ok bs, s1)

/-- The word that R300 reads after a block: only after a prefix in the block's last word, by a fetch of its own. -/
def State.fetchNext (s : State) (cu : Cur) (bs : List Byte) : Except Fetched Word × State :=
  let w := blockWord bs 28
  if cu.pc.toNat % 32 = 28 && w != 0 && w.extractLsb' 0 2 == 0 then
    match s.fetchAt cu (cu.pc.toNat / 32 * 32 + 32) with
    | (.error f, s1) => (.error f, s1)
    | (.ok b2, s1) => (.ok (blockWord b2 0), s1)
  else (.ok 0, s)

/-- Fetch and decode the unit at a path's PC, passing over pads (R299, R300): each lane's PC moves over a pad, and what the path has let
pass stays with it (R42). -/
def State.fetch (s : State) (c wix : Nat) (ls : Mask) : Nat → DWord → Fetched × State
  | 0, _ => (.wait, s)
  | fuel + 1, pc =>
    let w := s.warp c wix
    let cu : Cur := { core := c, wix := wix, pc := pc, lanes := ls, size := 4, ib := [] }
    match s.fetchAt cu (pc.toNat / 32 * 32) with
    | (.error f, s1) => (f, s1)
    | (.ok bs, s1) =>
      match s1.fetchNext cu bs with
      | (.error f, s2) => (f, s2)
      | (.ok next, s2) =>
        match decodeBlock w.sup bs next (pc.toNat % 32) with
        | .pad => State.fetch (s2.updWarp c wix (fun w => w.advance ls (pc + 4))) c wix ls fuel (pc + 4)
        | .bad why ib => (.fault { cu with ib := ib } { cls := 1, code := 1, info := why }, s2)
        | .unit size ib (.error (.illegal why fl)) => (.fault { cu with size := size, ib := ib } { cls := 1, code := 1, info := why + 16 * fl }, s2)
        | .unit size ib (.error .privileged) => (.fault { cu with size := size, ib := ib } { cls := 1, code := 2 }, s2)
        | .unit size ib (.ok i) => (.instr { cu with size := size, ib := ib } i, s2)

/-- Instruction bytes read from a peer page serve one issue. Log entry 75. -/
def State.dropFetched (s : State) (c wix : Nat) : State := s.updWarp c wix (fun w => { w with fetched := [] })

/-! ### The second path (R40) -/

/-- The compute classes of R40. -/
def computeClass (i : Instr) : Bool :=
  match i.sig with
  | none => false
  | some g =>
    let n := g.op.toNat
    (0x010 ≤ n && n ≤ 0x013) || (0x020 ≤ n && n ≤ 0x043) || (0x060 ≤ n && n ≤ 0x070) || (0x080 ≤ n && n ≤ 0x087)
      || (0x090 ≤ n && n ≤ 0x09A) || (0x0B0 ≤ n && n ≤ 0x0B1)

def overlapW (x y : Nat × Nat × Nat) : Bool := x.1 == 1 && y.1 == 1 && x.2.1 < y.2.1 + y.2.2 && y.2.1 < x.2.1 + x.2.2

/-- Neither writes a w register that the other reads or writes. -/
def apart (i j : Instr) (f h : Fmt) (g : Group) : Bool :=
  let meet (a b : List (Nat × Nat × Nat)) : Bool := a.any (fun x => b.any (overlapW x))
  !meet (destRunsOf i f g) (runsOf j h g) && !meet (destRunsOf j h g) (runsOf i f g)

/-- The two may issue together. -/
def pairOk (s : State) (c wix : Nat) (i j : Instr) : Bool :=
  match i.fmt, j.fmt with
  | some f, some h => computeClass i && computeClass j && apart i j f h (s.group c (s.warp c wix).gid)
  | _, _ => false

end Sys2Proof.Machine
end

