-- ==== Sys2Proof/Machine/Begin.lean ====
section
/-! DEFINITION. How the step's agenda entry becomes an instruction: the next command of the CP's ring (R267, R268), a hart's word (R255,
R262), what is due when the agenda is empty, and how one instruction is laid where the next step fetches it. -/

namespace Sys2Proof.Machine

/-! ### Commands -/

/-- Bytes of key-0 memory from a physical address. -/
def State.peek0 (s : State) (pa n : Nat) : List Byte :=
  (List.range n).flatMap (fun i => s.peek (pa + i) 1)

/-- PA of the ring entry at HEAD. -/
def State.cmdAddr (s : State) : Nat :=
  let cfg := s.cpw oCMDCFG
  fld cfg 55 12 * 2 ^ 12 + 32 * (fld (s.cpw oCMDPOS) 31 0 % 2 ^ (fld cfg 7 4 + 4))

/-- The ring is enabled and HEAD differs from TAIL, and the CP's firmware runs (R280). -/
def State.cmdWaits (s : State) : Bool :=
  s.booted && !s.noCp && (s.cpw oCMDCFG).testBit 0 && fld (s.cpw oCMDPOS) 31 0 != fld (s.cpw oCMDPOS) 63 32

/-- The command of an entry's first 24 bytes. -/
def cmdOf (bs : List Byte) : Instr :=
  let w := leVal (bs.take 8)
  let c : Cmd := ⟨BitVec.ofNat 8 (w / 2 ^ 8), BitVec.ofNat 16 (w / 2 ^ 16), BitVec.ofNat 24 (w / 2 ^ 32),
    BitVec.ofNat 64 (leVal ((bs.drop 8).take 8)), BitVec.ofNat 64 (leVal ((bs.drop 16).take 8))⟩
  match w % 256 with
  | 1 => .nreg c
  | 2 => .nunreg c
  | 3 => .keygen c
  | 4 => .keykill c
  | 5 => .partset c
  | 6 => .attest c
  | _ => .cmdUndefined c

def State.nextCommand (s : State) : Option Instr :=
  if s.cmdWaits then some (cmdOf (s.peek0 s.cmdAddr 24)) else none

/-! ### Harts (log entry 25) -/

def State.hart (s : State) (n : Nat) : Hart := s.harts.getD n {}
def State.updHart (s : State) (n : Nat) (f : Hart → Hart) : State := { s with harts := modNth s.harts n f }

/-- A hart's address as the physical address under its key. -/
def Hart.pa (h : Hart) (a : Nat) : Nat := h.key * 2 ^ 48 + a % 2 ^ 48

/-- The word at a hart's PC. -/
def State.hartWord (s : State) (n : Nat) : Word :=
  let h := s.hart n
  BitVec.ofNat 32 (leVal (s.peek (h.pa h.pc.toNat) 4))

def hartCur (n : Nat) (pc : DWord) : Cur := { core := 0, wix := 0, pc := pc, lanes := 0, size := 4, ib := [], hart := some n }

/-! ### Placing an instruction (log entry 2) -/

/-- Where the placed instruction lies, as a virtual and as a physical address, and where the translation tables lie. -/
def placeVA : Nat := 0x2000000
def placeRoot : Nat := 0x40000

/-- A warp whose every lane stands at the placed instruction: every budget at its largest, in slot 0 of slice 1, or
the supervisor warp in slot 0 of slice 0. -/
def placeWarp (sup : Bool) : Warp :=
  { wix := if sup then supWix else 0, gid := 1, warp := 0, vBud := if sup then 64 else 640, wBud := 128, aBud := if sup then 0 else 128
    pcs := List.replicate 32 (BitVec.ofNat 64 placeVA), preds := List.replicate 16 0, sup := sup, place := some (if sup then (0, 0) else (1, 0)) }

def placeGroup : Group :=
  { gid := 1, gen := 1, nid := 0, desc := List.replicate 256 0, depth := 0, recs := [List.replicate 64 0], launch := 0, spBase := 0
    spBytes := Config.spadBytes, nWarps := 1, rings := List.replicate 4 {}, started := true }

/-- A level-3 table that points to a level-2 table whose first entry maps the first 256 GiB to the same physical addresses of local HBM,
readable, writable and executable. -/
def placeTables : List (Nat × List Byte) :=
  [(placeRoot, leBytes 8 ((placeRoot + 0x4000) / 2 ^ 14 * 2 ^ 22 + 7)), (placeRoot + 0x4000, leBytes 8 (2 ^ 56 + 2 ^ 6 + 2 ^ 5 + 5))]

/-- Words laid from a location in memory that no key has written. -/
def layBytes (m : List Host.Cell) (ps : List (Nat × List Byte)) : List Host.Cell :=
  ps.foldl (fun (m : List Host.Cell) p => SMap.setN m p.1 p.2) m

/-- The state whose next step fetches the bytes by a warp. -/
def State.placeWords (s : State) (sup : Bool) (bs : List Byte) : State :=
  let tab := oGTAB / 8
  { s with
    booted := true
    keys := [(0, 1), (1, 2)]
    draws := 2
    supRoot := placeRoot
    cp := (s.cp.set tab (BitVec.ofNat 64 (2 ^ 48 + 1))).set (tab + 1) (BitVec.ofNat 64 placeRoot)
    mem := layBytes s.mem (placeTables ++ [(placeVA, bs)])
    cores := modNth s.cores 0 (fun (k : Core) => { k with gen := 1, phase := .run, warps := [placeWarp sup], groups := [placeGroup] })
    agenda := (0, .slice 0 (if sup then 0 else 1)) :: s.agenda }

/-- The state whose next step fetches the word by hart 0. -/
def State.placeHart (s : State) (bs : List Byte) : State :=
  let h := s.hart 0
  { s with
    booted := true
    keys := [(0, 1)]
    draws := 1
    mem := layBytes s.mem [((h.pa h.pc.toNat) % 2 ^ 48, bs)]
    agenda := (0, .hart 0) :: s.agenda }

end Sys2Proof.Machine
end

