-- ==== Sys2Proof/Machine/Engine.lean ====
section
/-! DEFINITION. The task engines and what the CP does for grids: registered nodes, tills (R75 to R78, R486, R487, R546), named tasks (R87 to
R89), completion (R258 to R261), the generation abort (R499, R500), and the retirement of groups and grids (R35). -/

namespace Sys2Proof.Machine

/-! ### Nodes (R64 to R71) -/

def State.node (s : State) (gen nid : Nat) : Option NodeReg := s.nodes.find? (fun n => n.gen == gen && n.nid == nid)

def NodeReg.dw (n : NodeReg) (off : Nat) : Nat := leVal ((n.desc.drop off).take 8)
def NodeReg.kind (n : NodeReg) : Nat := fld (n.dw 0) 3 0
def NodeReg.prio (n : NodeReg) : Nat := fld (n.dw 0) 7 6
def NodeReg.clp (n : NodeReg) : Bool := (n.dw 0).testBit 11
def NodeReg.coal (n : NodeReg) : Nat := fld (n.dw 0x18) 5 0 + 1
def NodeReg.timer (n : NodeReg) : Nat := 64 * fld (n.dw 0x18) 23 8
def NodeReg.spad (n : NodeReg) : Nat := 1024 * fld (n.dw 0x20) 24 16
def NodeReg.regions (n : NodeReg) : Nat := fld (n.dw 0x20) 2 0

/-- v, w and tile budgets of a BUDG word or of the low half of a role's second word (R69, R90, R50). -/
def budgets (b : Nat) : Nat × Nat × Nat := (8 * fld b 6 0, 8 * fld b 12 8, fld b 23 16)

/-- The warps of a group of the node: entry PC, budgets and queue bindings (R68, R69, R90, R91). -/
def NodeReg.warps (n : NodeReg) : List (DWord × (Nat × Nat × Nat) × Word) :=
  if n.kind = 1 then
    (List.range (fld (n.dw 0x20) 5 3)).flatMap (fun r =>
      let hi := n.dw (0x88 + 16 * r)
      List.replicate (fld hi 27 24 + 1) (BitVec.ofNat 64 (n.dw (0x80 + 16 * r)), budgets hi, BitVec.ofNat 32 (hi / 2 ^ 32)))
  else List.replicate (fld (n.dw 0) 15 12 + 1) (BitVec.ofNat 64 (n.dw 8), budgets (n.dw 0x10), 0)

/-- The node ID, depth and PARENT of a record (R73). -/
def recNid (bs : List Byte) : Nat := leVal (bs.take 3)
def recDepth (bs : List Byte) : Nat := leVal ((bs.drop 3).take 1) % 16

/-- A record from its word 0 and bytes 0x08 to 0x3F. -/
def mkRec (nid depth parent : Nat) (pay : List Byte) : List Byte :=
  leBytes 8 (nid % 2 ^ 24 + depth % 16 * 2 ^ 24 + parent % 2 ^ 32 * 2 ^ 32) ++ (pay ++ List.replicate 56 0).take 56

/-! ### Happens-before of deliveries (R86) -/

def HB.join (h : HB) (a : Agent) (c : Clock) : HB :=
  let k := h.of a
  h.put { k with clk := k.clk.join c }

/-! ### Interrupts and completion (R258 to R261, R490) -/

def State.note (s : State) (o : Out) : State := { s with outs := o :: s.outs }

/-- Words of a user-interrupt ring (R273). -/
def State.uitBase (s : State) (t : Nat) : Nat := fld (s.cpw (oUITCFG + 8 * t)) 55 12 * 2 ^ 12
def State.uitLog (s : State) (t : Nat) : Nat := fld (s.cpw (oUITCFG + 8 * t)) 7 4
def State.uitTail (s : State) (t : Nat) : Nat := leVal (s.peek (s.uitBase t + 16 * 2 ^ s.uitLog t) 8)
def State.uitHead (s : State) (t : Nat) : Nat := leVal (s.peek (s.uitBase t + 16 * 2 ^ s.uitLog t + 8) 8)
def State.uitFull (s : State) (t : Nat) : Bool :=
  2 ^ s.uitLog t ≤ (s.uitTail t + 2 ^ 64 - s.uitHead t) % 2 ^ 64

/-- Write (DCOOK, DSEQ) at the tail, advance it as a release at .sy, and raise pending where a hart names the target. -/
def State.uitPut (s : State) (t cook seq : Nat) : State :=
  let b := s.uitBase t
  let tail := s.uitTail t
  let ac : Acc := { who := .cp, strong := true, sc := .sy, rel := true }
  let s1 := s.storePA { ac with rel := false } (b + 16 * (tail % 2 ^ s.uitLog t)) ((leBytes 8 cook ++ leBytes 8 seq).map some)
  let s2 := s1.storePA ac (b + 16 * 2 ^ s.uitLog t) ((leBytes 8 (tail + 1)).map some)
  { s2.note (.userIrq t) with
    harts := s2.harts.map (fun (h : Hart) => if h.cluitx.getLsbD 31 && h.cluitx.toNat % 1024 == t then { h with clupend := 1 } else h) }

/-- Deliver to a user-interrupt target: nothing while V = 0; it waits while the ring is full or an earlier one waits. -/
def State.userIrq (s : State) (t cook seq : Nat) : State :=
  if !(s.cpw (oUITCFG + 8 * t)).testBit 0 then s
  else if s.uitFull t || s.uirqs.any (fun q => q.1 == t) then { s with uirqs := s.uirqs ++ [(t, cook, seq)] }
  else s.uitPut t cook seq

/-- The interrupt of a deposit page (R260): MSI-X of the physical function (0) or of VF f (f + 1), or a user interrupt. -/
def State.pageIrq (s : State) (page cook seq : Nat) : State :=
  let cfg := s.cpw (oDPCFG + 8 * page)
  let t := fld cfg 21 12
  if t = 0x3FF then s
  else match fld cfg 39 38 with
    | 0 => s.userIrq t cook seq
    | 1 => s.note (.msix 0 t)
    | 2 => s.note (.msix (fld cfg 37 32 + 1) t)
    | _ => s

def depWord (d : List Byte) (k : Nat) : Nat := leVal ((d.drop (8 * k)).take 8)

/-- The completion record: bytes 0x08 to 0x3F, then CSTAT as a release at .sy (R259); at a peer page CSTAT follows the acknowledgement of
the rest, and the interrupt that of CSTAT (R260). One that cannot be made is reported once, with its own address (R481, R548). end_: the PTB
at retirement. Log entry 59. -/
def State.completion (s : State) (gen page comp cook seq at_ end_ launched status : Nat) : State :=
  let ac : Acc := { who := .cp, strong := true, sc := .sy, rel := true }
  let rest := leBytes 8 cook ++ leBytes 8 seq ++ leBytes 8 at_ ++ leBytes 8 end_ ++ leBytes 8 launched ++ List.replicate 16 0
  let cstat := leBytes 8 (2 ^ 63 + status)
  match s.xlateCp gen comp .write with
  | .ok pa leaf =>
    if aperOf leaf = 3 then (s.jobStore gen comp ac cstat).pageIrq page cook seq
    else
      match s.jobWrite gen (comp + 8) { ac with rel := false } rest with
      | (none, s1) => (s1.jobStore gen comp ac cstat).pageIrq page cook seq
      | (some k, s1) =>
        let (p, s2) := s1.farPacket gen comp k.1 pa 0x02 8 ac (wrPay pa cstat)
        if (s2.dest k.1).bad then s2.pageIrq page cook seq
        else { s2 with after := s2.after ++ [(k.1, k.2, .send p (some (page, cook, seq)))] }
  | _ => (s.jobStore gen comp ac cstat).pageIrq page cook seq

/-- The end of a deposit's grid. -/
def State.completeGrid (s : State) (g : Grid) (status : Nat) : State :=
  match g.page with
  | none => s
  | some p => s.completion g.gen p (depWord g.dep 2) (depWord g.dep 3) (depWord g.dep 4) g.at_ (g.retired.getD s.ptb) g.launched status

/-! ### The timetable as far as reservations need it (R186, R204) -/

def entW (e : List Byte) (k : Nat) : Nat := leVal ((e.drop (8 * k)).take 8)
def entGen (e : List Byte) : Nat := fld (entW e 1) 15 0
def entJob (e : List Byte) : Nat := fld (entW e 1) 47 16
def entLcr (e : List Byte) : Bool := (entW e 5).testBit 0
def entPset (e : List Byte) : Nat := fld (entW e 2) 41 32
def entCset (e : List Byte) : Nat := fld (entW e 2) 7 0

/-- The standing reservation of a generation. -/
def State.reservation (s : State) (gen : Nat) : Option (List Byte) := s.table.find? (fun e => entLcr e && entGen e == gen)

/-- A pre-emption notice to the other packages of a reservation (R207, R210, R211). -/
def State.sendPren (s : State) (e : List Byte) (t : Nat) : State :=
  ((s.pset (entPset e)).filter (· != s.dev)).foldl (fun (s : State) d =>
    s.sendPacket (s.mkPacket 0 d 3 0x21 0 (entJob e * 2 ^ 16 + entGen e) (leBytes 8 t))) s

/-- With the last outstanding grid of a reserved job complete, the accepting CP ends the pre-emption slot, in force or announced, 4 µs later (R210). -/
def State.preemptEnd (s : State) (gen : Nat) : State :=
  if s.grids.any (fun g => g.gen == gen && g.page.isSome) || s.depQ.any (fun d => fld (s.cpw (oDPCFG + 8 * d.page)) 63 48 == gen) then s
  else match s.preempt.find? (fun p => p.gen == gen && p.mine && p.u.isNone), s.reservation gen with
    | some p, some e =>
      let u := s.ptb + 4000
      ({ s with preempt := s.preempt.map (fun (q : Preempt) => if q == p then { q with u := some u } else q) }).sendPren e u
    | _, _ => s

/-! ### The generation abort (R499 to R502, R530) -/

/-- A core without the generation's warps, groups and entries; the supervisor warp stays. -/
def Core.dropGen (k : Core) (gen : Nat) : Core :=
  let k1 : Core := { k with
    mbox := k.mbox.filter (fun e => e.gen != gen), fbuf := k.fbuf.filter (fun e => e.gen != gen)
    heldRecs := k.heldRecs.filter (fun x => x.2.gen != gen) }
  if k.gen == gen then
    { k1 with gen := 0, job := 0, slot := {}, warps := k1.warps.filter Warp.sup, groups := [], copies := [], bars := [] }
  else k1

def escOff (i : Nat) : Nat := oESC + 16 * i
def State.escSt (s : State) (i : Nat) : Nat := fld (s.cpw (escOff i)) 25 24
/-- An entry becomes FREE; its other fields stand (R239, R452), and nothing more is due for the tile it held. -/
def State.escFree (s : State) (i : Nat) : State :=
  { s.setCpw (escOff i) (setFld (s.cpw (escOff i)) 25 24 0) with
    esc := s.esc.filter (fun e => e.at_ != i), after := s.after.filter (fun x => x.2.2 != .escrow i) }

/-- Return the tile of an escrow entry at HEAD − 1 (R502): it waits while the deque is full. A record address that no longer translates
to local HBM leaves it waiting as well. -/
def State.escBack (s : State) (i : Nat) : State :=
  let dq := fld (s.cpw (escOff i)) 31 26
  let cfg := s.cpw (oDQ + 32 * dq)
  let pos := s.cpw (oDQ + 32 * dq + 8)
  let cap := 2 ^ fld cfg 7 4
  let head := fld pos 31 0
  let n := (fld pos 63 32 + 2 ^ 32 - head) % 2 ^ 32
  match s.esc.find? (fun e => e.at_ == i) with
  | none => s
  | some e =>
    let wait := { s with esc := s.esc.map (fun (x : EscRec) => if x.at_ == i then { x with back := true } else x) }
    if cap ≤ n then wait
    else
      let h := (head + 2 ^ 32 - 1) % 2 ^ 32
      match s.xlateCp (s.cpw (oDQ + 32 * dq + 16)) (fld cfg 59 16 * 2 ^ 16 + 64 * (h % cap)) .write with
      | .ok pa leaf =>
        if aperOf leaf = 0 then
          ((s.storePA { who := .teller, strong := true, sc := .sy, rel := true } pa (e.rec_.map some)).setCpw (oDQ + 32 * dq + 8)
            (setFld pos 31 0 h)).escFree i
        else wait
      | _ => wait

/-- Tiles that wait to return are tried again as a deque has room (R502). Log entry 35. -/
def State.escRetry (s : State) : State := (s.esc.filter EscRec.back).foldl (fun (t : State) e => t.escBack e.at_) s

/-- The tiles of a core's resident user warps keep what they hold (R107). -/
def State.leaveAll (s : State) (c : Nat) : State := ((s.core c).warps.filter (fun w => !w.sup)).foldl (fun (t : State) w => t.leaveTiles c w) s

/-- The writes that an abort of a generation may lose: those that stand in the L1 of a core that runs it (R500 step 1; log entry 10). -/
def State.lossy (s : State) (gen : Nat) : List WRec := s.hb.wlog.filter (s.hb.inL1 (fun c => (s.core c).gen == gen))

/-- A write under a key that the L1 may have held alone: it has been written back, or some earlier value stands where no newer write does. -/
def State.mayLose (s : State) (key : Nat) (r : WRec) (newer : List WRec) : State :=
  match s.keyDraw key with
  | none => s
  | some d =>
    let old := s.past 0 (key * 2 ^ 48 + r.lo) r.len
    let (k, s1) := s.choose (1 + old.length)
    if k = 0 then s1
    else
      let v := old.getD (k - 1) []
      s1.pokeRaw d r.lo (((touched r.lo r.len newer).zip v).map (fun p => if p.1 then none else some p.2))

/-- The halted cores invalidate their L1 lines under the partition's key without write-back (R500 step 1). -/
def State.loseDirty (s : State) (gen key : Nat) : State :=
  ((List.range s.hb.wlog.length).zip s.hb.wlog).foldl (fun (t : State) p =>
    if (s.lossy gen).contains p.2 then t.mayLose key p.2 (s.hb.wlog.take p.1) else t) s

/-- Generation gen of partition part is aborted on this package, in the order of R500. Log entry 76. -/
def State.abortGen (sA : State) (gen part : Nat) : State :=
  let s := if (sA.lossy gen).isEmpty then sA else sA.loseDirty gen part
  let s0 := ((List.range s.cores.length).filter (fun c => (s.core c).gen == gen)).foldl State.leaveAll s
  let s1 : State := { s0 with
    cores := s0.cores.map (fun (k : Core) => k.dropGen gen), aborted := if s.aborted.contains gen then s.aborted else gen :: s.aborted }
  let s2 := (s1.grids.filter (fun g => g.gen == gen)).foldl (fun (t : State) g => t.completeGrid g (if g.retired.isSome then g.status else 3)) s1
  let mine (d : Dep) : Bool := fld (s.cpw (oDPCFG + 8 * d.page)) 63 48 == gen
  let s3 := (s2.depQ.filter mine).foldl (fun (t : State) d =>
    t.completion gen d.page (depWord d.data 2) (depWord d.data 3) (depWord d.data 4) d.at_ t.ptb 0 3) s2
  let s4 : State := ({ s3 with
    grids := s3.grids.filter (fun g => g.gen != gen), depQ := s3.depQ.filter (fun d => !mine d)
    tills := s3.tills.filter (fun t => t.gen != gen), held := s3.held.filter (fun h => h.1 != gen)
    mons := s3.mons.filter (fun m => m.gen != gen), preempt := s3.preempt.filter (fun p => p.gen != gen)
    gbCount := s3.gbCount.filter (fun g => g.1 != gen) } : State).monRefillAll
  let s5 := (List.range 4096).foldl (fun (t : State) i =>
    let w := t.cpw (oDPCFG + 8 * i)
    if w.testBit 0 && fld w 63 48 == gen then t.setCpw (oDPCFG + 8 * i) (w - 1) else t) s4
  let dqOf (i : Nat) : Bool := s5.cpw (oDQ + 32 * i + 16) % 2 ^ 16 == gen
  let s6 := (List.range 64).foldl (fun (t : State) i =>
    let w := t.cpw (oDQ + 32 * i)
    if w.testBit 0 && dqOf i then t.setCpw (oDQ + 32 * i) (w - 1) else t) s5
  let s7 := (List.range 256).foldl (fun (t : State) i =>
    if t.escSt i = 0 then t
    else if dqOf (fld (t.cpw (escOff i)) 31 26) then t.escFree i
    else match t.esc.find? (fun e => e.at_ == i) with
      | some e => if e.gen == gen && t.escSt i < 3 then t.escBack i else t
      | none => t) s6
  let s8 := (s7.fbars.filter (fun b => b.gen == gen)).foldl (fun (t : State) b =>
    let root := fld (t.fbDesc b.idx 1) 30 16
    if root = t.dev then t.fbOut b.idx t.dev false else t.sendPacket (t.mkPacket gen root 2 0x23 0 b.idx [])) s7
  s8.ringRec { cls := 7, code := 3, info := gen + part * 2 ^ 16 }

/-- The packages of a job's package sets. -/
def State.jobPackages (s : State) (gen : Nat) : List Nat :=
  (distinct ((s.table.filter (fun e => entGen e == gen)).flatMap (fun e => s.pset (entPset e)))).filter (· != s.dev)

/-- Start the abort of a partition (R499): ABRT to every package of each affected job, and the abort here. -/
def State.abortPart (s : State) (part cause : Nat) : State :=
  let gens := (List.range 1024).filterMap (fun i =>
    let w := s.cpw (oGTAB + 64 * i)
    if w.testBit 0 && fld w 47 40 == part then some (fld w 63 48) else none)
  gens.foldl (fun (t : State) g =>
    let t1 := (t.jobPackages g).foldl (fun (u : State) d =>
      u.sendPacket (u.mkPacket 0 d 2 0x22 0 (g + part * 2 ^ 16 + cause * 2 ^ 24) [])) t
    t1.abortGen g part) s

/-! ### Tills (R75 to R78, R486, R487, R546) -/

/-- The slot in force of a core is the generation's (R75, R190): it runs it, or is being switched to it, whose restore has not ended (DEDUCED, log
entry 101). -/
def Core.serves (k : Core) (gen : Nat) : Bool := if k.phase == .run then k.gen == gen else k.inc.gen == gen

/-- The C-dies that serve a generation, ascending. -/
def State.servingDies (s : State) (gen : Nat) : List Nat :=
  (List.range 4).filter (fun d => (s.part.phys.zip s.cores).any (fun p => gen != 0 && p.2.serves gen && p.1 / 84 == d))

/-- The window offset of the till spill entry of a generation (R486). -/
def State.spillEntry (s : State) (gen : Nat) : Option Nat :=
  ((List.range 1024).map (fun i => oTSPILL + 16 * i)).find? (fun o => (s.cpw o).testBit 0 && fld (s.cpw (o + 8)) 63 48 == gen)

/-- The die against which a record is counted on chip. -/
def tillDie (t : Till) (r : TRec) : Nat := if t.die = 4 then r.idx % 4 else t.die

/-- Records held on chip by a die. -/
def State.onChip (s : State) (die : Nat) : Nat :=
  s.tills.foldl (fun n t => n + (t.recs.filter (fun r => !r.spilled && tillDie t r == die)).length) 0

/-- Records of a generation in its spill area. -/
def State.spilledOf (s : State) (gen : Nat) : Nat :=
  s.tills.foldl (fun n t => if t.gen == gen then n + (t.recs.filter TRec.spilled).length else n) 0

/-- For how long a till has been ready, if it is (R77). -/
def Till.readyFor (t : Till) (n : NodeReg) : Option Nat :=
  let byCount := (t.recs[n.coal - 1]?).map TRec.age
  let byAge := t.recs.head?.bind (fun r => if n.timer ≤ r.age then some (r.age - n.timer) else none)
  match byCount, byAge with
  | some x, some y => some (max x y)
  | x, y => x.or y

/-- A till is examined: it becomes ready, or stays as it was (R77). Its ready time is that at which its records alone made it ready, so a
launch or a registration does not put it back (DESIGN CHOICE, log entry 94: R81 does not say so). -/
def State.examine (s : State) (gen nid die : Nat) : State :=
  if die = 4 then s
  else { s with
    tills := s.tills.map (fun (t : Till) =>
      if t.gen == gen && t.nid == nid && t.die == die && t.ready.isNone then
        match s.node gen nid with
        | none => t
        | some n => { t with ready := (t.readyFor n).map (fun a => s.ptb - a) }
      else t) }

/-- The lowest free place in the spill area of a generation. -/
def State.spillPlace (s : State) (gen : Nat) : Nat :=
  let used := (s.tills.filter (fun t => t.gen == gen)).flatMap (fun t => (t.recs.filter TRec.spilled).map TRec.at_)
  ((List.range used.length).find? (fun i => !used.contains i)).getD used.length

/-- A spilled record lies in its place in the area (R486; log entry 24). -/
def State.laySpill (s : State) (gen : Nat) (r : TRec) : State :=
  match s.spillEntry gen with
  | some o => if r.spilled then s.pokePA (fld (s.cpw o) 55 12 * 2 ^ 12 + 64 * r.at_) r.bytes else s
  | none => s

/-- The spill area has reached seven eighths of its capacity for the first time (R487). -/
def State.spillFull (s : State) (gen cap n : Nat) : State :=
  if 7 * cap ≤ 8 * n && !s.spillSaid.contains gen then
    ({ s with spillSaid := gen :: s.spillSaid } : State).ringRec { cls := 4, code := 0xC, async := true, gen := gen }
  else s

/-- Enter a record in the till of a die, or in the spill area (R76, R78, R487, R546). The record of a node that is not registered is written as
one enters, and not again while it waits (DESIGN CHOICE, log entry 102). -/
def State.enterTill (s : State) (gen nid die : Nat) (r0 : TRec) : State :=
  let area := s.spillEntry gen
  let chip := if die = 4 then r0.idx % 4 else die
  let held := s.tills.any (fun t => t.gen == gen && t.recs.any (fun r => r.spilled && tillDie t r == chip))
  let spill := if die = 4 && area.isSome then true else decide (8192 ≤ s.onChip chip) || (held && die != 4)
  let cap := match area with | some o => 2 ^ fld (s.cpw (o + 8)) 39 32 | none => 0
  let n := s.spilledOf gen + 1
  if spill && cap < n then (s.ringRec { cls := 4, code := 0xD, async := true, gen := gen }).abortPart (s.partOf gen) 3
  else
    let r : TRec := { r0 with spilled := spill, at_ := if spill then s.spillPlace gen else 0 }
    let s1 : State := { s with
      tills := if s.tills.any (fun t => t.gen == gen && t.nid == nid && t.die == die) then
          s.tills.map (fun (t : Till) => if t.gen == gen && t.nid == nid && t.die == die then { t with recs := t.recs ++ [r] } else t)
        else s.tills ++ [{ gen := gen, nid := nid, die := die, recs := [r] }] }
    let s2 := if spill then (s1.laySpill gen r).spillFull gen cap n else s1
    if (s2.node gen nid).isNone then s2.rateRec (0x412 * 2 ^ 48 + gen * 2 ^ 24 + nid) { cls := 4, code := 0x12, async := true, gen := gen, info := nid }
    else s2.examine gen nid die

/-- Deliver a record to a till (R75): on the die named, or on the die that its number chooses. -/
def State.deliver (s : State) (gen nid idx : Nat) (die? : Option Nat) (bs : List Byte) (prov : Prov) (clk : Clock) : State :=
  if s.aborted.contains gen then s
  else
    let ds := s.servingDies gen
    s.enterTill gen nid (if ds.isEmpty then 4 else die?.getD (ds.getD (idx % ds.length) 0)) { bytes := bs, prov := prov, idx := idx, clk := clk }

/-- Records that wait where the generation does not run, on a die that no longer serves it or for the package as a whole, enter the tills of
the dies that do, by the number of R75 (R78, R102, R198). Log entry 56. -/
def State.rehome (s : State) (gen : Nat) : State :=
  let ds := s.servingDies gen
  let away (t : Till) : Bool := t.gen == gen && !ds.contains t.die
  if gen = 0 || ds.isEmpty then s
  else
    (s.tills.filter away).foldl (fun (u : State) t =>
      t.recs.foldl (fun (u : State) r => u.enterTill gen t.nid (ds.getD (r.idx % ds.length) 0) r) u)
      { s with tills := s.tills.filter (fun t => !away t) }

/-! ### Named tasks (R87 to R89, R473) -/

/-- PA of an entry of a generation's named-task table. -/
def State.taskEntry (s : State) (gen n : Nat) : Option Nat :=
  (s.genEntry gen).map (fun o => fld (s.cpw (o + 0x18)) 55 23 * 2 ^ 23 + 128 * (n % 65536))

def taskAgent (gen n : Nat) : Agent := .task (gen * 65536 + n % 65536)

def taskAcc (gen n : Nat) : Acc := { who := taskAgent gen n, strong := true, sc := .dv, acq := true, rel := true }

/-- CLASS 4 record of a named task. -/
def State.taskRec (s : State) (gen code n : Nat) (pa : Nat) (dev : Option Nat) : State :=
  s.ringRec { cls := 4, code := code, async := true, gen := gen, va := pa, info := n % 65536 + (match dev with | some d => d * 2 ^ 16 | none => 0) }

/-- What the CP or a task engine reads of memory as its own data: a poisoned sector is consumed as zero, with a record (R496; log entry 99). -/
def State.cpPeek (s : State) (gen pa n : Nat) : List Byte × State :=
  if s.poisoned pa then (List.replicate n 0, s.ringRec { cls := 3, code := 4, gen := gen, va := pa })
  else (s.peek pa n, if (s.keyDraw (keyOf pa)).isNone then s.keyRec pa else s)

/-- Set TSTATE, and launch in the same step when CRT = 1 and COUNT = 0. -/
def State.taskSet (s : State) (gen n pa count : Nat) (crt : Bool) : State :=
  let ac := taskAcc gen n
  if crt && count % 2 ^ 32 = 0 then
    let (r, s0) := s.cpPeek gen (pa + 0x40) 64
    let s1 := s0.storePA ac pa ((leBytes 8 (2 ^ 33)).map some)
    s1.deliver gen (recNid r) (n % 65536) none r { task := some (n % 65536) } (s1.hb.of (taskAgent gen n)).clk
  else s.storePA ac pa ((leBytes 8 (count % 2 ^ 32 + (if crt then 2 ^ 32 else 0))).map some)

/-- Create (R88). -/
def State.taskCreate (s : State) (gen n c : Nat) (bs : List Byte) (who : Agent) : State :=
  match s.taskEntry gen n with
  | none => s.taskRec gen 0x10 n 0 none
  | some pa =>
    let (bs0, s0) := s.cpPeek gen pa 8
    let t := leVal bs0
    if t.testBit 32 || t.testBit 33 then s0.taskRec gen 9 n pa none
    else
      let s1 := { s0 with hb := s0.hb.pass who (taskAgent gen n) }
      (s1.storePA (taskAcc gen n) (pa + 0x40) (bs.map some)).taskSet gen n pa (fld t 31 0 + c) true

/-- Decrement (R88); dev: the issuing device of a remote one. -/
def State.taskDec (s : State) (gen n : Nat) (who : Agent) (dev : Option Nat) : State :=
  match s.taskEntry gen n with
  | none => s.taskRec gen 0x10 n 0 dev
  | some pa =>
    let (bs0, s0) := s.cpPeek gen pa 8
    let t := leVal bs0
    if t.testBit 33 then s0.taskRec gen 0xA n pa dev
    else ({ s0 with hb := s0.hb.pass who (taskAgent gen n) }).taskSet gen n pa (fld t 31 0 + 2 ^ 32 - 1) (t.testBit 32)

/-- Retire (R88). -/
def State.taskRetire (s : State) (gen n : Nat) : State :=
  match s.taskEntry gen n with
  | none => s
  | some pa =>
    let (bs, s1) := s.cpPeek gen pa 8
    if (leVal bs).testBit 33 then s1.storePA (taskAcc gen n) pa ((leBytes 8 0).map some) else s1

/-! ### Warps and groups wherever they are (R194, R209) -/

def Vault.updWarp (v : Vault) (wix : Nat) (f : Warp → Warp) : Vault :=
  { v with warps := v.warps.map (fun (w : Warp) => if w.wix == wix then f w else w) }

/-- Change a saved warp, and its image in the vault or the park area (R61, R194, R195, R202). -/
def State.updVault (s : State) (v : Vault) (wix : Nat) (f : Warp → Warp) : State :=
  let s1 := { s with vaults := s.vaults.map (fun (y : Vault) => if y.pa == v.pa then y.updWarp wix f else y) }
  match v.warps.find? (fun w => w.wix == wix) with
  | some w => s1.layAgain v (f w)
  | none => s1

/-- The park record of a warp is laid again if the warp is parked (R60, R61). -/
def State.layIf (s : State) (c wix : Nat) : State :=
  if (s.warp c wix).place.isNone && ((s.core c).warp? wix).isSome then s.layPark c (s.warp c wix) else s

/-- Change a warp of a generation on its core, in its park record too when it is parked (R61), or in its vault when it is saved (R194). -/
def State.mapWarp (s : State) (c gen wix : Nat) (f : Warp → Warp) : State :=
  if wix = supWix || (s.core c).gen == gen then (s.updWarp c wix f).layIf c wix
  else match s.vaults.find? (fun v => v.core == c && v.gen == gen) with
    | some v => s.updVault v wix f
    | none => s

/-- The warp that mapWarp changes. -/
def State.findWarp (s : State) (c gen wix : Nat) : Option Warp :=
  if wix = supWix || (s.core c).gen == gen then (s.core c).warp? wix
  else (s.vaults.find? (fun v => v.core == c && v.gen == gen)).bind (fun v => v.warps.find? (fun w => w.wix == wix))

/-- Change a group wherever it is. -/
def State.mapGroup (s : State) (c gen gid : Nat) (f : Group → Group) : State :=
  if (s.core c).gen == gen then s.updGroup c gid f
  else { s with
    vaults := s.vaults.map (fun (v : Vault) =>
      if v.core == c && v.gen == gen then { v with groups := v.groups.map (fun (g : Group) => if g.gid == gid then f g else g) } else v) }

/-! ### Retirement (R35, R241, R258) -/

/-- What the retirement of a group owes for one record: its task's entry, its tile's completion word or ESCD. -/
def State.settleProv (s : State) (c : Nat) (g : Group) (p : Prov) (bs : List Byte) : State :=
  let s1 := match p.task with | some n => s.taskRetire g.gen n | none => s
  let s2 := if p.own then (s1.jobAdd g.gen (leVal ((bs.drop 8).take 8)) (.stage c g.gid)).2 else s1
  match p.stolen with
  | some (victim, dq, ticket) => ({ s2 with hb := s2.hb.farStamp (.stage c g.gid) } : State).sendPacket (s2.mkPacket g.gen victim 0 0x09 0 (dq * 2 ^ 32 + ticket) [])
  | none => s2

/-- The grid has retired: its completion record is due (R258, R449), or its parent group has one child less (R35). The group whose
retirement this may allow, if any. -/
def State.endGrid (s : State) (gr : Grid) : State × Option (Nat × Nat × Nat) :=
  match gr.parent with
  | some (c, gid) =>
    (({ s with grids := s.grids.filter (fun x => x.id != gr.id) } : State).mapGroup c gr.gen gid
      (fun g => { g with children := g.children.erase gr.id }), some (c, gr.gen, gid))
  | none =>
    ({ s with grids := s.grids.map (fun (x : Grid) => if x.id == gr.id then { x with retired := some (x.retired.getD s.ptb) } else x) }, none)

/-- The CP writes the completion record of a retired grid, 50 ns after its retirement as in R449, and with the last outstanding one of a
reserved job ends the pre-emption slot (R210, R258). Log entry 92. -/
def State.writeCompletion (s : State) (id : Nat) : State :=
  match s.grids.find? (fun g => g.id == id) with
  | some g =>
    match g.retired with
    | some t =>
      if t + 50 ≤ s.ptb then
        (({ s with grids := s.grids.filter (fun x => x.id != id) } : State).completeGrid g g.status).preemptEnd g.gen
      else s
    | none => s
  | none => s

/-- One group of a grid has retired, with a status to be noted when it was discarded. -/
def State.leaveGrid (s : State) (id status : Nat) : State × Option (Nat × Nat × Nat) :=
  let s1 := { s with
    grids := s.grids.map (fun (g : Grid) => if g.id == id then { g with live := g.live - 1, status := if status = 0 then g.status else status } else g) }
  match s1.grids.find? (fun g => g.id == id) with
  | some g => if g.recs = 0 && g.live = 0 then s1.endGrid g else (s1, none)
  | none => (s1, none)

/-- The group has no warp left and no live child grid. -/
def State.groupOver (s : State) (c gid : Nat) : Bool :=
  match (s.core c).group? gid with
  | some g => g.started && g.children.isEmpty && !(s.core c).warps.any (fun w => !w.sup && w.gid == gid)
  | none => false

def gridsOf (g : Group) : List Nat := distinct (g.provs.filterMap Prov.grid)

/-- No other group launched with this one on its cluster is live (R32, R80): its records are settled with the last of the four. -/
def State.lastOf (s : State) (c : Nat) (g : Group) : Bool :=
  match g.clp with
  | none => true
  | some ps => ps.all (fun p =>
      let gs := if (s.core p.1).gen == g.gen then (s.core p.1).groups else (s.vaults.filter (fun v => v.core == p.1 && v.gen == g.gen)).flatMap Vault.groups
      (p.1 == c && p.2 == g.gid) || !gs.any (fun (h : Group) => h.gid == p.2))

/-- A group leaves its core: its scratchpad, barrier objects and rings go, and its records are settled. -/
def State.dropGroup (s : State) (c : Nat) (g : Group) : State :=
  let s1 := if s.lastOf c g then (g.provs.zip g.recs).foldl (fun (t : State) p => t.settleProv c g p.1 p.2) s else s
  s1.updCore c (fun k => { k with
    groups := k.groups.filter (fun x => x.gid != g.gid)
    bars := k.bars.filter (fun b => !(g.spBase ≤ b && b < g.spBase + g.spBytes)) })

/-- Retire a group if it is over, its grids if they are, and so on to the parents (R35). -/
def State.retireGroup : Nat → State → Nat → Nat → Nat → State
  | 0, s, _, _, _ => s
  | fuel + 1, s, c, gid, status =>
    if (status = 0 && !s.groupOver c gid) || ((s.core c).group? gid).isNone then s
    else
      let g := s.group c gid
      let s1 := ({ s with hb := s.hb.pass (.stage c gid) .cp }).dropGroup c g
      (gridsOf g).foldl (fun (t : State) id =>
        match t.leaveGrid id (if status = 0 && g.poisoned then 1 else status) with
        | (t1, some (c', gen', gid')) => if (t1.core c').gen == gen' then State.retireGroup fuel t1 c' gid' 0 else t1
        | (t1, none) => t1) s1

/-- Discard a group at staging (R480): its records count as retired. -/
def State.discardGroup (s : State) (c gid : Nat) : State :=
  let g := s.group c gid
  let s1 := s.updCore c (fun k => { k with warps := k.warps.filter (fun w => w.sup || w.gid != gid) })
  (s1.retireGroup 12 c gid 1).ringRec { cls := 4, code := 0xB, async := true, gen := g.gen, info := g.nid }

/-- All lanes finished, counters zero, registers full, queue registers among them (R35, R36, R92; DEDUCED, log entry 96). -/
def Warp.over (w : Warp) (g : Group) : Bool :=
  w.fin == 0xFFFFFFFF#32 && w.cnt == 0 && w.allFull && (List.range 8).all (w.qFull g) && !w.stopped && w.replay.isNone

/-- A warp completes: its slot and budgets are free, what it has popped counts as delivered, its push bindings count as closed (R35, R92,
R399), and its tiles keep what they hold (R107); its group may then retire. -/
def State.warpLeaves (s : State) (c wix : Nat) : State :=
  let w := s.warp c wix
  let s0 := (w.ops.flatMap Op.pops).foldl (fun (t : State) e => t.updRing c w.gid e.1 (Ring.deliver e.2)) (s.leaveTiles c w)
  let s1 := { s0 with hb := s0.hb.pass (.warp c wix) (.stage c w.gid) }
  let s2 := s1.updCore c (fun k => { k with warps := k.warps.filter (fun x => x.wix != wix) })
  (List.range 4).foldl (fun (t : State) r => if w.pushes r then t.tryClose c w.gid r else t) s2

end Sys2Proof.Machine
end

