-- ==== Sys2Proof/Machine/Copy.lean ====
section
/-! DEFINITION. Copies (R420 to R430, R472, R480) and the staging of working sets (R84, R85) as the copy engine performs them: pieces, shape
records, transfers of at most 64 B, postings, and what becomes of an element access that fails. -/

namespace Sys2Proof.Machine

/-- Opcode that marks a group's staging among a core's copies. -/
def opStage : Nat := 0x1FF

def Core.copy? (k : Core) (id : Nat) : Option Copy := k.copies.find? (fun x => x.id == id)
def State.updCopy (s : State) (c id : Nat) (f : Copy → Copy) : State :=
  s.updCore c (fun k => { k with copies := k.copies.map (fun (x : Copy) => if x.id == id then f x else x) })
def State.dropCopy (s : State) (c id : Nat) : State := s.updCore c (fun k => { k with copies := k.copies.filter (fun x => x.id != id) })

/-- The agent of a copy's accesses. -/
def Copy.agent (x : Copy) (c : Nat) : Agent := if x.opc = opStage then .stage c x.gid else .engine c x.id

/-! ### Copy sets (R420) -/

/-- Role, first warp and number of warps of the copy set of a warp of the group. -/
def Group.copySet (g : Group) (warp : Nat) : Nat × Nat × Nat :=
  if fld (g.dw 0) 3 0 = 1 then
    ((List.range (fld (g.dw 0x20) 5 3)).foldl (fun (a : (Nat × Nat × Nat) × Nat) r =>
      let n := fld (g.dw (0x88 + 16 * r)) 27 24 + 1
      (if a.2 ≤ warp && warp < a.2 + n then (r, a.2, n) else a.1, a.2 + n)) ((0, 0, g.nWarps), 0)).1
  else (0, 0, g.nWarps)

/-! ### Shape records (R424, R425) -/

structure TShape where
  base : Nat
  es   : Nat
  ndim : Nat
  size : List Nat
  str  : List Nat
  box  : List Nat
  wdil : Nat
  wstr : Nat
  pat  : List Byte
  deriving DecidableEq, Repr

/-- Element size of a format that a tensor may have. -/
def tensorEs (ef : Nat) : Nat :=
  match ef with
  | 1 => 8 | 0 | 13 | 14 => 4 | 2 | 3 | 11 | 12 => 2 | 4 | 5 | 9 | 10 => 1
  | _ => 0

/-- The record of 64 bytes, or none when it breaks R424, or R425 for cpyw. -/
def shapeOf (win : Bool) (bs : List Byte) : Option TShape :=
  let at_ (o n : Nat) : Nat := leVal ((bs.drop o).take n)
  let ctl := at_ 8 8
  let es := tensorEs (fld ctl 7 3)
  let nd := fld ctl 2 0
  let size := (List.range 5).map (fun d => if d < nd then at_ (0x10 + 4 * d) 4 else 1)
  let str := es :: (List.range 4).map (fun d => if d + 1 < nd then at_ (0x24 + 5 * d) 5 else 0)
  let box := (List.range 5).map (fun d => if d < nd then at_ (0x38 + d) 1 + 1 else 1)
  let base := at_ 0 8
  let fill := leBytes 4 (fld ctl 63 32)
  let pat := if es = 8 then List.replicate 4 0 ++ fill else fill.take es
  if es = 0 || nd = 0 || 5 < nd || fld base 63 60 != 0 || base % (max es 1) != 0 || size.any (· == 0) || str.any (fun x => x % (max es 1) != 0)
  then none
  else if win && (nd < 2 || fld ctl 15 8 = 0 || fld ctl 23 16 = 0 || (box.drop 2).any (· != 1)) then none
  else some ⟨base, es, nd, size, str, box, fld ctl 23 16, fld ctl 15 8, pat⟩

/-! ### Transfers -/

/-- Cut n bytes where either address crosses a multiple of 64: offsets and lengths. fuel: at least n. -/
def cuts (a b : Nat) : Nat → Nat → Nat → List (Nat × Nat)
  | 0, _, _ => []
  | fuel + 1, off, n =>
    if n = 0 then []
    else
      let k := min n (min (64 - (a + off) % 64) (64 - (b + off) % 64))
      (off, k) :: cuts a b fuel (off + k) (n - k)

def CLoc.add (l : CLoc) (n : Nat) : CLoc :=
  match l with
  | .va a => .va (a + n)
  | .sp c p => .sp c (p + n)
  | x => x

/-- The address by which a side is cut. -/
def CLoc.cutAt : CLoc → Nat
  | .va a => a
  | _ => 0

def moves (src dst : CLoc) (n : Nat) : List Xfer :=
  let k (l o : CLoc) : Nat := match l with | .va a => a | _ => o.cutAt
  (cuts (k src dst) (k dst src) n 0 n).map (fun p => { src := src.add p.1, dst := dst.add p.1, n := p.2 : Xfer })

/-- A run of elements along dimension 0: those below and above the tensor, and those inside (R426). out: another coordinate is
outside. row: address of the element with i₀ = 0. -/
def rowMoves (t : TShape) (store out : Bool) (row i0 : Int) (e0 core phys : Nat) : List Xfer :=
  let es := t.es
  let hole (k n : Nat) : List Xfer :=
    if n = 0 then []
    else if store then [{ src := .skip, dst := .skip, n := es * n }]
    else moves (.fill t.pat) (.sp core (phys + es * k)) (es * n)
  if out then hole 0 e0
  else
    let lo := min e0 (-i0).toNat
    let up := min e0 ((t.size.getD 0 1 : Int) - i0).toNat
    let mid : List Xfer :=
      if lo < up then
        let a := CLoc.va (wrapN 64 (row + es * (i0 + lo)))
        let b := CLoc.sp core (phys + es * lo)
        if store then moves b a (es * (up - lo)) else moves a b (es * (up - lo))
      else []
    hole 0 lo ++ mid ++ hole (max lo up) (e0 - max lo up)

/-- The coordinate is inside dimension d. -/
def TShape.inside (t : TShape) (d : Nat) (i : Int) : Bool := decide (0 ≤ i) && decide (i < (t.size.getD d 1 : Nat))

/-- The transfers of a box at an origin (R426). -/
def boxMoves (t : TShape) (store : Bool) (o : List Int) (core phys : Nat) : List Xfer :=
  let e (d : Nat) : Nat := t.box.getD d 1
  let rows := e 1 * e 2 * e 3 * e 4
  (List.range rows).flatMap (fun r =>
    let b : List Nat := [r % e 1, r / e 1 % e 2, r / (e 1 * e 2) % e 3, r / (e 1 * e 2 * e 3)]
    let i (d : Nat) : Int := if d < t.ndim then o.getD d 0 + b.getD (d - 1) 0 else 0
    let out := [1, 2, 3, 4].any (fun d => d < t.ndim && !t.inside d (i d))
    let row : Int := [1, 2, 3, 4].foldl (fun (a : Int) d => a + (t.str.getD d 0 : Nat) * i d) (t.base : Int)
    rowMoves t store out row (o.getD 0 0) (e 0) core (phys + t.es * (e 0 * r)))

/-- The transfers of a window (R427). -/
def windowMoves (t : TShape) (o : List Int) (p core phys : Nat) : List Xfer :=
  let g := t.box.getD 0 1
  let taps := t.box.getD 1 1
  (List.range (p * taps)).flatMap (fun k =>
    let i1 : Int := o.getD 1 0 + (k / taps * t.wstr : Nat) + (k % taps * t.wdil : Nat)
    let i (d : Nat) : Int := if d = 1 then i1 else if d < t.ndim then o.getD d 0 else 0
    let out := [1, 2, 3, 4].any (fun d => d < t.ndim && !t.inside d (i d))
    let row : Int := [1, 2, 3, 4].foldl (fun (a : Int) d => a + (t.str.getD d 0 : Nat) * i d) (t.base : Int)
    rowMoves t false out row (o.getD 0 0) g core (phys + t.es * (g * k)))

/-- Why a piece cannot start: the copy fault's reason and VA, or a shape record still to come from a peer. -/
inductive Stuck where
  | bad (reason va : Nat)
  | want (tag dev va : Nat)
  deriving DecidableEq, Repr

/-- Enter a shape record in a core's record cache; the entry displaced is a free choice (R430; log entry 13). -/
def State.enterRec (s : State) (c va : Nat) (bs : List Byte) : State :=
  let (k, u) := if (s.core c).rcache.length < 16 then (0, s) else s.choose 16
  u.updCore c (fun q => { q with rcache := (va, bs) :: (if q.rcache.length < 16 then q.rcache else q.rcache.eraseIdx k) })

/-- The shape record that a copy has taken at a VA. -/
def State.gotRec (s : State) (c id va : Nat) : Option (List Byte) :=
  (((s.core c).copy? id).bind (fun x => x.got.find? (fun e => e.1 == va))).map Prod.snd

/-- The shape record at a VA as the engine takes it for a copy (R430): the one that the copy has taken there, else from the record cache,
else read and entered there. Log entry 74. -/
def State.shapeRec (s0 : State) (c id : Nat) (who : Agent) (va : Nat) : Except Stuck (List Byte) × State :=
  let keep (bs : List Byte) (t : State) : Except Stuck (List Byte) × State := (.ok bs, t.updCopy c id (fun y => { y with got := y.got ++ [(va, bs)] }))
  match s0.gotRec c id va, (s0.core c).rcache.find? (fun e => e.1 == va) with
  | some bs, _ => (.ok bs, s0)
  | none, some e => keep e.2 s0
  | none, none =>
    let s := s0
    if va % 64 != 0 then (.error (.bad 3 va), s)
    else
      let (x, s1) := s.xlate c false (s.core c).gen va .read
      match x with
      | .ok pa leaf =>
        match aperOf leaf with
        | 0 =>
          if s1.poisoned pa then (.error (.bad 3 va), s1.ringRec { cls := 3, code := 4, gen := (s1.core c).gen, va := pa })
          else let (bs, s2) := s1.loadPA (Acc.weak who) pa 64; keep bs (s2.enterRec c va bs)
        | 1 =>
          let tag := s1.tag
          let s2 := s1.hotCount (s.core c).gen va (devOf leaf)
          let p := s2.mkPacket (s.core c).gen (devOf leaf) 0 0x01 tag pa (leBytes 8 (2 ^ 64 - 1))
          if (s1.dest (devOf leaf)).bad then (.error (.bad 3 va), s1)
          else (.error (.want tag (devOf leaf) va), ({ s2 with tag := (tag + 1) % 2 ^ 32 }).sendPacket p)
        | 2 => let (bs, s2) := s1.loadHost (Acc.weak who) pa 64; keep bs (s2.enterRec c va bs)
        | _ => let (bs, s2) := s1.ocmLoad (Acc.weak who) (locOf pa) 64; keep bs (s2.enterRec c va bs)
      | _ => (.error (.bad 3 va), s1)

/-- Where n bytes from a scratchpad address lie, if all of them are in one allocation (R105). -/
def State.spadRunAt (s : State) (core gid a n : Nat) : Option (Nat × Nat) :=
  match s.spadAt core gid a, s.spadAt core gid (a + n - 1) with
  | some p, some q => if q == (p.1, p.2 + (n - 1)) then some p else none
  | _, _ => none

/-- The transfers of a piece (R423, R426 to R428). -/
def State.pieceMoves (s : State) (c : Nat) (x : Copy) (p : Piece) : Except Stuck (List Xfer) × State :=
  let arg (k : Nat) : Nat := p.args.getD k 0
  let side (sp : Bool) (a : Nat) : CLoc :=
    if sp then (match s.spadAt c x.gid a with | some (k, ph) => .sp k ph | none => .skip) else .va a
  if p.empty then (.ok [], s)
  else match x.opc with
  | 0x1C0 => (.ok (moves (side (x.mods.testBit 1) (arg 1)) (side (x.mods.testBit 0) (arg 0)) (arg 2)), s)
  | 0x1C1 | 0x1C2 =>
    let win := x.opc == 0x1C2
    let va := arg 0
    let n := if win then 6 else 5
    match s.shapeRec c x.id (x.agent c) va with
    | (.error e, s1) => (.error e, s1)
    | (.ok bs, s1) =>
      match shapeOf win bs with
      | none => (.error (.bad 3 va), s1)
      | some t =>
        let sp := arg (n + 1)
        let cells := (if win then t.box.getD 0 1 * t.box.getD 1 1 * arg 6 else t.box.foldl (· * ·) 1) * t.es
        match s1.spadRunAt c x.gid sp cells with
        | some (k, ph) =>
          if sp % t.es != 0 then (.error (.bad 4 va), s1)
          else
            let o := (List.range 5).map (fun d => sInt 32 (arg (1 + d)))
            (.ok (if win then windowMoves t o (arg 6) k ph else boxMoves t (x.mods.testBit 0) o k ph), s1)
        | none => (.error (.bad 4 va), s1)
  | 0x1C3 => (.ok (p.lanesA.flatMap (fun l => moves (.va l.2) (side true (arg 1 + arg 0 * l.1)) (arg 0))), s)
  | _ => (.ok (p.lanesA.flatMap (fun l => moves (side true (arg 1 + arg 0 * l.1)) (.va l.2) (arg 0))), s)

/-! ### Register windows (R109) -/

/-- A side of a transfer that lies on a peer page. -/
def State.farSide (s : State) (c : Nat) (l : CLoc) : Bool :=
  match l with
  | .va a => (match s.xlateFresh false (s.core c).gen a with | .ok _ leaf => aperOf leaf == 1 | _ => false)
  | _ => false

/-- The destination registers of a transfer into a core window, by word: core, slot number, register and lane. -/
def State.windowOf (s : State) (c va : Nat) : Option (Nat × Nat) :=
  match (s.xlate c false (s.core c).gen va .write).1 with
  | .ok pa leaf =>
    let o := locOf pa
    if aperOf leaf = 3 then (s.winAt o).filter (fun p => decide (p.2 < 0x800000)) else none
  | _ => none

/-- Bind the registers that a copy will write to the warps in their slots, and empty them. -/
def State.bindWindows (s : State) (c id : Nat) (xs : List Xfer) : State :=
  xs.foldl (fun (s : State) x =>
    match x.dst with
    | .va a =>
      match s.windowOf c a with
      | none => s
      | some (k, o) =>
        match (s.core k).slotWarp (o / 0x20000) with
        | none => s
        | some w =>
          let b := (k, o / 0x20000, w.wix, (s.core k).gen)
          let s1 := s.updCopy c id (fun y => { y with binds := if y.binds.contains b then y.binds else b :: y.binds })
          (List.range ((o % 4 + x.n + 3) / 4)).foldl (fun (t : State) j =>
            match (t.core k).window (o / 4 * 4 + 4 * j) with
            | .vreg wix r l => t.updWarp k wix (fun w => w.vClear r (BitVec.ofNat 32 (2 ^ l)))
            | .wreg wix r => t.updWarp k wix (fun w => w.wClear r)
            | _ => t) s1
    | _ => s) s

/-- A transfer that is still to be made from a peer page will write some lane of a register, through the window of a slot (R59, R109). -/
def State.farFills (s : State) (kc c slot : Nat) (x : Xfer) (r : Nat × Nat × Mask) : Bool :=
  match x.dst with
  | .va a =>
    match s.windowOf kc a with
    | some (k, o) =>
      !x.done && k == c && o / 0x20000 == slot && s.farSide kc x.src && (List.range ((o % 4 + x.n + 3) / 4)).any (fun j =>
        let at_ := (o / 4 * 4 + 4 * j) % 0x20000
        if at_ < 0x14000 then r.1 == 0 && r.2.1 == at_ / 128 && r.2.2.getLsbD (at_ % 128 / 4)
        else r.1 == 1 && r.2.1 == (at_ - 0x14000) / 4)
    | none => false
  | _ => false

/-- Bytes of a window's word, from a byte offset, over what the register holds. -/
def mergeWord (old at_ o : Nat) (bs : List Byte) : Nat :=
  leVal ((List.range 4).map (fun i => if o ≤ at_ + i && at_ + i < o + bs.length then bs.getD (at_ + i - o) 0 else BitVec.ofNat 8 (old / 2 ^ (8 * i))))

/-- Write bytes into a register window: to the bound warp wherever it now is, or to nothing. -/
def State.writeWindow (s : State) (x : Copy) (k o : Nat) (bs : List Byte) : State :=
  match x.binds.find? (fun b => b.1 == k && b.2.1 == o / 0x20000) with
  | none => s
  | some (_, _, wix, gen) =>
    (List.range ((o % 4 + bs.length + 3) / 4)).foldl (fun (t : State) j =>
      let at_ := o / 4 * 4 + 4 * j
      let r := at_ % 0x20000
      t.mapWarp k gen wix (fun w =>
        let n := r / 128
        let l := r % 128 / 4
        let m := (r - 0x14000) / 4
        let w1 :=
          if r < 0x14000 then (if n < w.vBud then w.vSet n l (mergeWord (w.vGet n l) at_ o bs) else w)
          else if r < 0x14200 then (if m < w.wBud then w.wSet m (mergeWord (w.wGet m) at_ o bs) else w)
          else w
        w.nowReady w1 (t.cycOf k w))) s

/-! ### Starting a copy -/

/-- A record for the warp of a piece (R472, R480). -/
def State.pieceRec (s : State) (c : Nat) (x : Copy) (p : Piece) (reason va : Nat) : State :=
  let g := s.group c x.gid
  let w := s.warp c p.wix
  let r : FRec := { cls := 1, code := 0xF, async := true, wix := p.wix, gen := (s.core c).gen, nid := g.nid, core := c, pc := p.pc, va := va, info := reason, ib := p.ib }
  s.mboxRec c p.wix { r with slot := (w.place.map Prod.snd).getD 0, slice := (w.place.map Prod.fst).getD 0 }

/-- The C counters of a copy's pieces retire. -/
def State.retirePieces (s : State) (c : Nat) (x : Copy) (landed : Bool) : State :=
  if x.cpl = .cnt then
    x.pieces.foldl (fun (t : State) p =>
      t.mapWarp c (t.core c).gen p.wix (fun w => let w1 := w.opDone p.op; if landed then { w1 with landed := w1.landed ++ [x.id] } else w1)) s
  else s

/-- A copy ends without completing (R472, R480, R523). -/
def State.endCopy (s : State) (c : Nat) (x : Copy) (reason va : Nat) : State :=
  let s1 := x.pieces.foldl (fun (t : State) p => t.pieceRec c x p reason va) ((s.dropCopy c x.id).retirePieces c x false)
  s1

/-- Every member of the copy set has supplied its piece or has completed. -/
def State.copyReady (s : State) (c : Nat) (x : Copy) : Bool :=
  let g := s.group c x.gid
  let set := (List.range (g.copySet x.role).2.2).map (fun k => (g.copySet x.role).2.1 + k)
  set.all (fun n => match (s.core c).warps.find? (fun w => !w.sup && w.gid == x.gid && w.warp == n) with
    | some w => x.pieces.any (fun p => p.wix == w.wix) || x.index < w.pieces
    | none => true)

/-- Start a copy: its pieces take their shape records and are cut into transfers. -/
def State.startCopy (s : State) (c : Nat) (x : Copy) : State :=
  let go := x.pieces.foldl (fun (a : Except Stuck (List Xfer) × State) p =>
    match a.1 with
    | .error _ => a
    | .ok xs =>
      match a.2.pieceMoves c x p with
      | (.ok ys, t) => (.ok (xs ++ ys), t)
      | (.error e, t) => (.error e, t)) (.ok [], s)
  match go with
  | (.error (.bad reason va), t) => t.endCopy c x reason va
  | (.error (.want tag dev va), t) => t.updCopy c x.id (fun y => { y with want := some (tag, dev, va) })
  | (.ok xs, t) => (t.updCopy c x.id (fun y => { y with started := true, xfers := xs, want := none })).bindWindows c x.id xs

/-- Start every copy of a group that can start; a discarded copy whose pieces are all there goes. -/
def State.startCopies (s : State) (c gid : Nat) : State :=
  ((s.core c).copies.filter (fun x => x.gid == gid && x.opc != opStage && !x.started && x.want.isNone)).foldl (fun (t : State) x =>
    if !t.copyReady c x then t
    else if x.discarded then t.dropCopy c x.id
    else t.startCopy c x) s

/-! ### Performing transfers -/

/-- What reading a source gives. -/
inductive XRead where
  | data (bs : List Byte)
  | peer (dev pa : Nat)
  | poison (pa : Nat)
  | bad (code level va kind : Nat)
  | walkPoison (pa : Nat)
  deriving DecidableEq, Repr

def State.readSide (s : State) (c : Nat) (x : Copy) (l : CLoc) (n : Nat) : XRead × State :=
  let ac := Acc.weak (x.agent c)
  match l with
  | .sp k ph => let (bs, t) := s.loadSp ac k ph n; (.data bs, t)
  | .fill pat => (.data ((List.range n).map (fun i => pat.getD (i % max 1 pat.length) 0)), s)
  | .skip => (.data (List.replicate n 0), s)
  | .va a =>
    let (r, t) := s.xlate c false (s.core c).gen a .read
    match r with
    | .bad code level => (.bad code level a 0, t)
    | .poison pa => (.walkPoison pa, t)
    | .ok pa leaf =>
      match aperOf leaf with
      | 0 => if t.poisoned pa then (.poison pa, t) else let (bs, u) := t.loadPA ac pa n; (.data bs, u)
      | 1 => (.peer (devOf leaf) pa, t)
      | 2 => let (bs, u) := t.loadHost ac pa n; (.data bs, u)
      | _ => let (bs, u) := t.ocmLoad ac (locOf pa) n; (.data bs, u)

/-- The post of a transfer's bytes to the copy's barrier object, after the write (R393). -/
def State.postXfer (s : State) (c : Nat) (x : Copy) (n : Nat) : State :=
  if x.cpl != .bar || x.opc = opStage then s
  else match s.spadAt c x.gid x.target with
    | some (k, ph) => if s.listed k ph then s.barPost (x.agent c) k ph n else s
    | none => s

def State.xferDone (s : State) (c id k : Nat) : State :=
  s.updCopy c id (fun y => { y with xfers := modNth y.xfers k (fun (f : Xfer) => { f with done := true, tag := none }) })

/-- The location that a side of a transfer names. -/
def State.sideAt (s : State) (c : Nat) (l : CLoc) : Option Nat :=
  match l with
  | .sp k ph => some (hbSp k ph)
  | .va a =>
    match s.xlateFresh false (s.core c).gen a with
    | .ok pa leaf =>
      match aperOf leaf with
      | 0 => some (locOf pa)
      | 1 => some (hbPeer (devOf leaf) pa)
      | 2 => some (hbHost (locOf pa))
      | _ =>
        match s.winAt (locOf pa) with
        | some (k, o) => some (if 0x800000 ≤ o && o < 0x800000 + Config.spadBytes then hbSp k (o - 0x800000) else hbOcm (locOf pa))
        | none => some (hbOcm (locOf pa))
    | _ => none
  | _ => none

/-- The data of a transfer of cpy: bytes that the copy both reads and writes are undefined (R423), whether the transfer reads them or
writes them. -/
def State.blur (s : State) (c : Nat) (x : Copy) (f : Xfer) (bs : List Byte) : List Byte × State :=
  if x.opc != 0x1C0 then (bs, s)
  else
    let at_ (side : Xfer → CLoc) : List (Nat × Nat) := x.xfers.filterMap (fun g => (s.sideAt c (side g)).map (fun a => (a, g.n)))
    let reads := at_ Xfer.src
    let writes := at_ Xfer.dst
    let on (rs : List (Nat × Nat)) (a : Nat) : Bool := rs.any (fun r => decide (r.1 ≤ a) && decide (a < r.1 + r.2))
    let both (l : CLoc) (i : Nat) : Bool := match s.sideAt c l with | some a => on reads (a + i) && on writes (a + i) | none => false
    let ms := (List.range bs.length).map (fun i => both f.src i || both f.dst i)
    if ms.any id then
      let (fs, t) := s.freeBytes bs.length
      ((bs.zip (ms.zip fs)).map (fun p => if p.2.1 then p.2.2 else p.1), t)
    else (bs, s)

/-- Write the data of transfer k, or send it to a peer, and post it; a fault of the destination's translation otherwise. pois: the
source was poisoned. -/
def State.writeXfer (s0 : State) (c : Nat) (x : Copy) (k : Nat) (f : Xfer) (data : List Byte) (pois : Bool) : XRead × State :=
  let ac := Acc.weak (x.agent c)
  let (bs, s) := s0.blur c x f data
  let fin (t : State) : XRead × State := (.data [], (t.xferDone c x.id k).postXfer c x f.n)
  match f.dst with
  | .sp q ph => fin (s.storeSp ac q ph (bs.map some))
  | .skip | .fill _ => fin s
  | .va a =>
    let (r, t) := s.xlate c false (s.core c).gen a .write
    match r with
    | .bad code level => (.bad code level a 1, t)
    | .poison pa => (.walkPoison pa, t)
    | .ok pa leaf =>
      match aperOf leaf with
      | 0 =>
        let u := t.storePA ac pa (bs.map some)
        fin (if pois then { u with poison := if u.poison.contains (locOf pa / 64) then u.poison else (locOf pa / 64) :: u.poison } else u)
      | 1 =>
        let d := devOf leaf
        if (t.dest d).bad then (.peer d pa, t)
        else
          let tag := t.tag
          let h := t.hb.farWrite ac (hbPeer d pa) bs.length false
          let u := (({ t with hb := h, tag := (tag + 1) % 2 ^ 32 } : State).hotCount (s.core c).gen a d).sendPacket (t.mkPacket (s.core c).gen d 0 0x02 tag (pa / 64 * 64) (wrPay pa bs))
          (.data [], u.updCopy c x.id (fun y => { y with xfers := modNth y.xfers k (fun (f : Xfer) => { f with tag := some tag, dev := d, wr := true }) }))
      | 2 => fin (t.storeHost ac pa (bs.map some))
      | _ =>
        match (t.winAt (locOf pa)).filter (fun p => decide (p.2 < 0x800000)) with
        | some (q, o) => fin (t.writeWindow x q o bs)
        | none => fin (t.ocmStore ac (locOf pa) bs)

/-- The next transfer that has neither been made nor waits for a packet. -/
def Copy.nextXfer (x : Copy) : Option (Nat × Xfer) :=
  ((List.range x.xfers.length).zip x.xfers).find? (fun p => !p.2.done && p.2.tag.isNone)

/-- Lanes of a scatter write the same bytes in their order (R120, R428): at a peer page a later one waits until the earlier one is
acknowledged. -/
def State.trails (s : State) (c : Nat) (x : Copy) (f : Xfer) : Bool :=
  x.opc == 0x1C4 && x.xfers.any (fun g => g.wr && g.tag.isSome && (match s.sideAt c g.dst, s.sideAt c f.dst with
    | some a, some b => decide (a < b + f.n) && decide (b < a + g.n)
    | _, _ => false))

/-- Perform the next transfer of a copy: some state, or none when there is none, or its element access fails (R480). -/
def State.xferStep (s : State) (c id : Nat) : Option State :=
  match (s.core c).copy? id with
  | none => none
  | some x =>
    if x.faulted.isSome then none
    else match x.nextXfer with
    | none => none
    | some (k, f) =>
      if s.trails c x f then none
      else match s.readSide c x f.src f.n with
      | (.data bs, t) =>
        match t.writeXfer c x k f bs false with
        | (.data _, u) => some u
        | _ => none
      | (.peer d pa, t) =>
        if (t.dest d).bad then none
        else
          let tag := t.tag
          let va := match f.src with | .va a => a | _ => 0
          let u := (({ t with tag := (tag + 1) % 2 ^ 32 }).hotCount (s.core c).gen va d).sendPacket
            (t.mkPacket (s.core c).gen d 0 0x01 tag (pa / 64 * 64) (leBytes 8 ((2 ^ f.n - 1) * 2 ^ (pa % 64))))
          some (u.updCopy c id (fun y => { y with xfers := modNth y.xfers k (fun (f : Xfer) => { f with tag := some tag, dev := d, wr := false }) }))
      | _ => none

/-- Up to n transfers. -/
def State.xferSteps (c id : Nat) : Nat → State → State
  | 0, s => s
  | n + 1, s => match s.xferStep c id with | some t => State.xferSteps c id n t | none => s

/-- Every warp of the copy set stops (R496, R523). -/
def State.stopSet (s : State) (c : Nat) (x : Copy) (r : FRec) : State :=
  (distinct (x.pieces.map Piece.wix)).foldl (fun (t : State) wix =>
    if ((t.core c).warp? wix).isSome then t.stopAsync c wix (t.recAt c wix 0 [] r) else t) s

/-- A copy, or a group's staging, ends because an element access cannot be made. -/
def State.failCopy (s : State) (c : Nat) (x : Copy) (stop : Option FRec) : State :=
  if x.opc = opStage then (s.dropCopy c x.id).discardGroup c x.gid
  else
    let s1 := s.endCopy c x 5 (match x.pieces with | p :: _ => if x.opc = 0x1C1 || x.opc = 0x1C2 then p.args.getD 0 0 else 0 | [] => 0)
    match stop with | some r => s1.stopSet c x r | none => s1

/-- The warp that a record about a copy names: the lowest-numbered of its copy set, or of the group that stages (R480). -/
def State.copyWix (s : State) (c : Nat) (x : Copy) : Nat :=
  (x.pieces.foldl (fun (a : Option Piece) p =>
    match a with
    | some q => if (s.warp c p.wix).warp < (s.warp c q.wix).warp then some p else a
    | none => some p) none).map Piece.wix |>.getD
      ((((s.core c).warps.find? (fun w => !w.sup && w.gid == x.gid && w.warp == 0)).map Warp.wix).getD 0)

/-- Translation of an element access fails (R480): a fault-buffer entry and a record. CODE 0x0001 is not replayable: the warp that the record
names stops (R475; log entry 105) and the copy ends. back: the machine when no entry is free. -/
def State.copyBad (s1 : State) (c : Nat) (x : Copy) (code level va kind : Nat) (back : State) : State :=
  let s := s1.walkRec c false (s1.core c).gen { cls := 2, code := code, va := va }
  let src := if x.opc = opStage then 3 else 2
  let wix := s.copyWix c x
  let r0 : FRec := { s.recAt c wix 0 [] { cls := 2, code := code, async := true, va := va, info := level * 2 ^ 8 + kind * 2 ^ 6 + src * 2 ^ 10 } with
    nid := (s.group c x.gid).nid }
  if code = 1 then
    if x.opc != opStage && ((s.core c).warp? wix).isSome then (s.stopAsync c wix { r0 with stop := true }).failCopy c x none
    else (s.mboxRec c wix r0).failCopy c x none
  else match freeEntry (s.core c) with
    | none => back
    | some i =>
      let r := { r0 with info := r0.info + 32 + i, ptb := s.ptb }
      ((s.updCore c (fun q => { q with fbuf := ⟨i, r, q.gen, src, x.id⟩ :: q.fbuf })).updCopy c x.id (fun y => { y with faulted := some i })).mboxRec c wix r

/-- A walk for a copy has met poison (R496): a record, and the warps of its set stop, as where its data are poisoned (log entry 105). -/
def State.copyWalkPoison (s : State) (c : Nat) (x : Copy) (pa : Nat) : State :=
  (s.ringRec { cls := 3, code := 7, gen := (s.core c).gen, va := pa }).failCopy c x (some { cls := 3, code := 7, va := pa })
def State.copyFar (s : State) (c : Nat) (x : Copy) (d : Nat) : State := s.failCopy c x (some { cls := 6, code := 4, info := d })

/-- Write the data of transfer k, with what becomes of the copy when it cannot be written. -/
def State.putXfer (s : State) (c : Nat) (x : Copy) (k : Nat) (f : Xfer) (bs : List Byte) (pois : Bool) (back : State) : State :=
  match s.writeXfer c x k f bs pois with
  | (.data _, u) => u
  | (.bad code level va kind, u) => u.copyBad c x code level va kind back
  | (.walkPoison pa, u) => u.copyWalkPoison c x pa
  | (.peer d _, u) => u.copyFar c x d
  | (.poison _, u) => u

/-- A location lies in a checkpoint range (R287). -/
def State.inCkpt (s : State) (i loc : Nat) : Bool :=
  let base := fld (s.cpw (oCKPT + 24 * i)) 47 16 * 2 ^ 16
  base ≤ loc && loc < base + fld (s.cpw (oCKPT + 24 * i + 8)) 31 0 * 65536

/-- A copy has read a poisoned sector (R496), by a checkpoint read if the line lies in a checkpoint range (R287, R495). -/
def State.copyPoison (s : State) (c pa : Nat) : State :=
  let s1 := if (List.range 64).any (fun i => s.inCkpt i (locOf pa)) then s.ringRec { cls := 3, code := 2, va := pa } else s
  s1.ringRec { cls := 3, code := 4, gen := (s.core c).gen, va := pa }

/-- The source of transfer k is poisoned (R496): carried on into memory, zero in scratchpad or a window, and staging is discarded. -/
def State.xferPoison (s : State) (c : Nat) (x : Copy) (k : Nat) (f : Xfer) (pa : Nat) (here : Bool) : State :=
  let t1 := if here then s.copyPoison c pa else s.ringRec { cls := 3, code := 4, gen := (s.core c).gen, va := pa }
  if x.opc = opStage then (t1.dropCopy c x.id).discardGroup c x.gid
  else
    let ocm := match f.dst with
      | .va a => (match (t1.xlate c false (t1.core c).gen a .write).1 with | .ok _ leaf => aperOf leaf == 3 | _ => false)
      | _ => true
    let t2 := t1.putXfer c x k f (List.replicate f.n 0) true s
    if ocm then t2.stopSet c x { cls := 3, code := 4, va := pa } else t2

/-- The failing element access of a copy or of staging (R480, R496, R523): a fault-buffer entry for a translation that can be replayed;
poison carried on or written as zero. -/
def State.xferFault (s : State) (c id : Nat) : State :=
  match (s.core c).copy? id with
  | none => s
  | some x =>
    if x.faulted.isSome then s
    else match x.nextXfer with
    | none => s
    | some (k, f) =>
      if s.trails c x f then s
      else match s.readSide c x f.src f.n with
      | (.bad code level va kind, t) => t.copyBad c x code level va kind s
      | (.walkPoison pa, t) => t.copyWalkPoison c x pa
      | (.peer d _, t) => if (t.dest d).bad then t.copyFar c x d else s
      | (.poison pa, t) => t.xferPoison c x k f pa true
      | (.data bs, t) =>
        match t.writeXfer c x k f bs false with
        | (.data _, _) | (.poison _, _) => s
        | _ => t.putXfer c x k f bs false s

/-- Every transfer has been made. -/
def Copy.finished (x : Copy) : Bool := x.started && x.xfers.all Xfer.done

/-- The completion event of a copy (R421): C counters, or the named-task decrement. -/
def State.completeCopy (s : State) (c : Nat) (x : Copy) : State :=
  let s1 := (s.dropCopy c x.id).retirePieces c x true
  if x.cpl != .task then s1
  else if x.target.testBit 31 then
    ({ s1 with hb := s1.hb.farStamp (x.agent c) } : State).sendPacket (s1.mkPacket (s.core c).gen (fld x.target 30 16) 0 0x04 0 (x.target % 65536) (leBytes 8 (2 ^ 24 + 4 * 2 ^ 16)))
  else s1.taskDec (s.core c).gen (x.target % 65536) (x.agent c) none

/-! ### Supplying pieces -/

/-- The piece that a copy instruction supplies, or its copy fault (R420). s0: the machine before the issue. -/
def Ctx.supply (c : Ctx) (s0 s : State) (opc mods : Nat) (cpl : Cpl) (target : Nat) (args : List Nat) (lanesA : List (Nat × Nat)) : Res :=
  let g := s.group c.core c.w.gid
  let k := s.core c.core
  let old := k.copies.find? (fun x => x.gid == c.w.gid && x.role == (g.copySet c.w.warp).2.1 && x.index == c.w.pieces && x.opc != opStage)
  let busy := (k.copies.filter (fun x => x.opc != opStage && !x.discarded)).length
  let piece (op : Nat) : Piece := { wix := c.wix, pc := c.pc.toNat, op := op, empty := c.active == 0, args := args, lanesA := lanesA, ib := c.ib }
  if 32 ≤ busy then .hold s0
  else
    let counted (t : State) : State := c.upd t (fun w => { w with pieces := w.pieces + 1 })
    match old with
    | some x =>
      if x.opc != opc || x.mods != mods || x.cpl != cpl || (cpl != .cnt && x.target != target) then
        let t := if x.discarded then counted s0
          else ((counted s0).retirePieces c.core x false).updCopy c.core x.id (fun y => { y with discarded := true, pieces := [] })
        let va := if opc = 0x1C1 || opc = 0x1C2 then args.getD 0 0 else 0
        .faultIn (t.startCopies c.core c.w.gid) { cls := 1, code := 0xF, info := 1, va := va }
      else if x.discarded then .ok ((counted s).startCopies c.core c.w.gid)
      else
        let op := c.w.nextOp
        let t := counted { s with hb := s.hb.pass (.warp c.core c.wix) (.engine c.core x.id) }
        let t1 := if cpl = .cnt then c.upd t (fun w => w.addOp { id := 0, kind := .copy x.id, cls := some .c, issued := s.ptb }) else t
        .ok ((t1.updCopy c.core x.id (fun y => { y with pieces := y.pieces ++ [piece op] })).startCopies c.core c.w.gid)
    | none =>
      let id := k.nextId
      let op := c.w.nextOp
      let x : Copy := { id := id, gid := c.w.gid, role := (g.copySet c.w.warp).2.1, index := c.w.pieces, opc := opc, mods := mods, target := target
                        cpl := cpl, pieces := [piece op] }
      let t := counted { s with hb := s.hb.pass (.warp c.core c.wix) (.engine c.core id) }
      let t1 := if cpl = .cnt then c.upd t (fun w => w.addOp { id := 0, kind := .copy id, cls := some .c, issued := s.ptb }) else t
      .ok ((t1.updCore c.core (fun q => { q with copies := q.copies ++ [x], nextId := id + 1 })).startCopies c.core c.w.gid)

/-- The target of the completion form: the CTW register (R421). -/
def Ctx.ctw (c : Ctx) (ctw : BitVec 7) : Nat := c.w.wGet ctw.toNat

/-- A .bar target that is not a listed object (R421). -/
def Ctx.barUnlisted (c : Ctx) (s : State) (cpl : Cpl) (ctw : BitVec 7) : Option Nat :=
  if cpl != .bar || c.active = 0 then none
  else
    let a := c.ctw ctw
    match (if a % 16 = 0 then s.spadAt c.core c.w.gid a else none) with
    | some (k, ph) => if s.listed k ph then none else some a
    | none => some a

/-- A run of n bytes in scratchpad for a lane: the checks of its base, and of all of it (R105). -/
def Ctx.spadRun (c : Ctx) (s : State) (l a n : Nat) : Option Res :=
  match c.locate s .s .read 4 l a with
  | (.error r, _) => some r
  | (.ok _, _) =>
    if 0 < n && (s.spadRunAt c.core c.w.gid a n).isNone then
      some (.fault { cls := 1, code := 6, lane := some l, va := a, info := 1 + 16 * 2 })
    else none

/-- The rest of the checks of step 12 and the piece. -/
def Ctx.copyWith (c : Ctx) (s0 s : State) (opc mods : Nat) (cpl : Cpl) (ctw : BitVec 7) (sizeOk : Bool) (args : List Nat)
    (lanesA : List (Nat × Nat)) : Res :=
  match c.barUnlisted s cpl ctw with
  | some a => .fault { cls := 1, code := 0xC, va := a, info := 8 }
  | none =>
    let target := if cpl = .cnt then 0 else c.ctw ctw
    match c.supply s0 s opc mods cpl target args lanesA with
    | .ok t => if !sizeOk && c.active != 0 then .fault { cls := 1, code := 0xF, info := 2, va := if opc = 0x1C2 then args.getD 0 0 else 0 } else .ok t
    | r => r

/-- cpy (R423): mods bit 0 DS, bit 1 SS. -/
def execCpy (f : Fmt) (cpl : Cpl) (ds ss : Bool) (ctw : BitVec 7) (s : State) :=
  issue (.cpy f cpl ds ss ctw) f (fun c t =>
    let n := c.c t 1 c.low
    let dst := if ds then c.a t 1 c.low else c.a t 2 c.low
    let src := if ss then c.b t 1 c.low else c.b t 2 c.low
    let mods := (if ds then 1 else 0) + (if ss then 2 else 0)
    let okLen := n % 4 = 0 && 4 ≤ n && n ≤ 2 ^ 24
    let check (sp : Bool) (k : AKind) (a : Nat) (t : State) : Except Res State :=
      if sp then (match c.spadRun t c.low a (if okLen then n else 0) with | some r => .error r | none => .ok t)
      else match c.locate t .g k 4 c.low a with | (.error r, _) => .error r | (.ok _, t1) => .ok t1
    if c.active = 0 then c.copyWith s t 0x1C0 mods cpl ctw true [dst, src, n] []
    else match check ds .write dst t with
      | .error r => r
      | .ok t1 =>
        match check ss .read src t1 with
        | .error r => r
        | .ok t2 => c.copyWith s t2 0x1C0 mods cpl ctw okLen [dst, src, n] []) s

/-- cpyt (R426): mods bit 0 DIR. -/
def execCpyt (f : Fmt) (cpl : Cpl) (dir : Bool) (ctw : BitVec 7) (s : State) :=
  issue (.cpyt f cpl dir ctw) f (fun c t =>
    let o := (List.range 5).map (fun d => c.w.wGet (f.b.wN + d))
    c.copyWith s t 0x1C1 (if dir then 1 else 0) cpl ctw true (c.a t 2 c.low :: o ++ [c.c t 1 c.low]) []) s

/-- cpyw (R427). -/
def execCpyw (f : Fmt) (cpl : Cpl) (ctw : BitVec 7) (s : State) :=
  issue (.cpyw f cpl ctw) f (fun c t =>
    let o := (List.range 6).map (fun d => c.w.wGet (f.b.wN + d))
    let p := o.getD 5 0
    c.copyWith s t 0x1C2 0 cpl ctw (1 ≤ p && p ≤ 4096) (c.a t 2 c.low :: o ++ [c.c t 1 c.low]) []) s

/-- The checks of the lanes of a gather or scatter, lane by lane (R368): its VA, then its run in scratchpad. -/
def Ctx.lanesRun (c : Ctx) (k : AKind) (n base : Nat) (okLen : Bool) : List Nat → State → Except Res State
  | [], s => .ok s
  | l :: t, s =>
    match c.locate s .g k 4 l (c.a s 2 l) with
    | (.error r, _) => .error r
    | (.ok _, s1) =>
      match (if okLen then c.spadRun s1 l (base + n * l) n else none) with
      | some r => .error r
      | none => Ctx.lanesRun c k n base okLen t s1

/-- The lanes of a gather or scatter: their checks, and what the piece holds (R428). A length out of range gives the lanes no scratchpad
address to check (DEDUCED, log entry 50). -/
def Ctx.lanesCopy (c : Ctx) (s0 s : State) (opc : Nat) (k : AKind) (cpl : Cpl) (ctw : BitVec 7) : Res :=
  let n := c.b s 1 c.low
  let base := c.c s 1 c.low
  let okLen := n % 4 = 0 && 4 ≤ n && n ≤ 4096
  let ls := maskLanes c.active
  let las := ls.map (fun l => (l, c.a s 2 l))
  match c.lanesRun k n base okLen ls s with
  | .error r => r
  | .ok s1 => c.copyWith s0 s1 opc 0 cpl ctw okLen [n, base] las

/-- cpyg (R428). -/
def execCpyg (f : Fmt) (cpl : Cpl) (ctw : BitVec 7) (s : State) :=
  issue (.cpyg f cpl ctw) f (fun c t => c.lanesCopy s t 0x1C3 .read cpl ctw) s

/-- cpys (R428). -/
def execCpys (f : Fmt) (cpl : Cpl) (ctw : BitVec 7) (s : State) :=
  issue (.cpys f cpl ctw) f (fun c t => c.lanesCopy s t 0x1C4 .write cpl ctw) s

end Sys2Proof.Machine
end

