-- ==== Sys2Proof/Machine/Supervisor.lean ====
section
/-! DEFINITION. Supervisor instructions (R437 to R444, R479, R539). -/

namespace Sys2Proof.Machine

/-- The supervisor fault (R465): a reason and the index named. -/
def supFault (why idx : Nat) : Res := .fault { cls := 1, code := 0x10, info := why + 256 * (idx % 256) }

/-- A user warp of the core by admission index. -/
def Core.userWarp (k : Core) (wix : Nat) : Option Warp := k.warps.find? (fun w => !w.sup && w.wix == wix)

/-- sret (R438). Log entry 75. -/
def execSret (f : Fmt) (skip : Bool) (s : State) :=
  issue (.sret f skip) f (fun c t =>
    let i := c.a t 1 c.low % 256
    match (t.core c.core).userWarp i with
    | none => supFault 1 i
    | some w => if !w.stopped then supFault 2 i else .ok ((t.resumeWarp c.core i skip).layIf c.core i)) s

/-- mbrecv (R439). -/
def execMbrecv (f : Fmt) (pe pf : BitVec 4) (s : State) :=
  issueOk (.mbrecv f pe pf) f (fun c t =>
    match (t.core c.core).mbox with
    | [] => c.wrP (c.wrP t pe.toNat (fun _ => false)) pf.toNat (fun _ => false)
    | e :: rest =>
      let t1 := c.upd (t.updCore c.core (fun k => { k with mbox := rest })) (fun w => w.wSetN f.d.wN 16 (leVal e.bytes))
      (c.wrP (c.wrP t1 pe.toNat (fun _ => true)) pf.toNat (fun _ => e.kind == 1)).mboxRefill c.core) s

/-- The reply of mbpost in a warp (R440, R266). -/
def Warp.reply (w : Warp) (vals : List Nat) (cyc : Nat) : Warp :=
  let w1 := ((List.range 8).zip vals).foldl (fun (w : Warp) p => w.wSet p.1 p.2) w
  { w1 with wait := .none, age := cyc }

/-- mbpost (R440). -/
def execMbpost (f : Fmt) (s : State) :=
  issue (.mbpost f) f (fun c t =>
    let a := c.a t 1 c.low
    let i := a % 256
    let gen := fld a 31 16
    let vals := (List.range 8).map (fun k => c.w.wGet (f.b.wN + k))
    match (if (t.core c.core).gen = gen then (t.core c.core).userWarp i else t.findWarp c.core gen i) with
    | none => supFault 1 i
    | some w => if w.wait != .svc then supFault 2 i else .ok (t.mapWarp c.core gen i (fun x => x.reply vals (t.cycOf c.core x)))) s

/-- Entry i of the core's fault buffer. -/
def Core.entry (k : Core) (i : Nat) : Option FEntry := k.fbuf.find? (fun e => e.idx == i)

/-- Change a copy of a generation on its core, or in its vault. -/
def State.mapCopy (s : State) (c gen id : Nat) (f : Copy → Copy) : State :=
  if (s.core c).gen == gen then s.updCopy c id f
  else { s with
    vaults := s.vaults.map (fun (v : Vault) =>
      if v.core == c && v.gen == gen then { v with copies := v.copies.map (fun (x : Copy) => if x.id == id then f x else x) } else v) }

def State.freeFbuf (s : State) (c i : Nat) : State := s.updCore c (fun k => { k with fbuf := k.fbuf.filter (fun e => e.idx != i) })

/-- A copy of a generation, on its core or in its vault. -/
def State.copyOf (s : State) (c gen id : Nat) : Option Copy :=
  if (s.core c).gen == gen then (s.core c).copy? id
  else (s.vaults.find? (fun v => v.core == c && v.gen == gen)).bind (fun v => v.copies.find? (fun x => x.id == id))

/-- What the supervisor has done happens before what a replay does (R539). -/
def Ctx.passTo (c : Ctx) (s : State) (a : Agent) : State := { s with hb := s.hb.pass (.warp c.core c.wix) a }

/-- frep (R441, R479): a release at .sy by the supervisor warp (R539), which waits by R139; what it replays may be switched out. -/
def execFrep (f : Fmt) (s : State) :=
  issue (.frep f) f (fun c t =>
    let i := c.a t 1 c.low
    match (t.core c.core).entry i with
    | none => supFault 3 i
    | some e =>
      let t1 := t.freeFbuf c.core i
      if !c.w.mayRelease then .hold s
      else if e.src ≤ 1 then
        .ok ((c.passTo t1 (t.actor e.gen (.warp c.core e.who))).mapWarp c.core e.gen e.who (fun w => ({ w with replay := none, age := t.cycOf c.core w } : Warp).settle (t.cycOf c.core w)))
      else
        let who := (t.copyOf c.core e.gen e.who).map (fun x => x.agent c.core) |>.getD (.engine c.core e.who)
        .ok ((c.passTo t1 (t.actor e.gen who)).mapCopy c.core e.gen e.who (fun x => { x with faulted := none }))) s

/-- Size of the instruction in a record, from its bytes: the prefix word counts when it is not zero. -/
def FRec.size (r : FRec) : Nat := if r.ib.length ≤ 4 then 4 else r.ib.length - (if leVal (r.ib.take 4) = 0 then 4 else 0)

/-- fdrop of a warp's entry (R479): the warp stops with a new record of the same CODE. -/
def State.dropAccess (s : State) (c : Nat) (e : FEntry) : State :=
  let r : FRec := { e.rec_ with stop := true, info := e.rec_.info - (e.rec_.info % 64), ptb := s.ptb }
  let pc := BitVec.ofNat 64 r.pc
  let at_ := (pc, pc + BitVec.ofNat 64 r.size)
  if (s.core c).gen == e.gen || e.who == supWix then
    let s1 := s.updWarp c e.who (fun w => { w with replay := none, stopped := true, stopAt := some at_ })
    if e.who = supWix then s1.ringRec r else s1.mboxRec c e.who r
  else
    let s1 := s.mapWarp c e.gen e.who (fun w => { w with replay := none, stopped := true, stopAt := some at_ })
    { s1 with
      vaults := s1.vaults.map (fun (v : Vault) => if v.core == c && v.gen == e.gen then { v with heldRecs := v.heldRecs ++ [(e.who, r)] } else v) }

/-- fdrop (R441, R479, R480). -/
def execFdrop (f : Fmt) (s : State) :=
  issue (.fdrop f) f (fun c t =>
    let i := c.a t 1 c.low
    match (t.core c.core).entry i with
    | none => supFault 3 i
    | some e =>
      let t1 := t.freeFbuf c.core i
      if e.src ≤ 1 then .ok (t1.dropAccess c.core e)
      else if (t1.core c.core).gen == e.gen then
        match (t1.core c.core).copy? e.who with
        | some x => .ok (t1.failCopy c.core x none)
        | none => .ok t1
      else .ok (t1.mapCopy c.core e.gen e.who (fun x => { x with faulted := none, discarded := true }))) s

/-- The cached translation lies in the page of a size class that holds a VA, or holds that page (R442). -/
def TlbE.covered (e : TlbE) (gen cls va : Nat) : Bool :=
  e.gen == gen && (cls == 3 || (let b := max e.bits (16 + 11 * cls); e.base * 2 ^ e.bits / 2 ^ b == va / 2 ^ b))

/-- tlbi (R442): walks of the teller and the CP are not cached in this model. -/
def execTlbi (f : Fmt) (scp : Bool) (s : State) :=
  issue (.tlbi f scp) f (fun c t =>
    let va := c.a t 2 c.low
    let cls := c.b t 1 c.low
    let gen := c.c t 1 c.low % 2 ^ 16
    let clean (k : Core) : Core := { k with
      tlb := k.tlb.filter (fun e => !e.covered gen cls va), flushes := ⟨gen, cls, va, t.undo.length⟩ :: k.flushes }
    if c.w.ops.any (fun o => o.kind == .store && !o.done) then .hold s
    else if 4 ≤ cls then supFault 5 cls
    else if scp then .ok { t with cores := t.cores.map clean }
    else .ok (t.updCore c.core clean)) s

/-- wpark (R443). -/
def execWpark (f : Fmt) (s : State) :=
  issue (.wpark f) f (fun c t =>
    let i := c.a t 1 c.low
    match (t.core c.core).userWarp i with
    | none => supFault 1 i
    | some _ => .ok ((t.updWarp c.core i (fun w => { w with parkHeld := true })).parkWarp c.core i)) s

/-- wwake (R443). -/
def execWwake (f : Fmt) (s : State) :=
  issue (.wwake f) f (fun c t =>
    let i := c.a t 1 c.low
    match (t.core c.core).userWarp i with
    | none => supFault 1 i
    | some _ => .ok (t.updWarp c.core i (fun w => if w.parkHeld then w.nowReady { w with parkHeld := false } (t.cycOf c.core w) else w))) s

/-! ### sctx (R444) -/

/-- A selector. -/
structure Sel where
  cls  : Nat
  idx  : Nat
  lane : Nat
  wix  : Nat
  deriving DecidableEq, Repr

def selOf (v : Nat) : Sel := ⟨fld v 31 28, fld v 27 18, fld v 17 11, fld v 7 0⟩

/-- The item exists: a class that is defined, a lane below WIDTH, a register within the budget. -/
def Sel.ok (x : Sel) (w : Warp) : Bool :=
  match x.cls with
  | 0 | 1 | 2 => x.lane < 32
  | 3 => x.lane < 32 && x.idx < w.vBud
  | 10 => x.idx < w.vBud
  | 4 | 11 => x.idx < w.wBud
  | 14 | 15 => false
  | _ => true

/-- The value of an item of a warp. -/
def Sel.get (x : Sel) (w : Warp) : Nat :=
  match x.cls with
  | 0 => fld (w.pcs.getD x.lane 0).toNat 31 0
  | 1 => fld (w.pcs.getD x.lane 0).toNat 63 32
  | 2 => (List.range 16).foldl (fun a p => if w.pGet p x.lane then a + 2 ^ p else a) 0
  | 3 => w.vGet x.idx x.lane
  | 4 => w.wGet x.idx
  | 5 => w.fpstat.toNat
  | 6 => fld w.seed.toNat 31 0
  | 7 => fld w.seed.toNat 63 32
  | 8 => w.fin.toNat
  | 9 => w.cnt
  | 10 => (~~~ (w.vEmpty x.idx)).toNat
  | _ => if w.wE.getLsbD x.idx then 0 else 1

/-- The item may be written with this value. -/
def Sel.writable (x : Sel) (v : Nat) : Bool :=
  match x.cls with
  | 9 => false
  | 0 => v % 4 == 0
  | 1 => fld v 31 28 == 0
  | _ => true

/-- Write an item of a warp. -/
def Sel.put (x : Sel) (v : Nat) (w : Warp) : Warp :=
  match x.cls with
  | 0 => { w with pcs := modNth w.pcs x.lane (fun p => BitVec.ofNat 64 (setFld p.toNat 31 0 v)) }
  | 1 => { w with pcs := modNth w.pcs x.lane (fun p => BitVec.ofNat 64 (setFld p.toNat 63 32 v)) }
  | 2 => (List.range 16).foldl (fun (w : Warp) p =>
      w.pPut p (BitVec.ofNat 32 (2 ^ x.lane)) (if v.testBit p then BitVec.ofNat 32 (2 ^ x.lane) else 0)) w
  | 3 => { w with v := w.v.set (32 * x.idx + x.lane) (BitVec.ofNat 32 v) }
  | 4 => { w with w := w.w.set x.idx (BitVec.ofNat 32 v) }
  | 5 => { w with fpstat := fpstatOf v }
  | 6 => { w with seed := BitVec.ofNat 64 (setFld w.seed.toNat 31 0 v) }
  | 7 => { w with seed := BitVec.ofNat 64 (setFld w.seed.toNat 63 32 v) }
  | 8 => { w with fin := BitVec.ofNat 32 v }
  | 10 => { w with vE := w.vE.set x.idx (~~~ (BitVec.ofNat 32 v)) }
  | 11 => if v.testBit 0 then { w with wE := w.wE &&& ~~~ (BitVec.ofNat 128 (2 ^ x.idx)) } else w.wClear x.idx
  | _ => w

/-- The vault at a supervisor VA, of whatever core: none when its header's GEN does not name what is saved there (R203, R444). -/
def Ctx.vaultAt (c : Ctx) (s : State) (va : Nat) : Except Res (Option Vault) :=
  match c.locate s .g .read 1 c.low va with
  | (.ok (.hbm pa), _) =>
    .ok ((s.vaults.find? (fun v => locOf v.pa == locOf pa)).filter (fun v => fld (leVal (s.peek v.pa 8)) 15 0 == v.gen))
  | (.ok _, _) => .ok none
  | (.error r, _) => .error r

/-- sctx.rd (R444). -/
def execSctxRd (f : Fmt) (vlt : Bool) (s : State) :=
  issue (.sctxRd f vlt) f (fun c t =>
    let x := selOf (c.a t 1 c.low)
    let give (w : Warp) : Res := if x.ok w then .ok (c.wr t 1 (fun _ => x.get w)) else supFault 4 x.wix
    if x.cls = 12 then .ok (c.wr t 1 (fun _ => fld (t.core c.core).mbdb.toNat 31 0))
    else if x.cls = 13 then .ok (c.wr t 1 (fun _ => fld (t.core c.core).mbdb.toNat 63 32))
    else if vlt then
      match c.vaultAt t (c.b t 2 c.low) with
      | .error r => r
      | .ok v =>
        match v.bind (fun v => v.warps.find? (fun w => w.wix == x.wix)) with
        | none => supFault 1 x.wix
        | some w => give w
    else match (t.core c.core).userWarp x.wix with
      | none => supFault 1 x.wix
      | some w => give w) s

/-- sctx.wr (R444). -/
def execSctxWr (f : Fmt) (vlt : Bool) (s : State) :=
  issue (.sctxWr f vlt) f (fun c t =>
    let x := selOf (c.a t 1 c.low)
    let v := c.c t 1 c.low
    let mb (lo : Bool) : Res := .ok (t.updCore c.core (fun k =>
      { k with mbdb := BitVec.ofNat 64 (if lo then setFld k.mbdb.toNat 31 0 v else setFld k.mbdb.toNat 63 32 v) }))
    if x.cls = 12 then mb true
    else if x.cls = 13 then mb false
    else if vlt then
      match c.vaultAt t (c.b t 2 c.low) with
      | .error r => r
      | .ok vo =>
        match vo with
        | none => supFault 1 x.wix
        | some va =>
          match va.warps.find? (fun w => w.wix == x.wix) with
          | none => supFault 1 x.wix
          | some w =>
            if (t.core va.core).phase == .restore && (t.core va.core).inc.gen == va.gen then supFault 2 x.wix
            else if !(x.ok w && x.writable v) then supFault 4 x.wix
            else .ok (t.updVault va x.wix (fun w => { x.put v w with needs := [] }))
    else match (t.core c.core).userWarp x.wix with
      | none => supFault 1 x.wix
      | some w =>
        if !(w.stopped || w.parkHeld) then supFault 2 x.wix
        else if !(x.ok w && x.writable v) then supFault 4 x.wix
        else .ok (t.mapWarp c.core (t.core c.core).gen x.wix (fun w => { x.put v w with needs := [] }))) s

end Sys2Proof.Machine
end

