-- ==== Sys2Proof/Machine/Sched.lean ====
section
/-! DEFINITION. Events of the task engines and of the cores: tills (R76, R77, R81), admission and launch (R80 to R86, R91), staging (R85),
parking (R59 to R62), the landing of results (R54, R94, R137), copies (R393, R421, R480) and monitor deadlines (R124). An event that is
not enabled changes nothing (log entry 22). -/

namespace Sys2Proof.Machine

/-! ### Tills -/

/-- tillSpillReturn (R76): the oldest spilled record of a running generation comes back on chip. -/
def execTillSpillReturn (die : Nat) (s : State) : Host.Outcome State Fault Refusal :=
  let firsts := (s.tills.filter (fun t => t.die == die && s.running t.gen)).filterMap (fun t =>
    (t.recs.find? TRec.spilled).map (fun r => (t.gen, t.nid, r.age)))
  let oldest := firsts.foldl (fun (b : Option (Nat × Nat × Nat)) x =>
    match b with | none => some x | some y => if y.2.2 < x.2.2 then some x else b) none
  match oldest with
  | some (gen, nid, _) =>
    if 8192 ≤ s.onChip die then .next s
    else
      let back (l : List TRec) : List TRec :=
        modNth l (l.findIdx TRec.spilled) (fun (r : TRec) => { r with spilled := false })
      .next { s with tills := s.tills.map (fun (t : Till) => if t.gen == gen && t.nid == nid && t.die == die then { t with recs := back t.recs } else t) }
  | none => .next s

/-- tillTimerExpiry (R77). -/
def execTillTimerExpiry (gen nid die : Nat) (s : State) : Host.Outcome State Fault Refusal :=
  (if s.running gen then s.examine gen nid die else s).out

/-- bgPromotion (R81). -/
def execBgPromotion (gen nid die : Nat) (s : State) : Host.Outcome State Fault Refusal :=
  .next { s with
    tills := s.tills.map (fun (t : Till) =>
      if t.gen == gen && t.nid == nid && t.die == die then
        match t.ready, s.node gen nid with
        | some r, some n => if n.prio = 3 && r + 1000000 ≤ s.ptb then { t with promoted := true } else t
        | _, _ => t
      else t) }

/-! ### Room on a core (R50 to R52, R58; contiguous allocation, log entry 43) -/

/-- What a slice has in use: v registers and tiles as first and number, and slots. -/
structure Room where
  regs  : List (Nat × Nat)
  slots : List Nat
  tiles : List (Nat × Nat)
  deriving DecidableEq, Repr

/-- The offsets at which n units are free below cap, one in each gap, ascending. -/
def gapsFor (cap n : Nat) (used : List (Nat × Nat)) : List Nat :=
  (sortBy (fun (a b : Nat) => decide (a < b)) (distinct (0 :: used.map (fun u => u.1 + u.2)))).filter (fun b =>
    b + n ≤ cap && used.all (fun u => u.2 == 0 || b + n ≤ u.1 || u.1 + u.2 ≤ b))

/-- The lowest offset at which n units are free below cap. -/
def firstGap (cap n : Nat) (used : List (Nat × Nat)) : Option Nat := (gapsFor cap n used).head?

def Core.room (k : Core) (sl : Nat) : Room :=
  let ws := k.warps.filter (fun w => !w.sup && w.place.map Prod.fst == some sl)
  { regs := (if sl = 0 then [(0, 64)] else []) ++ ws.map (fun w => (w.vBase, w.vBud)), slots := ws.map (fun w => (w.place.map Prod.snd).getD 0), tiles := ws.map (fun w => (w.aBase, w.aBud)) }

/-- Slot, first v register and first tile for a warp of these budgets on a slice, in each way, and what the slice then has. -/
def Room.fits (r : Room) (sl v a : Nat) : List ((Nat × Nat × Nat) × Room) :=
  let slots := if sl = 0 then (List.range 16).drop 1 else List.range 16
  match slots.find? (fun n => !r.slots.contains n) with
  | some n => (gapsFor 1024 v r.regs).flatMap (fun b => (gapsFor 128 a r.tiles).map (fun t =>
      ((n, b, t), { regs := (b, v) :: r.regs, slots := n :: r.slots, tiles := (t, a) :: r.tiles })))
  | none => []

/-- The first of these ways. -/
def Room.fit (r : Room) (sl v a : Nat) : Option ((Nat × Nat × Nat) × Room) := (r.fits sl v a).head?

/-- v registers of a slice that are free. -/
def Room.free (r : Room) : Nat := 1024 - r.regs.foldl (fun n u => n + u.2) 0

/-- The slices, that with the most free v registers first (DEDUCED, log entry 110). -/
def sliceOrder (rooms : List Room) : List Nat :=
  let free (sl : Nat) : Nat := (rooms.getD sl ⟨[], [], []⟩).free
  sortBy (fun (a b : Nat) => decide (free b < free a)) (List.range 4)

/-- Slice, slot, first register and first tile for each of the warps of a group at once, if there is a way (R58, R80). Log entry 78. -/
def assign : List (Nat × Nat) → List Room → Option (List (Nat × Nat × Nat × Nat))
  | [], _ => some []
  | (v, a) :: rest, rooms =>
    (sliceOrder rooms).findSome? (fun sl =>
      ((rooms.getD sl ⟨[], [], []⟩).fits sl v a).findSome? (fun x => (assign rest (rooms.set sl x.2)).map (fun l => (sl, x.1) :: l)))

/-- Where a group goes on a core: its scratchpad, its warps' places and their admission indices. -/
structure Spot where
  sp    : Nat
  warps : List (Nat × Nat × Nat × Nat)
  wixs  : List Nat
  deriving DecidableEq, Repr

/-- A ready parked warp of the core fits on a slice: it goes before a new group (R62). -/
def Core.owesPark (k : Core) : Bool :=
  (k.warps.filter Warp.parkReady).any (fun w => (List.range 4).any (fun sl => ((k.room sl).fit sl w.vBud w.aBud).isSome))

/-- The core takes a group of the node (R58, R62, R80). -/
def State.spot (s : State) (c gen : Nat) (n : NodeReg) : Option Spot :=
  let k := s.core c
  let free := (List.range 256).filter (fun i => !k.warps.any (fun w => w.wix == i))
  if k.gen != gen || k.phase != .run || free.length < n.warps.length || k.owesPark then none
  else
    match firstGap Config.spadBytes n.spad (k.groups.map (fun g => (g.spBase, g.spBytes))),
      assign (n.warps.map (fun w => (w.2.1.1, w.2.1.2.2))) ((List.range 4).map k.room) with
    | some sp, some ws => some ⟨sp, ws, free.take ws.length⟩
    | _, _ => none

/-- The core is the first of four that are a whole physical cluster (R11, R12). -/
def State.wholeCluster (s : State) (c : Nat) : Bool :=
  let p := s.part.phys.getD c 0
  p % 4 == 0 && s.part.phys[c + 3]? == some (p + 3)

/-- The cores that take one group each, the lowest that fit: one core, or the four of a cluster (R12, R80). -/
def State.spots (s : State) (die gen : Nat) (n : NodeReg) : Option (List (Nat × Spot)) :=
  let all := (List.range s.nCores).filter (fun c => s.dieOf c == die)
  if n.clp then
    (all.filter s.wholeCluster).findSome? (fun c =>
      let cs := [c, c + 1, c + 2, c + 3].filterMap (fun q => (s.spot q gen n).map (fun x => (q, x)))
      if cs.length = 4 then some cs else none)
  else all.findSome? (fun c => (s.spot c gen n).map (fun x => [(c, x)]))

/-! ### Launch (R79, R83, R86, R91) -/

/-- The transfers of the group's regions (R84, R85). -/
def stageMoves (n : NodeReg) (rec0 : List Byte) (c sp : Nat) : List Xfer :=
  (List.range n.regions).flatMap (fun r =>
    let lo := n.dw (0xC0 + 16 * r)
    let hi := n.dw (0xC8 + 16 * r)
    let pay (j : Nat) : Nat := leVal ((rec0.drop (8 * j)).take 8)
    let base := pay (fld lo 2 0)
    let ext := fld hi 31 0
    let to_ := sp + fld hi 63 32
    if fld lo 11 8 = 1 then moves (.va base) (.sp c to_) ext
    else
      let pitch := pay (fld lo 5 3) % 2 ^ 32
      let row := fld ext 15 0
      (List.range (fld ext 31 16)).flatMap (fun i => moves (.va ((base + i * pitch) % 2 ^ 64)) (.sp c (to_ + i * row)) row))

/-- A warp as it is created (R53): every register full and zero. -/
def newWarp (gid i wix : Nat) (x : DWord × (Nat × Nat × Nat) × Word) (place : Nat × Nat × Nat × Nat) (age : Nat) : Warp :=
  { wix := wix, gid := gid, warp := i, vBud := x.2.1.1, wBud := x.2.1.2.1, aBud := x.2.1.2.2, qb := x.2.2, pcs := List.replicate 32 x.1
    preds := List.replicate 16 0, place := some (place.1, place.2.1), vBase := place.2.2.1, aBase := place.2.2.2, age := age }

/-- What a new holder of an agent's name knows: nothing but that its releases are numbered on. -/
def HB.fresh (h : HB) (a : Agent) : HB := h.put { who := a, rel := (h.of a).rel }

/-- The warps of a group that starts observe what came before the launch (R86). -/
def State.startGroup (s : State) (c gid : Nat) : State :=
  let ws := (s.core c).warps.filter (fun w => !w.sup && w.gid == gid)
  let s1 := s.updGroup c gid (fun g => { g with started := true })
  ws.foldl (fun (t : State) w => { t with hb := t.hb.pass (.stage c gid) (.warp c w.wix) }) s1

/-- Put one group on a core: it starts at once unless it has regions to stage. Its depth is that of its first record (DESIGN CHOICE, log entry 93:
R34 and R73 do not say which record's depth a group has whose records differ). -/
def State.place (s : State) (n : NodeReg) (recs : List TRec) (gid : Nat) (clp : Option (List (Nat × Nat))) (c : Nat) (x : Spot) : State :=
  let k := s.core c
  let rec0 := (recs.headD { bytes := [] }).bytes
  let g : Group := { gid := gid, gen := n.gen, nid := n.nid, desc := n.desc, depth := recDepth rec0, recs := recs.map TRec.bytes, launch := s.ptb
                     spBase := x.sp, spBytes := n.spad, nWarps := n.warps.length, rings := List.replicate 4 {}, clp := clp, provs := recs.map TRec.prov }
  let ws := ((List.range n.warps.length).zip (n.warps.zip (x.warps.zip x.wixs))).map (fun p =>
    newWarp gid p.1 p.2.2.2 p.2.1 p.2.2.1 (k.slices.getD p.2.2.1.1 {}).cyc)
  let hb1 := ws.foldl (fun (h : HB) w => h.fresh (.warp c w.wix)) (s.hb.fresh (.stage c gid))
  let hb2 := (recs.foldl (fun (h : HB) r => h.join (.stage c gid) r.clk) hb1).forget (hbSp c x.sp) n.spad
  let stage : List Copy :=
    if n.regions = 0 then []
    else [{ id := k.nextId, gid := gid, role := 0, index := 0, opc := opStage, mods := 0, target := 0, cpl := .cnt, pieces := []
            xfers := stageMoves n rec0 c x.sp }]
  let s1 := ({ s with hb := hb2 } : State).updCore c (fun k => { k with
    groups := k.groups ++ [g], warps := k.warps ++ ws, copies := k.copies ++ stage, nextId := k.nextId + 1 })
  if n.regions = 0 then s1.startGroup c gid else s1

/-- The grids of the records that a launch takes: fewer records to come, more groups live (R35, R258). -/
def State.gridsLaunch (s : State) (recs : List TRec) (k : Nat) : State :=
  let ids := recs.filterMap (fun r => r.prov.grid)
  { s with
    grids := s.grids.map (fun (g : Grid) =>
      let n := (ids.filter (· == g.id)).length
      if n = 0 then g else { g with recs := g.recs - n, live := g.live + k, launched := g.launched + k }) }

/-- Instance numbers of live groups, on cores and saved (R74). -/
def State.liveGids (s : State) : List Nat :=
  s.cores.flatMap (fun k => k.groups.map Group.gid) ++ s.vaults.flatMap (fun v => v.groups.map Group.gid)

/-- The first number from n on, of 32 bits and not zero, that no live group has; fuel: how many numbers to pass over (R74). -/
def freeGid (live : List Nat) : Nat → Nat → Nat
  | 0, n => max 1 (n % 2 ^ 32)
  | k + 1, n => if live.contains (max 1 (n % 2 ^ 32)) then freeGid live k (max 1 (n % 2 ^ 32) + 1) else max 1 (n % 2 ^ 32)

/-- The numbers of the next k groups. -/
def nextGids : Nat → Nat → List Nat → List Nat
  | 0, _, _ => []
  | k + 1, n, live => let g := freeGid live live.length n; g :: nextGids k (g + 1) (g :: live)

/-- Launch the oldest records of a ready till, as one group or as the four of a cluster (R77, R80), and examine the till again. Log entry 72. -/
def State.launch (s : State) (t : Till) (n : NodeReg) (cs : List (Nat × Spot)) : State :=
  let recs := t.recs.take n.coal
  let gids := nextGids cs.length (s.inst + 1) s.liveGids
  let ids := (cs.map Prod.fst).zip gids
  let clp := if n.clp then some ids else none
  let s1 := (cs.zip ids).foldl (fun (u : State) p => u.place n recs p.2.2 clp p.1.1 p.1.2) s
  let s2 := s1.gridsLaunch recs cs.length
  let s3 : State := { s2 with
    inst := gids.getLastD s.inst
    tills := s2.tills.map (fun (u : Till) =>
      if u.gen == t.gen && u.nid == t.nid && u.die == t.die then { u with recs := u.recs.drop n.coal, ready := none, promoted := false } else u) }
  s3.examine t.gen t.nid t.die

/-- The order of R81 for two ready tills: class, depth, ready time. A till ranks by the depth of its oldest record (DESIGN CHOICE, log entry
93: R81 does not say which record's depth counts). -/
def tillBefore (x y : Till × NodeReg) : Bool :=
  let cls (z : Till × NodeReg) : Nat := if z.2.prio = 3 && z.1.promoted then 2 else z.2.prio
  let dep (z : Till × NodeReg) : Nat := recDepth ((z.1.recs.headD { bytes := [] }).bytes)
  if cls x != cls y then decide (cls x < cls y)
  else if dep x != dep y then decide (dep y < dep x)
  else decide (x.1.ready.getD 0 < y.1.ready.getD 0)

/-- The ready tills of a die whose generation runs there, in the order of R81. Log entry 77. Of two that tie in class, depth and ready time, the
one that came to hold records first goes first (DESIGN CHOICE, log entry 107). -/
def State.readyTills (s : State) (die : Nat) : List (Till × NodeReg) :=
  sortBy tillBefore (s.tills.filterMap (fun t =>
    if t.die == die && t.ready.isSome && !t.recs.isEmpty && (s.servingDies t.gen).contains die then
      (s.node t.gen t.nid).map (fun n => (t, n))
    else none))

/-- groupAdmission (R80, R81): the first-ranked ready group, if it fits; nothing else otherwise. -/
def execGroupAdmission (die : Nat) (s : State) : Host.Outcome State Fault Refusal :=
  match s.readyTills die with
  | [] => .next s
  | (t, n) :: _ =>
    match s.spots die t.gen n with
    | none => .next s
    | some cs => (s.launch t n cs).out

/-- stagingComplete (R85): the copy engine goes on with the group's regions, and the group starts when every byte is there. -/
def execStagingComplete (core group : Nat) (s : State) : Host.Outcome State Fault Refusal :=
  match (s.core core).copies.find? (fun x => x.opc == opStage && x.gid == group) with
  | none => .next s
  | some x =>
    if (s.core core).phase != .run then .next s
    else
      let t := (State.xferSteps core x.id x.xfers.length s).xferFault core x.id
      match (t.core core).copy? x.id with
      | none => t.out
      | some y => if y.xfers.all Xfer.done then ((t.dropCopy core x.id).startGroup core group).out else t.out

/-! ### Parking -/

/-- warpParkTimeout (R59): since counts from when the warp began to wait for what lets it park. -/
def execWarpParkTimeout (core warp : Nat) (s : State) : Host.Outcome State Fault Refusal :=
  match (s.core core).warp? warp with
  | none => .next s
  | some w =>
    let kind := match w.wait with
      | .cnt _ | .ph _ _ _ _ => !w.stopped && w.replay.isNone
      | .none => !w.stopped && w.replay.isNone && !w.parkHeld && !w.needs.isEmpty && !w.needs.any w.met
      | _ => false
    if kind && w.since != 0 && w.since + 2000 ≤ s.ptb then (s.parkWarp core warp).out else .next s

/-- warpUnpark (R61, R62): the oldest ready parked warp that fits on the slice. -/
def execWarpUnpark (core slice : Nat) (s : State) : Host.Outcome State Fault Refusal :=
  let k := s.core core
  if k.phase != .run || 4 ≤ slice then .next s
  else
    let ws := sortBy (fun (x y : Warp) => decide (x.age < y.age)) (k.warps.filter Warp.parkReady)
    match ws.findSome? (fun w => ((k.room slice).fit slice w.vBud w.aBud).map (fun f => (w.wix, f.1))) with
    | some (wix, slot, reg, tile) =>
      (s.updWarp core wix (fun w => { w with place := some (slice, slot), vBase := reg, aBase := tile, since := 0, needs := [], ready := true })).out
    | none => .next s

/-- yieldIntervalEnd (R331). -/
def execYieldIntervalEnd (core warp : Nat) (s : State) : Host.Outcome State Fault Refusal :=
  (s.updWarp core warp (fun w =>
    match w.wait with
    | .yield n => if n ≤ s.cycOf core w then { w with wait := .none, age := n } else w
    | _ => w)).out

/-! ### Results that land -/

/-- The values of an operation land (R54): in the registers, or in the park or vault record; a parked warp that waited for them is then
ready (R61). -/
def Warp.landOp (w : Warp) (cyc : Nat) (o : Op) : Warp := w.nowReady ((w.fill o.fills).opDone o.id) cyc

/-- A warp of a generation stops at its next boundary, here or, when it is saved, once it is back (R461). -/
def State.stopWarp (s : State) (c gen wix : Nat) (r : FRec) : State :=
  let rc := s.recFor c gen wix r
  if wix = supWix || (s.core c).gen == gen then (if ((s.core c).warp? wix).isSome then s.stopAsync c wix rc else s)
  else s.mapWarp c gen wix (fun w => { w with asyncStop := w.asyncStop.or (some { rc.now s.ptb with async := true }) })

/-- A warp that took a poisoned value stops when it is there (R496). -/
def State.stopPoison (s : State) (c gen wix va : Nat) : State := s.stopWarp c gen wix { cls := 3, code := 3, va := va }

/-- A group wherever it is. -/
def State.findGroup (s : State) (c gen gid : Nat) : Option Group :=
  if (s.core c).gen == gen then (s.core c).group? gid
  else (s.vaults.find? (fun v => v.core == c && v.gen == gen)).bind (fun v => v.groups.find? (fun g => g.gid == gid))

/-- The ring entries that an operation waits for can be delivered (R95). -/
def State.popsHere (s : State) (c gen gid : Nat) (o : Op) : Bool :=
  o.pops.all (fun e => ((s.findGroup c gen gid).map (fun g => (g.ring e.1).arrived e.2)).getD true)

/-- An operation whose data is all there is finished, and what it popped is delivered (R95). -/
def State.finishOp (s : State) (c gen wix : Nat) (o : Op) : State :=
  let gid := ((s.findWarp c gen wix).map Warp.gid).getD 0
  let s0 := o.pops.foldl (fun (t : State) e =>
    t.mapGroup c gen gid (fun g => { g with rings := modNth g.rings e.1 (Ring.deliver e.2) })) s
  let s1 := s0.mapWarp c gen wix (fun w => w.landOp (s.cycOf c w) o)
  match o.stopVA with
  | some va => s1.stopPoison c gen wix va
  | none => s1

/-- loadDataReturn (R54, R95): what a local location gave, or ring entries that are there. -/
def execLoadDataReturn (core warp op : Nat) (s : State) : Host.Outcome State Fault Refusal :=
  match (s.warp core warp).ops.find? (fun o => o.id == op) with
  | some o =>
    let mine := match o.kind with | .load | .atom | .claim _ _ | .pop => true | _ => false
    if mine && o.reqs.isEmpty && s.popsHere core (s.core core).gen (s.warp core warp).gid o then (s.finishOp core (s.core core).gen warp o).out else .next s
  | none => .next s

/-- warpComplete (R35). -/
def execWarpComplete (core warp : Nat) (s : State) : Host.Outcome State Fault Refusal :=
  match (s.core core).userWarp warp with
  | some w =>
    if w.over (s.group core w.gid) then (((s.warpLeaves core warp).startCopies core w.gid).retireGroup 12 core w.gid 0).out
    else .next s
  | none => .next s

/-- queueCommitNotice (R93, R94). -/
def execQueueCommitNotice (core group ring : Nat) (count : Word) (s : State) : Host.Outcome State Fault Refusal :=
  (s.updRing core group ring (Ring.notice count)).out

/-- matrixResultWritten (R137): the oldest M-class operation of the warp. -/
def execMatrixResultWritten (core warp : Nat) (s : State) : Host.Outcome State Fault Refusal :=
  match (s.warp core warp).ops.find? (fun o => o.cls == some .m && !o.done) with
  | some o => (s.mapWarp core (s.core core).gen warp (fun w => w.opDone o.id)).out
  | none => .next s

/-- redPerformed (R137, R379, R380): the oldest A-class operation of the warp is performed, lane by lane. -/
def execRedPerformed (core warp : Nat) (s : State) : Host.Outcome State Fault Refusal :=
  match (s.warp core warp).ops.find? (fun o => o.cls == some .a && !o.done) with
  | some o =>
    let s1 := o.reds.foldl (fun (t : State) r => t.redLane (.warp core warp) r) s
    (s1.mapWarp core (s1.core core).gen warp (fun w => w.opDone o.id)).out
  | none => .next s

/-! ### Copies -/

/-- The copy engine works: in a slot, and through the halt, at whose end it stands stopped (R193). -/
def Core.copying (k : Core) : Bool := k.phase == .run || k.phase == .halt

/-- copyPosting (R393): the next transfers of a started copy. -/
def execCopyPosting (core copy count : Nat) (s : State) : Host.Outcome State Fault Refusal :=
  match (s.core core).copy? copy with
  | some x => if x.started && (s.core core).copying then (State.xferSteps core copy (min count x.xfers.length) s).out else .next s
  | none => .next s

/-- copyComplete (R421). -/
def execCopyComplete (core copy : Nat) (s : State) : Host.Outcome State Fault Refusal :=
  match (s.core core).copy? copy with
  | some x => if x.finished then (s.completeCopy core x).out else .next s
  | none => .next s

/-- copyAccessFault (R480). -/
def execCopyAccessFault (core copy : Nat) (s : State) : Host.Outcome State Fault Refusal :=
  if (s.core core).copying then (s.xferFault core copy).out else .next s

/-! ### Monitors and the matrix unit -/

/-- monitorDeadline (R124): entry k of the list. -/
def execMonitorDeadline (k : Nat) (s : State) : Host.Outcome State Fault Refusal :=
  match s.mons[k]? with
  | some m =>
    if m.dline != 0 && m.dline ≤ s.ptb && m.st != .done then ((s.fireMon m false).monRefillAll).out
    else .next s
  | none => .next s

/-- matrixRampTimer (R413). -/
def execMatrixRampTimer (core slice : Nat) (s : State) : Host.Outcome State Fault Refusal :=
  (s.updSlice core slice Slice.ramp).out

end Sys2Proof.Machine
end

