-- ==== Sys2Proof/Machine/Switch.lean ====
section
/-! DEFINITION. Switching (R190 to R212, R504, R510 to R514): the slot in force on a core, the signal, halt, drain, save and restore, the
vault, the end of a slot and of a pre-emption slot, and the restart of a core. -/

namespace Sys2Proof.Machine

/-! ### The slot in force -/

/-- Bit d of package set p (R188). -/
def State.inPset (s : State) (p d : Nat) : Bool :=
  (leVal (s.peek (fld (s.cpw oPSETB) 55 12 * 2 ^ 12 + 4096 * p + d / 8) 1)).testBit (d % 8)

/-- The entry applies to a core of this package (R188). -/
def State.applies (s : State) (e : List Byte) (c : Nat) : Bool := s.inPset (entPset e) s.dev && s.cset (entCset e) c

def entSwt (e : List Byte) : Nat := entW e 0
def entEnd (e : List Byte) : Nat := entSwt e + 1000 * fld (entW e 6) 63 32

/-- What a core runs under an entry. -/
def slotOfEntry (e : List Byte) (pre : Bool) (c : Nat) : SlotIn :=
  { gen := entGen e, job := entJob e, swt := if pre then 0 else entSwt e, pre := pre, direct := fld (entW e 5) 9 8 == 1
    aclk := if pre then 0 else fld (entW e 5) 63 48, vault := fld (entW e 3) 55 21 * 2 ^ 21 + 2 ^ 21 * c
    park := fld (entW e 4) 55 20 * 2 ^ 20 + 2 ^ 20 * c }

/-- The slot that R190 puts in force on a core: the latest SWT that has come and whose window has not ended. A slot of an aborted
generation is idle. Of two entries with one SWT for different core sets, the one accepted later is in force (DESIGN CHOICE, log entry 106). -/
def State.ordinary (s : State) (c : Nat) : SlotIn :=
  let es := s.table.filter (fun e => !entLcr e && entSwt e ≤ s.ptb && s.ptb < entEnd e && s.applies e c)
  let last := es.foldl (fun (b : Option (List Byte)) e => match b with | some x => if entSwt x ≤ entSwt e then some e else b | none => some e) none
  match last with
  | some e => if s.aborted.contains (entGen e) then {} else slotOfEntry e false c
  | none => {}

/-- The pre-emption slot in force on a core, else the ordinary one (R190, R207). -/
def State.target (s : State) (c : Nat) : SlotIn :=
  match s.preempt.findSome? (fun p =>
    if p.on then (s.reservation p.gen).bind (fun e => if s.applies e c then some (slotOfEntry e true c) else none) else none) with
  | some x => x
  | none => s.ordinary c

/-- The core need not switch: it runs that slot, or it runs the reserved generation when its pre-emption begins (R207). -/
def SlotIn.holds (x t : SlotIn) : Bool :=
  x.gen == t.gen && ((x.swt == t.swt && x.pre == t.pre) || (t.pre && !x.pre))

/-! ### Signal, halt, drain -/

/-- Signal a core whose slot has changed (R190, R192); a switch in progress is not interrupted (R512). -/
def State.signalCore (s : State) (c : Nat) : State :=
  let k := s.core c
  let t := s.target c
  if k.phase != .run || k.slot.holds t then s
  else s.updCore c (fun k => { k with phase := .halt, inc := t, swAt := s.ptb, phAt := s.ptb })

def State.signalAll (s : State) : State := (List.range s.nCores).foldl State.signalCore s

/-- The instants T that have come (R207). -/
def State.preemptOn (s : State) : State :=
  { s with preempt := s.preempt.map (fun (p : Preempt) => if p.t ≤ s.ptb then { p with on := true } else p) }

/-- switchPrepare (R191): nothing that a program can see. -/
def execSwitchPrepare (core : Nat) (s : State) : Host.Outcome State Fault Refusal :=
  let near := s.table.any (fun e => !entLcr e && s.ptb < entSwt e && entSwt e ≤ s.ptb + fld (entW e 6) 31 0 && s.applies e core)
  (if near then s.updCore core (fun k => { k with prep := true }) else s).out

/-- switchSignal (R192). -/
def execSwitchSignal (s : State) : Host.Outcome State Fault Refusal := s.preemptOn.signalAll.out

/-- What has issued completes (R193): matrix operations, reductions, what was popped, and loads, atomics and claims that need no packet. -/
def State.complete (s : State) (c wix : Nat) : State :=
  (s.warp c wix).ops.foldl (fun (t : State) o =>
    match o.kind with
    | .mat => t.updWarp c wix (fun w => w.opDone o.id)
    | .red =>
      if o.cls == some .a && !o.done then
        (o.reds.foldl (fun (u : State) r => u.redLane (.warp c wix) r) t).updWarp c wix (fun w => w.opDone o.id)
      else t
    | .load | .atom | .claim _ _ | .pop => if o.reqs.isEmpty then t.finishOp c (s.core c).gen wix o else t
    | _ => t) s

/-- The user warps of a core. -/
def Core.users (k : Core) : List Nat := (k.warps.filter (fun w => !w.sup)).map Warp.wix

/-- The pushes of the warps have been performed, and then the rest. -/
def State.completeAll (s : State) (c : Nat) : State :=
  (s.core c).users.foldl (fun (t : State) wix => t.complete c wix) (s.updCore c (fun k => { k with
    groups := k.groups.map (fun (g : Group) => { g with rings := g.rings.map (fun (r : Ring) => { r with commit := r.tail }) }) }))

/-- switchHaltEnd (R192, R193). -/
def execSwitchHaltEnd (core : Nat) (s : State) : Host.Outcome State Fault Refusal :=
  if (s.core core).phase != .halt then .next s
  else ((s.completeAll core).updCore core (fun k => { k with phase := .drain, phAt := s.ptb })).out

/-- Fabric operations of the user warps of a core that have no answer yet; copies are no fabric operations (R193). Log entry 55. -/
def Core.fabricOps (k : Core) : Nat :=
  ((k.warps.filter (fun w => !w.sup)).flatMap (fun w => w.ops.filter (fun o => !o.reqs.isEmpty))).length

/-- switchDrainEnd (R192). -/
def execSwitchDrainEnd (core : Nat) (s : State) : Host.Outcome State Fault Refusal :=
  let k := s.core core
  if k.phase == .drain && (k.slot.direct || k.fabricOps == 0) then (s.updCore core (fun k => { k with phase := .save, phAt := s.ptb })).out
  else .next s

/-- switchDrainLimit (R511). -/
def execSwitchDrainLimit (core : Nat) (s : State) : Host.Outcome State Fault Refusal :=
  let k := s.core core
  if k.phase == .drain && !k.slot.direct && k.fabricOps != 0 && k.phAt + 6000 ≤ s.ptb then
    ((s.updCore core (fun k => { k with phase := .save, phAt := s.ptb })).ringRec
      { cls := 5, code := 5, core := core, info := min 65535 k.fabricOps + k.gen * 2 ^ 16 }).out
  else .next s

/-! ### Save -/

/-- Records that go to the spill area take the free places in turn. -/
def placeRecs : List Nat → List TRec → List TRec × List Nat
  | fs, [] => ([], fs)
  | fs, r :: t =>
    if r.spilled then let (l, g) := placeRecs fs t; (r :: l, g)
    else let (l, g) := placeRecs (fs.drop 1) t; ({ r with spilled := true, at_ := fs.headD 0 } :: l, g)

/-- The records of a generation's tills, all of them spilled. -/
def placeTills (gen : Nat) : List Nat → List Till → List Till
  | _, [] => []
  | fs, t :: ts =>
    if t.gen == gen then let (rs, g) := placeRecs fs t.recs; { t with recs := rs } :: placeTills gen g ts
    else t :: placeTills gen fs ts

/-- Nothing of a generation runs here any more: its records go to its spill area, or stay on chip without one (R78, R486, R487); while it runs
on other dies, they go there (R102). Log entry 56. -/
def State.shelveTills (s : State) (gen : Nat) : State :=
  if gen = 0 || !(s.servingDies gen).isEmpty then s.rehome gen
  else match s.spillEntry gen with
  | none => s
  | some o =>
    let cap : Nat := 2 ^ fld (s.cpw (o + 8)) 39 32
    let mine := s.tills.filter (fun t => t.gen == gen)
    let n : Nat := mine.foldl (fun (n : Nat) (t : Till) => n + t.recs.length) 0
    if cap < n then ((s.spillFull gen cap n).ringRec { cls := 4, code := 0xD, async := true, gen := gen }).abortPart (s.partOf gen) 3
    else
      let used := mine.flatMap (fun t => (t.recs.filter TRec.spilled).map TRec.at_)
      let tills := placeTills gen ((List.range n).filter (fun i => !used.contains i)) s.tills
      let s1 := ((tills.filter (fun t => t.gen == gen)).flatMap Till.recs).foldl (fun (t : State) r => if used.contains r.at_ then t else t.laySpill gen r)
        { s with tills := tills }
      s1.spillFull gen cap n

/-- The state that a core saves (R197, R266): its user warps, groups, scratchpad, barrier objects, mailbox entries and copies; its
monitor entries are marked ABSENT (R126). Log entry 34. -/
def State.saveCore (s0 : State) (c : Nat) : State :=
  let s := s0.leaveAll c
  let k := s.core c
  if k.gen = 0 then s
  else
    let v : Vault := { pa := k.slot.vault, park := k.slot.park, core := c, gen := k.gen, job := k.job, warps := k.warps.filter (fun w => !w.sup)
                       groups := k.groups, sp := k.sp, bars := k.bars, mbox := k.mbox.filter (fun e => e.gen == k.gen)
                       heldRecs := k.heldRecs.filter (fun x => x.2.gen == k.gen), copies := k.copies
                       splog := s.hb.within (hbSp c 0) Config.spadBytes }
    let s1 : State := { s with
      hb := (s.hb.forget (hbSp c 0) Config.spadBytes).depart k.gen c
      vaults := v :: s.vaults.filter (fun x => x.pa != v.pa)
      mons := s.mons.map (fun (m : Mon) => if m.dev == s.dev && m.core == c && m.gen == k.gen && m.st == .armed then { m with st := .absent } else m) }
    (s1.updCore c (fun q => { q with
      gen := 0, job := 0, warps := q.warps.filter Warp.sup, groups := [], bars := [], copies := []
      mbox := q.mbox.filter (fun e => e.gen != k.gen), heldRecs := q.heldRecs.filter (fun x => x.2.gen != k.gen) })).layVault v k.aclk

/-- A supervisor warp at Shatus's entry point (R504), its registers full and zero. -/
def supWarp (entry : DWord) (age : Nat) : Warp :=
  { wix := supWix, gid := 0, warp := 0, vBud := 64, wBud := 128, aBud := 0, pcs := List.replicate 32 entry, preds := List.replicate 16 0, sup := true
    place := some (0, 0), age := age }

/-- Restart the supervisor warp (R504). -/
def State.restartSup (s : State) (c : Nat) : State :=
  (s.updCore c (fun k => { k with
    restart := false
    warps := k.warps.filter (fun w => !w.sup) ++ [supWarp s.supEntry (k.slices.getD 0 {}).cyc] })).ringRec { cls := 8, code := 1, core := c, info := c }

/-- The restore is about to begin (R200, R512): the slot now in force is the one to restore, a superseded one is recorded, and the clock
changes first if it is to. The switch at the end of a pre-emption slot to an entry whose SWT fell within the slot changes the clock too, as the
switch to that entry, which R17 has at its timetable boundary, would have done (DEDUCED, log entry 54). -/
def State.turn (s : State) (c : Nat) : State :=
  let k := s.core c
  let t := s.target c
  let same := k.inc.holds t || k.inc.gen = 0
  let s1 := if same then s else s.ringRec { cls := 5, code := 6, core := c, info := k.inc.gen * 2 ^ 16 }
  let ph : SwPh := if t.aclk != 0 && t.aclk != k.aclk then .clock else .restore
  let s2 := s1.updCore c (fun k => { k with inc := t, phase := ph, phAt := s.ptb })
  if same then s2 else s2.shelveTills k.inc.gen

/-- switchSaveEnd (R197, R504, R512). -/
def execSwitchSaveEnd (core : Nat) (s : State) : Host.Outcome State Fault Refusal :=
  let k := s.core core
  if k.phase != .save then .next s
  else
    let s1 := (s.saveCore core).shelveTills k.gen
    ((if k.restart then s1.restartSup core else s1).turn core).out

/-- clockChangeEnd (R200). Log entry 54. -/
def execClockChangeEnd (core : Nat) (s : State) : Host.Outcome State Fault Refusal :=
  let k := s.core core
  if k.phase == .clock && k.phAt + 1000 ≤ s.ptb then ((s.updCore core (fun k => { k with aclk := k.inc.aclk })).turn core).out
  else .next s

/-! ### Restore -/

/-- The context that the vault of a slot holds: none when its header's GEN is 0, or names no context saved there (R198, R203). -/
def State.saved (s : State) (c : Nat) (x : SlotIn) : Option Vault :=
  let g := fld (leVal (s.peek x.vault 8)) 15 0
  if g = 0 then none else s.vaults.find? (fun v => v.pa == x.vault && v.core == c && v.gen == g && v.gen == x.gen)

/-- Wake the warps whose entries are DONE, and arm the others (R126). -/
def State.rearm (s : State) (c gen : Nat) : State :=
  let mine (m : Mon) : Bool := m.dev == s.dev && m.core == c && m.gen == gen
  let s1 := (s.mons.filter (fun m => mine m && m.st == .done)).foldl (fun (t : State) m =>
    match t.wakeWarp c m.wix gen m.held with
    | some u => { u with mons := u.mons.filter (· != m) }
    | none => { t with mons := t.mons.filter (· != m) }) s
  ({ s1 with mons := s1.mons.map (fun (m : Mon) => if mine m && m.st == .absent then { m with st := .armed } else m) } : State).monRefillAll

/-- Spilled records of a die come back on chip while it has room, the oldest of each till first (R76, R78). -/
def State.unspill (s : State) (die : Nat) : State :=
  let back (a : List TRec × Nat) (r : TRec) : List TRec × Nat :=
    if r.spilled && a.2 != 0 then (a.1 ++ [{ r with spilled := false }], a.2 - 1) else (a.1 ++ [r], a.2)
  let go := s.tills.foldl (fun (a : List Till × Nat) t =>
    if t.die == die && s.running t.gen then
      let (rs, n) := t.recs.foldl back ([], a.2)
      (a.1 ++ [{ t with recs := rs }], n)
    else (a.1 ++ [t], a.2)) ([], 8192 - s.onChip die)
  { s with tills := go.1 }

/-- Records waiting for a generation enter their tills (R75, R78, R198). -/
def State.reloadTills (s : State) (gen : Nat) : State :=
  let s3 := (List.range 4).foldl State.unspill (s.rehome gen)
  (s3.tills.filter (fun t => t.gen == gen)).foldl (fun (t : State) x => t.examine gen x.nid x.die) s3

/-- The generation's held queue is applied in arrival order, before anything else happens (R196); a packet is performed as it is applied
(R225). -/
def State.applyHeld (s : State) (gen : Nat) : State :=
  (s.held.filter (fun h => h.1 == gen)).foldl (fun (t : State) h => (t.barrierPacket h.2).performed h.2.src.toNat h.2.psn.toNat)
    { s with held := s.held.filter (fun h => h.1 != gen) }

/-- Apply barrier traffic, or hold it for a generation that is not running (R196): whether it is performed now (R225). -/
def State.barrierTraffic (s : State) (p : Packet) : State × Bool :=
  if p.gen = 0 || s.running p.gen.toNat then (s.barrierPacket p, true) else ({ s with held := s.held ++ [(p.gen.toNat, p)] }, false)

/-- A saved copy that fdrop has dropped ends (R479, R480). -/
def State.endDropped (s : State) (c : Nat) : State :=
  ((s.core c).copies.filter (fun x => x.discarded && (x.started || x.opc == opStage))).foldl (fun (t : State) x => t.failCopy c x none) s

/-- A stop that came while the warp was saved is taken (R496). -/
def State.takeAsync (s : State) (c : Nat) : State :=
  ((s.core c).warps.filter (fun w => !w.sup && !w.stopped)).foldl (fun (t : State) w =>
    match w.asyncStop with
    | some r => (t.updWarp c w.wix (fun w => { w with asyncStop := none })).takeFault c w.wix none r
    | none => t) s

/-- switchRestoreEnd (R198, R513). -/
def execSwitchRestoreEnd (core : Nat) (s : State) : Host.Outcome State Fault Refusal :=
  let k := s.core core
  if k.phase != .restore then .next s
  else
    let x : SlotIn := if s.aborted.contains k.inc.gen then {} else k.inc
    let late := s.ptb - k.swAt
    let s0 := s.updCore core (fun k => { k with
      phase := .run, gen := x.gen, job := x.job, slot := x, inc := {}, prep := false, tlb := [], tlbAt := s.undo.length, flushes := [], rcache := []
      roAt := s.undo.length })
    let s1 := if 60000 < late then s0.ringRec { cls := 5, code := 7, core := core, info := min 65535 (late / 1000) } else s0
    match (if x.gen = 0 then none else s.saved core x) with
    | none => ((s1.reloadTills x.gen).applyHeld x.gen).out
    | some v =>
      let hb : HB := (s1.hb.forget (hbSp core 0) Config.spadBytes).recall x.gen core
      let s2 := ({ s1 with hb := { hb with wlog := v.splog ++ hb.wlog } } : State).updCore core (fun k => { k with
        warps := k.warps ++ v.warps.map (fun (w : Warp) =>
          let cyc := s1.cycOf core w
          ({ w with age := cyc, ready := true, keen := none, since := if w.since = 0 then 0 else max s.ptb 1 } : Warp).settle cyc)
        groups := v.groups, sp := v.sp, bars := v.bars, copies := v.copies, mbox := k.mbox ++ v.mbox
        heldRecs := k.heldRecs ++ v.heldRecs })
      let s3 := v.groups.foldl (fun (t : State) g => t.startCopies core g.gid) (((s2.rearm core x.gen).takeAsync core).endDropped core)
      let s4 := v.warps.foldl (fun (t : State) w => t.sendLater core w.wix) (((s3.mboxRefill core).reloadTills x.gen).applyHeld x.gen)
      (v.groups.foldl (fun (t : State) g => t.retireGroup 12 core g.gid 0) s4).out

/-! ### The end of slots, and restart -/

/-- slotWindowEnd (R190): the window of the core's slot has ended, or a later SWT has come. -/
def execSlotWindowEnd (core : Nat) (s : State) : Host.Outcome State Fault Refusal := (s.signalCore core).out

/-- The pre-emption slots of a generation that are over end: at U, or at the end of the reservation's window (R205, R210). Log entry 60. -/
def State.preemptOver (s : State) (gen : Nat) : State :=
  let done (p : Preempt) : Bool :=
    p.gen == gen && p.on && ((match p.u with | some u => decide (u ≤ s.ptb) | none => false)
      || (match s.reservation gen with | some e => decide (p.t + 1000 * fld (entW e 6) 63 32 ≤ s.ptb) | none => true))
  let ended := s.preempt.filter done
  if ended.isEmpty then s
  else
    let left := s.preempt.filter (fun p => !done p)
    let s1 : State := { s with preempt := left }
    let s2 : State :=
      if ended.any Preempt.wdr && !left.any (fun p => p.gen == gen) then
        { s1 with table := s1.table.filter (fun e => !(entLcr e && entGen e == gen)) }
      else s1
    s2.preemptOn.signalAll

/-- preemptionSlotEnd (R205, R210). -/
def execPreemptionSlotEnd (gen : Nat) (s : State) : Host.Outcome State Fault Refusal := (s.preemptOver gen).out

/-- coreRestart (R504): after a fault of the supervisor warp, the user warps are saved as for a switch, the supervisor warp is restarted,
and the generation is restored. -/
def execCoreRestart (core : Nat) (s : State) : Host.Outcome State Fault Refusal :=
  let k := s.core core
  match k.warps.find? Warp.sup with
  | some w =>
    if !w.stopped || k.restart then .next s
    else match k.phase with
      | .run => (s.updCore core (fun k => { k with restart := true, phase := .halt, inc := s.target core, swAt := s.ptb, phAt := s.ptb })).out
      | .halt | .drain | .save => (s.updCore core (fun k => { k with restart := true })).out
      | _ => (s.restartSup core).out
  | none => .next s

end Sys2Proof.Machine
end

