-- ==== Sys2Proof/Machine/Cp.lean ====
section
/-! DEFINITION. The command processor: commands (R65, R267, R268, R277 to R285, R474), register writes (R251, R269 to R273, R459), deposits
and their records (R251 to R257, R488), standing reservations (R207, R208, R211), bring-up (R280, R281), resets of a function (R501). -/

namespace Sys2Proof.Machine

/-! ### Ending a command (R268, R474) -/

def cpAcc : Acc := { who := .cp, strong := true, sc := .sy, rel := true }

/-- Write the status word of the entry at HEAD, and advance HEAD. -/
def State.endCommand (s : State) (status : Nat) : State :=
  let s1 := s.storePA cpAcc (s.cmdAddr + 0x18) ((leBytes 8 (2 ^ 63 + status)).map some)
  let pos := s1.cpw oCMDPOS
  s1.setCpw oCMDPOS (setFld pos 31 0 (fld pos 31 0 + 1))

/-- Perform a command when it is the one at HEAD. -/
def State.command (s : State) (i : Instr) (f : State → Nat × State) : Host.Outcome State Fault Refusal :=
  if s.nextCommand != some i then .next s
  else let (status, t) := f s; (t.endCommand status).out

/-! ### Registration (R65 to R72, R84, R90, R102, R153) -/

/-- Every bit of n in a field is zero. -/
def noBits (n : Nat) (fs : List (Nat × Nat)) : Bool := fs.all (fun f => fld n f.1 f.2 == 0)

/-- Budgets and their reserved bits (R69, R90). -/
def budgetOk (b : Nat) : Bool :=
  1 ≤ fld b 6 0 && fld b 6 0 ≤ 80 && 1 ≤ fld b 12 8 && fld b 12 8 ≤ 16 && fld b 23 16 ≤ 128 && !b.testBit 7 && noBits b [(15, 13)]

/-- R67 to R71, and the reserved fields of every region template and role entry (R3, R84, R90, R474). -/
def NodeReg.headOk (n : NodeReg) : Bool :=
  let hdr := n.dw 0
  let gang := n.kind == 1
  noBits hdr [(63, 40), (10, 8), (5, 4)] && n.kind ≤ 2 && (!gang || fld hdr 15 12 == 0)
    && noBits (n.dw 8) [(63, 60), (1, 0)] && (!gang || n.dw 8 == 0)
    && (if gang then n.dw 0x10 == 0 else noBits (n.dw 0x10) [(63, 24)] && budgetOk (n.dw 0x10 % 2 ^ 24))
    && noBits (n.dw 0x18) [(63, 24), (7, 6)]
    && noBits (n.dw 0x20) [(63, 25), (15, 6)] && fld (n.dw 0x20) 24 16 ≤ 320 && fld (n.dw 0x20) 2 0 ≤ 4
    && (if gang then 1 ≤ fld (n.dw 0x20) 5 3 && fld (n.dw 0x20) 5 3 ≤ 4 else fld (n.dw 0x20) 5 3 == 0)
    && n.dw 0x30 == 0 && n.dw 0x38 == 0
    && (List.range 4).all (fun r => noBits (n.dw (0xC0 + 16 * r)) [(63, 12), (7, 6)] && noBits (n.dw (0x88 + 16 * r)) [(31, 28), (15, 13), (7, 7)])

/-- R153. -/
def NodeReg.slotOk (n : NodeReg) (v : Nat) : Bool :=
  let ef := fld v 4 0
  let blk := fld v 7 5
  let sf := fld v 10 8
  let npl := fld v 14 11
  let sloc := fld v 19 16
  let soff := fld v 43 20
  let scaled := [4, 5, 6, 7, 8, 9, 15].contains ef
  ef ≤ 16 && blk ≤ 4 && sf ≤ 4 && sloc ≤ 2 && noBits v [(63, 44)] && soff % 4 == 0
    && (sf == 0 || scaled)
    && (if sf == 1 || sf == 2 || sf == 4 then blk != 0 else blk == 0 && sloc == 0)
    && (sf != 2 || blk == 1 || blk == 2)
    && (!(sf == 3 || sf == 4 || sloc == 2) || soff < n.spad)
    && (!(sf == 3 || sf == 4) || soff + 4 ≤ n.spad)
    && (sloc != 2 || (if sf = 4 then soff + 4 else soff) < n.spad)
    && (if ef = 15 then 2 ≤ npl && npl ≤ 8 else npl == 0 && !v.testBit 15)

/-- The rings of R72: none but of a GANG node, within SPAD, apart from each other. -/
def NodeReg.ringsOk (n : NodeReg) : Bool :=
  let def_ (k : Nat) : Nat := fld (n.dw 0x28) (16 * k + 15) (16 * k)
  let on (k : Nat) : Bool := (def_ k).testBit 15
  let lo (k : Nat) : Nat := 128 * fld (def_ k) 11 0
  let hi (k : Nat) : Nat := lo k + 128 * 2 ^ (fld (def_ k) 14 12 + 1)
  if n.kind != 1 then n.dw 0x28 == 0
  else (List.range 4).all (fun k => !on k
    || (hi k ≤ n.spad && (List.range 4).all (fun j => j == k || !on j || hi k ≤ lo j || hi j ≤ lo k)))

/-- The region templates in use (R84). -/
def NodeReg.regionOk (n : NodeReg) (r : Nat) : Bool :=
  let lo := n.dw (0xC0 + 16 * r)
  let hi := n.dw (0xC8 + 16 * r)
  let ext := fld hi 31 0
  let off := fld hi 63 32
  let shp := fld lo 11 8
  fld lo 2 0 != 0 && off % 64 == 0
    && (if shp = 1 then fld lo 5 3 == 0 && ext % 64 == 0 && off + ext ≤ n.spad
        else shp == 2 && fld lo 5 3 != 0 && fld ext 15 0 % 64 == 0 && off + fld ext 31 16 * fld ext 15 0 ≤ n.spad)

/-- The roles in use (R90, R91). -/
def NodeReg.roleOk (n : NodeReg) (r : Nat) : Bool :=
  let lo := n.dw (0x80 + 16 * r)
  let hi := n.dw (0x88 + 16 * r)
  noBits lo [(63, 60), (1, 0)] && budgetOk (hi % 2 ^ 24)
    && (List.range 8).all (fun q =>
      let b := fld hi (35 + 4 * q) (32 + 4 * q)
      !b.testBit 3 || (n.dw 0x28).testBit (16 * (b % 4) + 15))

def NodeReg.rolesOk (n : NodeReg) : Bool :=
  n.kind != 1 || ((List.range (fld (n.dw 0x20) 5 3)).all n.roleOk && n.warps.length ≤ 16)

/-- One group fits on an empty core (R102). -/
def NodeReg.fits (n : NodeReg) : Bool :=
  n.spad ≤ Config.spadBytes && (assign (n.warps.map (fun w => (w.2.1.1, w.2.1.2.2))) ((List.range 4).map ({} : Core).room)).isSome

/-- The STATUS of the descriptor's own checks: 0 when it may be registered (R474). -/
def State.nodeStatus (s : State) (n : NodeReg) : Nat :=
  if fld (n.dw 0) 39 16 != n.nid then 1
  else if !n.headOk then 2
  else if !(List.range 8).all (fun k => n.slotOk (n.dw (0x40 + 8 * k))) then 3
  else if !(n.ringsOk && (List.range n.regions).all n.regionOk && n.rolesOk) then 4
  else if !n.fits then 5
  else if (n.prio = 1 && (s.reservation n.gen).isNone) || (n.clp && n.kind = 2) then 6
  else 0

/-- Where the node-table entry of a node ID lies (R64, R271). -/
def State.nodePA (s : State) (gen nid : Nat) : Option Nat :=
  (s.genEntry gen).bind (fun o =>
    let w := s.cpw (o + 0x10)
    if 2 ^ fld w 4 0 ≤ nid then none else some (fld w 55 12 * 2 ^ 12 + 8 * nid))

/-- The VA of the descriptor that the entry gives; a poisoned entry reads as zero (R496). -/
def State.nodeVA (s : State) (gen nid : Nat) : Option Nat :=
  (s.nodePA gen nid).bind (fun pa =>
    let e := leVal (s.cpPeek gen pa 8).1
    if e.testBit 0 then some (fld e 59 8 * 2 ^ 8) else none)

/-- The CP has read the entry: one that is poisoned, or lies under a key that is not loaded, is reported (R496, R498). -/
def State.nodeRead (s : State) (gen nid : Nat) : State :=
  match s.nodePA gen nid with | some pa => (s.cpPeek gen pa 8).2 | none => s

/-- What reading a descriptor gives. -/
inductive DescRead where
  | bytes (bs : List Byte)
  | wait
  | bad
  deriving DecidableEq, Repr

/-- Read the 256 bytes at a VA under a job's tree: a peer page is read over the fabric, counted as any access to one (R288), and the command
waits; a poisoned sector is reported (R496). Log entry 57. -/
def State.descRead (s : State) (gen va : Nat) : DescRead × State :=
  let ac := Acc.weak .cp
  match s.xlateCp gen va .read with
  | .ok pa leaf =>
    match aperOf leaf with
    | 0 =>
      match (List.range 4).find? (fun k => s.poisoned (pa + 64 * k)) with
      | some k => (.bad, (s.cpPeek gen (pa + 64 * k) 64).2)
      | none =>
        let (bs, t) := (List.range 4).foldl (fun (a : List Byte × State) k => let (b, u) := a.2.loadPA ac (pa + 64 * k) 64; (a.1 ++ b, u)) ([], s)
        (.bytes bs, t)
    | 1 =>
      let d := devOf leaf
      if s.cmdReads.isEmpty then
        if (s.dest d).bad then (.bad, s)
        else
          (.wait, (List.range 4).foldl (fun (t : State) k =>
            let (tag, u) := (t.hotCount gen (va + 64 * k) d).cpRequest gen d 0x01 (pa + 64 * k) (leBytes 8 (2 ^ 64 - 1))
            { u with cmdReads := u.cmdReads ++ [{ tag := tag, dst := d, k := k }] }) s)
      else if s.cmdReads.any CmdRead.bad then (.bad, { s with cmdReads := [] })
      else if s.cmdReads.any (fun r => r.data.isNone) then (.wait, s)
      else (.bytes ((List.range 4).flatMap (fun k => ((s.cmdReads.find? (fun r => r.k == k)).bind CmdRead.data).getD [])), { s with cmdReads := [] })
    | 2 => let (bs, t) := s.loadHost ac pa 256; (.bytes bs, t)
    | _ => let (bs, t) := s.ocmLoad ac (locOf pa) 256; (.bytes bs, t)
  | _ => (.bad, s)

/-- nreg (R65, R474): the checks in this order are the model's (log entry 45). -/
def execNreg (c : Cmd) (s : State) : Host.Outcome State Fault Refusal :=
  let gen := c.gen.toNat
  let nid := c.nid.toNat
  if s.nextCommand != some (.nreg c) then .next s
  else if (s.node gen nid).isSome then (s.endCommand 7).out
  else match s.nodeVA gen nid with
  | none => ((s.nodeRead gen nid).endCommand 1).out
  | some va =>
    match (s.nodeRead gen nid).descRead gen va with
    | (.wait, t) => t.out
    | (.bad, t) => (t.endCommand 0xB).out
    | (.bytes bs, t) =>
      let n : NodeReg := { gen := gen, nid := nid, desc := bs }
      let st := t.nodeStatus n
      if st != 0 then (t.endCommand st).out
      else
        let t1 := { t with nodes := t.nodes ++ [n] }
        ((((t1.tills.filter (fun x => x.gen == gen && x.nid == nid))).foldl (fun (u : State) x => u.examine gen nid x.die) t1).endCommand 0).out

/-- nunreg (R267). -/
def execNunreg (c : Cmd) (s : State) : Host.Outcome State Fault Refusal :=
  s.command (.nunreg c) (fun t =>
    if (t.node c.gen.toNat c.nid.toNat).isNone then (8, t)
    else (0, { t with
      nodes := t.nodes.map (fun (n : NodeReg) => if n.gen == c.gen.toNat && n.nid == c.nid.toNat then { n with unreg := true } else n) }))

/-- A group of the node is live, on a core or saved. -/
def State.nodeLive (s : State) (gen nid : Nat) : Bool :=
  s.cores.any (fun k => k.gen == gen && k.groups.any (fun g => g.nid == nid))
    || s.vaults.any (fun v => v.gen == gen && (s.core v.core).gen != gen && v.groups.any (fun g => g.nid == nid))

/-- nodeUnregisterEffect (R267). -/
def execNodeUnregisterEffect (gen nid : Nat) (s : State) : Host.Outcome State Fault Refusal :=
  match s.node gen nid with
  | some n =>
    if n.unreg && !s.nodeLive gen nid && !s.tills.any (fun t => t.gen == gen && t.nid == nid && !t.recs.isEmpty) then
      .next { s with
        nodes := s.nodes.filter (fun n => !(n.gen == gen && n.nid == nid)), tills := s.tills.filter (fun t => !(t.gen == gen && t.nid == nid)) }
    else .next s
  | none => .next s

/-! ### Keys, partitions, attestation -/

/-- A core runs a generation of the partition (R278). -/
def State.keyInUse (s : State) (k : Nat) : Bool := s.cores.any (fun q => q.gen != 0 && s.partOf q.gen == k)

/-- A key never drawn before. -/
def State.loadKey (s : State) (k : Nat) : State :=
  { s with draws := s.draws + 1, keys := (k, s.draws + 1) :: s.keys.filter (fun p => p.1 != k) }

/-- KEYKILL leaves the entry: its address carries another key, or it is a deferred registration, which is in no table (R278, R483). -/
def Mon.outlives (m : Mon) (k : Nat) : Bool := keyOf m.pa != k || m.st == .deferred

/-- What KEYKILL does (R278): the lines of the key go without being written back, so what its sectors hold is what stood in HBM before,
which is free (log entry 10); its monitor entries go, which lets others in; the key is erased. -/
def State.killKey (s : State) (k : Nat) : State :=
  let tags := match s.keyDraw k with
    | some d => s.keyTag.foldl (fun (m : SMap 64) e => if e.2.toNat = d then m.set e.1 (BitVec.ofNat 64 (s.draws + 1)) else m) s.keyTag
    | none => s.keyTag
  ({ s with
    draws := s.draws + 1, keyTag := tags, keys := s.keys.filter (fun p => p.1 != k), mons := s.mons.filter (fun m => m.outlives k) } : State).monRefillAll

/-- keygen (R277). -/
def execKeygen (c : Cmd) (s : State) : Host.Outcome State Fault Refusal :=
  s.command (.keygen c) (fun t => if c.k = 0 || t.keyInUse c.k.toNat then (9, t) else (0, t.loadKey c.k.toNat))

/-- keykill (R278). -/
def execKeykill (c : Cmd) (s : State) : Host.Outcome State Fault Refusal :=
  s.command (.keykill c) (fun t => if c.k = 0 || t.keyInUse c.k.toNat then (9, t) else (0, t.killKey c.k.toNat))

/-- partset (R275, R499). Reserved bits of the image are neither retained nor a ground for refusal (DESIGN CHOICE, log entry 95: R474 does
not say whether they make the operand invalid, and R3 lets a register ignore them). -/
def execPartset (c : Cmd) (s : State) : Host.Outcome State Fault Refusal :=
  s.command (.partset c) (fun t =>
    let v := c.opa.toNat
    if c.k = 0 then (0xA, t)
    else
      let t1 := t.setCpw (oPARTCFG + 8 * c.k.toNat) (v &&& (bitsOf 15 9 + 1))
      (0, if v.testBit 0 then t1 else t1.abortPart c.k.toNat 1))

def fitBytes (n : Nat) (l : List Byte) : List Byte := (l ++ List.replicate n 0).take n

/-- Lay a run of bytes sector by sector, as releases of the CP. -/
def State.storeRun (s : State) (pa : Nat) (bs : List Byte) : State :=
  (chunks 64 ((bs.length + 63) / 64) bs).zipIdx.foldl (fun (t : State) p => t.storePA cpAcc (pa + 64 * p.2) (p.1.map some)) s

/-- The report of R284. -/
def State.report (s : State) (nonce : List Byte) : List Byte :=
  let m02 := (s.meas.take 3).flatten
  let body := nonce ++ s.part.block ++ s.meas.flatten ++ leBytes 8 s.dev ++ leBytes 8 s.ptb ++ fitBytes 64 (Config.publicKey 0 []) ++ s.cert
  body ++ fitBytes 49856 (Config.signature 1 m02 body)

/-- attest (R283 to R285; log entry 16). -/
def execAttest (c : Cmd) (s : State) : Host.Outcome State Fault Refusal :=
  s.command (.attest c) (fun t =>
    let a := c.opa.toNat
    let b := c.opb.toNat
    if 2 ^ 48 ≤ a || 2 ^ 48 ≤ b || b % 64 != 0 || !t.locExists (a + 31) || !t.locExists (b + 100847) || t.poisoned a || t.poisoned (a + 31) then (0xA, t)
    else (0, t.storeRun b (t.report (t.peek0 a 32))))

/-- cmdUndefined (R474). -/
def execCmdUndefined (c : Cmd) (s : State) : Host.Outcome State Fault Refusal := s.command (.cmdUndefined c) (fun t => (0xFF, t))

/-! ### Register writes -/

/-- Shatus does it, if its image runs (R280). -/
def State.byShatus (s t : State) : Host.Outcome State Fault Refusal := if s.noShatus then .next s else t.out

/-- dpcfgWrite (R251). -/
def execDpcfgWrite (i : Nat) (val : DWord) (s : State) : Host.Outcome State Fault Refusal :=
  s.byShatus (if i < 4096 then s.cpStore (oDPCFG + 8 * i) 8 val.toNat else s)

/-- uitcfgWrite (R273). -/
def execUitcfgWrite (i : Nat) (val : DWord) (s : State) : Host.Outcome State Fault Refusal :=
  s.byShatus (if i < 1024 then s.cpStore (oUITCFG + 8 * i) 8 val.toNat else s)

/-- dequeEntryWrite (R272). -/
def execDequeEntryWrite (i k : Nat) (val : DWord) (s : State) : Host.Outcome State Fault Refusal :=
  s.byShatus (if i < 64 && k < 4 then s.cpStore (oDQ + 32 * i + 8 * k) 8 val.toNat else s)

/-- gpctlWrite (R246, R247). -/
def execGpctlWrite (i : Nat) (val : DWord) (s : State) : Host.Outcome State Fault Refusal :=
  s.byShatus (if i < 64 then s.cpStore (oGPCTL + 8 * i) 8 val.toNat else s)

/-- grtselWrite (R214). -/
def execGrtselWrite (val : DWord) (s : State) : Host.Outcome State Fault Refusal := s.byShatus (s.cpStore oGRTSEL 8 val.toNat)

/-- ptpcfgWrite (R183). -/
def execPtpcfgWrite (val : DWord) (s : State) : Host.Outcome State Fault Refusal := s.byShatus (s.cpStore oPTPCFG 8 val.toNat)

/-- erlostWrite (R459). -/
def execErlostWrite (val : DWord) (s : State) : Host.Outcome State Fault Refusal := s.byShatus (s.cpStore oERLOST 8 val.toNat)

/-- registerWrite (R269): off is an offset of the CP register window. -/
def execRegisterWrite (off size : Nat) (val : DWord) (s : State) : Host.Outcome State Fault Refusal := s.byShatus (s.cpStore off size val.toNat)

/-! ### Deposits (R251 to R257) -/

def State.dpCount (s : State) (page : Nat) : Nat := fld (s.cpw (0x1000 * page + 0x80)) 3 0
def State.setDp (s : State) (page total count : Nat) : State := s.setCpw (0x1000 * page + 0x80) (total % 2 ^ 32 * 2 ^ 32 + count % 16)

/-- The cores of this package that a reservation holds all run its generation in ordinary slots (R208). -/
def State.reservedRun (s : State) (e : List Byte) : Bool :=
  (List.range s.nCores).all (fun c => !s.applies e c || (s.ordinary c).gen == entGen e)

/-- The accepting CP starts, keeps or lengthens a pre-emption of a reserved job (R207, R208, R211). -/
def State.preemptFor (s : State) (gen : Nat) : State :=
  match s.reservation gen with
  | none => s
  | some e =>
    let start (t : State) : State :=
      let p : Preempt := { gen := gen, job := entJob e, t := s.ptb + 4000, mine := true, src := s.dev }
      ({ t with preempt := t.preempt ++ [p] } : State).sendPren e (s.ptb + 4000)
    let own (q : Preempt) : State := { s with
      preempt := s.preempt.map (fun (p : Preempt) => if p == q then { p with mine := true, u := none, src := s.dev } else p) }
    match s.preempt.find? (fun p => p.gen == gen && p.u.isNone), s.preempt.find? (fun p => p.gen == gen) with
    | some _, _ => s
    | none, some p =>
      if p.wdr then s
      else match p.u with
        | some u => if s.ptb + 4000 ≤ u then (own p).sendPren e 0 else start s
        | none => s
    | none, none => if s.reservedRun e then s else start s

/-- Accept a deposit store on a page, or answer retry (R254): true when it is accepted. -/
def State.deposit (s : State) (page : Nat) (data : List Byte) (who : Agent) : Bool × State :=
  let cfg := s.cpw (oDPCFG + 8 * page)
  let n := s.dpCount page
  if 4096 ≤ page || !cfg.testBit 0 || data.length != 128 || fld cfg 7 4 ≤ n || 1024 ≤ s.depQ.length then (false, s)
  else
    let (h, clk) := s.hb.stamp who
    let s1 : State := { s with hb := h, depQ := s.depQ ++ [{ page := page, data := data, at_ := s.ptb, clk := clk }] }
    let s2 := s1.setDp page (fld (s.cpw (0x1000 * page + 0x80)) 63 32 + 1) (n + 1)
    (true, s2.preemptFor (fld cfg 63 48))

/-- A deposit page is one that this origin reaches (R251, R269, R276). -/
def State.pageOf (s : State) (orig : Origin) (i : Nat) : Bool :=
  let cfg := s.cpw (oDPCFG + 8 * i)
  match orig with
  | .native => fld cfg 39 38 == 0
  | .pf => fld cfg 39 38 == 1
  | .vf n => fld cfg 39 38 == 2 && fld cfg 37 32 == n

/-- The deposit pages that BAR 0 of a function presents, 4 KiB apart (R269, R276). -/
def State.barPages (s : State) (orig : Origin) : List Nat := (List.range 4096).filter (s.pageOf orig)

/-- deposit (R254, R255): what the storer is told is noted: 0 accept, 1 retry, 2 Unsupported Request (R500). From a function of the PCIe
port, at is the place in its BAR 0, in pages (R269, R276). Log entry 58. -/
def execDeposit (at_ : Nat) (orig : Origin) (data : List Byte) (s : State) : Host.Outcome State Fault Refusal :=
  let pcie := orig != .native
  let page := if pcie then (s.barPages orig).getD at_ 4096 else at_
  if 4096 ≤ page || !s.pageOf orig page || !(s.cpw (oDPCFG + 8 * page)).testBit 0 then (s.note (.note (if pcie then 2 else 1) page)).out
  else
    let (ok, t) := s.deposit page data .host
    (t.note (.note (if ok then 0 else 1) page)).out

/-- The node that a deposit names (R253). -/
def State.depNode (s : State) (gen va : Nat) : Option NodeReg :=
  s.nodes.find? (fun n => n.gen == gen && s.nodeVA gen n.nid == some va)

/-- The deposit meets R253 (R488). -/
def State.depOk (s : State) (gen : Nat) (d : List Byte) : Bool :=
  noBits (depWord d 0) [(63, 60), (7, 0)] && noBits (depWord d 1) [(63, 34), (31, 24)] && fld (depWord d 1) 23 0 != 0
    && (List.range 4).all (fun k => depWord d (5 + k) == 0) && depWord d 2 % 64 == 0 && (s.depNode gen (depWord d 0)).isSome

/-- The deposit that the CP takes next (R256). -/
def State.nextDep (s : State) : Option Dep :=
  [0, 1, 2, 3].findSome? (fun p => s.depQ.find? (fun d => fld (depWord d.data 1) 33 32 == p))

/-- depositToRecords (R256, R488). -/
def execDepositToRecords (s : State) : Host.Outcome State Fault Refusal :=
  match s.nextDep with
  | none => .next s
  | some d =>
    let gen := fld (s.cpw (oDPCFG + 8 * d.page)) 63 48
    let s0 : State := { s with depQ := s.depQ.erase d }
    let s1 := s0.setDp d.page (fld (s.cpw (0x1000 * d.page + 0x80)) 63 32) (s.dpCount d.page - 1)
    let w := depWord d.data
    if s.depOk gen d.data then
      let nid := ((s.depNode gen (w 0)).map NodeReg.nid).getD 0
      let n := fld (w 1) 23 0
      let id := s1.gridNo
      let s2 : State := { s1 with
        gridNo := id + 1, grids := s1.grids ++ [{ id := id, gen := gen, page := some d.page, dep := d.data, recs := n, at_ := d.at_ }] }
      ((List.range n).foldl (fun (t : State) i => t.deliver gen nid i none (mkRec nid 0 i (d.data.drop 0x48)) { grid := some id } d.clk) s2).out
    else
      let s2 :=
        if w 2 % 64 = 0 && (s1.xlateCp gen (w 2) .write).isOk then s1.completion gen d.page (w 2) (w 3) (w 4) d.at_ s1.ptb 0 2
        else s1.pageIrq d.page (w 3) (w 4)
      ((s2.ringRec { cls := 4, code := 0xF, async := true, gen := gen, va := w 0 }).preemptEnd gen).out

/-- userInterruptWaitEnd (R261): one for a target that is configured no more is dropped (R273). -/
def execUserInterruptWaitEnd (target : Nat) (s : State) : Host.Outcome State Fault Refusal :=
  match s.uirqs.find? (fun q => q.1 == target) with
  | some q =>
    if !(s.cpw (oUITCFG + 8 * target)).testBit 0 then .next { s with uirqs := s.uirqs.erase q }
    else if s.uitFull target then .next s
    else (({ s with uirqs := s.uirqs.erase q } : State).uitPut target q.2.1 q.2.2).out
  | none => .next s

/-! ### Resets and bring-up -/

/-- vfReset (R501). -/
def execVfReset (vf : Nat) (s : State) : Host.Outcome State Fault Refusal :=
  match (List.range 256).find? (fun k => k != 0 && (s.cpw (oPARTCFG + 8 * k)).testBit 9 && fld (s.cpw (oPARTCFG + 8 * k)) 15 10 == vf) with
  | some k => (((s.ringRec { cls := 7, code := 2, info := vf % 64 + k * 2 ^ 8 }).abortPart k 2).killKey k).out
  | none => .next s

/-- Extend a measurement register (R281). -/
def State.measure (s : State) (i : Nat) (x : List Byte) : State :=
  { s with meas := modNth s.meas i (fun m => shake256 (m ++ shake256 x 64) 64) }

/-- measurementExtend (R281): M4 to M7; the others are extended by bring-up alone. -/
def execMeasurementExtend (i : Nat) (data : List Byte) (s : State) : Host.Outcome State Fault Refusal :=
  .next (if 4 ≤ i && i < 8 && !s.noShatus then s.measure i data else s)

/-- The certificate of R285, signed at boot. -/
def State.makeCert (s : State) : State :=
  let m02 := (s.meas.take 3).flatten
  let body := fitBytes 64 (Config.publicKey 1 m02) ++ m02
  { s with cert := body ++ fitBytes 49856 (Config.signature 0 [] body) }

/-- Everything at its reset value but what outlives a reset: the part, HBM and host memory, what the package has sent, what is still to
come. Log entry 81. -/
def State.afterReset (s : State) : State :=
  { part := s.part, dev := s.dev, ptb := s.ptb, mem := s.mem, keyTag := s.keyTag, poison := s.poison, hostMem := s.hostMem, outs := s.outs
    draws := s.draws, agenda := s.agenda, fresh := s.fresh, booted := true, supRoot := Config.supervisorRoot.toNat
    supEntry := Config.supervisorEntry, cores := List.replicate s.nCores {}, harts := List.replicate s.part.hcores {}
    hb := { clus := s.part.phys.map (· / 4) } }

/-- An image that passes its verification is measured (R280, R281). -/
def State.measureImage (s : State) (i : Nat) : State := if Config.genuine i then s.measure i (Config.bootImage i) else s

/-- Shatus starts the supervisor warp on every core, from code that has passed its verification (R280 step 5, R503). -/
def State.runSupervisors (s : State) : State :=
  if Config.genuine 3 && !s.noShatus then { s with cores := s.cores.map (fun (k : Core) => { k with warps := [supWarp s.supEntry 0] }) } else s

/-- At bring-up the code is measured first; M3 is not extended again once the warps have started (R281). -/
def State.startSupervisors (s : State) : State := (s.measureImage 3).runSupervisors

/-- Shatus trains the local links (R280 step 6): their enabled lanes carry flits. -/
def State.trainLinks (s : State) : State :=
  ((List.range 31).zip s.part.llanes).foldl (fun (t : State) p =>
    t.setCpw (oLLSTAT + 8 * p.1) (p.2.toNat * 2 ^ 8 + (if p.2 = 0 then 0 else 1))) s

/-- packageReset (R280, R281): bring-up in its order. An image that fails its verification is not run: the security-processor firmware (0), the
CP firmware (1), Shatus (2), the supervisor code (3); nor is what it would have started. Log entry 79. -/
def execPackageReset (s : State) : Host.Outcome State Fault Refusal :=
  let s0 := s.afterReset
  .next (
    if !Config.genuine 0 then { s0 with noCp := true, noShatus := true }
    else
      let s1 := (((s0.measureImage 0).measureImage 1).measureImage 2).makeCert
      if !Config.genuine 1 then { s1 with noCp := true, noShatus := true }
      else if !Config.genuine 2 then { s1.loadKey 0 with noShatus := true }
      else ((s1.loadKey 0).startSupervisors).trainLinks)

end Sys2Proof.Machine
end

