-- ==== Sys2Proof/Machine/HostDie.lean ====
section
/-! DEFINITION. The host die: deposits from a hart (R255), user-level interrupts (R261, R262), and what an uncorrectable error consumed by
an H-die core brings about (R503). A hart's addresses are physical, under its key (log entry 25). -/

namespace Sys2Proof.Machine

def Hart.get (h : Hart) (r : BitVec 5) : DWord := if r = 0 then 0 else h.x.getD (r.toNat - 1) 0
def Hart.put (h : Hart) (r : BitVec 5) (v : DWord) : Hart := if r = 0 then h else { h with x := h.x.set (r.toNat - 1) v }

/-- An uncorrectable error that an H-die core has consumed (R503). Under key 0 every partition with a job here is aborted, the harts
restart, Shatus starts the supervisor warps again, which extends no measurement (R281), and the package is out of its timing domain until it locks again. Log entry 79. -/
def State.hdieError (s : State) (hcore key pa : Nat) : State :=
  if key = 0 then
    let s1 := s.ringRec { cls := 8, code := 2, va := pa, info := hcore % 64 }
    let parts := distinct ((List.range 1024).filterMap (fun i =>
      let w := s.cpw (oGTAB + 64 * i)
      if w.testBit 0 then some (fld w 47 40) else none))
    let s2 := parts.foldl (fun (t : State) k => t.abortPart k 5) s1
    let s3 := s2.setCpw oPTBSTAT (s2.cpw oPTBSTAT - s2.cpw oPTBSTAT % 2)
    ({ s3 with harts := List.replicate s3.part.hcores {}, ptp := { s3.ptp with ok := 0 } } : State).runSupervisors
  else (s.ringRec { cls := 8, code := 3, va := pa, info := hcore % 64 + key * 2 ^ 8 }).abortPart key 5

/-- The hart whose word is being run. -/
def State.curHart (s : State) : Option Nat := s.cur.bind Cur.hart

/-- The deposit page whose window an address names (R252, R269). -/
def depPage (a : Nat) : Option Nat :=
  let o := a - (0x7F0000000000 + 0x40000000)
  if 0x7F0000000000 + 0x40000000 ≤ a && o < 0x1000000 && o % 0x1000 = 0 then some (o / 0x1000) else none

/-- dpst (R255): a store that names no window of a native page is retried (log entry 25). -/
def execDpst (rd rs1 rs2 : BitVec 5) (s : State) : Host.Outcome State Fault Refusal :=
  match s.curHart with
  | none => .next s
  | some n =>
    let h := s.hart n
    let src := h.pa (h.get rs2).toNat
    let pc (v : Option DWord) (t : State) : State :=
      { t.updHart n (fun h => { (match v with | some x => h.put rd x | none => h) with pc := h.pc + 4 }) with cur := none }
    match [src, src + 127].find? s.poisoned with
    | some a => (pc none (s.hdieError n h.key a)).out
    | none =>
      let (bs, s1) := (List.range 2).foldl (fun (a : List Byte × State) k =>
        let (b, t) := a.2.loadPA (Acc.weak (.hart n)) (src + 64 * k) 64
        (a.1 ++ b, t)) ([], s)
      match depPage (h.get rs1).toNat with
      | some p =>
        if fld (s1.cpw (oDPCFG + 8 * p)) 39 38 = 0 then
          let (ok, t) := s1.deposit p bs (.hart n)
          (pc (some (if ok then 0 else 1)) t).out
        else (pc (some 1) s1).out
      | none => (pc (some 1) s1).out

/-- clret (R262). -/
def execClret (s : State) : Host.Outcome State Fault Refusal :=
  match s.curHart with
  | none => .next s
  | some n => ({ s.updHart n (fun h => { h with pc := h.cluepc, cluie := 1 }) with cur := none } : State).out

/-- cluitxWrite (R262). -/
def execCluitxWrite (hart : Nat) (val : DWord) (s : State) : Host.Outcome State Fault Refusal :=
  let v := val &&& 0x800003FF
  let t := v.toNat % 1024
  (s.updHart hart (fun h => { h with
    cluitx := v, clupend := if v.getLsbD 31 then (if s.uitTail t = s.uitHead t then 0 else 1) else h.clupend })).out

/-- userInterruptTake (R262). -/
def execUserInterruptTake (hart : Nat) (s : State) : Host.Outcome State Fault Refusal :=
  let h := s.hart hart
  if h.user && h.clupend.getLsbD 0 && h.cluie.getLsbD 0 then
    (s.updHart hart (fun h => { h with cluepc := h.pc, cluie := 0, clupend := 0, pc := h.clutvec })).out
  else .next s

/-- hdieUncorrectableError (R503). -/
def execHdieUncorrectableError (hcore key pa : Nat) (s : State) : Host.Outcome State Fault Refusal := (s.hdieError hcore key pa).out

end Sys2Proof.Machine
end

