-- ==== Sys2Proof/Machine/Fabric.lean ====
section
/-! DEFINITION. Links and ports (R213 to R220, R246 to R250, R516 to R520, R534, R535), acknowledgement and retransmission (R224, R521), and
unreachable destinations (R522, R523, R528, R531, R532). Port numbers 0 to 30 are local links; 31 + i is global port i. -/

namespace Sys2Proof.Machine

/-! ### Registers of ports -/

/-- The status register of a port: LLSTAT or GPSTAT. -/
def portStat (p : Nat) : Nat := if p < 31 then oLLSTAT + 8 * p else oGPSTAT + 8 * (p - 31)

/-- Link or port number of a class 6 record (R538). -/
def portInfo (p : Nat) : Nat := if p < 31 then p else (p - 31) + 256

/-- The port receives: its link is up, or it is UP, in DRAIN or in RELOCK. -/
def State.portLive (s : State) (p : Nat) : Bool :=
  if p < 31 then s.linkUp p else p < 95 && [1, 2, 4].contains (s.portState (p - 31))

/-- Add to a saturating 16-bit count of a status register. -/
def State.countStat (s : State) (p hi lo n : Nat) : State :=
  let w := s.cpw (portStat p)
  s.setCpw (portStat p) (setFld w hi lo (min 65535 (fld w hi lo + n)))

/-! ### Forwarding (R215, R216, R250) -/

/-- A packet that is not for this package goes on by the active table; without a candidate, or beyond level 4, it is lost and recovered
end to end (R521). hop: the level of its next hop; by: the port it came by. One that a member of the group has sent to this package as its
gateway leaves the group here (R215). -/
def State.forward (s : State) (p : Packet) (hop by_ pair n : Nat) : State :=
  let own := s.dev / 32
  let q : Packet := if p.val && p.vgrp.toNat = own then { p with val := false } else p
  let goal := if q.val then q.vgrp.toNat else q.dst.toNat / 32
  let cs := if q.val then (s.legs q.vgrp.toNat).map Prod.fst else s.minimal q.dst.toNat
  match s.best (cs.filter (fun c => goal == own || 31 ≤ by_ || 31 ≤ c.port)), decide (4 < hop) with
  | some c, false => s.onPort c.port hop q (some (by_, pair))
  | _, _ => s.updPort by_ (fun q => q.free pair n)

/-- A whole packet of n flits has arrived by a port: it is taken here, which frees its slots, or goes on. -/
def State.arrived (s : State) (p : Packet) (hop by_ pair n : Nat) : State :=
  if p.dst.toNat = s.dev then (s.updPort by_ (fun q => q.free pair n)).arrive p
  else s.forward p (hop + 1) by_ pair n

/-! ### Drain markers (R247, R534) -/

/-- drainMarkerSend (R247): once the queued flits are sent. -/
def execDrainMarkerSend (port : Nat) (s : State) : Host.Outcome State Fault Refusal :=
  let p := s.port (31 + port)
  if port < 64 && s.portState port = 2 && !p.marked && p.queue.isEmpty then
    (((s.putFlit (31 + port) (nulFlit 1 [])).updPort (31 + port) (fun q => { q with marked := true, at_ := s.ptb })).darkIf port).out
  else .next s

/-- The far end's marker: it may come before this end enters DRAIN. -/
def State.farMarker (s : State) (i : Nat) : State :=
  if [1, 2].contains (s.portState i) then (s.updPort (31 + i) (fun q => { q with farMarked := true })).darkIf i else s

/-- drainMarkerReceive (R247). -/
def execDrainMarkerReceive (port : Nat) (s : State) : Host.Outcome State Fault Refusal :=
  (if port < 64 then s.farMarker port else s).out

/-- Packets that came by a port and have not been passed on are lost, and their slots are free (R534). -/
def State.loseOnward (s : State) (p : Nat) : State :=
  let gone := s.ports.flatMap (fun q => q.queue.filter (cameBy p))
  gone.foldl (fun (t : State) x => t.updPort p (fun q => q.free ((x.2.2.map Prod.snd).getD 0) 1))
    { s with ports := s.ports.map (fun (q : Port) => { q with queue := q.queue.filter (fun x => !cameBy p x) }) }

/-- drainMarkerTimeout (R534). -/
def execDrainMarkerTimeout (port : Nat) (s : State) : Host.Outcome State Fault Refusal :=
  let p := s.port (31 + port)
  if port < 64 && s.portState port = 2 && p.marked && !p.farMarked && p.at_ + 100000 ≤ s.ptb then
    ((((s.setPort port 3).updPort (31 + port) Port.dropRx).loseOnward (31 + port)).ringRec { cls := 6, code := 9, info := port }).out
  else .next s

/-! ### Resynchronisation and audit (R220, R520) -/

/-- The body of a resynchronisation flit. -/
def Port.resyncBody (p : Port) : List Byte :=
  let g := p.audit
  [2, BitVec.ofNat 8 g] ++ p.freed.flatMap (fun v => leBytes 2 v)
    ++ (List.range 7).flatMap (fun i => leBytes 2 (if 7 * g + i < 20 then p.sent.getD (7 * g + i) 0 else 0))

def State.sendResync (s : State) (p : Nat) : State :=
  let b := (s.port p).resyncBody
  (s.putFlit p (nulFlit (b.headD 0) (b.drop 1))).updPort p (fun q => { q with audit := (q.audit + 1) % 3 })

/-- resyncTimer (R220). -/
def execResyncTimer (port : Nat) (s : State) : Host.Outcome State Fault Refusal :=
  (if s.portLive port then s.sendResync port else s).out

/-- What the receiver of a resynchronisation flit does. -/
def State.resync (s : State) (p : Nat) (body : List Byte) : State :=
  let w (o : Nat) : Nat := leVal ((body.drop o).take 2)
  let g := (body.getD 1 0).toNat
  let q := s.port p
  let pairs := (List.range 7).filter (fun i => g < 3 && 7 * g + i < 20)
  let lostOf (i : Nat) : Nat := (w (42 + 2 * i) + 2 ^ 16 - q.rcvd.getD (7 * g + i) 0) % 2 ^ 16
  let lost := pairs.foldl (fun n i => n + lostOf i) 0
  let s1 := s.updPort p (fun q => pairs.foldl (fun (q : Port) i =>
    { q with
      freed := modNth q.freed (7 * g + i) (fun v => (v + lostOf i) % 2 ^ 16), rcvd := setNth q.rcvd (7 * g + i) (w (42 + 2 * i)) })
    { q with ret := (List.range 20).map (fun k => w (2 + 2 * k)) })
  let s2 := if lost = 0 then s1
    else (s1.countStat p 47 32 lost).rateRec (0x6030000 + p) { cls := 6, code := 3, info := portInfo p + min 65535 lost * 2 ^ 16 }
  s2.drainPort p (s2.port p).queue.length

/-! ### Receiving flits (R218, R219, R518) -/

/-- A flit whose CRC fails. -/
def State.badFlit (s : State) (p : Nat) : State :=
  let s1 := s.countStat p 63 48 1
  let s2 := s1.updPort p (fun q => { q with crcs := s.ptb :: q.crcs.filter (fun t => decide (s.ptb < t + 1000000)) })
  let n := (s2.port p).crcs.length
  if 1000 ≤ n then s2.rateRec (0x6010000 + p) { cls := 6, code := 1, info := portInfo p + min 65535 n * 2 ^ 16 }
  else s2

def Flit.crcOk (f : Flit) : Bool := (Flit.crc f).toNat == fld f.hdr.toNat 63 32

/-- A packet flit, accepted: it holds its slot until its packet is taken, passed on or dropped (R219); one of the clock class is timestamped
(R179). -/
def State.packetFlit (s0 : State) (p : Nat) (f : Flit) : State :=
  let s := if Flit.cls f = 3 then s0.updPort p (fun q => { q with tIn := s0.ptb }) else s0
  let h := f.hdr.toNat
  let pair := Flit.pair f
  let fidx := fld h 5 3
  if 4 < Flit.hop f then s
  else
    let old := (s.port p).rx.find? (fun x => x.1 == pair)
    let rest := (s.port p).rx.filter (fun x => x.1 != pair)
    let held := (old.map (fun x => x.2.2)).getD 0
    let (got, lost) : Option (List Byte) × Nat :=
      if fidx = 0 then (some f.body, held)
      else match old with
        | some (_, bs, n) => if n = fidx then (some (bs ++ f.body), 0) else (none, held + 1)
        | none => (none, 1)
    let s1 := s.updPort p (fun q => ({ q with rcvd := modNth q.rcvd pair (fun v => (v + 1) % 2 ^ 16), rx := rest } : Port).free pair lost)
    match got with
    | none => s1
    | some bs =>
      if h.testBit 2 then s1.arrived (Packet.ofBytes bs) (Flit.hop f) p pair (fidx + 1)
      else s1.updPort p (fun q => { q with rx := rest ++ [(pair, bs, fidx + 1)] })

/-- flitReceive (R218 to R220, R247, R518, R520). Log entry 24. -/
def execFlitReceive (port : Nat) (flit : Flit) (s : State) : Host.Outcome State Fault Refusal :=
  if !s.portLive port then .next s
  else if !Flit.crcOk flit then (s.badFlit port).out
  else
    let h := flit.hdr.toNat
    let r := fld h 15 11
    let s1 := if r < 20 then s.updPort port (fun q => { q with ret := setNth q.ret r (fld h 31 16) }) else s
    let s2 :=
      if h.testBit 1 then
        match (flit.body.headD 0).toNat with
        | 1 => if 31 ≤ port then s1.farMarker (port - 31) else s1
        | 2 => s1.resync port flit.body
        | _ => s1
      else s1.packetFlit port flit
    (s2.drainPort port (s2.port port).queue.length).out

/-- resyncReceive (R520). -/
def execResyncReceive (port : Nat) (flit : Flit) (s : State) : Host.Outcome State Fault Refusal :=
  if !s.portLive port then .next s
  else if !Flit.crcOk flit then (s.badFlit port).out
  else if flit.hdr.toNat.testBit 1 && flit.body.headD 0 = 2 then (s.resync port flit.body).out
  else .next s

/-! ### Circuits (R247 to R249, R535) -/

/-- portLightLoss (R535): a parent reached through the port is chosen anew (R249). -/
def execPortLightLoss (port : Nat) (s : State) : Host.Outcome State Fault Refusal :=
  (if port < 64 && s.portState port = 1 then ((s.setPort port 0).reparent).ringRec { cls := 6, code := 6, info := port } else s).out

/-- Flits that came by a port and wait to go on hold no slot of its buffer any more: the totals of another circuit count from zero (R248). -/
def State.freeSlots (s : State) (p : Nat) : State :=
  { s with ports := s.ports.map (fun (q : Port) => { q with queue := q.queue.map (fun x => if cameBy p x then (x.1, x.2.1, some (p, 20)) else x) }) }

/-- A port has trained (R247, R248): RELOCK, the far end, and totals from zero when it is another one. -/
def State.trainPort (s : State) (i far fport : Nat) : State :=
  let w := s.cpw (oGPCTL + 8 * i)
  let s1 := ((s.setCpw (oGPCTL + 8 * i) (far % 2 ^ 15 * 2 ^ 32 + fport % 64 * 2 ^ 26)).setPort i 4).updPort (31 + i)
    (fun q => { q with marked := false, farMarked := false })
  if fld w 46 32 = far && fld w 31 26 = fport then s1
  else (s1.freeSlots (31 + i)).updPort (31 + i) (fun q => { q with
    sent := List.replicate 20 0, ret := List.replicate 20 0, freed := List.replicate 20 0, rcvd := List.replicate 20 0, rx := [] })

/-- portLightReturn (R247, R248). -/
def execPortLightReturn (port : Nat) (far : BitVec 15) (fport : BitVec 6) (s : State) : Host.Outcome State Fault Refusal :=
  (if port < 64 && s.portState port = 3 then s.trainPort port far.toNat fport.toNat else s).out

/-- portRelockComplete (R247). -/
def execPortRelockComplete (port : Nat) (s : State) : Host.Outcome State Fault Refusal :=
  (if port < 64 && s.portState port = 4 then ((s.sendResync (31 + port)).setPort port 1).drainPort (31 + port) (s.port (31 + port)).queue.length else s).out

/-- relockTimeout (R535). -/
def execRelockTimeout (port : Nat) (s : State) : Host.Outcome State Fault Refusal :=
  (if port < 64 && s.portState port = 4 && (s.port (31 + port)).at_ + 20000 ≤ s.ptb then
    (s.setPort port 0).ringRec { cls := 6, code := 8, info := port }
  else s).out

/-- darkTimeout (R535). -/
def execDarkTimeout (port : Nat) (s : State) : Host.Outcome State Fault Refusal :=
  (if port < 64 && s.portState port = 3 && (s.port (31 + port)).at_ + 1000000000 < s.ptb then
    (s.setPort port 0).ringRec { cls := 6, code := 7, info := port }
  else s).out

/-- portDownRetrain (R535) of a port that the part has (R26): whether the port trained, and to which far end. -/
def execPortDownRetrain (port : Nat) (trained : Option (BitVec 15 × BitVec 6)) (s : State) : Host.Outcome State Fault Refusal :=
  match trained with
  | some (far, fport) => (if s.part.gports.testBit port && port < 64 && s.portState port = 0 then s.trainPort port far.toNat fport.toNat else s).out
  | none => .next s

/-- Lanes or wavelengths that carry flits. -/
def State.liveLanes (s : State) (p : Nat) : Nat :=
  let w := s.cpw (portStat p)
  if p < 31 then popN 8 (fld w 15 8) else fld w 7 0

/-- laneLoss (R519): a lane of a local link, or a wavelength of a port; with the last one the link is no candidate. -/
def execLaneLoss (port lane : Nat) (s : State) : Host.Outcome State Fault Refusal :=
  let w := s.cpw (portStat port)
  let on := if port < 31 then lane < 8 && w.testBit (8 + lane) else port < 95 && fld w 7 0 != 0
  if !on then .next s
  else
    let w1 :=
      if port < 31 then
        let v := w - 2 ^ (8 + lane)
        if fld v 15 8 = 0 then v - v % 2 else v
      else w - 1
    let s1 := (s.setCpw (portStat port) w1).reparent
    let s2 := s1.ringRec { cls := 6, code := 2, info := portInfo port + s1.liveLanes port * 2 ^ 16 }
    if 31 ≤ port && fld w1 7 0 = 0 then execPortLightLoss (port - 31) s2 else s2.out

/-- laneRetrain (R519): a lane or a wavelength that the part has (R22, R26; log entry 97) carries flits again. -/
def execLaneRetrain (port lane : Nat) (s : State) : Host.Outcome State Fault Refusal :=
  let w := s.cpw (portStat port)
  (if port < 31 then
    if lane < 8 && (s.part.llanes.getD port 0).getLsbD lane && !w.testBit (8 + lane) then s.setCpw (portStat port) ((w + 2 ^ (8 + lane)) ||| 1) else s
  else if s.portLive port && fld w 7 0 < s.part.wlmin then s.setCpw (portStat port) (w + 1) else s).out

/-! ### Taking a packet (R224, R225, R522) -/

/-- The fence entry that a packet meets (R527). -/
def State.fenced (s : State) (src gen : Nat) : Option Nat :=
  (List.range 64).find? (fun i => let w := s.cpw (oFNCE + 8 * i); w.testBit 0 && fld w 46 32 == src && fld w 63 48 == gen)

/-- A packet that waits to be performed: a registration that is deferred, or barrier traffic that is held (R196, R225, R483). -/
def State.keeps (s : State) (src psn : Nat) : Bool :=
  s.mons.any (fun m => m.ack == some (src, psn)) || s.held.any (fun h => h.2.src.toNat == src && h.2.psn.toNat == psn)

/-- A packet that the CP applies (R225, R526), if its firmware runs (R280): WAKE, barrier and steal traffic, timetable entries, aborts. -/
def byCp (opc : Nat) : Bool := decide (0x19 ≤ opc) && decide (opc ≤ 0x1F) || opc == 0x22 || opc == 0x23

/-- Take a packet with a PSN once (R224, R500 step 5, R522, R527), with what performing it does, and whether it is performed now (R225). -/
def State.receiveIf (s : State) (p : Packet) (f : State → State × Bool) : Host.Outcome State Fault Refusal :=
  let src := p.src.toNat
  let psn := p.psn.toNat
  let gen := p.gen.toNat
  let x := s.srcOf src
  if p.dst.toNat != s.dev then .next s
  else if x.bars psn || (s.noCp && byCp p.opc.toNat) then .next s
  else if x.done.contains psn then (s.sendSack src (psn / 64 * 64)).out
  else if s.keeps src psn then .next s
  else match s.fenced src gen with
  | some i => ((s.performed src psn).rateRec (0x60E0000 + i) { cls := 6, code := 0xE, info := src + gen * 2 ^ 16 }).out
  | none =>
    if gen != 0 && s.aborted.contains gen then (s.performed src psn).out
    else
      match f s with
      | (t, true) => (t.performed src psn).out
      | (t, false) => t.out

def State.receive (s : State) (p : Packet) (f : State → State) : Host.Outcome State Fault Refusal := s.receiveIf p (fun s => (f s, true))

/-- sackTimer (R224). -/
def execSackTimer (src block : Nat) (s : State) : Host.Outcome State Fault Refusal :=
  match (s.srcOf src).fresh.find? (fun b => b.1 == block) with
  | some b => if b.2.2 + 500 ≤ s.ptb then (s.sendSack src block).out else .next s
  | none => .next s

/-- packetRetransmit (R521). -/
def execPacketRetransmit (dst psn : Nat) (s : State) : Host.Outcome State Fault Refusal :=
  match (s.dest dst).unacked.find? (fun u => u.psn == psn) with
  | some u =>
    if u.last + 20000 ≤ s.ptb then
      ((s.updDest dst (fun x => { x with
        unacked := x.unacked.map (fun (v : Sent) => if v.psn == psn then { v with last := s.ptb } else v) })).transmit u.pkt).out
    else .next s
  | none => .next s

/-! ### Operations that wait for packets -/

/-- Cores and vaults in which warps and copies of a generation may wait: core, generation, warps, copies. -/
def State.places (s : State) : List (Nat × Nat × List Warp × List Copy) :=
  ((List.range s.cores.length).zip s.cores).map (fun p => (p.1, p.2.gen, p.2.warps, p.2.copies))
    ++ (s.vaults.filter (fun v => (s.core v.core).gen != v.gen)).map (fun v => (v.core, v.gen, v.warps, v.copies))

/-- The warp operation that waits for the answer with a tag from a package. -/
def State.waiting (s : State) (src tag : Nat) : Option (Nat × Nat × Nat × Op) :=
  s.places.findSome? (fun p => p.2.2.1.findSome? (fun w =>
    (w.ops.find? (fun o => o.reqs.any (fun r => r.tag == tag && r.dst == src))).map (fun o => (p.1, p.2.1, w.wix, o))))

/-- An operation with some requests answered: values by lane are added to its fills. -/
def Op.answer (o : Op) (gone : Req → Bool) (vals : List (Nat × Nat)) (stop : Option Nat) : Op :=
  { o with
    reqs := o.reqs.filter (fun r => !gone r)
    fills := if o.w then o.fills.map (fun (f : Fill) =>
      { f with vals := f.vals ++ vals.map (fun v => (v.1, BitVec.ofNat 32 (v.2 / 2 ^ (32 * (f.reg - o.reg))))) }) else o.fills
    stopVA := o.stopVA.or stop }

/-- What a peer has read for a warp of a generation, as its access takes it and learns from it, wherever the warp is (R132, R194): bytes at a PA
of the peer. -/
def State.answerRead (s : State) (gen : Nat) (ac : Option Acc) (dev pa : Nat) (bs : List Byte) : List Byte × State :=
  match ac with
  | none => (bs, s)
  | some ac => s.farRead { ac with who := s.actor gen ac.who } dev pa bs

/-- The lanes of an operation that a reply answers, each with its PA: tag and source of the reply. -/
def Op.lanesFor (o : Op) (src tag : Nat) : List (Nat × ReqLane) :=
  (o.reqs.filter (fun r => r.tag == tag && r.dst == src)).flatMap (fun r => r.lanes.map (fun q => (r.pa + q.off, q)))

/-- Take the lanes of a reply in turn: bytes gives what the peer has sent for the i-th. -/
def State.answerLanes (s : State) (gen dev : Nat) (o : Op) (ls : List (Nat × ReqLane)) (bytes : Nat → ReqLane → List Byte) :
    List (ReqLane × List Byte) × State :=
  ls.zipIdx.foldl (fun (a : List (ReqLane × List Byte) × State) p =>
    let (bs, t) := a.2.answerRead gen o.acc dev p.1.1 (bytes p.2 p.1.2)
    (a.1 ++ [(p.1.2, bs)], t)) ([], s)

/-- Give an operation its answer; the last one ends it (R194, R227 to R230). -/
def State.answerOp (s : State) (c gen wix : Nat) (o : Op) (gone : Req → Bool) (vals : List (Nat × Nat)) (stop : Option Nat) : State :=
  let o1 := o.answer gone vals stop
  let s1 := s.mapWarp c gen wix (fun w => { w with ops := w.ops.map (fun (x : Op) => if x.id == o.id then o1 else x) })
  let gid := ((s.findWarp c gen wix).map Warp.gid).getD 0
  if o1.reqs.isEmpty && s.popsHere c gen gid o1 then s1.finishOp c gen wix o1 else s1

/-! ### Unreachable destinations (R522, R523, R528, R531, R532) -/

def farRec (d : Nat) : FRec := { cls := 6, code := 4, info := d }

/-- The end of an operation at a lost destination stops its warp (R523). -/
def Op.stopsFar (o : Op) (d : Nat) : Bool := o.reqs.any (fun r => r.dst == d) && (match o.kind with | .claim _ _ | .fetch _ => false | _ => true)

/-- One operation's requests to a lost destination end (R523). -/
def State.loseOp (s : State) (c gen wix d : Nat) (o : Op) : State :=
  let gone (r : Req) : Bool := r.dst == d
  let lanes0 := ((o.reqs.filter gone).flatMap Req.lanes).map ReqLane.lane
  let o := { o with later := o.later.filter (fun x => x.2.dst != d) }
  match o.kind with
  | .claim _ _ => s.answerOp c gen wix o gone (lanes0.map (fun l => (l, 1))) none
  | .fetch _ => s.mapWarp c gen wix (fun w => { w with ops := w.ops.filter (fun x => x.id != o.id) })
  | _ => s.answerOp c gen wix o gone (lanes0.map (fun l => (l, 0))) none

/-- A copy waits for a package. -/
def Copy.waitsFor (x : Copy) (d : Nat) : Bool :=
  x.xfers.any (fun f => f.tag.isSome && f.dev == d) || (match x.want with | some w => w.2.1 == d | none => false)

/-- A copy that waits for a lost destination ends; a saved one at its restore. -/
def State.loseCopy (s : State) (c gen : Nat) (x : Copy) : State :=
  if (s.core c).gen == gen then s.failCopy c x none else s.mapCopy c gen x.id (fun y => { y with discarded := true, started := true })

/-- The warps that stop once a destination is lost, each once however much it had outstanding there (R523): core, generation, warp. -/
def State.cutOffWarps (s : State) (d : Nat) : List (Nat × Nat × Nat) :=
  (s.places.flatMap (fun p =>
    (p.2.2.1.filter (fun w => w.ops.any (fun o => o.stopsFar d))).map (fun w => (p.1, p.2.1, w.wix))
      ++ (p.2.2.2.filter (fun x => x.waitsFor d && x.opc != opStage)).flatMap (fun x => x.pieces.map (fun q => (p.1, p.2.1, q.wix))))).eraseDups

/-- The tiles in escrow with a lost thief are to return (R528); one that already waits for room in its deque goes on waiting. -/
def State.cutThief (s : State) (d : Nat) : State :=
  { s with esc := s.esc.map (fun (e : EscRec) =>
      if (s.escSt e.at_ == 1 || s.escSt e.at_ == 2) && fld (s.cpw (escOff e.at_)) 14 0 == d && !e.back then { e with cut := true } else e) }

/-- Such a tile returns behind a fence; it waits while the fence table is full (R528). -/
def State.returnCut (s : State) (i : Nat) : State :=
  let w := s.cpw (escOff i)
  let d := fld w 14 0
  let dq := fld w 31 26
  let gen := s.cpw (oDQ + 32 * dq + 16) % 2 ^ 16
  let slot := if (s.fenced d gen).isSome then s.fenced d gen else (List.range 64).find? (fun k => !(s.cpw (oFNCE + 8 * k)).testBit 0)
  match slot with
  | some k =>
    let s1 : State := { s with esc := s.esc.map (fun (x : EscRec) => if x.at_ == i then { x with cut := false } else x) }
    ((s1.setCpw (oFNCE + 8 * k) (gen * 2 ^ 48 + d * 2 ^ 32 + 1)).escBack i).ringRec { cls := 6, code := 0xA, info := d + dq * 2 ^ 16 }
  | none => s

/-- The tiles of thieves that were cut off, for which a fence entry may have become free (R528). -/
def State.loseThief (s : State) : State := (s.esc.filter (fun e => e.cut && s.escSt e.at_ != 3)).foldl (fun (t : State) e => t.returnCut e.at_) s

/-- epochSend (R522). -/
def execEpochSend (dst : Nat) (s : State) : Host.Outcome State Fault Refusal :=
  let x := s.dest dst
  if x.bad && x.epochAt + 100000 ≤ s.ptb && s.pathTo dst then
    ((s.updDest dst (fun x => { x with epochAt := s.ptb, epochNext := some x.next })).transmit (s.mkPacket 0 dst 2 0x24 0 x.next [])).out
  else .next s

/-- Warps whose await of memory was registered at a lost destination are woken with HELD = 0 (R523), and what it has not acknowledged holds
nothing back. -/
def State.loseWarp (s : State) (c gen d : Nat) (w : Warp) : State :=
  let s0 := if w.unacked.any (fun r => r.dst == d) then s.mapWarp c gen w.wix (fun w => { w with unacked := w.unacked.filter (fun r => r.dst != d) }) else s
  let s1 := (w.ops.filter (fun o => o.reqs.any (fun r => r.dst == d))).foldl (fun (u : State) o => u.loseOp c gen w.wix d o) s0
  let wakes := w.waitDev == some d && (match w.wait with | .mem _ _ _ | .phg _ => true | _ => false)
  if wakes then s1.mapWarp c gen w.wix (fun w => ({ w with result := some false, waitDev := none } : Warp).settle (s1.cycOf c w)) else s1

/-- What was to follow a packet of the CP or the teller that is abandoned (R523): an interrupt comes all the same, and an entry is free. -/
def State.loseNext (s : State) (x : Next) : State :=
  match x with
  | .send _ (some (page, cook, seq)) | .irq page cook seq => s.pageIrq page cook seq
  | .send _ none => s
  | .escrow i => s.escFree i

/-- unreachableDeclare (R522, R523); tiles that wait for a fence entry are tried again (R528). -/
def execUnreachableDeclare (dst : Nat) (s0 : State) : Host.Outcome State Fault Refusal :=
  let s := s0.loseThief
  let x := s.dest dst
  let late := (match x.noPath with | some t => decide (t + 100000 ≤ s.ptb) | none => false) || x.unacked.any (fun u => decide (u.first + 1000000 ≤ s.ptb))
  if x.bad || !late then s.out
  else
    let s1 := (s.updDest dst (fun x => { x with bad := true, unacked := [], waiting := [], noPath := none, epochAt := s.ptb })).ringRec (farRec dst)
    let s2 := s1.places.foldl (fun (t : State) p => p.2.2.1.foldl (fun (t : State) w => t.loseWarp p.1 p.2.1 dst w) t) s1
    let s3 := s2.places.foldl (fun (t : State) p => (p.2.2.2.filter (fun x => x.waitsFor dst)).foldl (fun (u : State) x => u.loseCopy p.1 p.2.1 x) t) s2
    let s4 := (s.cutOffWarps dst).foldl (fun (t : State) k => t.stopWarp k.1 k.2.1 k.2.2 (farRec dst)) s3
    let s5 : State := (s4.after.filter (fun a => a.1 == dst)).foldl (fun (t : State) a => t.loseNext a.2.2) { s4 with
      after := s4.after.filter (fun a => a.1 != dst), cpReads := s4.cpReads.filter (fun r => r.dst != dst)
      cmdReads := s4.cmdReads.map (fun (r : CmdRead) => if r.dst == dst then { r with bad := true } else r) }
    ((List.range 256).foldl (fun (t : State) b =>
      let root := fld (t.fbDesc b 1) 30 16
      if !t.fbValid b then t
      else if root = t.dev then t.fbOut b dst true
      else if root = dst then t.fbNoRoot b else t) (s5.cutThief dst).loseThief).out

end Sys2Proof.Machine
end

