-- ==== Sys2Proof/Machine/Task.lean ====
section
/-! DEFINITION. Task instructions (R431 to R436) and the teller's operations on tile deques (R97 to R100, R434, R435). -/

namespace Sys2Proof.Machine

/-- A task fault (R547). -/
def taskFault (code info : Nat) : Res := .fault { cls := 4, code := code, info := info }

/-- The physical places of payload areas, one for each address: 64 B in scratchpad, aligned (R431). -/
def Ctx.areas (c : Ctx) (s : State) : List Nat → Except Res (List (Nat × Nat))
  | [] => .ok []
  | l :: t =>
    match c.locate s .s .read 64 l (c.a s 1 l) with
    | (.ok (.sp k ph), _) => match c.areas s t with | .ok r => .ok ((k, ph) :: r) | .error e => .error e
    | (.ok _, _) => c.areas s t
    | (.error r, _) => .error r

/-- Lanes that make a record: every ACTIVE one for a v area, else one for the warp. -/
def Ctx.recLanes (c : Ctx) : List Nat := match c.f.a with | .v _ => maskLanes c.active | _ => [c.low]

/-- Read n bytes of an area from an offset, by weak reads of the warp. -/
def Ctx.areaBytes (c : Ctx) (s : State) (a : Nat × Nat) (off n : Nat) : List Byte × State :=
  s.loadSp (Acc.weak (.warp c.core c.wix)) a.1 (a.2 + off) n

/-- What the warp's delivery releases (R86), and the machine after it. -/
def Ctx.stamp (c : Ctx) (s : State) : Clock × State :=
  let (h, k) := s.hb.stamp (.warp c.core c.wix)
  (k, { s with hb := h })

/-- The destination of a fabric operation is unreachable (R524). -/
def unreachable (s : State) (d : Nat) : Option Res :=
  if (s.dest d).bad then some (.fault { cls := 6, code := 0xD, info := d }) else none

/-- emit to a local till (R432). -/
def execEmit (f : Fmt) (s : State) :=
  issue (.emit f) f (fun c t =>
    if !c.w.mayRelease then .hold s
    else match c.areas t c.recLanes with
    | .error r => r
    | .ok as =>
      let nid := c.b t 1 c.low % 2 ^ 24
      let gen := c.pktGen t
      match t.node gen nid with
      | none => taskFault 4 nid
      | some n =>
        if n.kind = 2 then taskFault 5 nid
        else
          let g := t.group c.core c.w.gid
          let (k, t1) := c.stamp t
          .ok (as.foldl (fun (u : State) a =>
            let (bs, v) := c.areaBytes u a 8 56
            v.deliver gen nid 0 (some (v.dieOf c.core)) (mkRec nid g.depth g.gid bs) {} k) t1)) s

/-- emit.rem (R432): REC packets, counted as one operation in F. -/
def execEmitRem (f : Fmt) (s : State) :=
  issue (.emitRem f) f (fun c t =>
    if !c.w.mayRelease || 63 ≤ c.w.counter .f then .hold s
    else match c.areas t c.recLanes with
    | .error r => r
    | .ok as =>
      let nid := c.b t 1 c.low % 2 ^ 24
      let d := c.c t 1 c.low % 2 ^ 15
      match unreachable t d with
      | some r => r
      | none =>
        let t1 := { t with hb := t.hb.farStamp (.warp c.core c.wix) }
        let (reqs, t2) := as.foldl (fun (x : List Req × State) a =>
          let (bs, v) := c.areaBytes x.2 a 8 56
          let tag := v.tag
          let p := v.mkPacket (c.pktGen v) d 0 0x06 tag nid (mkRec nid 0 (v.dev % 2 ^ 15) bs)
          (x.1 ++ [⟨tag, d, 0, []⟩], ({ v with tag := (tag + 1) % 2 ^ 32 }).sendPacket p)) ([], t1)
        .ok (c.upd t2 (fun w => w.addOp { id := 0, kind := .emit, cls := some .f, reqs := reqs, issued := t.ptb }))) s

/-- emit.task (R432): the create of a named task. Log entry 73. -/
def execEmitTask (f : Fmt) (s : State) :=
  issue (.emitTask f) f (fun c t =>
    let perLane := match f.a with | .v _ => true | _ => false
    if !c.w.mayRelease then .hold s
    else match c.areas t c.recLanes with
    | .error r => r
    | .ok as =>
      let nid := c.b t 1 c.low % 2 ^ 24
      let word := c.c t 1 c.low
      if perLane || fld word 31 16 = 0 then taskFault 6 0
      else
        match as with
        | [] => .ok t
        | a :: _ =>
          let g := t.group c.core c.w.gid
          let (bs, t1) := c.areaBytes t a 8 56
          .ok (t1.taskCreate (c.pktGen t) (word % 65536) (fld word 31 16) (mkRec nid g.depth g.gid bs) (.warp c.core c.wix))) s

/-- The leader lane of a group (R33): the lowest lane of warp 0 that has not exited. -/
def Ctx.leaderOnly (c : Ctx) : Bool :=
  c.w.warp == 0 && c.active == BitVec.ofNat 32 (2 ^ lowLane (~~~ c.w.fin)) && c.w.fin != 0xFFFFFFFF#32

/-- spawn (R433). -/
def execSpawn (f : Fmt) (s : State) :=
  issue (.spawn f) f (fun c t =>
    if !c.w.mayRelease then .hold s
    else match c.areas t [c.low] with
    | .error r => r
    | .ok as =>
      let g := t.group c.core c.w.gid
      let gen := c.pktGen t
      let nid := c.b t 1 c.low % 2 ^ 24
      let n := c.c t 1 c.low
      if !c.leaderOnly || c.w.sup then taskFault 1 0
      else if 10 ≤ g.depth then taskFault 2 0
      else if n = 0 || 2 ^ 24 ≤ n then taskFault 3 0
      else if (t.node gen nid).isNone then taskFault 4 nid
      else
        let (bs, t1) := c.areaBytes t (as.headD (0, 0)) 8 48
        let (k, t2) := c.stamp t1
        let id := t2.gridNo
        let t3 : State := { t2 with
          gridNo := id + 1
          grids := t2.grids ++ [{ id := id, gen := gen, parent := some (c.core, c.w.gid), recs := n, at_ := t.ptb }] }
        let t4 := t3.updGroup c.core c.w.gid (fun g => { g with children := g.children ++ [id] })
        .ok ((List.range n).foldl (fun (u : State) i =>
          u.deliver gen nid 0 (some (u.dieOf c.core)) (mkRec nid (g.depth + 1) g.gid (bs ++ leBytes 8 i)) { grid := some id } k) t4)) s

/-! ### The teller (R97 to R100, R434) -/

def State.dqCfg (s : State) (i : Nat) : Nat := s.cpw (oDQ + 32 * i)
def State.dqPos (s : State) (i : Nat) : Nat := s.cpw (oDQ + 32 * i + 8)
def State.dqGen (s : State) (i : Nat) : Nat := s.cpw (oDQ + 32 * i + 16) % 2 ^ 16
def State.dqHead (s : State) (i : Nat) : Nat := fld (s.dqPos i) 31 0
def State.dqTail (s : State) (i : Nat) : Nat := fld (s.dqPos i) 63 32
def State.dqCount (s : State) (i : Nat) : Nat := (s.dqTail i + 2 ^ 32 - s.dqHead i) % 2 ^ 32

/-- VA of record number k of a deque. -/
def State.dqVA (s : State) (i k : Nat) : Nat := fld (s.dqCfg i) 59 16 * 2 ^ 16 + 64 * (k % 2 ^ fld (s.dqCfg i) 7 4)

def State.setTail (s : State) (i v : Nat) : State := s.setCpw (oDQ + 32 * i + 8) (setFld (s.dqPos i) 63 32 v)
def State.setHead (s : State) (i v : Nat) : State := s.setCpw (oDQ + 32 * i + 8) (setFld (s.dqPos i) 31 0 v)

/-- The local address of a record, or why there is none: 0 it does not translate or is not local, 1 poison in the walk. -/
def State.dqPA (s : State) (i k : Nat) (ak : AKind) : Except (Bool × Nat) Nat :=
  match s.xlateCp (s.dqGen i) (s.dqVA i k) ak with
  | .ok pa leaf => if aperOf leaf = 0 then .ok pa else .error (false, 0)
  | .bad _ _ => .error (false, 0)
  | .poison pa => .error (true, pa)

/-- The fault of a put or take whose record cannot be reached (R434). -/
def State.dqFault (s : State) (i k : Nat) (e : Bool × Nat) : Res :=
  if e.1 then .fault { cls := 3, code := 7, va := e.2 } else .fault { cls := 4, code := 0x11, va := s.dqVA i k, info := i }

/-- tkput (R434). -/
def execTkput (f : Fmt) (s : State) :=
  issue (.tkput f) f (fun c t =>
    if !c.w.mayRelease then .hold s
    else match c.areas t [c.low] with
    | .error r => r
    | .ok as =>
      let i := c.b t 1 c.low % 64
      let g := t.group c.core c.w.gid
      if !(t.dqCfg i).testBit 0 || t.dqGen i != c.pktGen t then taskFault 7 i
      else if !(t.dqCfg i).testBit 1 || 2 ^ fld (t.dqCfg i) 7 4 ≤ t.dqCount i then .ok (c.wr t 1 (fun _ => 1))
      else match t.dqPA i (t.dqTail i) .write with
      | .error e => t.dqFault i (t.dqTail i) e
      | .ok pa =>
        let (bs, t1) := c.areaBytes t (as.headD (0, 0)) 0 64
        let r := mkRec (recNid bs) g.depth g.gid (bs.drop 8)
        let t2 := { t1 with hb := t1.hb.pass (.warp c.core c.wix) .teller }
        let t3 := (t2.storePA { who := .teller, strong := true, sc := .sy, rel := true } pa (r.map some)).setTail i (t.dqTail i + 1)
        .ok (c.wr t3 1 (fun _ => 0))) s

/-- tkget, the owner's take (R434). -/
def execTkget (f : Fmt) (s : State) :=
  issue (.tkget f) f (fun c t =>
    let i := c.b t 1 c.low % 64
    if !(t.dqCfg i).testBit 0 || t.dqGen i != c.pktGen t then taskFault 7 i
    else if t.dqCount i = 0 then .ok (c.wr t 1 (fun _ => 1))
    else
      let k := (t.dqTail i + 2 ^ 32 - 1) % 2 ^ 32
      match t.dqPA i k .write with
      | .error e => t.dqFault i k e
      | .ok pa =>
        if t.poisoned pa then
          .ok ((c.wr t 1 (fun _ => 1)).stopAsync c.core c.wix (t.recAt c.core c.wix 0 [] { cls := 3, code := 3, va := pa }))
        else
          let (bs, t1) := t.loadPA { who := .teller, strong := true, sc := .sy, acq := true } pa 64
          let t2 := (t1.setTail i k).deliver (t.dqGen i) (recNid bs) 0 (some (t1.dieOf c.core)) bs { own := true } (t1.hb.of .teller).clk
          .ok (c.wr t2.escRetry 1 (fun _ => 0))) s

/-- tkget.claim (R435). -/
def execTkgetClaim (f : Fmt) (s : State) :=
  issue (.tkgetClaim f) f (fun c t =>
    let i := c.b t 1 c.low % 64
    let d := c.c t 1 c.low % 2 ^ 15
    if d = t.dev then taskFault 8 0
    else match unreachable t d with
    | some r => r
    | none =>
      let tag := t.tag
      let t1 := ({ t with tag := (tag + 1) % 2 ^ 32 }).sendPacket (t.mkPacket (c.pktGen t) d 0 0x07 tag i [])
      .ok (c.loadOp t1 (.claim i d) 1 4 [] [⟨tag, d, 0, c.runs.map (fun l => ⟨l, 0, 4, false⟩)⟩] none)) s

/-- tdec (R436): a decrement in the local table. -/
def execTdec (f : Fmt) (s : State) :=
  issue (.tdec f) f (fun c t =>
    if !c.w.mayRelease then .hold s
    else .ok (t.taskDec (c.pktGen t) (c.b t 1 c.low % 65536) (.warp c.core c.wix) none)) s

/-- tdec.rem (R436): a RED packet that names the decrement (R223), in no counter. -/
def execTdecRem (f : Fmt) (s : State) :=
  issue (.tdecRem f) f (fun c t =>
    let d := c.c t 1 c.low % 2 ^ 15
    if !c.w.mayRelease then .hold s
    else match unreachable t d with
    | some r => r
    | none =>
      let t1 := { t with hb := t.hb.farStamp (.warp c.core c.wix) }
      let tag := t1.tag
      let p := t1.mkPacket (c.pktGen t) d 0 0x04 tag (c.b t 1 c.low % 65536) (leBytes 8 (2 ^ 24 + 4 * 2 ^ 16))
      .ok (c.upd (({ t1 with tag := (tag + 1) % 2 ^ 32 }).sendPacket p) (fun w =>
        w.addOp { id := 0, kind := .emit, reqs := [⟨tag, d, 0, []⟩], issued := t.ptb }))) s

end Sys2Proof.Machine
end

