-- ==== Sys2Proof/Machine/Packets.lean ====
section
/-! DEFINITION. The packets of R222 and R526 as this package performs them: requests at the home slice and the teller, replies to what
waits here, acknowledgements, barrier and steal traffic, timetable entries, pre-emption notices, aborts and epochs. -/

namespace Sys2Proof.Machine

/-- Doubleword k of a payload. -/
def Packet.word (p : Packet) (k : Nat) : Nat := leVal ((p.pay.drop (8 * k)).take 8)

/-- Sector that ADDR names. -/
def Packet.sec (p : Packet) : Nat := p.addr.toNat / 64 * 64

/-- The requester as the agent of what it asks for. -/
def Packet.who (p : Packet) : Agent := .remote p.src.toNat

/-- A strong access at .sy by the requester: RD, WR and MON carry no order and no scope, and of RD and WR what the mask leaves out of a
sector is no part of an access (log entry 9). -/
def Packet.acc (p : Packet) : Acc := { who := Packet.who p, strong := true, sc := .sy, sized := false }

/-- Reply to a request. -/
def State.reply (s : State) (p : Packet) (opc addr : Nat) (pay : List Byte) : State :=
  s.sendPacket (s.mkPacket p.gen.toNat p.src.toNat 1 opc p.tag.toNat addr pay)

/-- A record about a packet of a generation. -/
def pktRec (p : Packet) (cls code va info : Nat) : FRec := { cls := cls, code := code, gen := p.gen.toNat, va := va, info := info }

/-- Poison met at the owner: answered, and recorded (R525). -/
def State.replyPoison (s : State) (p : Packet) : State :=
  (s.reply p 0x13 p.addr.toNat (leBytes 8 1)).ringRec (pktRec p 3 4 (Packet.sec p) 0)

/-! ### Memory requests (R225 to R231) -/

/-- The runs of ones of a mask of n bits, from bit i: first and length. -/
def maskRuns (m : Nat) : Nat → Nat → List (Nat × Nat)
  | 0, _ => []
  | n + 1, i =>
    if m.testBit i then
      match maskRuns m n (i + 1) with
      | (a, k) :: t => if a = i + 1 then (i, k + 1) :: t else (i, 1) :: (a, k) :: t
      | [] => [(i, 1)]
    else maskRuns m n (i + 1)

/-- The home slice checks each run of bytes that RD or WR names as one access (R492; log entry 27). -/
def State.mixRuns (s : State) (p : Packet) : State :=
  (maskRuns (Packet.word p 0) 64 0).foldl (fun (t : State) r => t.mixCheck { Packet.acc p with sized := true } (Packet.sec p + r.1) r.2) s

/-- rd (R227, R525): the sector as it stands in coherence order at the home slice. -/
def execRd (p : Packet) (s : State) : Host.Outcome State Fault Refusal :=
  s.receive p (fun s =>
    let pa := Packet.sec p
    if s.poisoned pa then s.replyPoison p
    else
      let s1 := ((if (s.keyDraw (keyOf pa)).isNone then s.keyRec pa else s).mixRuns p).touch pa
      let (bs, s2) := s1.raceRead { Packet.acc p with acq := true } (locOf pa) (s1.peek pa 64)
      s2.reply p 0x10 p.addr.toNat bs)

/-- wr (R228): each run of bytes is written as a release at .sy (log entry 9). Log entry 84. -/
def execWr (p : Packet) (s : State) : Host.Outcome State Fault Refusal :=
  s.receive p (fun s =>
    (maskRuns (Packet.word p 0) 64 0).foldl (fun (t : State) r =>
      t.storePA { Packet.acc p with rel := true } (Packet.sec p + r.1) (((p.pay.drop (8 + r.1)).take r.2).map some)) (s.mixRuns p))

/-- One lane entry of ATOM or RED (R223): byte offset, C and F. -/
structure LaneEnt where
  off : Nat
  c   : Nat
  f   : Nat
  deriving DecidableEq, Repr

/-- The control word of ATOM or RED, when it is well formed (R223). -/
structure Ctl where
  op  : AOp
  ty  : Ty
  ord : Sys2Proof.Ord
  sc  : Scope
  pr  : Bool
  deriving DecidableEq, Repr

def ordOf (n : Nat) : Sys2Proof.Ord :=
  match n with | 0 => .rlx | 1 => .acq | 2 => .rel | _ => .ar

/-- Log entry 32. -/
def ctlOf (v : Nat) (red : Bool) : Option Ctl :=
  match AOp.ofCode (BitVec.ofNat 4 v), Ty.ofCode (BitVec.ofNat 6 (v / 2 ^ 8)), Scope.ofCode (BitVec.ofNat 3 (v / 2 ^ 16)) with
  | some op, some ty, some sc =>
    if v.testBit 24 || !noBits v [(63, 25), (23, 20), (7, 4)] || !op.tyOk ty || (red && (op = .exch || op = .cas)) then none
    else some ⟨op, ty, ordOf (fld v 15 14), sc, v.testBit 19⟩
  | _, _, _ => none

/-- The lane entries of a payload. -/
def laneEnts (p : Packet) (k : Ctl) : List LaneEnt :=
  let n := tyBytes k.ty
  let step := 8 + n * (if k.op = .cas then 2 else 1)
  let at_ (o m : Nat) : Nat := leVal ((p.pay.drop o).take m)
  (List.range ((p.pay.length - 8) / step)).map (fun i =>
    let o := 8 + step * i
    ⟨fld (at_ o 8) 5 0, at_ (o + 8) n, if k.op = .cas then at_ (o + 8 + n) n else 0⟩)

/-- A malformed control word: nothing is performed (R223). -/
def State.badCtl (s : State) (p : Packet) : State := s.ringRec (pktRec p 6 0xF (Packet.sec p) (p.src.toNat + p.gen.toNat * 2 ^ 16))

/-- One lane of a remote atomic at the home slice (R229): its old value. -/
def State.remoteRmw (s : State) (p : Packet) (k : Ctl) (e : LaneEnt) : Nat × State :=
  let n := tyBytes k.ty
  let ac := Acc.of (Packet.who p) k.ord k.sc k.pr
  let pa := Packet.sec p + e.off
  let (bs, s1) := s.loadPA { ac with rel := false } pa n
  let old := leVal bs
  if aopWrites k.op old e.c e.f then (old, s1.storePA { ac with acq := false } pa ((leBytes n (aopNew k.op k.ty old e.c e.f)).map some) true)
  else (old, s1)

/-- atomPacket (R223, R229, R525). -/
def execAtomPacket (p : Packet) (s : State) : Host.Outcome State Fault Refusal :=
  s.receive p (fun s =>
    match ctlOf (Packet.word p 0) false with
    | none => s.badCtl p
    | some k =>
      if s.poisoned (Packet.sec p) then s.replyPoison p
      else
        let (olds, s1) := (laneEnts p k).foldl (fun (a : List Byte × State) e =>
          let (old, t) := a.2.remoteRmw p k e
          (a.1 ++ leBytes (tyBytes k.ty) old, t)) ([], s)
        s1.reply p 0x11 p.addr.toNat olds)

/-- redPacket (R223, R230, R525). -/
def execRedPacket (p : Packet) (s : State) : Host.Outcome State Fault Refusal :=
  s.receive p (fun s =>
    match ctlOf (Packet.word p 0) true with
    | none => s.badCtl p
    | some k =>
      if s.poisoned (Packet.sec p) then s.ringRec (pktRec p 3 4 (Packet.sec p) 0)
      else
        (laneEnts p k).foldl (fun (t : State) e =>
          let ac := Acc.of (Packet.who p) k.ord k.sc
          let (h, ms) := t.hb.release ac
          ({ t with hb := h } : State).redLane (Packet.who p)
            ⟨k.op, k.ty, Ord.releases k.ord, k.sc, 0, Packet.sec p + e.off, e.c, (t.hb.of ac.who).rel, ms⟩) s)

/-- taskDecrementPacket (R223, R436). -/
def execTaskDecrementPacket (p : Packet) (s : State) : Host.Outcome State Fault Refusal :=
  s.receive p (fun s =>
    if Packet.word p 0 = 2 ^ 24 + 4 * 2 ^ 16 && p.pay.length = 8 && p.addr.toNat < 65536 then
      s.taskDec p.gen.toNat p.addr.toNat (Packet.who p) (some p.src.toNat)
    else s.badCtl p)

/-- The entry that MON asks for; none for a reserved comparison. -/
def monOfPacket (p : Packet) : Option Mon :=
  let who := Packet.word p 4
  (MCmp.ofCode (BitVec.ofNat 4 (Packet.word p 3))).map (fun cmp =>
    { pa := p.addr.toNat, opnd := BitVec.ofNat 64 (Packet.word p 0), maskv := BitVec.ofNat 64 (Packet.word p 1), dline := Packet.word p 2
      dev := fld who 14 0, core := fld who 23 15, wix := if fld who 47 32 = 0 then supWix else fld who 31 24, gen := fld who 47 32
      cmp := cmp, dw := (Packet.word p 3).testBit 4, sc := .sy, st := .armed })

/-- mon (R127, R231): a reserved comparison registers nothing (log entry 22). One whose registration is deferred is performed when it is
made (R225, R483). -/
def execMon (p : Packet) (s : State) : Host.Outcome State Fault Refusal :=
  s.receiveIf p (fun s =>
    match monOfPacket p with
    | none => (s, true)
    | some m =>
      match s.monRegister { m with ack := some (p.src.toNat, p.psn.toNat) } with
      | (some h, t) => (t.sendPacket (wakePacket t m h), true)
      | (none, t) => (t, !t.keeps p.src.toNat p.psn.toNat))

/-! ### Records (R96, R489) -/

/-- The generation has a HANDLER node of that ID here, and an accepted entry. -/
def State.takesRec (s : State) (gen nid : Nat) : Bool :=
  (s.table.any (fun e => entGen e == gen) || s.running gen)
    && (match s.node gen nid with | some n => n.kind == 2 | none => false)

/-- Deliver a record from another package, or refuse it; its number among those delivered to the node chooses its die (R75; log entry 91).
Log entry 33. -/
def State.remoteRec (s : State) (p : Packet) (nid : Nat) (pay : List Byte) : State :=
  let gen := p.gen.toNat
  if s.takesRec gen nid then
    let (h, clk) := s.hb.stamp (Packet.who p)
    let n := ((s.node gen nid).map NodeReg.msgs).getD 0
    ({ s with
      hb := h, nodes := s.nodes.map (fun (x : NodeReg) => if x.gen == gen && x.nid == nid then { x with msgs := x.msgs + 1 } else x) } : State).deliver
        gen nid n none (mkRec nid 0 p.src.toNat pay) {} clk
  else s.ringRec { pktRec p 4 0xE nid p.src.toNat with async := true }

/-- recPacket (R96, R489). -/
def execRecPacket (p : Packet) (s : State) : Host.Outcome State Fault Refusal :=
  s.receive p (fun s => s.remoteRec p (p.addr.toNat % 2 ^ 24) (p.pay.drop 8))

/-- snot (R237): to the steal handler of the lowest barrier descriptor of the job; without a descriptor there is no such node, and it is
refused as R489 has it. Log entry 31. -/
def execSnot (p : Packet) (s : State) : Host.Outcome State Fault Refusal :=
  s.receive p (fun s =>
    let valid := (List.range 256).filter s.fbValid
    match (valid.find? (fun b => (s.fb b).gen == p.gen.toNat)).or valid.head? with
    | none => s.ringRec { pktRec p 4 0xE 0 p.src.toNat with async := true }
    | some b =>
      s.remoteRec p (fld (s.fbDesc b 0) 63 40)
        (leBytes 8 (p.addr.toNat % 2 ^ 15) ++ leBytes 8 (Packet.word p 0) ++ leBytes 8 (Packet.word p 1) ++ leBytes 8 (Packet.word p 2 % 2)))

/-! ### Claims and escrow (R238 to R241) -/

/-- The reply to a claim that takes nothing. -/
def State.replyEmpty (s : State) (p : Packet) (dq : Nat) : State := s.reply p 0x12 (2 ^ 63 + dq * 2 ^ 32) []

/-- The record of a claim whose tile cannot be read (R238). -/
def State.claimFault (s : State) (dq : Nat) (e : Bool × Nat) : State :=
  if e.1 then s.ringRec { cls := 3, code := 7, gen := s.dqGen dq, va := e.2 }
  else s.ringRec { cls := 4, code := 0x11, async := true, gen := s.dqGen dq, va := s.dqVA dq (s.dqHead dq), info := dq }

/-- claim (R238). -/
def execClaim (p : Packet) (s : State) : Host.Outcome State Fault Refusal :=
  s.receive p (fun s =>
    let dq := p.addr.toNat % 64
    let src := p.src.toNat
    let slot := (List.range 256).find? (fun i => s.escSt i == 0)
    let open_ := (s.dqCfg dq).testBit 0 && (s.dqCfg dq).testBit 2 && s.inPset (s.cpw (oDQ + 32 * dq + 24) % 2 ^ 10) src && s.dqCount dq != 0
    match open_, slot with
    | true, some i =>
      let h := s.dqHead dq
      match s.dqPA dq h .read with
      | .error e => (s.claimFault dq e).replyEmpty p dq
      | .ok pa =>
        if s.poisoned pa then (s.ringRec { cls := 3, code := 4, gen := s.dqGen dq, va := pa }).replyEmpty p dq
        else
          let (bs, s1) := s.loadPA { who := .teller, strong := true, sc := .sy, acq := true } pa 64
          let s2 := s1.setHead dq ((h + 1) % 2 ^ 32)
          let s3 := (s2.setCpw (escOff i) (h * 2 ^ 32 + dq * 2 ^ 26 + 2 ^ 24 + src)).setCpw (escOff i + 8) s.ptb
          let s4 : State := { s3 with esc := { at_ := i, gen := p.gen.toNat, rec_ := bs } :: s3.esc }
          s4.escRetry.reply p 0x12 (dq * 2 ^ 32 + h) bs
    | _, _ => s.replyEmpty p dq)

/-- The escrow entry that ESCT or ESCD names: its deque, ticket and thief. -/
def State.escOf (s : State) (p : Packet) : Option Nat :=
  (List.range 256).find? (fun i =>
    let w := s.cpw (escOff i)
    s.escSt i != 0 && fld w 63 32 == p.addr.toNat % 2 ^ 32 && fld w 31 26 == fld p.addr.toNat 37 32 && fld w 14 0 == p.src.toNat)

/-- esct (R240). -/
def execEsct (p : Packet) (s : State) : Host.Outcome State Fault Refusal :=
  s.receive p (fun s =>
    match s.escOf p with
    | some i => if s.escSt i = 1 then s.setCpw (escOff i) (setFld (s.cpw (escOff i)) 25 24 2) else s
    | none => s)

/-- escd (R240, R241): DONE, the completion word's add, FREE; an add at a peer page has been made when it is acknowledged (R548). -/
def execEscd (p : Packet) (s : State) : Host.Outcome State Fault Refusal :=
  s.receive p (fun s =>
    match s.escOf p with
    | some i =>
      if s.escSt i = 3 then s
      else
        let w := s.cpw (escOff i)
        let bs := ((s.esc.find? (fun e => e.at_ == i)).map EscRec.rec_).getD []
        let s1 := ({ s with hb := s.hb.pass (Packet.who p) .teller } : State).setCpw (escOff i) (setFld w 25 24 3)
        match s1.jobAdd (s.dqGen (fld w 31 26)) (leVal ((bs.drop 8).take 8)) .teller with
        | (none, s2) => s2.escFree i
        | (some k, s2) => if (s2.dest k.1).bad then s2.escFree i else { s2 with after := s2.after ++ [(k.1, k.2, .escrow i)] }
    | none => s)

/-! ### Replies -/

/-- The transfer of a copy that waits for a reply with a tag from a package: core, generation, the copy, the transfer's number. -/
def State.copyWaiting (s : State) (src tag : Nat) (wr : Bool) : Option (Nat × Nat × Copy × Nat × Xfer) :=
  s.places.findSome? (fun p => p.2.2.2.findSome? (fun x =>
    (((List.range x.xfers.length).zip x.xfers).find? (fun q => q.2.tag == some tag && q.2.dev == src && q.2.wr == wr)).map
      (fun q => (p.1, p.2.1, x, q.1, q.2))))

/-- The copy that waits for its shape record. -/
def State.copyWanting (s : State) (src tag : Nat) : Option (Nat × Nat × Copy × Nat) :=
  s.places.findSome? (fun p => p.2.2.2.findSome? (fun x =>
    match x.want with
    | some (t, d, va) => if t = tag && d = src then some (p.1, p.2.1, x, va) else none
    | none => none))

def CLoc.low (l : CLoc) : Nat := match l with | .va a => a % 64 | _ => 0

/-- A transfer no longer waits for its packet. -/
def State.xferOpen (s : State) (c gen id k : Nat) : State :=
  s.mapCopy c gen id (fun y => { y with xfers := modNth y.xfers k (fun (f : Xfer) => { f with tag := none }) })

/-- Data for a copy (R194): a copy that is switched out reads again at its restore. -/
def State.copyData (s : State) (c gen : Nat) (x : Copy) (k : Nat) (f : Xfer) (data : List Byte) : State :=
  let s1 := s.xferOpen c gen x.id k
  if (s.core c).gen == gen && (s.core c).copying then s1.putXfer c x k f ((data.drop (CLoc.low f.src)).take f.n) false s1 else s1

/-- A shape record for a copy; one asked for before an rcfence is this copy's alone (R384). -/
def State.copyShape (s : State) (c gen : Nat) (x : Copy) (va : Nat) (data : List Byte) : State :=
  let s1 := s.mapCopy c gen x.id (fun y => { y with want := none, stale := false, got := y.got ++ [(va, data)] })
  if (s.core c).gen == gen then (if x.stale then s1 else s1.enterRec c va data).startCopies c x.gid else s1

/-- Data of a sector for whatever of this package waits for it under the tag (R227). -/
def State.takeData (s : State) (src tag : Nat) (data : List Byte) : State :=
  match s.waiting src tag with
  | some (c, gen, wix, o) =>
    let mine (r : Req) : Bool := r.tag == tag && r.dst == src
    let (ls, s1) := s.answerLanes gen src o (o.lanesFor src tag) (fun _ q => (data.drop q.off).take q.n)
    match o.kind with
    | .fetch va =>
      s1.mapWarp c gen wix (fun w => { w with fetched := (ls.map (fun q => (va, q.2))) ++ w.fetched, ops := w.ops.filter (fun x => x.id != o.id) })
    | _ => s1.answerOp c gen wix o mine (ls.map (fun q => (q.1.lane, loadVal q.1.sx q.2))) none
  | none =>
    match s.copyWaiting src tag false with
    | some (c, gen, x, k, f) => s.copyData c gen x k f data
    | none =>
      match s.copyWanting src tag with
      | some (c, gen, x, va) => s.copyShape c gen x va data
      | none =>
        match s.cpReads.find? (fun r => r.tag == tag && r.dst == src) with
        | some r => s.phaseWrite r (leVal ((data.drop (r.pa % 64)).take 8))
        | none =>
          { s with cmdReads := s.cmdReads.map (fun (r : CmdRead) => if r.tag == tag && r.dst == src then { r with data := some data } else r) }

/-- rdr (R225, R227, R194). -/
def execRdr (p : Packet) (s : State) : Host.Outcome State Fault Refusal :=
  s.receive p (fun s => s.takeData p.src.toNat p.tag.toNat p.pay)

/-- atomr (R229): one old value for each lane of the request, in order. -/
def execAtomr (p : Packet) (s : State) : Host.Outcome State Fault Refusal :=
  s.receive p (fun s =>
    match s.waiting p.src.toNat p.tag.toNat with
    | some (c, gen, wix, o) =>
      let mine (r : Req) : Bool := r.tag == p.tag.toNat && r.dst == p.src.toNat
      let (ls, s1) := s.answerLanes gen p.src.toNat o (o.lanesFor p.src.toNat p.tag.toNat) (fun i _ => (p.pay.drop (o.sz * i)).take o.sz)
      s1.answerOp c gen wix o mine (ls.map (fun q => (q.1.lane, leVal q.2))) none
    | none => s)

/-- claimr (R240, R435): the record is placed by its ticket, ESCT is sent, and D takes 0; an empty reply gives 1. -/
def execClaimr (p : Packet) (s : State) : Host.Outcome State Fault Refusal :=
  s.receive p (fun s =>
    match s.waiting p.src.toNat p.tag.toNat with
    | some (c, gen, wix, o) =>
      let src := p.src.toNat
      let mine (r : Req) : Bool := r.tag == p.tag.toNat && r.dst == src
      let ls := ((o.reqs.filter mine).flatMap Req.lanes).map ReqLane.lane
      let a := p.addr.toNat
      if a.testBit 63 then s.answerOp c gen wix o mine (ls.map (fun l => (l, 1))) none
      else
        let (h, clk) := s.hb.stamp (Packet.who p)
        let s1 := ({ s with hb := h } : State).deliver p.gen.toNat (recNid p.pay) (a % 2 ^ 32) none p.pay
          { stolen := some (src, fld a 37 32, a % 2 ^ 32) } clk
        let s2 := s1.sendPacket (s1.mkPacket p.gen.toNat src 0 0x08 0 (a % 2 ^ 38) [])
        s2.answerOp c gen wix o mine (ls.map (fun l => (l, 0))) none
    | none => s)

/-- Poison in an instruction's bytes at a peer (R496): the warp stops at the instruction. -/
def State.fetchPoison (s : State) (c gen wix va pa : Nat) (o : Op) : State :=
  let r : FRec := { cls := 3, code := 3, va := pa }
  let s1 := s.mapWarp c gen wix (fun w => { w with ops := w.ops.filter (fun x => x.id != o.id) })
  if wix = supWix || (s.core c).gen == gen then
    let w := s.warp c wix
    let at_ := (((maskLanes (~~~ w.fin)).map (fun l => (w.pcs.getD l 0).toNat)).find? (fun pc => va ≤ pc + 31 && pc < va + 32)).getD va
    s1.takeFault c wix (some (BitVec.ofNat 64 at_, BitVec.ofNat 64 (at_ + 4))) (s1.recAt c wix at_ [] r)
  else s1.mapWarp c gen wix (fun w => { w with asyncStop := w.asyncStop.or (some { r with wix := wix, gen := gen, core := c, async := true }) })

/-- The shape record of a copy is poisoned at its owner (R496). -/
def State.shapePoison (s : State) (c gen : Nat) (x : Copy) (va pa : Nat) : State :=
  let s1 := s.ringRec { cls := 3, code := 4, gen := gen, va := pa }
  if (s.core c).gen == gen then s1.endCopy c x 3 va else s1.mapCopy c gen x.id (fun y => { y with want := none })

/-- errr (R525): poison at the owner. -/
def execErrr (p : Packet) (s : State) : Host.Outcome State Fault Refusal :=
  s.receive p (fun s =>
    let src := p.src.toNat
    let tag := p.tag.toNat
    let pa := p.addr.toNat
    match s.waiting src tag with
    | some (c, gen, wix, o) =>
      let mine (r : Req) : Bool := r.tag == tag && r.dst == src
      match o.kind with
      | .fetch va => s.fetchPoison c gen wix va pa o
      | _ => s.answerOp c gen wix o mine (((o.reqs.filter mine).flatMap Req.lanes).map (fun q => (q.lane, 0))) (some pa)
    | none =>
      match s.copyWaiting src tag false with
      | some (c, gen, x, k, f) =>
        let s1 := s.xferOpen c gen x.id k
        if (s.core c).gen == gen && (s.core c).copying then s1.xferPoison c x k f pa false else s1
      | none =>
        match s.copyWanting src tag with
        | some (c, gen, x, va) => s.shapePoison c gen x va pa
        | none =>
          match s.cpReads.find? (fun r => r.tag == tag && r.dst == src) with
          | some r => (s.ringRec { cls := 3, code := 4, va := pa }).phaseEnd r
          | none =>
            { s with cmdReads := s.cmdReads.map (fun (r : CmdRead) => if r.tag == tag && r.dst == src then { r with bad := true } else r) })

/-! ### Acknowledgements (R224, R228, R522) -/

/-- A write of a copy has been performed at its peer: it is done and posted; for a copy that is switched out, at its restore. -/
def State.copyAcked (s : State) (c gen : Nat) (x : Copy) (k : Nat) (f : Xfer) : State :=
  if (s.core c).gen == gen then (s.xferDone c x.id k).postXfer c x f.n
  else s.mapCopy c gen x.id (fun y => { y with
    xfers := modNth y.xfers k (fun (f : Xfer) => { f with src := .skip, dst := .skip, tag := none, wr := false }) })

/-- A request of a warp is acknowledged: what it held back goes (R226); for a warp that is saved, at its restore. -/
def State.unhold (s : State) (d tag : Nat) : State :=
  let mine (r : Req) : Bool := r.tag == tag && r.dst == d
  match s.places.findSome? (fun p => (p.2.2.1.find? (fun w => w.unacked.any mine)).map (fun w => (p.1, p.2.1, w.wix))) with
  | none => s
  | some (c, gen, wix) =>
    let s1 := s.mapWarp c gen wix (fun w => { w with unacked := w.unacked.filter (fun r => !mine r) })
    if wix = supWix || (s.core c).gen == gen then s1.sendLater c wix else s1

/-- One thing that was to follow (R240, R259, R260): an interrupt waits for the acknowledgement of the packet before it. -/
def State.doNext (s : State) (x : Next) : State :=
  match x with
  | .send p irq =>
    let s1 := s.sendPacket p
    match irq with
    | none => s1
    | some (page, cook, seq) =>
      if (s1.dest p.dst.toNat).bad then s1.pageIrq page cook seq
      else { s1 with after := s1.after ++ [(p.dst.toNat, p.tag.toNat, .irq page cook seq)] }
  | .irq page cook seq => s.pageIrq page cook seq
  | .escrow i => s.escFree i

/-- What was to follow the acknowledgement of a packet of the CP or the teller (R240, R259, R397). -/
def State.thenNext (s : State) (d tag : Nat) : State :=
  let mine (a : Nat × Nat × Next) : Bool := a.1 == d && a.2.1 == tag
  let s1 := (s.after.filter mine).foldl (fun (t : State) a => t.doNext a.2.2) { s with after := s.after.filter (fun a => !mine a) }
  match s1.cpReads.find? (fun r => r.tag == tag && r.dst == d && r.step == 2) with
  | some r => s1.phaseEnd r
  | none => s1

/-- What the acknowledgement of a packet ends: a write, reduction, record or decrement of a warp, or a write of a copy. -/
def State.acked (s0 : State) (d : Nat) (q : Packet) : State :=
  let tag := q.tag.toNat
  let s := (s0.unhold d tag).thenNext d tag
  if [0x02, 0x04, 0x06].contains q.opc.toNat then
    match s.waiting d tag with
    | some (c, gen, wix, o) =>
      match o.kind with
      | .store | .red | .emit =>
        let o1 := { o with reqs := o.reqs.filter (fun r => !(r.tag == tag && r.dst == d)) }
        s.mapWarp c gen wix (fun w =>
          let w1 := { w with ops := w.ops.map (fun (x : Op) => if x.id == o.id then o1 else x) }
          if o1.reqs.isEmpty then w1.opDone o.id else w1)
      | _ => s
    | none =>
      match s.copyWaiting d tag true with
      | some (c, gen, x, k, f) => s.copyAcked c gen x k f
      | none => s
  else s

/-- sack (R224, R522). -/
def execSack (p : Packet) (s : State) : Host.Outcome State Fault Refusal :=
  if p.dst.toNat != s.dev then .next s
  else
    let d := p.src.toNat
    let base := p.addr.toNat % 2 ^ 16
    let map := Packet.word p 0
    let x := s.dest d
    let hit (u : Sent) : Bool := base ≤ u.psn && u.psn < base + 64 && map.testBit (u.psn - base)
    let s1 := s.updDest d (fun x => { x with unacked := x.unacked.filter (fun u => !hit u) })
    let s2 := (x.unacked.filter hit).foldl (fun (t : State) u => t.acked d u.pkt) s1
    let s3 :=
      if x.bad && x.epochNext.map (fun n => n / 64 * 64) == some base then
        (s2.updDest d (fun x => { x with bad := false, epochNext := none, ever := false })).ringRec { cls := 6, code := 5, info := d }
      else s2
    (s3.flush d (s3.dest d).waiting.length).out

/-- epoch (R522): the window moves to NEXT; one that repeats an earlier EPOCH changes nothing. -/
def execEpoch (p : Packet) (s : State) : Host.Outcome State Fault Refusal :=
  if p.dst.toNat != s.dev then .next s
  else
    let src := p.src.toNat
    let next := p.addr.toNat % 2 ^ 16
    let past := match (s.srcOf src).low with | some l => decide (0 < (l + 2 ^ 16 - next) % 2 ^ 16 ∧ (l + 2 ^ 16 - next) % 2 ^ 16 < 1024) | none => false
    let s1 := if past then s else s.updSrc src (fun x => { x with
      low := some next, slid := 0, done := x.done.filter (fun q => 1024 ≤ (q + 2 ^ 16 - next) % 2 ^ 16) })
    (s1.sendSack src (next / 64 * 64)).out

/-! ### Wakes and barriers -/

/-- The scope of the access by which an await of memory learns (R387, R388). -/
def Wait.scope : Wait → Option Scope
  | .mem _ _ sc | .phg sc => Option.some sc
  | _ => Option.none

/-- wake (R126, R127): to the waiting warp, on its core or saved. One that a write has woken has observed it by an acquire (R388). -/
def execWake (p : Packet) (s : State) : Host.Outcome State Fault Refusal :=
  s.receive p (fun s =>
    let a := p.addr.toNat
    let gen := fld a 47 32
    let c := fld a 23 15
    let wix := if gen = 0 then supWix else fld a 31 24
    let held := (Packet.word p 0).testBit 0
    match s.findWarp c gen wix with
    | some w =>
      match w.wait.scope with
      | some sc =>
        if w.waitDev == some p.src.toNat then
          let ac : Acc := { who := .warp c wix, strong := true, sc := sc, acq := true, sized := false }
          let s1 := if held then (s.answerRead gen (some ac) p.src.toNat w.waitPA (List.replicate 4 0)).2 else s
          s1.mapWarp c gen wix (fun w => ({ w with result := some held, waitDev := none } : Warp).settle (s.cycOf c w))
        else s
      | none => s
    | none => s)

/-- fbar (R233, R196). -/
def execFbar (p : Packet) (s : State) : Host.Outcome State Fault Refusal := s.receiveIf p (fun s => s.barrierTraffic p)
/-- frel (R233, R234, R196). -/
def execFrel (p : Packet) (s : State) : Host.Outcome State Fault Refusal := s.receiveIf p (fun s => s.barrierTraffic p)
/-- sdec (R237, R196). -/
def execSdec (p : Packet) (s : State) : Host.Outcome State Fault Refusal := s.receiveIf p (fun s => s.barrierTraffic p)
/-- fwdr (R530, R531, R196). -/
def execFwdr (p : Packet) (s : State) : Host.Outcome State Fault Refusal := s.receiveIf p (fun s => s.barrierTraffic p)

/-! ### The timetable (R184 to R190, R204, R205, R509) -/

/-- Entries whose slots have ended are no longer held (R184). -/
def State.pruneTable (s : State) : State := { s with table := s.table.filter (fun e => entLcr e || s.ptb < entEnd e) }

def entWdr (e : List Byte) : Bool := (entW e 5).testBit 1

/-- An accepted entry that the new one replaces (R185). -/
def sameEntry (e x : List Byte) : Bool := entSwt x == entSwt e && entLcr x == entLcr e && entCset x == entCset e

/-- The reservation that a withdrawal names (R205). -/
def withdraws (e x : List Byte) : Bool := entLcr x && entPset x == entPset e && entCset x == entCset e

/-- Cores of a set on this package. -/
def State.csetCores (s : State) (k : Nat) : List Nat := (List.range s.nCores).filter (fun c => s.cset k c)

/-- Reason 5 of R509. -/
def entryForm (e : List Byte) : Bool :=
  let ctl := entW e 5
  let aclk := fld ctl 63 48
  noBits (entW e 1) [(63, 48)] && noBits (entW e 2) [(63, 42), (31, 8)] && noBits (entW e 3) [(63, 56), (20, 0)]
    && noBits (entW e 4) [(63, 56), (19, 0)] && noBits ctl [(47, 10), (7, 2)] && entW e 7 == 0
    && entGen e != 0 && 4000 ≤ fld (entW e 6) 31 0 && fld (entW e 6) 63 32 != 0 && fld ctl 9 8 < 2
    && (aclk == 0 || (aclk % 100 == 0 && 800 ≤ aclk && aclk ≤ 1600)) && (!entLcr e || entSwt e == 0)

/-- The first reason of R509 for which an entry is refused; 0 when it is accepted. An entry that takes the place of another is accepted while 512
are held (DESIGN CHOICE, log entry 106: R184 and R185 do not say which rule wins). Log entry 30. -/
def State.entryReason (s : State) (e : List Byte) : Nat :=
  let lcr := entLcr e
  let stands := lcr && !entWdr e
  let cores := s.csetCores (entCset e)
  if !lcr && entSwt e < s.ptb + fld (entW e 6) 31 0 then 1
  else if stands && 80 < cores.length then 2
  else if stands && s.table.any (fun x => entLcr x && !sameEntry e x && (s.csetCores (entCset x)).any (fun c => cores.contains c)) then 3
  else if !entWdr e && 512 ≤ (s.table.filter (fun x => !sameEntry e x)).length then 4
  else if !entryForm e then 5
  else if entWdr e && !(lcr && s.table.any (withdraws e)) then 6
  else if (s.genEntry (entGen e)).isNone then 7
  else 0

/-- Withdraw a reservation (R205): at once, or when its pre-emption ends. -/
def State.withdraw (s : State) (x : List Byte) : State :=
  if s.preempt.any (fun p => p.gen == entGen x) then
    { s with preempt := s.preempt.map (fun (p : Preempt) => if p.gen == entGen x then { p with wdr := true } else p) }
  else { s with table := s.table.filter (· != x) }

/-- tte (R185, R205, R509). -/
def execTte (p : Packet) (s : State) : Host.Outcome State Fault Refusal :=
  s.receive p (fun s0 =>
    let s := s0.pruneTable
    let e := fitBytes 64 p.pay
    let why := s.entryReason e
    if why != 0 then
      (s.ringRec { cls := 5, code := 4, info := why + entGen e * 2 ^ 16 }).sendPacket
        (s.mkPacket 0 p.src.toNat 2 0x1F 0 why (leBytes 8 (entSwt e) ++ leBytes 8 (entW e 1) ++ leBytes 8 (entW e 2)))
    else if entWdr e then
      match s.table.find? (withdraws e) with
      | some x => s.withdraw x
      | none => s
    else { s with table := s.table.filter (fun x => !sameEntry e x) ++ [e] })

/-- ttr (R509): for Shatus, who is told. -/
def execTtr (p : Packet) (s : State) : Host.Outcome State Fault Refusal :=
  s.receive p (fun s => s.note (.note 3 (p.addr.toNat % 16)))

/-- ptpm (R179, R222): a message of a package that follows this one is answered; what this package measures of its own parent is in
ptpExchange. Log entry 29. -/
def execPtpm (p : Packet) (s : State) : Host.Outcome State Fault Refusal :=
  if p.dst.toNat != s.dev || p.src.toNat = fld (s.cpw oPTBSTAT) 47 32 then .next s else (s.sendPtpm p.src.toNat).out

/-- A notice whose instant has passed (R514): acted on at once. -/
def State.noticeLate (s : State) (gen v : Nat) : State :=
  if v ≤ s.ptb then
    ((s.ringRec { cls := 5, code := 8, info := min (2 ^ 32 - 1) (s.ptb - v) }).preemptOn.preemptOver gen).signalAll
  else s

/-- pren (R207, R210, R211, R514): T of a pre-emption that its source has not announced before, else U of the one it has, else the withdrawal of
U. -/
def execPren (p : Packet) (s : State) : Host.Outcome State Fault Refusal :=
  let gen := p.addr.toNat % 2 ^ 16
  let v := Packet.word p 0
  if p.dst.toNat != s.dev || s.noCp || (s.reservation gen).isNone then .next s
  else if v = 0 then
    .next { s with preempt := s.preempt.map (fun (q : Preempt) => if q.gen == gen then { q with u := none, src := if q.u.isSome then p.src.toNat else q.src } else q) }
  else match s.preempt.find? (fun q => q.gen == gen && q.u.isNone && q.src == p.src.toNat) with
  | some q => (({ s with preempt := s.preempt.map (fun (r : Preempt) => if r == q then { r with u := some v } else r) } : State).noticeLate gen v).out
  | none =>
    (({ s with preempt := s.preempt ++ [{ gen := gen, job := fld p.addr.toNat 47 16, t := v, src := p.src.toNat }] } : State).noticeLate gen v).out

/-- A job of a partition is still on this package: a generation of it that is not aborted runs, has an entry, or is saved here (R501). -/
def State.partLeft (s : State) (part : Nat) : Bool :=
  (List.range 1024).any (fun i =>
    let w := s.cpw (oGTAB + 64 * i)
    let gen := fld w 63 48
    w.testBit 0 && fld w 47 40 == part && !s.aborted.contains gen && (s.cores.any (fun k => k.gen == gen) || s.table.any (fun e => entGen e == gen) || s.vaults.any (fun v => v.gen == gen)))

/-- abrt (R499, R526); after the reset of a VF the key goes with the last of the partition's jobs here (R501). -/
def execAbrt (p : Packet) (s : State) : Host.Outcome State Fault Refusal :=
  s.receive p (fun s =>
    let a := p.addr.toNat
    let part := fld a 23 16
    let s1 := s.abortGen (a % 2 ^ 16) part
    if fld a 31 24 = 2 && part != 0 && !s1.partLeft part then s1.killKey part else s1)

end Sys2Proof.Machine
end

