-- ==== Sys2Proof/Machine/Upkeep.lean ====
section
/-! DEFINITION. The package's clock (R179 to R182, R506, R507), the hot-page tracker (R288, R289), the patrol (R286) and errors in memory
arrays (R484, R493 to R497). -/

namespace Sys2Proof.Machine

/-! ### Time -/

def State.locked (s : State) : Bool := (s.cpw oPTBSTAT).testBit 0

/-- Lock is lost: holdover (R506). -/
def State.loseLock (s : State) : State :=
  let w := s.cpw oPTBSTAT
  ({ s.setCpw oPTBSTAT (w - w % 2) with ptp := { s.ptp with hold := some s.ptb, said := false, ok := 0, bad := 0 } } : State).ringRec
    { cls := 5, code := 1, info := fld w 31 16 }

/-- lockLossTimeout (R506): no exchange for 64 µs. -/
def execLockLossTimeout (s : State) : Host.Outcome State Fault Refusal :=
  (if s.locked && s.ptp.last + 64000 ≤ s.ptb then s.loseLock else s).out

/-- holdoverTimeout (R507). -/
def execHoldoverTimeout (s : State) : Host.Outcome State Fault Refusal :=
  match s.ptp.hold with
  | some t =>
    (if t + 100000000 ≤ s.ptb && !s.ptp.said then
      ({ s with ptp := { s.ptp with said := true } } : State).ringRec { cls := 5, code := 2 }
    else s).out
  | none => .next s

/-- n held to lo to hi. -/
def clampI (lo hi n : Int) : Int := max lo (min hi n)

/-- PTBSTAT after an exchange (R182), LOCK as it was. -/
def ptbStat (dev parent : Nat) (offset : Int) (hops : Nat) (root : Bool) (lock : Nat) : Nat :=
  (if root then dev else parent % 2 ^ 15) * 2 ^ 32 + wrapN 16 (clampI (-32767) 32767 offset) * 2 ^ 16 + min hops 255 * 2 ^ 8
    + (if root then 2 else 0) + lock

/-- An exchange that disciplines the clock (R180, R182, R506, R507): offset is this package's time less its parent's; rate is the correction
in ppm that the package takes from it. Log entry 29. -/
def State.clockExchange (s : State) (parent : Nat) (offset : Int) (hops : Nat) (root : Bool) (rate : Int) : State :=
  let first := !s.ptp.ever && s.ptp.last = 0
  let now := if first then (max (s.ptb : Int) ((s.ptb : Int) - offset)).toNat else s.ptb
  let ok := if offset.natAbs ≤ 100 then s.ptp.ok + 1 else 0
  let bad := if 1000 < offset.natAbs then s.ptp.bad + 1 else 0
  let lock := s.cpw oPTBSTAT % 2
  let s1 : State := { s.setCpw oPTBSTAT (ptbStat s.dev parent offset hops root lock) with
    ptb := now, ptp := { s.ptp with rate := clampI (-200) 200 rate, ok := ok, bad := bad, last := max now 1 } }
  if lock = 0 && 64 ≤ ok then
    let s2 : State := { s1.setCpw oPTBSTAT (s1.cpw oPTBSTAT + 1) with ptp := { s1.ptp with ever := true, hold := none } }
    match s.ptp.hold with
    | some t => s2.ringRec { cls := 5, code := 3, info := min (2 ^ 32 - 1) ((s1.ptb - t) / 1000) }
    | none => s2
  else if lock = 1 && 8 ≤ bad then s1.loseLock
  else s1

/-- A message of the exchange goes to the parent (R179). -/
def State.askParent (s : State) (d : Nat) : State := let t := s.sendPtpm d; { t with ptp := { t.ptp with asked := max s.ptb 1 } }

/-- ptpExchange (R179): an exchange with a neighbour, from which the hops by way of it are heard. Only the parent that R179 chooses is
followed, with a message to it on the clock class, and the path delay to it, of which the manual gives no value, is held. A timing root
follows no neighbour. Log entry 29. -/
def execPtpExchange (parent : Nat) (offset : Int) (hops : Nat) (root : Bool) (rate : Int) (s : State) : Host.Outcome State Fault Refusal :=
  let heard : State := { s with nbrs := (parent, hops) :: s.nbrs.filter (fun n => n.1 != parent) }
  if root then (s.clockExchange parent offset hops root rate).out
  else if heard.ptpPick == some (parent, hops) then
    let s1 := (heard.askParent parent).clockExchange parent offset hops root rate
    ({ s1.tick with ptp := { s1.ptp with delay := (Config.freeWord s1.fresh).toNat } } : State).out
  else .next heard

/-- The parent is asked every 8 µs (R179); its answer is the next ptpExchange with it. -/
def State.ptpDue (s : State) : State :=
  if s.booted && !(s.cpw oPTBSTAT).testBit 1 && s.ptp.asked + 8000 ≤ s.ptb then
    match s.ptpPick with | some (d, _) => s.askParent d | none => s
  else s

/-! ### Hot pages -/

/-- Write a 32 B entry at the tail of a hot-page ring, and the tail as a release at .sy; nothing when the ring is off or full (R270). -/
def State.hotEntry (s : State) (cfgOff posOff : Nat) (bs : List Byte) : State :=
  let cfg := s.cpw cfgOff
  let pos := s.cpw posOff
  let size : Nat := 2 ^ (fld cfg 7 4 + 6)
  let tail := fld pos 63 32
  if !cfg.testBit 0 || size ≤ (tail + 2 ^ 32 - fld pos 31 0) % 2 ^ 32 then s
  else
    (s.storePA { cpAcc with rel := false } (fld cfg 47 12 * 2 ^ 12 + 32 * (tail % size)) (bs.map some)).cpRelease posOff (setFld pos 63 32 (tail + 1))

/-- hotPageEpochEnd (R288, R289): HPEP µs after the epoch began; the order of the four words of an entry is the model's (log entry 47). -/
def execHotPageEpochEnd (s : State) : Host.Outcome State Fault Refusal :=
  let hpep := fld (s.cpw oHPCFG) 16 0
  if hpep = 0 || s.ptb < s.hotAt + 1000 * hpep then .next s
  else
    let thr := fld (s.cpw oHPCFG) 63 32
    let s1 := (s.hot.reverse.filter (fun h => thr ≤ h.2.2.2)).foldl (fun (t : State) h =>
      let va := h.2.1 * 65536
      let pin := match t.xlateFresh false h.1 va with | .ok _ leaf => leaf.testBit 8 | _ => false
      let bs := leBytes 8 va ++ leBytes 8 h.2.2.1 ++ leBytes 8 h.2.2.2 ++ leBytes 8 h.1
      if pin then t.hotEntry oHPNCFG oHPNPOS bs else t.hotEntry oHPPCFG oHPPPOS bs) s
    ({ s1 with hot := [], hotAt := s.ptb } : State).out

/-! ### Patrol -/

/-- A line lies in a checkpoint range that is current (R286). -/
def State.ckptCurrent (s : State) (loc : Nat) : Bool :=
  (List.range 64).any (fun i => s.inCkpt i loc && s.ptb - s.cpw (oCKPT + 24 * i + 16) < 3600000000000 * fld (s.cpw oPATCFG) 7 0)

/-- patrolRead (R286, R495): the next line of the slice's sweep. -/
def execPatrolRead (slice : Nat) (s : State) : Host.Outcome State Fault Refusal :=
  if s.part.chans ≤ slice then .next s
  else
    let n := ((s.patrol.find? (fun p => p.1 == slice)).map Prod.snd).getD 0
    let loc := (n * s.part.chans + slice) * 256
    let s1 : State := { s with patrol := (slice, (n + 1) % Config.linesPerChan) :: s.patrol.filter (fun p => p.1 != slice) }
    (if s.ckptCurrent loc then s1
    else
      ((List.range 4).filter (fun k => s.poisoned (loc + 64 * k))).foldl (fun (t : State) k =>
        t.ringRec { cls := 3, code := 2, va := loc + 64 * k }) s1).out

/-! ### Errors in arrays -/

/-- 24 hours in PTB ns (R494). -/
def dayNs : Nat := 24 * 3600 * 10 ^ 9

/-- Three of the corrections, newest first, lie within a day. -/
def thrice : List Nat → Bool
  | a :: b :: c :: t => a - c ≤ dayNs || thrice (b :: c :: t)
  | _ => false

/-- arrayCorrectedError (R494): the slice's history keeps 16 sectors, the oldest leaving first (log entry 47). -/
def execArrayCorrectedError (pa : Nat) (s : State) : Host.Outcome State Fault Refusal :=
  let sec := locOf pa / 64
  let slice (k : Nat) : Nat := s.homeSlice (64 * k)
  let times := s.ptb :: ((s.hist.find? (fun h => h.1 == sec)).map Prod.snd).getD []
  let others := s.hist.filter (fun h => h.1 != sec)
  let mine := others.filter (fun h => slice h.1 == slice sec)
  let kept := match mine.getLast? with
    | some o => if 16 ≤ mine.length then others.filter (fun h => h.1 != o.1) else others
    | none => others
  let s1 : State := { s with hist := (sec, times) :: kept }
  (if thrice times then s1.ringRec { cls := 3, code := 1, va := pa } else s1).out

/-- Mark a sector poisoned. -/
def State.poisonSec (s : State) (sec : Nat) : State := if s.poison.contains sec then s else { s with poison := sec :: s.poison }

/-- The record of an array of a core (R497). -/
def arrayRec (arr va : Nat) : FRec := { cls := 3, code := 5, va := va, info := arr }

/-- A register or tile of a warp (R497). -/
def State.arrayWarp (s : State) (core wix arr : Nat) : State :=
  match (s.core core).warp? wix with
  | some _ => s.stopAsync core wix (s.recAt core wix 0 [] (arrayRec arr 0))
  | none => s.ringRec { arrayRec arr 0 with core := core }

/-- A word of scratchpad: every warp of the group that holds it stops, or of its cluster placement; one that no warp holds is cleared (R497). -/
def State.arraySpad (s : State) (core off : Nat) : State :=
  let held : List (Nat × Nat) := match (s.core core).groups.find? (fun g => g.spBase ≤ off && off < g.spBase + g.spBytes) with
    | some g => (g.clp.getD [(core, g.gid)]).flatMap (fun q => ((s.core q.1).warps.filter (fun w => !w.sup && w.gid == q.2)).map (fun w => (q.1, w.wix)))
    | none => []
  if held.isEmpty then
    (s.updCore core (fun k => { k with sp := SMap.setN k.sp (off / 8 * 8) (List.replicate 8 0) })).ringRec { arrayRec 1 off with core := core }
  else held.foldl (fun (t : State) (q : Nat × Nat) => t.stopAsync q.1 q.2 (t.recAt q.1 q.2 0 [] (arrayRec 1 off))) s

/-- A monitor entry of a slice (R484). -/
def State.arrayMon (s : State) (slice k : Nat) : State :=
  match (s.mons.filter (fun m => s.homeSlice (locOf m.pa) == slice && m.st != .deferred))[k]? with
  | some m => ((s.fireMon m false).ringRec { cls := 3, code := 6, gen := m.gen, va := m.pa }).monRefillAll
  | none => s

/-- arrayUncorrectableError (R484, R495, R497, R537): an error in a sector is reported when a patrol, a checkpoint read or a fill that no consumer
awaits finds it, and as its consumption when a consumer does. -/
def execArrayUncorrectableError (at_ : ArrayAt) (s : State) : Host.Outcome State Fault Refusal :=
  (match at_ with
  | .sector pa => (s.poisonSec (locOf pa / 64)).ringRec { cls := 3, code := 2, va := pa }
  | .latent pa => s.poisonSec (locOf pa / 64)
  | .slice k => if k < s.part.chans && !s.badSl.contains k then { s with badSl := k :: s.badSl } else s
  | .tag line => ((List.range 4).foldl (fun (t : State) k => t.poisonSec (4 * line + k)) s).ringRec { cls := 3, code := 6, va := 256 * line }
  | .monitor slice k => s.arrayMon slice k
  | .registers core warp => s.arrayWarp core warp 0
  | .scratchpad core off => s.arraySpad core off
  | .accumulator core warp => s.arrayWarp core warp 2
  | .l1 pa => (s.poisonSec (locOf pa / 64)).ringRec (arrayRec 3 pa)
  | .till gen => s.abortPart (s.partOf gen) 4
  | .faultBuffer core entry =>
    match (s.core core).fbuf.find? (fun (e : FEntry) => e.idx == entry) with
    | some e => if e.gen = 0 then s else s.abortPart (s.partOf e.gen) 4
    | none => s).out

end Sys2Proof.Machine
end

