-- ==== Sys2Proof/Machine/Due.lean ====
section
/-! DEFINITION. What is due when the agenda is empty: the first event that changes something, in the order below (log entry 1). Events that
only come from outside or that recur by a timer of which no rule keeps a register (deposits, packets, light, exchanges, patrol,
resynchronisation) come from the agenda alone. -/

namespace Sys2Proof.Machine

/-- The meaning of an event. -/
abbrev Event := State → Host.Outcome State Fault Refusal

/-- The oldest add to a doorbell word in the on-chip map (R439). Log entry 28. -/
def ringBell (s : State) : Host.Outcome State Fault Refusal :=
  match s.bells with
  | [] => .next s
  | (c, o) :: rest =>
    let ac : Acc := { who := .warp c supWix, strong := true, sc := .dv, rel := true }
    let (bs, t) := ({ s with bells := rest } : State).ocmLoad { ac with rel := false } o 8
    (t.ocmStore ac o (leBytes 8 (leVal bs + 1))).out

/-- Events of the command processor. -/
def State.cpEvents (s : State) : List Event :=
  (match s.nextCommand with
    | some (.nreg c) => [execNreg c]
    | some (.nunreg c) => [execNunreg c]
    | some (.keygen c) => [execKeygen c]
    | some (.keykill c) => [execKeykill c]
    | some (.partset c) => [execPartset c]
    | some (.attest c) => [execAttest c]
    | some (.cmdUndefined c) => [execCmdUndefined c]
    | _ => [])
  ++ (if s.depQ.isEmpty then [] else [execDepositToRecords])
  ++ (s.nodes.filter NodeReg.unreg).map (fun n => execNodeUnregisterEffect n.gen n.nid)
  ++ s.uirqs.map (fun q => execUserInterruptWaitEnd q.1)
  ++ (s.grids.filter (fun g => g.retired.isSome)).map (fun g t => (t.writeCompletion g.id).out)
  ++ (if s.bells.isEmpty then [] else [ringBell])
  ++ (List.range s.mons.length).map execMonitorDeadline

/-- Events of the timetable and of switches. -/
def State.switchEvents (s : State) : List Event :=
  (if s.table.isEmpty then [] else (List.range s.nCores).map execSwitchPrepare)
  ++ s.preempt.map (fun p => execPreemptionSlotEnd p.gen)
  ++ [execSwitchSignal]
  ++ (List.range s.cores.length).flatMap (fun c =>
    match (s.core c).phase with
    | .run => []
    | .halt => [execSwitchHaltEnd c]
    | .drain => [execSwitchDrainEnd c, execSwitchDrainLimit c]
    | .save => [execSwitchSaveEnd c]
    | .clock => [execClockChangeEnd c]
    | .restore => [execSwitchRestoreEnd c])

/-- Events of what a warp has issued. -/
def warpEvents (c : Nat) (w : Warp) : List Event :=
  (w.ops.filter (fun o => !o.done && o.reqs.isEmpty)).flatMap (fun o =>
    match o.kind with
    | .load | .atom | .claim _ _ | .pop => [execLoadDataReturn c w.wix o.id]
    | .mat => [execMatrixResultWritten c w.wix]
    | .red => [execRedPerformed c w.wix]
    | _ => [])
  ++ (if w.sup then [] else [execWarpComplete c w.wix, execWarpParkTimeout c w.wix])

/-- Events of the task engines and of the cores; parked warps take what is free before new groups (R62). -/
def State.coreEvents (s : State) : List Event :=
  (List.range s.cores.length).flatMap (fun c =>
    if (s.core c).warps.any (fun w => w.place.isNone) then (List.range 4).map (execWarpUnpark c) else [])
  ++ s.tills.map (fun t => execTillTimerExpiry t.gen t.nid t.die)
  ++ s.tills.map (fun t => execBgPromotion t.gen t.nid t.die)
  ++ (if s.tills.isEmpty then [] else (List.range 4).flatMap (fun d => [execTillSpillReturn d, execGroupAdmission d]))
  ++ (List.range s.cores.length).flatMap (fun c =>
    let k := s.core c
    k.warps.flatMap (warpEvents c)
    ++ k.copies.flatMap (fun x =>
      if x.opc = opStage then [execStagingComplete c x.gid]
      else [execCopyPosting c x.id x.xfers.length, execCopyAccessFault c x.id, execCopyComplete c x.id])
    ++ k.groups.flatMap (fun g => ((List.range g.rings.length).zip g.rings).map (fun r =>
      execQueueCommitNotice c g.gid r.1 (BitVec.ofNat 32 r.2.tail)))
    ++ (if k.warps.any (fun w => w.sup && w.stopped) then [execCoreRestart c] else []))

/-- Events of the fabric and of the clock. -/
def State.linkEvents (s : State) : List Event :=
  s.dests.flatMap (fun d => (d.unacked.map (fun u => execPacketRetransmit d.dst u.psn)) ++ (if d.bad then [execEpochSend d.dst] else [execUnreachableDeclare d.dst]))
  ++ (if s.esc.any EscRec.cut then [fun (t : State) => t.loseThief.out] else [])
  ++ s.srcs.flatMap (fun x => x.fresh.map (fun b => execSackTimer x.src b.1))
  ++ (List.range 64).flatMap (fun i =>
    match s.portState i with
    | 2 => [execDrainMarkerSend i, execDrainMarkerTimeout i]
    | 3 => [execDarkTimeout i]
    | 4 => [execRelockTimeout i]
    | _ => [])
  ++ [execLockLossTimeout, execHoldoverTimeout, execHotPageEpochEnd, fun (t : State) => t.ptpDue.out]

/-- Interrupts that harts take (R262). -/
def State.hartEvents (s : State) : List Event :=
  ((List.range s.harts.length).filter (fun n => (s.hart n).clupend != 0)).map execUserInterruptTake

/-- The outcome of an event, if it is not the state unchanged. -/
def changes (s : State) (f : Event) : Option (Host.Outcome State Fault Refusal) :=
  match f s with
  | .next t => if t = s then none else some (.next t)
  | o => some o

/-- What is due, if anything is. -/
def State.due (s : State) : Option (Host.Outcome State Fault Refusal) :=
  (s.cpEvents ++ s.switchEvents ++ s.coreEvents ++ s.linkEvents ++ s.hartEvents).findSome? (changes s)

end Sys2Proof.Machine
end

