-- ==== Sys2Proof/Machine/Integer.lean ====
section
/-! DEFINITION. Integer and logic instructions (R341 to R347): pure functions of one lane's operands, and one meaning for each. -/

namespace Sys2Proof.Machine

/-- An exact result wrapped to the type, or clamped to its range when SAT is set (R342, R343). -/
def narrow (t : Ty) (sat : Bool) (i : Int) : Nat :=
  wrapN (tyBits t) (if sat then clampInt (tySgn t) (tyBits t) i else i)

/-- A source as the type reads it (R342). -/
def rdTy (t : Ty) (n : Nat) : Int := rdInt (tySgn t) (tyBits t) n

/-- Division truncated toward zero, by R343 for zero. The quotient of the smallest value by −1 wraps to it. -/
def divI (t : Ty) (a b : Nat) : Nat :=
  if rdTy t b = 0 then 2 ^ tyBits t - 1 else narrow t false ((rdTy t a).tdiv (rdTy t b))
def remI (t : Ty) (a b : Nat) : Nat :=
  if rdTy t b = 0 then a % 2 ^ tyBits t else narrow t false ((rdTy t a).tmod (rdTy t b))

/-- ⌊A × B / 2^w⌋ (R342). -/
def mulHi (t : Ty) (a b : Nat) : Int := shrInt (rdTy t a * rdTy t b) (tyBits t)

/-- Shifts and rotation (R344). -/
def shlN (w a b : Nat) : Nat := if w ≤ b then 0 else a * 2 ^ b % 2 ^ w
def shrN (w a b : Nat) : Nat := if w ≤ b then 0 else a % 2 ^ w / 2 ^ b
def sarN (w a b : Nat) : Nat := wrapN w (shrInt (sInt w a) (min b w))
def rotN (w a b : Nat) : Nat := let r := b % w; (a % 2 ^ w * 2 ^ r + a % 2 ^ w / 2 ^ (w - r)) % 2 ^ w

/-- bfx and bfi (R344). -/
def bfxN (t : Ty) (a b : Nat) : Nat :=
  let w := tyBits t
  let pos := b % 256
  let len := min (b / 256 % 256) w
  let fl := wrapN len (shrInt (rdTy t a) pos)
  if len = 0 then 0 else if tySgn t then wrapN w (sInt len fl) else fl
def bfiN (w a b cc : Nat) : Nat :=
  let pos := b % 256
  let len := min (b / 256 % 256) w
  (List.range w).foldl (fun r i =>
    if (if pos ≤ i && i < pos + len then cc.testBit (i - pos) else a.testBit i) then r + 2 ^ i else r) 0

/-- One byte of prmt (R345). -/
def prmtByte (a b sel : Nat) : Nat :=
  let pool := a % 2 ^ 32 + 2 ^ 32 * (b % 2 ^ 32)
  let x0 := if sel.testBit 3 then 0 else pool / 2 ^ (8 * (sel % 8)) % 256
  let x1 := if sel.testBit 5 then revN 8 x0 else x0
  if sel.testBit 4 then 255 - x1 else x1
def prmtN (a b cc : Nat) : Nat :=
  (List.range 4).foldl (fun r k => r + prmtByte a b (cc / 2 ^ (8 * k) % 256) * 2 ^ (8 * k)) 0

/-- A meaning that writes D from sources A; A and B; A, B and C, of na, nb and nc registers. -/
def unary (i : Instr) (f : Fmt) (n na : Nat) (op : Nat → Nat) (s : State) :=
  issueOk i f (fun c s => c.wr s n (fun l => op (c.a s na l))) s
def binary (i : Instr) (f : Fmt) (n na nb : Nat) (op : Nat → Nat → Nat) (s : State) :=
  issueOk i f (fun c s => c.wr s n (fun l => op (c.a s na l) (c.b s nb l))) s
def ternary (i : Instr) (f : Fmt) (n na nb nc : Nat) (op : Nat → Nat → Nat → Nat) (s : State) :=
  issueOk i f (fun c s => c.wr s n (fun l => op (c.a s na l) (c.b s nb l) (c.c s nc l))) s
/-- The three forms in which every operand has the type's width. -/
def un (i : Instr) (f : Fmt) (t : Ty) (op : Nat → Nat) (s : State) := unary i f t.words t.words op s
def bin (i : Instr) (f : Fmt) (t : Ty) (op : Nat → Nat → Nat) (s : State) := binary i f t.words t.words t.words op s

/-- addc and subb (R342): the sum or difference with predicate CP, and the carry or borrow back into it. -/
def carry (i : Instr) (f : Fmt) (t : Ty) (cp : BitVec 4) (sub : Bool) (s : State) :=
  issueOk i f (fun c s =>
    let x (l : Nat) : Int :=
      let k : Int := if c.pred cp.toNat l then 1 else 0
      if sub then rdTy t (c.a s t.words l) - rdTy t (c.b s t.words l) - k
      else rdTy t (c.a s t.words l) + rdTy t (c.b s t.words l) + k
    let s1 := c.wr s t.words (fun l => narrow t false (x l))
    c.wrP s1 cp.toNat (fun l => if sub then x l < 0 else (2 ^ tyBits t : Nat) ≤ x l)) s

/-- add (R342, R343). -/
def execAdd (f : Fmt) (t : Ty) (sat : Bool) (s : State) := bin (.add f t sat) f t (fun a b => narrow t sat (rdTy t a + rdTy t b)) s
/-- sub. -/
def execSub (f : Fmt) (t : Ty) (sat : Bool) (s : State) := bin (.sub f t sat) f t (fun a b => narrow t sat (rdTy t a - rdTy t b)) s
/-- addc. -/
def execAddc (f : Fmt) (t : Ty) (cp : BitVec 4) (s : State) := carry (.addc f t cp) f t cp false s
/-- subb. -/
def execSubb (f : Fmt) (t : Ty) (cp : BitVec 4) (s : State) := carry (.subb f t cp) f t cp true s
/-- mul. -/
def execMul (f : Fmt) (t : Ty) (s : State) := bin (.mul f t) f t (fun a b => narrow t false (rdTy t a * rdTy t b)) s
/-- mulhi. -/
def execMulhi (f : Fmt) (t : Ty) (s : State) := bin (.mulhi f t) f t (fun a b => narrow t false (mulHi t a b)) s
/-- mad. -/
def execMad (f : Fmt) (t : Ty) (s : State) :=
  ternary (.mad f t) f t.words t.words t.words t.words (fun a b c => narrow t false (rdTy t a * rdTy t b + rdTy t c)) s
/-- madhi. -/
def execMadhi (f : Fmt) (t : Ty) (s : State) :=
  ternary (.madhi f t) f t.words t.words t.words t.words (fun a b c => narrow t false (mulHi t a b + rdTy t c)) s
/-- div. -/
def execDiv (f : Fmt) (t : Ty) (s : State) := bin (.div f t) f t (divI t) s
/-- rem. -/
def execRem (f : Fmt) (t : Ty) (s : State) := bin (.rem f t) f t (remI t) s
/-- min. -/
def execMin (f : Fmt) (t : Ty) (s : State) := bin (.min f t) f t (fun a b => narrow t false (min (rdTy t a) (rdTy t b))) s
/-- max. -/
def execMax (f : Fmt) (t : Ty) (s : State) := bin (.max f t) f t (fun a b => narrow t false (max (rdTy t a) (rdTy t b))) s
/-- abs. -/
def execAbs (f : Fmt) (t : Ty) (sat : Bool) (s : State) := un (.abs f t sat) f t (fun a => narrow t sat ((rdTy t a).natAbs : Int)) s
/-- neg. -/
def execNeg (f : Fmt) (t : Ty) (sat : Bool) (s : State) := un (.neg f t sat) f t (fun a => narrow t sat (-(rdTy t a))) s
/-- lea (R346): OFF32 is bits 127:96, absent in the 64-bit form. -/
def execLea (f : Fmt) (t : Ty) (sh : BitVec 3) (s : State) :=
  binary (.lea f t sh) f 2 2 1 (fun a b =>
    wrapN 64 ((a : Int) + rdInt (t == .i32) 32 b * (2 ^ sh.toNat : Nat) + (if f.len = .l128 then sInt 32 f.x.toNat else 0))) s
/-- and. -/
def execAnd (f : Fmt) (t : Ty) (s : State) := bin (.and f t) f t (fun a b => a &&& b) s
/-- or. -/
def execOr (f : Fmt) (t : Ty) (s : State) := bin (.or f t) f t (fun a b => a ||| b) s
/-- xor. -/
def execXor (f : Fmt) (t : Ty) (s : State) := bin (.xor f t) f t (fun a b => a ^^^ b) s
/-- not. -/
def execNot (f : Fmt) (t : Ty) (s : State) := un (.not f t) f t (fun a => 2 ^ tyBits t - 1 - a % 2 ^ tyBits t) s
/-- andn. -/
def execAndn (f : Fmt) (t : Ty) (s : State) := bin (.andn f t) f t (fun a b => a &&& (2 ^ tyBits t - 1 - b % 2 ^ tyBits t)) s
/-- shl (R344). -/
def execShl (f : Fmt) (t : Ty) (s : State) := binary (.shl f t) f t.words t.words 1 (shlN (tyBits t)) s
/-- shr. -/
def execShr (f : Fmt) (t : Ty) (s : State) := binary (.shr f t) f t.words t.words 1 (shrN (tyBits t)) s
/-- sar. -/
def execSar (f : Fmt) (t : Ty) (s : State) := binary (.sar f t) f t.words t.words 1 (sarN (tyBits t)) s
/-- rot. -/
def execRot (f : Fmt) (t : Ty) (s : State) := binary (.rot f t) f t.words t.words 1 (rotN (tyBits t)) s
/-- bfx. -/
def execBfx (f : Fmt) (t : Ty) (s : State) := binary (.bfx f t) f t.words t.words 1 (bfxN t) s
/-- bfi. -/
def execBfi (f : Fmt) (t : Ty) (s : State) := ternary (.bfi f t) f t.words t.words 1 t.words (bfiN (tyBits t)) s
/-- popc (R342). -/
def execPopc (f : Fmt) (t : Ty) (s : State) := unary (.popc f t) f 1 t.words (popN (tyBits t)) s
/-- clz. -/
def execClz (f : Fmt) (t : Ty) (s : State) := unary (.clz f t) f 1 t.words (clzN (tyBits t)) s
/-- ctz. -/
def execCtz (f : Fmt) (t : Ty) (s : State) := unary (.ctz f t) f 1 t.words (ctzN (tyBits t)) s
/-- brev. -/
def execBrev (f : Fmt) (t : Ty) (s : State) := un (.brev f t) f t (revN (tyBits t)) s
/-- sel. -/
def execSel (f : Fmt) (t : Ty) (ps : BitVec 4) (s : State) :=
  issueOk (.sel f t ps) f (fun c s =>
    c.wr s t.words (fun l => if c.pred ps.toNat l then c.a s t.words l else c.b s t.words l)) s
/-- mov (R347). -/
def execMov (f : Fmt) (t : Ty) (s : State) := un (.mov f t) f t (fun a => a) s
/-- movi. -/
def execMovi (f : Fmt) (t : Ty) (s : State) := un (.movi f t) f t (fun a => a) s
/-- movd: instruction bits 127:64 (R342). -/
def execMovd (f : Fmt) (t : Ty) (lo : Word) (s : State) :=
  issueOk (.movd f t lo) f (fun c s => c.wr s 2 (fun _ => lo.toNat + 2 ^ 32 * f.x.toNat)) s
/-- prmt (R345). -/
def execPrmt (f : Fmt) (s : State) := ternary (.prmt f) f 1 1 1 1 prmtN s

end Sys2Proof.Machine
end

