-- ==== Sys2Proof/Machine/Special.lean ====
section
/-! DEFINITION. Special functions (R172, R173): the part's fixed function where it lies within the bound of R172, and the correctly
rounded value where it does not, so that what is known of the result is its bound and no more (log entry 15). The exact values are
computed in fixed point with 256 fraction bits. -/

namespace Sys2Proof.Machine

/-- Fraction bits of the fixed-point values. -/
def fxB : Nat := 256

/-- ⌊π × 2^400⌋. -/
def piFx400 : Nat := 0x3243f6a8885a308d313198a2e03707344a4093822299f31d0082efa98ec4e6c89452821e638d01377be5466cf34e90c6cc0ac

/-- ⌊ln 2 × 2^256⌋. -/
def ln2Fx : Nat := 0xb17217f7d1cf79abc9e3b39803f2f6af40f343267298b62d8a0d175b8baafa2be7b876206debac98559552fb4afa1b10ed2e / 2 ^ 144

/-- Product of two fixed-point values. -/
def fxMul (a b : Int) : Int := a * b / ((2 ^ fxB : Nat) : Int)

/-- The sum 1 + y/(a(a+1)) + … of an alternating or plain series in y: each term is the one before times y / ((k + 1)(k + 2)). -/
def serGo : Nat → Nat → Int → Int → Int → Int
  | 0, _, _, _, acc => acc
  | fuel + 1, k, y, t, acc =>
    let t' := fxMul t y / (((k + 1) * (k + 2) : Nat) : Int)
    serGo fuel (k + 2) y t' (acc + t')

/-- sin and cos of r, |r| ≤ 1, in fixed point. -/
def fxSin (r : Int) : Int :=
  let y := -(fxMul r r)
  fxMul r (serGo 40 1 y ((2 ^ fxB : Nat) : Int) ((2 ^ fxB : Nat) : Int))
def fxCos (r : Int) : Int :=
  let y := -(fxMul r r)
  serGo 40 0 y ((2 ^ fxB : Nat) : Int) ((2 ^ fxB : Nat) : Int)

/-- e^r by its series, |r| ≤ 1. -/
def expGo : Nat → Nat → Int → Int → Int → Int
  | 0, _, _, _, acc => acc
  | fuel + 1, k, r, t, acc =>
    let t' := fxMul t r / (((k + 1 : Nat)) : Int)
    expGo fuel (k + 1) r t' (acc + t')
def fxExp (r : Int) : Int := expGo 64 0 r ((2 ^ fxB : Nat) : Int) ((2 ^ fxB : Nat) : Int)

/-- The signed fixed-point value of (−1)^n × m × 2^e (exact: every f32 has e ≥ −149). -/
def fxOf (n : Bool) (m : Nat) (e : Int) : Int :=
  let k := (fxB : Int) + e
  let v : Int := ((m * 2 ^ k.toNat : Nat) : Int)
  if n then -v else v

/-- The quadrant of |x| and the reduced argument |x| − quadrant × π/2, |·| ≤ π/4, in fixed point. -/
def reducePi (m : Nat) (e : Int) : Nat × Int :=
  -- |x| × 2^400 ; the quadrant is the nearest integer to |x| / (π/2)
  let x400 := m * 2 ^ ((400 : Int) + e).toNat
  let half := piFx400 / 2
  let q := (2 * x400 + half) / (2 * half)
  -- q × π/2 with π to 400 bits; q < 2^129, so its error is below 2^-270
  (q % 4, ((x400 : Int) - (q : Int) * (half : Int)) / ((2 ^ 144 : Nat) : Int))

/-- log2 of a value in [1, 2), by 2 atanh((m − 1)/(m + 1)) / ln 2. -/
def atanhGo : Nat → Nat → Int → Int → Int → Int
  | 0, _, _, _, acc => acc
  | fuel + 1, k, z2, t, acc =>
    let t' := fxMul t z2
    atanhGo fuel (k + 2) z2 t' (acc + t' / (((k + 2 : Nat)) : Int))
def fxLog2 (m1 : Int) : Int :=
  let one : Int := ((2 ^ fxB : Nat) : Int)
  let z := (m1 - one) * one / (m1 + one)
  let s := atanhGo 90 1 (fxMul z z) z z
  2 * s * one / (ln2Fx : Int)

/-- The exact (or fixed-point) value of each function at a finite source: numerator, denominator and a power of two. -/
structure Approx where
  num : Int
  den : Nat
  exp : Int
  deriving DecidableEq, Repr

/-- Exponent of the ulp of R172 at |num / den| × 2^exp. -/
def Approx.ulpExp (a : Approx) : Int :=
  let m := a.num.natAbs
  if m = 0 then -149
  else
    -- ⌊log2 (m / den)⌋
    let d : Int := (Nat.log2 m : Int) - Nat.log2 a.den
    let ge : Bool := if 0 ≤ d then a.den * 2 ^ d.toNat ≤ m else a.den ≤ m * 2 ^ (-d).toNat
    let l := (if ge then d else d - 1) + a.exp
    max l (-126) - 23

/-- |c − y| ≤ k ulp of y, for a finite f32 code c (R172). -/
def Approx.within (a : Approx) (k : Nat) (c : Nat) : Bool :=
  match fvOf (fpOf .f32) c with
  | .fin n m e =>
    let u := a.ulpExp
    let lo := min (min e u) a.exp
    -- everything in units of 2^lo / den
    let cv := scaledTo n m e lo * (a.den : Int)
    let yv := a.num * ((2 ^ (a.exp - lo).toNat : Nat) : Int)
    let ul := ((k * a.den * 2 ^ (u - lo).toNat : Nat) : Int)
    (cv - yv).natAbs ≤ ul.natAbs
  | _ => false

/-- The f32 code nearest to the value. -/
def Approx.nearest (a : Approx) : Nat :=
  let neg : Bool := a.num < 0
  let n := a.num.natAbs * 2 ^ (Nat.log2 a.den + 64)
  let q := n / a.den
  (roundFin (fpOf .f32) true .rne neg (2 * q + (if n % a.den = 0 then 0 else 1)) (a.exp - Nat.log2 a.den - 65)).1

/-- A value whose bound it never attains, as the fixed point has it: where the difference is too small to be held, one unit below it, so
that its ulp is that of R172. -/
def under (v bound : Int) : Int := min v (bound - 1)

/-- The value of a special function at m × 2^e with sign n (m ≠ 0), by opcode 0x080 (sin), 0x081 (cos), 0x083 (2^x), 0x084 (log2),
0x085 (1/x), 0x086 (1/√x), 0x087 (tanh). -/
def specialApprox (op : Nat) (n : Bool) (m : Nat) (e : Int) : Approx :=
  let one : Int := ((2 ^ fxB : Nat) : Int)
  let fx (v : Int) : Approx := ⟨v, 1, -(fxB : Int)⟩
  match op with
  | 0x080 =>
    let (q, r) := reducePi m e
    let v := match q with | 0 => under (fxSin r) r | 1 => fxCos r | 2 => -(fxSin r) | _ => -(fxCos r)
    fx (if n then -v else v)
  | 0x081 =>
    let (q, r) := reducePi m e
    fx (match q with | 0 => under (fxCos r) one | 1 => -(fxSin r) | 2 => -(fxCos r) | _ => fxSin r)
  | 0x083 =>
    -- x = i + f, 0 ≤ f < 1; below −1000 the value is far below half the least subnormal
    let x := if 12 < (Nat.log2 m : Int) + e then (if n then -(4000 * one) else 4000 * one) else fxOf n m e
    let i := x / one
    let f := x - i * one
    ⟨fxExp (fxMul f (ln2Fx : Int)), 1, i - (fxB : Int)⟩
  | 0x084 =>
    let l : Int := (Nat.log2 m : Int) + e
    let m1 := ((m * 2 ^ (fxB - Nat.log2 m) : Nat) : Int)
    fx (l * one + fxLog2 m1)
  | 0x085 => ⟨if n then -1 else 1, m, -e⟩
  | 0x086 =>
    match (exSqrt (.fin false m e)).v with
    | .fin _ r er => ⟨1, r, -er⟩
    | _ => ⟨0, 1, 0⟩
  | _ =>
    -- tanh x = (t − 1)/(t + 1), t = e^(2x); beyond 2^6 it is the value just below 1
    let v : Approx :=
      if 6 ≤ (Nat.log2 m : Int) + e then fx (one - 1)
      else
        let x := fxOf false m e
        -- e^(2x) = (e^(x/32))^64
        let sq (t : Int) : Int := fxMul t t
        let b := fxExp (x / 64) - one
        -- (1 + b)^128 − 1, kept as the difference from 1 so that small arguments keep their precision
        let dbl (d : Int) : Int := 2 * d + sq d
        let t := (List.range 7).foldl (fun d _ => dbl d) b
        ⟨t, (t + 2 * one).toNat, 0⟩
    if n then { v with num := -v.num } else v

/-- Sources at which R172 requires the exact value; code: the f32 nearest to it (2^x of an integer x below −149 is not representable). -/
def specialExact (op : Nat) (m : Nat) (e : Int) (code : Nat) : Bool :=
  let pow2 := m == 2 ^ Nat.log2 m
  match op with
  | 0x083 => (0 ≤ e || m % 2 ^ (-e).toNat == 0) && code != 0
  | 0x084 => pow2
  | 0x085 => pow2
  | _ => false

/-- The result of a function at a finite source by its bound (R172): the exact value where R172 requires it, else the part's own value,
Config.specialFn under key, where that meets the bound, else a value nearest to the exact one. Where no finite f32 meets the bound (vrcp of
a subnormal whose reciprocal is too large) the spec states neither value nor OF, and both are the part's own, free (log entry 15). -/
def specialFin (op key : Nat) (x : Word) (n : Bool) (m : Nat) (e : Int) : Nat × Flags :=
  let p := fpOf .f32
  let a := specialApprox op n m e
  let near := if (fvOf p a.nearest).isInf then p.maxFin n else a.nearest
  let k := if op == 0x087 then 2 else 1
  let c := (Config.specialFn key x).toNat
  if specialExact op m e a.nearest && !(fvOf p a.nearest).isInf then (a.nearest, 0)
  else if a.within k c then (c, 0)
  else if a.within k near then (near, 0)
  else ((Config.specialFn (2 ^ 16 + key) x).toNat, if (Config.specialFn (2 ^ 17 + key) x).getLsbD 0 then fOF else 0)

/-- The result of a special function (R172, R173) with its flags; key: which of the part's functions it is (vscs has its own sine and
cosine). -/
def special (op : Nat) (x : Word) (key : Nat := op) : Nat × Flags :=
  let p := fpOf .f32
  let nan : Nat := p.cnan
  let one : Nat := 0x3F800000
  let inf (n : Bool) : Nat := p.enc n 0x7F800000
  match fvOf p x.toNat with
  | .nan _ => (nan, 0)
  | .inf n =>
    match op with
    | 0x080 | 0x081 => (nan, fNV)
    | 0x083 => (if n then 0 else inf false, 0)
    | 0x084 => if n then (nan, fNV) else (inf false, 0)
    | 0x085 => (p.enc n 0, 0)
    | 0x086 => if n then (nan, fNV) else (0, 0)
    | _ => (p.enc n one, 0)
  | .fin n m e =>
    if m = 0 then
      match op with
      | 0x080 => (p.enc n 0, 0)
      | 0x081 | 0x083 => (one, 0)
      | 0x084 => (inf true, fDZ)
      | 0x085 | 0x086 => (inf n, fDZ)
      | _ => (p.enc n 0, 0)
    else if n && (op == 0x084 || op == 0x086) then (nan, fNV)
    else if op == 0x083 && !n && 7 ≤ (Nat.log2 m : Int) + e then (inf false, fOF)
    else specialFin op key x n m e

end Sys2Proof.Machine
end

