-- ==== Sys2Proof/Machine/FloatInstr.lean ====
section
/-! DEFINITION. Floating-point instructions (R348 to R353) and special functions (R354). -/

namespace Sys2Proof.Machine

/-- A meaning whose result in each lane is a value with flags, rounded in that lane's mode (R154, R155, R167). The operands are read
with n registers each. -/
def fp1 (i : Instr) (f : Fmt) (nd n : Nat) (op : RC → Nat → Nat × Flags) (s : State) :=
  issueOk i f (fun c s => c.wrF s nd (fun l => op (c.w.rc f.pre l 0) (c.a s n l))) s
def fp2 (i : Instr) (f : Fmt) (nd n nb : Nat) (op : RC → Nat → Nat → Nat × Flags) (s : State) :=
  issueOk i f (fun c s => c.wrF s nd (fun l => op (c.w.rc f.pre l 0) (c.a s n l) (c.b s nb l))) s
def fp3 (i : Instr) (f : Fmt) (n : Nat) (op : RC → Nat → Nat → Nat → Nat × Flags) (s : State) :=
  issueOk i f (fun c s => c.wrF s n (fun l => op (c.w.rc f.pre l 0) (c.a s n l) (c.b s n l) (c.c s n l))) s

/-- fscale (R351): A × 2^B. -/
def fscaleV (t : Ty) (rc : RC) (a b : Nat) : Nat × Flags :=
  let p := fpOf t
  match valOf t a with
  | .nan sg => (p.cnan, if sg then fNV else 0)
  | .inf n => (p.enc n (p.maxC + 1), 0)
  | .fin n m e => finish p rc ⟨.fin n m (e + sInt 32 b), 0⟩

/-- fgexp (R351): NV for any NaN. -/
def fgexpV (t : Ty) (a : Nat) : Nat × Flags :=
  match valOf t a with
  | .nan _ => (0x80000000, fNV)
  | .inf _ => (0x7FFFFFFF, 0)
  | .fin n m e => (if m = 0 then 0x80000000 else wrapN 32 (FV.ilog2 (.fin n m e)), 0)

/-- frnd (R351). -/
def frndV (t : Ty) (rc : RC) (a : Nat) : Nat × Flags :=
  let p := fpOf t
  match valOf t a with
  | .nan sg => (p.cnan, if sg then fNV else 0)
  | .inf n => (p.enc n (p.maxC + 1), 0)
  | .fin n m e =>
    if m = 0 || 0 ≤ e then (a % 2 ^ tyBits t, 0)
    else
      let (i, ix) := roundInt rc n m e
      ((finish p RC.rne ⟨.fin n i.natAbs 0, 0⟩).1, if ix then fNX else 0)

/-- fcls (R351). -/
def fclsV (t : Ty) (a : Nat) : Nat :=
  let p := fpOf t
  let norm (m : Nat) (e : Int) : Bool := p.emin ≤ (Nat.log2 m : Int) + e
  match valOf t a with
  | .nan sg => if sg then 2 ^ 9 else 2 ^ 8
  | .inf n => if n then 1 else 2 ^ 7
  | .fin n m e =>
    if m = 0 then (if n then 2 ^ 3 else 2 ^ 4)
    else if norm m e then (if n then 2 else 2 ^ 6) else (if n then 4 else 2 ^ 5)

/-- fcvt and icvt (R352): to the same type a copy, or the canonical NaN. -/
def cvtV (dt st : Ty) (inf : Bool) (rc : RC) (a : Nat) : Nat × Flags :=
  let v := valOf st a
  if dt == st then
    if v.isNaN && !tyIsInt st then (if st == .e8m0 then 0xFF else (fpOf st).cnan, 0) else (extReg st (a % 2 ^ tyBits st), 0)
  else
    let (r, fl) := cvtTo dt inf rc v
    (extReg dt r, fl)

/-- Sign-bit operations (R350). -/
def signBit (t : Ty) : Nat := 2 ^ (tyBits t - 1)
def clearSign (t : Ty) (a : Nat) : Nat := a % signBit t
def flipSign (t : Ty) (a : Nat) : Nat := (a % 2 ^ tyBits t) ^^^ signBit t

/-- fadd (R349). -/
def execFadd (f : Fmt) (t : Ty) (s : State) :=
  fp2 (.fadd f t) f t.words t.words t.words (fun rc a b => finish (fpOf t) rc (exAdd rc.mode (valOf t a) (valOf t b))) s
/-- fsub. -/
def execFsub (f : Fmt) (t : Ty) (s : State) :=
  fp2 (.fsub f t) f t.words t.words t.words (fun rc a b => finish (fpOf t) rc (exAdd rc.mode (valOf t a) (valOf t b).neg)) s
/-- fmul. -/
def execFmul (f : Fmt) (t : Ty) (s : State) :=
  fp2 (.fmul f t) f t.words t.words t.words (fun rc a b => finish (fpOf t) rc (exMul (valOf t a) (valOf t b))) s
/-- ffma. -/
def execFfma (f : Fmt) (t : Ty) (s : State) :=
  fp3 (.ffma f t) f t.words (fun rc a b c => finish (fpOf t) rc (exFma rc.mode (valOf t a) (valOf t b) (valOf t c))) s
/-- fdiv. -/
def execFdiv (f : Fmt) (t : Ty) (s : State) :=
  fp2 (.fdiv f t) f t.words t.words t.words (fun rc a b => finish (fpOf t) rc (exDiv (valOf t a) (valOf t b))) s
/-- fsqrt. -/
def execFsqrt (f : Fmt) (t : Ty) (s : State) :=
  fp1 (.fsqrt f t) f t.words t.words (fun rc a => finish (fpOf t) rc (exSqrt (valOf t a))) s
/-- fmin (R350). -/
def execFmin (f : Fmt) (t : Ty) (s : State) :=
  fp2 (.fmin f t) f t.words t.words t.words (fun _ a b => minMaxNum (fpOf t) false a b) s
/-- fmax. -/
def execFmax (f : Fmt) (t : Ty) (s : State) :=
  fp2 (.fmax f t) f t.words t.words t.words (fun _ a b => minMaxNum (fpOf t) true a b) s
/-- fneg (R350). -/
def execFneg (f : Fmt) (t : Ty) (s : State) := un (.fneg f t) f t (flipSign t) s
/-- fabs. -/
def execFabs (f : Fmt) (t : Ty) (s : State) := un (.fabs f t) f t (clearSign t) s
/-- fcsign. -/
def execFcsign (f : Fmt) (t : Ty) (s : State) :=
  bin (.fcsign f t) f t (fun a b => clearSign t a + b % 2 ^ tyBits t / signBit t * signBit t) s
/-- fscale (R351). -/
def execFscale (f : Fmt) (t : Ty) (s : State) := fp2 (.fscale f t) f t.words t.words 1 (fscaleV t) s
/-- fgexp. -/
def execFgexp (f : Fmt) (t : Ty) (s : State) := fp1 (.fgexp f t) f 1 t.words (fun _ a => fgexpV t a) s
/-- frnd. -/
def execFrnd (f : Fmt) (t : Ty) (s : State) := fp1 (.frnd f t) f t.words t.words (frndV t) s
/-- fcls. -/
def execFcls (f : Fmt) (t : Ty) (s : State) := unary (.fcls f t) f 1 t.words (fclsV t) s
/-- fcvt (R352, R353). -/
def execFcvt (f : Fmt) (dt st : Ty) (inf : Bool) (s : State) := fp1 (.fcvt f dt st inf) f dt.words st.words (cvtV dt st inf) s
/-- icvt (R352). -/
def execIcvt (f : Fmt) (dt st : Ty) (inf : Bool) (s : State) := fp1 (.icvt f dt st inf) f dt.words st.words (cvtV dt st inf) s

/-- A special function (R172, R173, R354). -/
def spec1 (i : Instr) (f : Fmt) (op : Nat) (s : State) :=
  fp1 i f 1 1 (fun _ a => special op (BitVec.ofNat 32 a)) s

/-- vsin. -/
def execVsin (f : Fmt) (s : State) := spec1 (.vsin f) f 0x080 s
/-- vcos. -/
def execVcos (f : Fmt) (s : State) := spec1 (.vcos f) f 0x081 s
/-- vscs: the sine in D, the cosine in D + 1. -/
def execVscs (f : Fmt) (s : State) :=
  fp1 (.vscs f) f 2 1 (fun _ a =>
    let x := special 0x080 (BitVec.ofNat 32 a) 0x182
    let y := special 0x081 (BitVec.ofNat 32 a) 0x282
    (x.1 + 2 ^ 32 * y.1, x.2 ||| y.2)) s
/-- vex2. -/
def execVex2 (f : Fmt) (s : State) := spec1 (.vex2 f) f 0x083 s
/-- vlg2. -/
def execVlg2 (f : Fmt) (s : State) := spec1 (.vlg2 f) f 0x084 s
/-- vrcp. -/
def execVrcp (f : Fmt) (s : State) := spec1 (.vrcp f) f 0x085 s
/-- vrsq. -/
def execVrsq (f : Fmt) (s : State) := spec1 (.vrsq f) f 0x086 s
/-- vtanh. -/
def execVtanh (f : Fmt) (s : State) := spec1 (.vtanh f) f 0x087 s

end Sys2Proof.Machine
end

