-- ==== Sys2Proof/Machine/Packed.lean ====
section
/-! DEFINITION. Packed arithmetic (R355 to R358, R170, R171). -/

namespace Sys2Proof.Machine

/-- Sub-element k of a packed register (R170). -/
def subOf (t : Ty) (x k : Nat) : Nat := x / 2 ^ (subBits t * k) % 2 ^ subBits t

/-- A packed register from its sub-elements; the bits above are zero (R170). -/
def packOf (t : Ty) (g : Nat → Nat) : Nat :=
  (List.range t.count).foldl (fun r k => r + g k % 2 ^ subBits t * 2 ^ (subBits t * k)) 0

/-- Each sub-element as a scalar, with its own draw (R155, R356), the flags together. -/
def subwise (w : Warp) (p : Option Pre) (l : Nat) (t : Ty) (op : RC → Nat → Nat × Flags) : Nat × Flags :=
  (packOf t (fun k => (op (w.rc p l k) k).1), (List.range t.count).foldl (fun (a : Flags) k => a ||| (op (w.rc p l k) k).2) 0)

/-- A sub-element as an integer or as a value. -/
def subInt (t : Ty) (x k : Nat) : Int := sInt (subBits t) (subOf t x k)
def subVal (t : Ty) (x k : Nat) : FV := if t.isPInt then fvInt (subInt t x k) else fvOf (fpOf t) (subOf t x k)

/-- An integer sub-element saturated or wrapped (R356). -/
def subNarrow (t : Ty) (inf : Bool) (i : Int) : Nat :=
  wrapN (subBits t) (if inf then i else clampInt true (subBits t) i)

/-- padd, psub, pmul and pfma on one sub-element (R356). -/
def subArith (t : Ty) (inf : Bool) (fi : Int) (fe : RC → Ex) (rc : RC) : Nat × Flags :=
  if t.isPInt then (subNarrow t inf fi, 0) else finishOvf (fpOf t) inf rc (fe rc)

/-- A conversion into a sub-element (R358). -/
def subCvt (t : Ty) (inf : Bool) (rc : RC) (v : FV) : Nat × Flags :=
  if t.isPInt then cvtInt true (subBits t) inf rc v else cvtFloat (fpOf t) inf rc v

def packed2 (i : Instr) (f : Fmt) (t : Ty) (op : RC → Nat → Nat → Nat → Nat × Flags) (s : State) :=
  issueOk i f (fun c s => c.wrF s 1 (fun l =>
    subwise c.w f.pre l t (fun rc k => op rc (c.a s 1 l) (c.b s 1 l) k))) s

/-- padd. -/
def execPadd (f : Fmt) (t : Ty) (inf : Bool) (s : State) :=
  packed2 (.padd f t inf) f t (fun rc a b k =>
    subArith t inf (subInt t a k + subInt t b k) (fun rc => exAdd rc.mode (subVal t a k) (subVal t b k)) rc) s
/-- psub. -/
def execPsub (f : Fmt) (t : Ty) (inf : Bool) (s : State) :=
  packed2 (.psub f t inf) f t (fun rc a b k =>
    subArith t inf (subInt t a k - subInt t b k) (fun rc => exAdd rc.mode (subVal t a k) (subVal t b k).neg) rc) s
/-- pmul. -/
def execPmul (f : Fmt) (t : Ty) (inf : Bool) (s : State) :=
  packed2 (.pmul f t inf) f t (fun rc a b k =>
    subArith t inf (subInt t a k * subInt t b k) (fun _ => exMul (subVal t a k) (subVal t b k)) rc) s
/-- pfma. -/
def execPfma (f : Fmt) (t : Ty) (inf : Bool) (s : State) :=
  issueOk (.pfma f t inf) f (fun c s => c.wrF s 1 (fun l =>
    let a := c.a s 1 l
    let b := c.b s 1 l
    let d := c.c s 1 l
    subwise c.w f.pre l t (fun rc k =>
      subArith t inf (subInt t a k * subInt t b k + subInt t d k)
        (fun rc => exFma rc.mode (subVal t a k) (subVal t b k) (subVal t d k)) rc))) s

/-- Minimum or maximum of a sub-element (R356); both NaN in a format without one cannot arise. -/
def subMinMax (t : Ty) (mx : Bool) (a b k : Nat) : Nat × Flags :=
  if t.isPInt then
    let x := subInt t a k
    let y := subInt t b k
    (wrapN (subBits t) (if mx then max x y else min x y), 0)
  else minMaxNum (fpOf t) mx (subOf t a k) (subOf t b k)

/-- pmin. -/
def execPmin (f : Fmt) (t : Ty) (s : State) := packed2 (.pmin f t) f t (fun _ a b k => subMinMax t false a b k) s
/-- pmax. -/
def execPmax (f : Fmt) (t : Ty) (s : State) := packed2 (.pmax f t) f t (fun _ a b k => subMinMax t true a b k) s

/-- What the products of an exact group make of a sum (R168, R169): NaN with or without NV, an infinity, or the finite products. -/
inductive Grp where
  | nan (nv : Bool)
  | inf (neg : Bool)
  | fin
  deriving DecidableEq, Repr

/-- Classify the pairs of factors of a group and C (R168, R169). -/
def grpOf (ps : List (FV × FV)) (c : FV) : Grp :=
  let iz := ps.any (fun p => infZero p.1 p.2)
  let infs := (ps.filter (fun p => (p.1.isInf || p.2.isInf) && !p.1.isNaN && !p.2.isNaN && !infZero p.1 p.2)).map
    (fun p => p.1.sign != p.2.sign)
  let opp := infs.contains true && infs.contains false
  let anyNaN := ps.any (fun p => p.1.isNaN || p.2.isNaN)
  if iz || opp || anyNaN then .nan (iz || opp)
  else
    match infs with
    | n :: _ =>
      match c with
      | .nan _ => .nan false
      | .inf m => if m == n then .inf n else .nan true
      | .fin _ _ _ => .inf n
    | [] =>
      match c with
      | .nan _ => .nan false
      | .inf n => .inf n
      | .fin _ _ _ => .fin

/-- Exact sum of finite values; a zero sum is −0 only when every term is −0 (R168), or by R160 under the mode. -/
def sumFin (mode : Rnd) (vs : List FV) : FV :=
  vs.foldl (fun a v =>
    match a, v with
    | .fin n m e, .fin n' m' e' => addFin mode n m e n' m' e'
    | a, _ => a) (vs.headD (.fin false 0 0) |> fun v => match v with | .fin n _ _ => .fin n 0 0 | v => v)

/-- The exact product of two finite factors. -/
def prodFin (p : FV × FV) : FV := (exMul p.1 p.2).v

/-- The result of a group in a floating-point format (R168): a NaN is canonical, an infinity the largest finite value under .sat. -/
def grpResult (p : FP) (inf : Bool) (rc : RC) (g : Grp) (sum : FV) (ofOnly : Bool) : Nat × Flags :=
  match g with
  | .nan nv => (p.cnan, if nv then fNV else 0)
  | .inf n => (if inf then p.enc n (p.maxC + 1) else p.maxFin n, 0)
  | .fin =>
    match sum with
    | .fin n m e =>
      let (r, fl) := roundFin p inf rc n m e
      (r, if ofOnly then fl &&& fOF else fl)
    | _ => (p.cnan, 0)

/-- pdot on one lane (R357). -/
def pdotV (t : Ty) (inf : Bool) (rc : RC) (a b d : Nat) : Nat × Flags :=
  if t.isPInt then
    let sm := (List.range t.count).foldl (fun (x : Int) k => x + subInt t a k * subInt t b k) (sInt 32 d)
    (wrapN 32 (if inf then sm else clampInt true 32 sm), 0)
  else
    let ps := (List.range t.count).map (fun k => (subVal t a k, subVal t b k))
    let cv := valOf .f32 d
    grpResult (fpOf .f32) inf rc (grpOf ps cv) (sumFin rc.mode (cv :: ps.map prodFin)) false

/-- pdot. -/
def execPdot (f : Fmt) (t : Ty) (inf : Bool) (s : State) := fp3 (.pdot f t inf) f 1 (pdotV t inf) s
/-- pcvt (R358). -/
def execPcvt (f : Fmt) (dt st : Ty) (inf : Bool) (s : State) :=
  issueOk (.pcvt f dt st inf) f (fun c s => c.wrF s 1 (fun l =>
    let a := c.a s 1 l
    subwise c.w f.pre l dt (fun rc k =>
      if dt == st then
        (if (subVal st a k).isNaN && !st.isPInt then ((fpOf st).cnan, 0) else (subOf st a k, 0))
      else subCvt dt inf rc (subVal st a k)))) s
/-- ppack (R358): the draw is that of sub-element POS. -/
def execPpack (f : Fmt) (t : Ty) (pos : BitVec 3) (inf : Bool) (s : State) :=
  issueOk (.ppack f t pos inf) f (fun c s => c.wrF s 1 (fun l =>
    let a := c.a s 1 l
    let b := c.b s 1 l
    let x := subCvt t inf (c.w.rc f.pre l pos.toNat) (if t.isPInt then fvInt (sInt 32 a) else valOf .f32 a)
    (packOf t (fun k => if k = pos.toNat then x.1 else subOf t b k), x.2))) s
/-- punpk (R358). -/
def execPunpk (f : Fmt) (t : Ty) (pos : BitVec 3) (s : State) :=
  fp1 (.punpk f t pos) f 1 1 (fun _ a =>
    if t.isPInt then (wrapN 32 (subInt t a pos.toNat), 0) else cvtFloat (fpOf .f32) true .rne (subVal t a pos.toNat)) s
/-- pabs (R356). -/
def execPabs (f : Fmt) (t : Ty) (inf : Bool) (s : State) :=
  issueOk (.pabs f t inf) f (fun c s => c.wr s 1 (fun l =>
    let a := c.a s 1 l
    packOf t (fun k => if t.isPInt then subNarrow t inf ((subInt t a k).natAbs : Int) else subOf t a k % 2 ^ (subBits t - 1)))) s

end Sys2Proof.Machine
end

