-- ==== Sys2Proof/Machine/Matrix.lean ====
section
/-! DEFINITION. The matrix unit (R401 to R412): operands in registers and in scratchpad, scales, quarter operations on tiles, and the
accumulator moves. Effects are those of the issue (log entry 20); the M counter falls with the event that writes the results. -/

namespace Sys2Proof.Machine

/-- A row of an operand, or why it cannot be read. -/
abbrev Rd (α : Type) := Except Res α × State

def matrixFault (why : Nat) : Res := .fault { cls := 1, code := 0xE, info := why }

/-- An element format of a slot as a type (R152); np elements are integers. -/
def efTy (ef : Nat) : Ty :=
  match ef with
  | 0 => .f32 | 1 => .f64 | 2 => .f16 | 3 => .bf16 | 4 => .e4m3 | 5 => .e5m2 | 6 => .e3m2 | 7 => .e2m3 | 8 => .e2m1
  | 10 => .n8
  | _ => .i8

/-- Quarters that take part (R402). -/
def quarters (nqm : BitVec 4) : List Nat := (List.range 4).filter (fun j => !nqm.getLsbD j)

/-- Lanes of the quarters that take part. -/
def quarterLanes (nqm : BitVec 4) : Mask :=
  (quarters nqm).foldl (fun (m : Mask) j => m ||| BitVec.ofNat 32 (255 * 2 ^ (8 * j))) 0

/-- The matrix operation is outstanding in the M counter (R401); its accesses are known by the count of those before it (R138). -/
def Ctx.countM (c : Ctx) (s : State) : State :=
  c.upd { s with hb := (s.hb.stamp (.unit c.core c.wix)).1 } (fun w => w.addOp { id := 0, kind := .mat, cls := some .m, issued := s.ptb })

/-! ### Scratchpad bytes of an operand -/

/-- Bytes of the warp's scratchpad from an address, as weak reads of one access each (R406). -/
def Ctx.spRead (c : Ctx) (s : State) (n a size : Nat) : Rd (List Byte) :=
  match s.spadAt c.core c.w.gid (a % 2 ^ 32) with
  | some (core, phys) => let (bs, t) := s.loadSp (Acc.weak (.unit c.core c.wix)) core phys n; (.ok bs, t)
  | none => (.error (.fault { cls := 1, code := 6, va := a % 2 ^ 32, info := 1 + 16 * Nat.log2 (min size 64) }), s)

/-- Several reads in turn, joined. -/
def Ctx.spReads (c : Ctx) (n size : Nat) : List Nat → State → Rd (List Byte)
  | [], s => (.ok [], s)
  | a :: t, s =>
    match c.spRead s n a size with
    | (.error r, s1) => (.error r, s1)
    | (.ok bs, s1) =>
      match Ctx.spReads c n size t s1 with
      | (.ok r, s2) => (.ok (bs ++ r), s2)
      | (.error e, s2) => (.error e, s2)

/-- An operand of a quarter operation: its slot, whether it lies in scratchpad, the first register or the base, the pitch word, K and the
rows (columns for B). -/
structure MOpd where
  sl   : Slot
  sp   : Bool
  reg  : Nat
  base : Nat
  pitch : Nat
  k    : Nat
  isB  : Bool
  deriving DecidableEq, Repr

def MOpd.bits (o : MOpd) : Nat := efBits o.sl.ef
/-- Chunk of the rotation (R406). -/
def MOpd.chunk (o : MOpd) : Nat := match fld o.pitch 31 28 with | 1 => 16 | 2 => 32 | 3 => 64 | _ => 0
def MOpd.tp (o : MOpd) : Nat := fld o.pitch 27 16
def MOpd.rp (o : MOpd) : Nat := fld o.pitch 15 0
/-- Start of row r of quarter j, before rotation. -/
def MOpd.row (o : MOpd) (j r : Nat) : Nat := o.base + 64 * o.tp * j + o.rp * r
/-- Start of the line group of row r, for an np operand (R406). -/
def MOpd.line (o : MOpd) (j r : Nat) : Nat := o.base + 64 * o.tp * j + 256 * (r / 8 * o.k / 32)

/-- The integer that n planes of an 8-bit value give (R149). -/
def planesQ (ctr : Bool) (n v : Nat) : Int :=
  let vn := sInt 8 v / (2 ^ (8 - n) : Nat)
  vn * (2 ^ (8 - n) : Nat) + (if ctr && n < 8 then ((2 ^ (7 - n) : Nat) : Int) else 0)

/-- The element codes of row r of quarter j (R405, R406). -/
def Ctx.rowCodes (c : Ctx) (s : State) (o : MOpd) (j r : Nat) : Rd (List Nat) :=
  let b := o.bits
  if !o.sp then
    let nr := o.k * b / 32
    let first := if o.isB then o.reg + r / 8 * nr else o.reg
    let v := c.w.vVal first (8 * j + r % 8) nr
    (.ok ((List.range o.k).map (fun k => fld v (b * k + b - 1) (b * k))), s)
  else if o.sl.ef = 15 then
    let go := (List.range (o.k / 32)).foldl (fun (a : Rd (List (List Byte))) h =>
      match a with
      | (.error e, t) => (.error e, t)
      | (.ok ls, t) =>
        match c.spReads 4 64 ((List.range o.sl.npl).map (fun p => o.line j r + 256 * h + 32 * p + 4 * (r % 8))) t with
        | (.error e, t1) => (.error e, t1)
        | (.ok bs, t1) => (.ok (ls ++ [bs]), t1)) (.ok [], s)
    match go with
    | (.error e, t) => (.error e, t)
    | (.ok ls, t) =>
      (.ok ((List.range o.k).map (fun k =>
        let bs := ls.getD (k / 32) []
        let e := k % 32
        (List.range o.sl.npl).foldl (fun v p => if (bs.getD (4 * p + e / 8) 0).getLsbD (e % 8) then v + 2 ^ (7 - p) else v) 0)), t)
  else
    let n := o.k * b / 8
    let u8 := min 8 n
    match c.spReads u8 n ((List.range (n / u8)).map (fun u => o.row j r + ((u8 * u) ^^^ (r % 8 * o.chunk)))) s with
    | (.error e, t) => (.error e, t)
    | (.ok bs, t) =>
      let v := leVal bs
      (.ok ((List.range o.k).map (fun k => fld v (b * k + b - 1) (b * k))), t)

/-- Blocks of a row (R407). -/
def MOpd.blocks (o : MOpd) : Nat := max 1 (o.k / max 1 o.sl.blk)

/-- The scale code of row r, block β (R407). -/
def Ctx.scaleCode (c : Ctx) (s : State) (o : MOpd) (j low r β : Nat) : Rd Nat :=
  let one (a : Nat) : Rd Nat :=
    match c.spRead s 1 a 1 with
    | (.ok bs, t) => (.ok (leVal bs), t)
    | (.error e, t) => (.error e, t)
  match o.sl.sloc with
  | 0 =>
    let reg := if o.isB then c.f.c.vN + 1 + r / 8 else c.f.c.vN
    let q := if o.isB then low else j
    (.ok (fld (c.w.vGet reg (8 * q + r % 8)) (8 * β + 7) (8 * β)), s)
  | 1 => one (o.row j r + o.k * o.bits / 8 + β)
  | _ =>
    let sb := o.sl.soff + (if o.sl.sf = 4 then 4 else 0)
    let x :=
      if o.sl.ef = 15 then fld (o.line j r % 2 ^ 32) 18 0 + o.k * (r % 8) + β * o.sl.blk
      else fld ((o.row j r + β * o.sl.blk * o.bits / 8) % 2 ^ 32) 18 0
    let b := if o.sl.ef = 15 then 8 else o.bits
    one (sb + x / (max 1 (o.sl.blk * b / 8)))

/-- A block scale as a value (R150). -/
def scaleVal (sf code : Nat) : FV := if sf = 2 then fvOf (fpOf .e4m3) (code % 128) else fvE8m0 code

/-- The per-tensor scale of a slot (R150, R407): 1 without one. -/
def Ctx.tensorScale (c : Ctx) (s : State) (sl : Slot) : Rd FV :=
  if sl.sf = 3 || sl.sf = 4 then
    match c.spRead s 4 sl.soff 4 with
    | (.ok bs, t) => (.ok (fvOf (fpOf .f32) (leVal bs)), t)
    | (.error e, t) => (.error e, t)
  else (.ok (.fin false 1 0), s)

def fvMul (a b : FV) : FV := (exMul a b).v

/-- The element values of a row, scales included (R150, R404). -/
def Ctx.rowVals (c : Ctx) (s : State) (o : MOpd) (ts : FV) (j low r : Nat) : Rd (List FV) :=
  match c.rowCodes s o j r with
  | (.error e, t) => (.error e, t)
  | (.ok codes, t) =>
    let dec (v : Nat) : FV := if o.sl.ef = 15 then fvInt (planesQ o.sl.ctr o.sl.npl v) else valOf (efTy o.sl.ef) v
    if o.sl.sf = 1 || o.sl.sf = 2 || o.sl.sf = 4 then
      let go := (List.range o.blocks).foldl (fun (a : Rd (List FV)) β =>
        match a with
        | (.error e, u) => (.error e, u)
        | (.ok vs, u) =>
          match c.scaleCode u o j low r β with
          | (.error e, u1) => (.error e, u1)
          | (.ok v, u1) => (.ok (vs ++ [scaleVal o.sl.sf v]), u1)) (.ok [], t)
      match go with
      | (.error e, u) => (.error e, u)
      | (.ok scs, u) =>
        (.ok (((List.range o.k).zip codes).map (fun p =>
          fvMul (fvMul (dec p.2) (scs.getD (min (p.1 / max 1 o.sl.blk) (scs.length - 1)) (.nan false))) ts)), u)
    else (.ok (codes.map (fun v => fvMul (dec v) ts)), t)

/-- Rows 0 to n − 1 of quarter j. -/
def Ctx.opdRows (c : Ctx) (o : MOpd) (ts : FV) (j low : Nat) : List Nat → State → Rd (List (List FV))
  | [], s => (.ok [], s)
  | r :: t, s =>
    match c.rowVals s o ts j low r with
    | (.error e, s1) => (.error e, s1)
    | (.ok v, s1) =>
      match Ctx.opdRows c o ts j low t s1 with
      | (.ok vs, s2) => (.ok (v :: vs), s2)
      | (.error e, s2) => (.error e, s2)

/-! ### One output element (R168, R169) -/

/-- The products of a wide group cut to multiples of 2^(E − 48). -/
def truncProds (ps : List FV) : List FV :=
  let nz := ps.filter (fun p => !p.isZero)
  match nz with
  | [] => ps
  | p :: t =>
    let e := t.foldl (fun (m : Int) q => max m q.ilog2) p.ilog2 - 48
    ps.map (fun q =>
      match q with
      | .fin n m x =>
        if m = 0 || e ≤ x then q
        else
          let k := m / 2 ^ (e - x).toNat
          if k = 0 then .fin false 0 0 else .fin n k e
      | v => v)

/-- How a class accumulates. -/
inductive MKind where
  | exact | wide | double | int
  deriving DecidableEq, Repr

/-- D of R168 from the bits of C and the pairs of factors. -/
def mmaElem (k : MKind) (inf : Bool) (ab : List (FV × FV)) (cbits : Nat) : Nat × Flags :=
  match k with
  | .int =>
    let term (p : FV × FV) : Int :=
      match p.1, p.2 with
      | .fin n m e, .fin n' m' e' => let v : Int := ((m * m' * 2 ^ (e + e').toNat : Nat) : Int); if n != n' then -v else v
      | _, _ => 0
    let sm := ab.foldl (fun (x : Int) p => x + term p) (sInt 32 cbits)
    (wrapN 32 (if inf then sm else clampInt true 32 sm), 0)
  | .double =>
    let cv := fvOf (fpOf .f64) cbits
    grpResult (fpOf .f64) inf .rne (grpOf ab cv) (sumFin .rne (cv :: ab.map prodFin)) true
  | _ =>
    let cv := fvOf (fpOf .f32) cbits
    let ps := ab.map prodFin
    grpResult (fpOf .f32) inf .rne (grpOf ab cv) (sumFin .rne (cv :: (if k = .wide then truncProds ps else ps))) true

/-- The class of the operation (R404, R168). -/
def mmaKind (sa sb : Slot) : MKind :=
  match efClass sa.ef with
  | some 1 => .wide
  | some 2 => .double
  | some 3 => if sa.sf = 0 && sb.sf = 0 then .int else .exact
  | _ => .exact

/-- The new words of a tile: word index and value, with the flags (R408, R409). -/
def tileNew (k : MKind) (inf zero : Bool) (n : Nat) (as bs : List (List FV)) (old : Nat → Nat) : List (Nat × Nat) × Flags :=
  ((List.range 8).flatMap (fun i => (List.range n).map (fun q => (i, q)))).foldl (fun (acc : List (Nat × Nat) × Flags) p =>
    let ab := (as.getD p.1 []).zip (bs.getD p.2 [])
    if k = .double then
      let w := 2 * (8 * p.1 + p.2)
      let (v, fl) := mmaElem k inf ab (if zero then 2 ^ 63 else old w + 2 ^ 32 * old (w + 1))
      (acc.1 ++ [(w, v % 2 ^ 32), (w + 1, v / 2 ^ 32)], acc.2 ||| fl)
    else
      let w := 16 * p.1 + p.2
      let (v, fl) := mmaElem k inf ab (if zero then (if k = .int then 0 else 2 ^ 31) else old w)
      (acc.1 ++ [(w, v)], acc.2 ||| fl)) ([], 0)

/-! ### Tiles -/

/-- A tile in scratchpad: where it lies, or the fault of R409. -/
def Ctx.tileAt (c : Ctx) (s : State) (a : Nat) : Except Res (Nat × Nat) :=
  let range : Res := .fault { cls := 1, code := 6, va := a, info := 1 + 16 * 6 }
  match s.spadAt c.core c.w.gid (a % 2 ^ 32), s.spadAt c.core c.w.gid ((a + 511) % 2 ^ 32) with
  | some (core, phys), some (_, p2) => if p2 = phys + 511 then .ok (core, phys) else .error range
  | _, _ => .error range

/-- The places of the scratchpad tiles of the quarters, from a tile address (R409). -/
def Ctx.tilesAt (c : Ctx) (s : State) (a : Nat) : List Nat → Except Res (List (Nat × Nat × Nat))
  | [] => if a % 64 = 0 then .ok [] else .error (.fault { cls := 1, code := 5, va := a, info := 1 + 16 * 6 })
  | j :: t =>
    if a % 64 != 0 then .error (.fault { cls := 1, code := 5, va := a, info := 1 + 16 * 6 })
    else
      match c.tileAt s (a + 512 * j) with
      | .error r => .error r
      | .ok p =>
        match Ctx.tilesAt c s a t with
        | .ok ps => .ok ((j, p) :: ps)
        | .error r => .error r

/-- How the matrix unit accesses a tile in scratchpad (R411). -/
def tileAcc (c : Ctx) (strong : Bool) : Acc := { who := .unit c.core c.wix, strong := strong, sc := .cl }

/-- The 128 words of a tile of the warp. -/
def Warp.tileWord (w : Warp) (t k : Nat) : Nat := (w.acc.get (128 * t + k)).toNat
def Warp.setTile (w : Warp) (t : Nat) (ws : List (Nat × Nat)) : Warp :=
  { w with acc := ws.foldl (fun (m : SMap 32) p => m.set (128 * t + p.1) (BitVec.ofNat 32 p.2)) w.acc }

/-- Words of 512 bytes. -/
def wordsOf (bs : List Byte) (k : Nat) : Nat := leVal ((bs.drop (4 * k)).take 4)

/-! ### mma and mmaz -/

/-- The matrix faults of step 12, in the order of their reasons (R402 to R407). -/
def Ctx.mmaFault (c : Ctx) (m : MmaMods) (a b : MOpd) : Option Res :=
  let need (o : MOpd) : Bool := (o.sl.sf = 1 || o.sl.sf = 2 || o.sl.sf = 4)
  let c0 := (need a && a.sl.sloc = 0) || (need b && b.sl.sloc = 0)
  let hasC := c.f.c != .zero
  let anyV := !m.asp || !m.bsp || hasC
  let ql := quarterLanes m.nqm
  let badLoc (o : MOpd) : Bool := need o && o.sl.sloc != 0 && (!o.sp || (o.sl.sloc = 1 && o.sl.ef = 15))
  let badPitch (o : MOpd) : Bool :=
    o.sp && (4 ≤ fld o.pitch 31 28 || o.rp % 8 != 0
      || (if o.sl.ef = 15 then o.base % 256 != 0 || o.rp != 0 || fld o.pitch 31 28 != 0 else o.base % 8 != 0))
  if anyV && c.active &&& ql != ql then some (matrixFault 1)
  else if (a.sl.ef = 15 && !a.sp) || (b.sl.ef = 15 && !b.sp) then some (matrixFault 3)
  else if badLoc a || badLoc b || c0 != hasC then some (matrixFault 4)
  else if badPitch a || badPitch b then some (matrixFault 5)
  else none

/-- The first operand or scale byte of mma that lies outside the allocation: an address fault of step 11, which comes before the matrix faults of
step 12 (R466). A slot of no class gives the operand no extent, and so no address to check. -/
def Ctx.mmaRange (c : Ctx) (s : State) (a b : MOpd) (n low : Nat) (qs : List Nat) : Option Res :=
  let err {α : Type} (r : Rd α) : Option Res := match r.1 with | .error e => some e | .ok _ => none
  let row (o : MOpd) (j r : Nat) : Option Res :=
    if !o.sp then none
    else if o.sl.sloc = 1 && o.sl.ef = 15 then err (c.rowCodes s o j r)
    else err (c.rowVals s o (.fin false 1 0) j low r)
  (err (c.tensorScale s a.sl)).or ((err (c.tensorScale s b.sl)).or (qs.findSome? (fun j =>
    ((List.range 8).findSome? (row a j)).or ((List.range n).findSome? (row b j)))))

/-- A quarter of mma: its tile before, the operands, and the tile after. -/
def Ctx.mmaQuarter (c : Ctx) (k : MKind) (inf zero : Bool) (n : Nat) (a b : MOpd) (ta tb : FV) (j low : Nat) (t : State) :
    Rd (List (List FV) × List (List FV)) :=
  let _ := (k, inf, zero)
  match c.opdRows a ta j low (List.range 8) t with
  | (.error e, u) => (.error e, u)
  | (.ok as, u) =>
    match c.opdRows b tb j (if b.sp && b.tp = 0 then low else j) (List.range n) u with
    | (.error e, v) => (.error e, v)
    | (.ok bs, v) => (.ok (as, bs), v)

/-- Every quarter's operands are read before any tile is written. -/
def Ctx.mmaReads (c : Ctx) (k : MKind) (inf zero : Bool) (n : Nat) (a b : MOpd) (ta tb : FV) (low : Nat) :
    List Nat → State → Rd (List (Nat × List (List FV) × List (List FV)))
  | [], t => (.ok [], t)
  | j :: rest, t =>
    match c.mmaQuarter k inf zero n a b ta tb j low t with
    | (.error e, u) => (.error e, u)
    | (.ok x, u) =>
      match Ctx.mmaReads c k inf zero n a b ta tb low rest u with
      | (.error e, v) => (.error e, v)
      | (.ok xs, v) => (.ok ((j, x) :: xs), v)

/-- The quarter-operations of an issue are in progress until the unit is free again (R413). t: the machine after the issue. -/
def Ctx.mxBusy (c : Ctx) (s t : State) : State :=
  let n := (s.slice c.core c.slice).busy.getD 6 0
  t.updSlice c.core c.slice (fun x => { x with mxUse := n })

/-- mma and mmaz (R403 to R411); s0: the state a held path leaves. -/
def Ctx.mma (c : Ctx) (s0 s : State) (m : MmaMods) (zero : Bool) : Res :=
  let g := s.group c.core c.w.gid
  let sa := g.slot m.sla.toNat
  let sb := g.slot m.slb.toNat
  let opd (o : Opd) (isB sp : Bool) (sl : Slot) (pw k : Nat) : MOpd :=
    ⟨sl, sp, o.vN, c.src s o 1 c.low, if sp then c.w.wGet pw else 0, k, isB⟩
  let qs := quarters m.nqm
  let low := qs.headD 0
  if (s0.slice c.core c.slice).mx != .warm then .hold (s0.updSlice c.core c.slice Slice.wake)
  else
    let tiles := if m.dsp then c.tilesAt s (c.src s c.f.d 1 c.low) qs else .ok []
    match tiles, mmaShape sa sb with
    | .error r, _ => r
    | _, none => matrixFault 2
    | .ok sp, some (k, n) =>
      let a := opd c.f.a false m.asp sa m.apw.toNat k
      let b := opd c.f.b true m.bsp sb m.bpw.toNat k
      match c.mmaFault m a b with
      | some r => (c.mmaRange s a b n low qs).getD r
      | none =>
        match c.tensorScale s sa with
        | (.error e, _) => e
        | (.ok ta, s1) =>
          match c.tensorScale s1 sb with
          | (.error e, _) => e
          | (.ok tb, s2) =>
            let kind := mmaKind sa sb
            match c.mmaReads kind m.inf zero n a b ta tb low qs s2 with
            | (.error e, _) => e
            | (.ok rows, s3) =>
              let (s4, fl) := rows.foldl (fun (acc : State × Flags) x =>
                let t := acc.1
                match sp.find? (fun p => p.1 == x.1) with
                | some (_, core, phys) =>
                  let (bs, t1) := t.loadSp (tileAcc c true) core phys 512
                  let (ws, f) := tileNew kind m.inf zero n x.2.1 x.2.2 (wordsOf bs)
                  let nb := (List.range 128).flatMap (fun i => leBytes 4 (((ws.find? (fun p => p.1 == i)).map Prod.snd).getD (wordsOf bs i)))
                  (t1.storeSp (tileAcc c true) core phys (nb.map some) true, acc.2 ||| f)
                | none =>
                  let tl := c.f.d.tileN + x.1
                  let w := t.warp c.core c.wix
                  let (ws, f) := tileNew kind m.inf zero n x.2.1 x.2.2 (w.tileWord tl)
                  (c.upd t (fun w => w.setTile tl ws), acc.2 ||| f)) (s3, 0)
              .ok (c.mxBusy s (c.countM (c.flags s4 fl)))

/-- mma (R403). -/
def execMma (f : Fmt) (m : MmaMods) (s : State) := issue (.mma f m) f (fun c t => c.mma s t m false) s
/-- mmaz (R403). -/
def execMmaz (f : Fmt) (m : MmaMods) (s : State) := issue (.mmaz f m) f (fun c t => c.mma s t m true) s

/-! ### Accumulator moves (R412) -/

/-- accz. -/
def execAccz (f : Fmt) (nqm : BitVec 4) (s : State) :=
  issueOk (.accz f nqm) f (fun c t =>
    c.countM ((quarters nqm).foldl (fun (u : State) j =>
      c.upd u (fun w => w.setTile (f.d.tileN + j) ((List.range 128).map (fun k => (k, 0))))) t)) s

/-- A move between tiles and registers needs every lane of its quarters (R402). -/
def Ctx.lanesMissing (c : Ctx) (nqm : BitVec 4) : Bool := c.active &&& quarterLanes nqm != quarterLanes nqm

/-- accld. -/
def execAccld (f : Fmt) (nqm : BitVec 4) (ssp : Bool) (s : State) :=
  issue (.accld f nqm ssp) f (fun c t =>
    if ssp then
      match c.tilesAt t (c.a t 1 c.low) (quarters nqm) with
      | .error r => r
      | .ok ps =>
        .ok (c.countM (ps.foldl (fun (u : State) p =>
          let (bs, u1) := u.loadSp (tileAcc c false) p.2.1 p.2.2 512
          c.upd u1 (fun w => w.setTile (f.d.tileN + p.1) ((List.range 128).map (fun k => (k, wordsOf bs k))))) t))
    else if c.lanesMissing nqm then matrixFault 1
    else
      .ok (c.countM ((quarters nqm).foldl (fun (u : State) j =>
        c.upd u (fun w => w.setTile (f.d.tileN + j)
          ((List.range 128).map (fun k => (k, c.w.vGet (f.a.vN + k % 16) (8 * j + k / 16)))))) t))) s

/-- accst. -/
def execAccst (f : Fmt) (nqm : BitVec 4) (ssp : Bool) (s : State) :=
  issue (.accst f nqm ssp) f (fun c t =>
    if ssp then
      match c.tilesAt t (c.src t f.d 1 c.low) (quarters nqm) with
      | .error r => r
      | .ok ps =>
        .ok (c.countM (ps.foldl (fun (u : State) p =>
          u.storeSp (tileAcc c false) p.2.1 p.2.2
            (((List.range 128).flatMap (fun k => leBytes 4 (c.w.tileWord (f.a.tileN + p.1) k))).map some)) t))
    else if c.lanesMissing nqm then matrixFault 1
    else
      .ok (c.countM ((quarters nqm).foldl (fun (u : State) j =>
        c.upd u (fun w => (List.range 128).foldl (fun (w : Warp) k =>
          w.vSet (f.d.vN + k % 16) (8 * j + k / 16) (c.w.tileWord (f.a.tileN + j) k)) w)) t))) s

end Sys2Proof.Machine
end

