-- ==== Sys2Proof/Machine/Convert.lean ====
section
/-! DEFINITION. Block quantisation, nested planes and selection (R414 to R419). -/

namespace Sys2Proof.Machine

/-- A slot that qpack and rqnt accept (R415), and one that qunpk accepts (R416). -/
def Slot.packs (sl : Slot) : Bool := ((4 ≤ sl.ef && sl.ef ≤ 9) || sl.ef = 15) && (sl.sf = 1 || sl.sf = 2 || sl.sf = 4)
def Slot.unpacks (sl : Slot) : Bool := (4 ≤ sl.ef && sl.ef ≤ 9) || sl.ef = 15

/-- The elements of a block that lie in ACTIVE lanes, as register and lane (R414): element e is in register e / 32, lane e mod 32. -/
def blockElems (active : Mask) (blk β : Nat) : List (Nat × Nat) :=
  ((List.range blk).map (fun i => ((β * blk + i) / 32, (β * blk + i) % 32))).filter (fun p => active.getLsbD p.2)

/-- emax and the largest finite element value of a format (R163). -/
def efEmax (ef : Nat) : Int :=
  match ef with | 4 => 8 | 5 => 15 | 6 => 4 | 7 => 2 | 8 => 2 | _ => 6
def efMax (ef : Nat) : FV := if ef = 9 || ef = 15 then fvInt 127 else fvOf (fpOf (efTy ef)) (fpOf (efTy ef)).maxC

def FV.abs : FV → FV
  | .fin _ m e => .fin false m e
  | .inf _ => .inf false
  | v => v

/-- Largest of some magnitudes; zero for none. -/
def fvMax (vs : List FV) : FV := vs.foldl (fun (a : FV) v => if FV.cmp a v == .lt then v else a) (.fin false 0 0)

/-- The largest finite f32 value. -/
def f32Max : FV := fvOf (fpOf .f32) 0x7F7FFFFF

/-- The block is encoded as R164 encodes one that holds a NaN. -/
def nanBlock (sl : Slot) (inf : Bool) (vs : List FV) : Bool := vs.any FV.isNaN || (vs.any FV.isInf && inf && sl.ef != 5)

/-- The scale code chosen for a block from its element values with the per-tensor scale ts divided out (R163, R164); none: the block is
encoded as one that holds a NaN. The f32 value that an infinity counts as is divided too (DEDUCED, log entry 48). -/
def chooseScale (sl : Slot) (inf : Bool) (ts : FV) (vs : List FV) : Option Nat :=
  if nanBlock sl inf vs then none
  else
    let mags := vs.filterMap (fun v => if v.isInf then (if inf then none else some (exDiv f32Max ts).v.abs) else some v.abs)
    let amax := fvMax mags
    if amax.isZero then some (if sl.sf = 2 then 0x38 else 127)
    else if sl.sf = 2 then some (cvtFloat (fpOf .e4m3) false .rne (exDiv amax (efMax sl.ef)).v).1
    else some ((max 0 (min 254 (amax.ilog2 - efEmax sl.ef + 127))).toNat)

/-- The code that stands for a NaN scale (R164). -/
def nanScale (sl : Slot) : Nat := if sl.sf = 2 then 0x7F else 0xFF

/-- One element under a scale (R163, R164, R165): x divided by the scale, rounded once. An infinity has the sign of the quotient and R158's
flags; in an integer format it is the largest or smallest value of R158. -/
def encElem (sl : Slot) (inf : Bool) (rc : RC) (x scale : FV) : Nat × Flags :=
  if scale.isZero then (0, 0)
  else
    match x with
    | .inf n =>
      let neg := n != scale.sign
      if sl.ef = 9 || sl.ef = 15 then (wrapN 8 (if neg then -128 else 127), fNV)
      else
        let p := fpOf (efTy sl.ef)
        if inf && p.hasInf then (p.enc neg (p.maxC + 1), 0) else (p.maxFin neg, 0)
    | _ =>
      let q := (exDiv x scale).v
      if sl.ef = 9 || sl.ef = 15 then cvtInt true 8 inf rc q else cvtFloat (fpOf (efTy sl.ef)) inf rc q

/-- A per-tensor scale that can be divided out (R163). -/
def FV.divides (v : FV) : Bool := match v with | .fin _ m _ => m != 0 | _ => false

/-- Writes of a block: register, lane and SE word, with flags. given: the scale code to use, or none to choose one. Log entry 61. -/
def encBlock (c : Ctx) (sl : Slot) (inf : Bool) (ts : FV) (given : Option Nat) (es : List ((Nat × Nat) × FV)) :
    List ((Nat × Nat) × Nat) × Flags :=
  let divided := es.map (fun p => match p.2 with | .inf n => FV.inf n | v => (exDiv v ts).v)
  let code := if !ts.divides then none else
    match given with
    | some k => if (scaleVal sl.sf k).isNaN || nanBlock sl inf divided then none else some k
    | none => chooseScale sl inf ts divided
  match code with
  | none => (es.map (fun p => (p.1, nanScale sl * 2 ^ 8)), fNV)
  | some k =>
    let scale := fvMul (scaleVal sl.sf k) ts
    es.foldl (fun (a : List ((Nat × Nat) × Nat) × Flags) p =>
      let (v, fl) := encElem sl inf (c.w.rc c.f.pre p.1.2 p.1.1) p.2 scale
      (a.1 ++ [(p.1, k * 2 ^ 8 + v % 2 ^ (min 8 (efBits sl.ef)) )], a.2 ||| fl)) ([], 0)

/-- Store the words of every block. -/
def Ctx.putBlocks (c : Ctx) (s : State) (out : List (List ((Nat × Nat) × Nat) × Flags)) : State :=
  let s1 := c.upd s (fun w => out.foldl (fun (w : Warp) b =>
    b.1.foldl (fun (w : Warp) p => w.vSet (c.f.d.vN + p.1.1) p.1.2 p.2) w) w)
  c.countM (c.flags s1 (out.foldl (fun (a : Flags) b => a ||| b.2) 0))

/-- Blocks of the registers that a slot spans. -/
def Slot.nblocks (sl : Slot) : Nat := max 1 (32 * sl.regs / max 1 sl.blk)

/-- qpack (R415). -/
def execQpack (f : Fmt) (inf : Bool) (sl : BitVec 3) (s : State) :=
  issue (.qpack f inf sl) f (fun c t =>
    let q := (t.group c.core c.w.gid).slot sl.toNat
    if !q.packs then matrixFault 7
    else
      match c.tensorScale t q with
      | (.error e, _) => e
      | (.ok ts, t1) =>
        .ok (c.putBlocks t1 ((List.range q.nblocks).filterMap (fun β =>
          let es := blockElems c.active q.blk β
          if es.isEmpty then none
          else some (encBlock c q inf ts none (es.map (fun p => (p, fvOf (fpOf .f32) (c.w.vGet (f.a.vN + p.1) p.2)))))))) ) s

/-- The value of an SE word under a slot (R150, R414). Log entry 61. -/
def seVal (sl : Slot) (ts : FV) (w : Nat) : FV :=
  let x := valOf (efTy sl.ef) (w % 2 ^ efBits' sl.ef)
  let y := if sl.sf = 1 || sl.sf = 2 || sl.sf = 4 then fvMul x (scaleVal sl.sf (fld w 15 8)) else x
  fvMul y ts
where
  /-- Bits of an element code: FP6 codes take six. -/
  efBits' (ef : Nat) : Nat := match ef with | 6 | 7 => 6 | 8 => 4 | _ => 8

/-- qunpk (R416). -/
def execQunpk (f : Fmt) (inf : Bool) (sl : BitVec 3) (s : State) :=
  issue (.qunpk f inf sl) f (fun c t =>
    let q := (t.group c.core c.w.gid).slot sl.toNat
    if !q.unpacks then matrixFault 7
    else
      match c.tensorScale t q with
      | (.error e, _) => e
      | (.ok ts, t1) =>
        let out := (List.range q.regs).flatMap (fun r => (maskLanes c.active).map (fun l =>
          let (v, fl) := cvtFloat (fpOf .f32) inf (c.w.rc f.pre l r) (seVal q ts (c.w.vGet (f.a.vN + r) l))
          ((r, l), v, fl)))
        let t2 := c.upd t1 (fun w => out.foldl (fun (w : Warp) p => w.vSet (f.d.vN + p.1.1) p.1.2 p.2.1) w)
        .ok (c.countM (c.flags t2 (out.foldl (fun (a : Flags) p => a ||| p.2.2) 0)))) s

/-- rqnt (R417). -/
def execRqnt (f : Fmt) (inf : Bool) (sl sls : BitVec 3) (s : State) :=
  issue (.rqnt f inf sl sls) f (fun c t =>
    let g := t.group c.core c.w.gid
    let q := g.slot sl.toNat
    let p := g.slot sls.toNat
    if !q.packs || !p.packs || q.blk != p.blk then matrixFault 7
    else
      match c.tensorScale t q with
      | (.error e, _) => e
      | (.ok ts, t1) =>
        match c.tensorScale t1 p with
        | (.error e, _) => e
        | (.ok tp, t2) =>
          .ok (c.putBlocks t2 ((List.range q.nblocks).filterMap (fun β =>
            let es := blockElems c.active q.blk β
            match es.foldl (fun (m : Option Nat) e => some (match m with | none => e.2 | some x => min x e.2)) none with
            | none => none
            | some low =>
              let given := match f.b with | .v r => some (fld (c.w.vGet r low) 15 8) | _ => none
              some (encBlock c q inf ts given (es.map (fun e => (e, seVal p tp (c.w.vGet (f.a.vN + e.1) e.2)))))))) ) s

/-- plsplit (R418). -/
def execPlsplit (f : Fmt) (s : State) :=
  issue (.plsplit f) f (fun c t =>
    if c.active != BitVec.allOnes 32 then matrixFault 6
    else
      let bit (h l b : Nat) : Bool :=
        let byte := 4 * (32 * h + l) + b / 8
        let p := byte / 32
        let e := 8 * (byte % 32) + b % 8
        (c.w.vGet (f.a.vN + e / 32) (e % 32)).testBit (7 - p)
      .ok (c.countM (c.wr t 2 (fun l =>
        (List.range 2).foldl (fun v h => (List.range 32).foldl (fun v b => if bit h l b then v + 2 ^ (32 * h + b) else v) v) 0)))) s

/-- plmrg (R418). -/
def execPlmrg (f : Fmt) (sl : BitVec 3) (s : State) :=
  issue (.plmrg f sl) f (fun c t =>
    let q := (t.group c.core c.w.gid).slot sl.toNat
    if c.active != BitVec.allOnes 32 then matrixFault 6
    else if q.ef != 15 then matrixFault 7
    else
      let plane (e p : Nat) : Bool :=
        let byte := 32 * p + e / 8
        (c.w.vGet (f.a.vN + byte / 128) (byte % 128 / 4)).testBit (8 * (byte % 4) + e % 8)
      let val (e : Nat) : Nat := (List.range q.npl).foldl (fun v p => if plane e p then v + 2 ^ (7 - p) else v) 0
      .ok (c.countM (c.wr t 8 (fun l =>
        (List.range 8).foldl (fun v r => v + wrapN 32 (planesQ q.ctr q.npl (val (32 * r + l))) * 2 ^ (32 * r)) 0)))) s

/-- The key of R419. -/
def topkKey (t : Ty) (a : Nat) : Nat :=
  if t == .f32 then (if (fvOf (fpOf .f32) a).isNaN then 2 ^ 32 else a % 2 ^ 31) else (sInt 32 a).natAbs

/-- topk (R419). -/
def execTopk (f : Fmt) (ty : Ty) (pp : Option (BitVec 4)) (s : State) :=
  issueOk (.topk f ty pp) f (fun c t =>
    let k := c.b t 1 c.low
    let ls := maskLanes c.active
    let key (l : Nat) : Nat := topkKey ty (c.a t 1 l)
    let sel (l : Nat) : Bool :=
      (ls.filter (fun m => key l < key m || (key m == key l && m < l))).length < k
    let t1 := c.wr t 2 (fun l => if sel l then c.a t 1 l else 2 ^ 32 * c.a t 1 l)
    let t2 := match pp with
      | some p => c.upd t1 (fun w => w.pPut p.toNat c.active (maskOf sel))
      | none => t1
    c.countM t2) s

end Sys2Proof.Machine
end

