-- ==== Sys2Proof/Machine/Lane.lean ====
section
/-! DEFINITION. Cross-lane and random instructions (R359 to R364). -/

namespace Sys2Proof.Machine

/-- Lanes of a segment (R359). -/
def segLen (seg : BitVec 3) : Nat := 32 / 2 ^ seg.toNat

/-- The source lane of lshf within a segment (R360); none when the lane keeps its own value. -/
def shufLane (m : SMode) (sl l b : Nat) : Option Nat :=
  let base := l - l % sl
  let i := l % sl
  match m with
  | .xor => if i ^^^ b < sl then some (base + (i ^^^ b)) else none
  | .up => if b ≤ i then some (base + (i - b)) else none
  | .down => if i + b < sl then some (base + (i + b)) else none
  | .idx => some (base + b % sl)

/-- lshf (R360). -/
def execLshf (f : Fmt) (t : Ty) (m : SMode) (seg : BitVec 3) (s : State) :=
  issueOk (.lshf f t m seg) f (fun c s =>
    c.wr s t.words (fun l =>
      match shufLane m (segLen seg) l (c.b s 1 l) with
      | some j => c.a s t.words (if c.active.getLsbD j then j else l)
      | none => c.a s t.words l)) s

/-- Identity of an operation (R359). -/
def ROp.identity (o : ROp) (t : Ty) : Nat :=
  match o with
  | .add | .or | .xor => 0
  | .min => if t == .i32 then 0x7FFFFFFF else 0xFFFFFFFF
  | .max => if t == .i32 then 0x80000000 else 0
  | .and => 0xFFFFFFFF
  | .fadd => 0x80000000
  | .fmin | .fmax => 0x7FC00000

/-- One operation of a reduction or scan (R359). -/
def ROp.apply (o : ROp) (t : Ty) (rc : RC) (x y : Nat) : Nat × Flags :=
  match o with
  | .add => ((x + y) % 2 ^ 32, 0)
  | .min => (narrow t false (min (rdTy t x) (rdTy t y)), 0)
  | .max => (narrow t false (max (rdTy t x) (rdTy t y)), 0)
  | .and => (x &&& y, 0)
  | .or => (x ||| y, 0)
  | .xor => (x ^^^ y, 0)
  | .fadd => finish (fpOf .f32) rc (exAdd rc.mode (valOf .f32 x) (valOf .f32 y))
  | .fmin => minMaxNum (fpOf .f32) false x y
  | .fmax => minMaxNum (fpOf .f32) true x y

/-- Steps k, k + 1, ... of a reduction or scan over the 32 lanes: op gives the new value of lane l at step k. Flags are those of the
ACTIVE lanes (R167). -/
def steps (act : Mask) (op : Nat → List Nat → Nat → Nat × Flags) : Nat → Nat → List Nat → Flags → List Nat × Flags
  | 0, _, x, fl => (x, fl)
  | n + 1, k, x, fl =>
    let y := lanes.map (op k x)
    steps act op n (k + 1) (y.map Prod.fst) ((maskLanes act).foldl (fun (a : Flags) l => a ||| (y.getD l (0, 0)).2) fl)

/-- log2 of the segment length. -/
def segSteps (seg : BitVec 3) : Nat := 5 - seg.toNat

/-- The start of a reduction: the operand in ACTIVE, the identity elsewhere. -/
def Ctx.start (c : Ctx) (s : State) (o : Sys2Proof.ROp) (t : Ty) : List Nat :=
  (List.range 32).map (fun l => if c.active.getLsbD l then c.a s 1 l else ROp.identity o t)

/-- lred (R361). Under SR a step draws for the lowest lane of the block it combines, so that partner lanes agree (log entry 39). -/
def execLred (f : Fmt) (t : Ty) (o : Sys2Proof.ROp) (seg : BitVec 3) (s : State) :=
  issueOk (.lred f t o seg) f (fun c s =>
    let (x, fl) := steps c.active (fun k x l =>
      ROp.apply o t (c.w.rc f.pre (l - l % 2 ^ (k + 1)) 0) (x.getD l 0) (x.getD (l ^^^ 2 ^ k) 0)) (segSteps seg) 0 (c.start s o t) 0
    c.flags (c.wr s 1 (fun l => x.getD l 0)) fl) s

/-- lscan (R362). -/
def execLscan (f : Fmt) (t : Ty) (o : Sys2Proof.ROp) (seg : BitVec 3) (exc : Bool) (s : State) :=
  issueOk (.lscan f t o seg exc) f (fun c s =>
    let sl := segLen seg
    let (x, fl) := steps c.active (fun k x l =>
      if 2 ^ k ≤ l % sl then ROp.apply o t (c.w.rc f.pre l 0) (x.getD (l - 2 ^ k) 0) (x.getD l 0) else (x.getD l 0, 0))
      (segSteps seg) 0 (c.start s o t) 0
    c.flags (c.wr s 1 (fun l => if !exc then x.getD l 0 else if l % sl = 0 then ROp.identity o t else x.getD (l - 1) 0)) fl) s

/-- lbc (R363): the full bit of A is tested in the source lane as well; a finished source lane gives an undefined value. The record of an A that
is empty in that lane names it as LANE, ACTIVE or not (R465 knows only ACTIVE lanes; DESIGN CHOICE, log entry 104). -/
def execLbc (f : Fmt) (t : Ty) (s : State) :=
  issue (.lbc f t) f (fun c u =>
    let src := c.b u 1 c.low % 32
    let emp := c.w.emptyIn (BitVec.ofNat 32 (2 ^ src)) (0, f.a.vN, t.words)
    if emp != 0 then (if f.ta then .fault { cls := 1, code := 3, lane := some src, info := 1 } else .hold s)
    else if c.w.fin.getLsbD src then
      let u1 := c.wr u t.words (fun l => (Config.freeWord (u.fresh + 2 * l)).toNat + 2 ^ 32 * (Config.freeWord (u.fresh + 2 * l + 1)).toNat)
      .ok { u1 with fresh := u1.fresh + 64 }
    else .ok (c.wr u t.words (fun _ => c.a u t.words src))) s

/-- vhash (R174, R364). -/
def execVhash (f : Fmt) (s : State) :=
  issueOk (.vhash f) f (fun c s => c.wr s 2 (fun l => (elemHash (BitVec.ofNat 64 (c.a s 2 l)) c.w.seed).toNat)) s
/-- vdrop (R174, R364). -/
def execVdrop (f : Fmt) (s : State) :=
  issueOk (.vdrop f) f (fun c s =>
    c.wr s 1 (fun l =>
      let h := (elemHash (BitVec.ofNat 64 (c.b s 2 l)) c.w.seed).toNat
      if h / 2 ^ 48 < c.c s 1 l % 65536 then 0 else c.a s 1 l)) s

end Sys2Proof.Machine
end

