-- ==== Sys2Proof/Machine/Predicate.lean ====
section
/-! DEFINITION. Predicate instructions (R336 to R340). -/

namespace Sys2Proof.Machine

/-- pset compares as integers by type (R337). -/
def ICmp.holds (k : ICmp) (a b : Int) : Bool :=
  match k with
  | .eq => a == b | .ne => a != b | .lt => a < b | .le => a ≤ b | .gt => b < a | .ge => b ≤ a

/-- psetf compares values (R336, R337): the result, and NV for an ordered comparison with a NaN. -/
def FCmp.holds (k : FCmp) (a b : FV) : Bool × Flags :=
  let nan := a.isNaN || b.isNaN
  let o := a.cmp b
  let nv : Flags := if nan then fNV else 0
  match k with
  | .eq => (!nan && o == .eq, 0)
  | .ne => (nan || o != .eq, 0)
  | .lt => (!nan && o == .lt, nv)
  | .le => (!nan && o != .gt, nv)
  | .gt => (!nan && o == .gt, nv)
  | .ge => (!nan && o != .lt, nv)
  | .un => (nan, 0)
  | .num => (!nan, 0)

/-- pset (R337). -/
def execPset (f : Fmt) (k : Sys2Proof.ICmp) (t : Ty) (s : State) :=
  issueOk (.pset f k t) f (fun c s =>
    let rd (n : Nat) : Int := rdInt (tySgn t) (tyBits t) n
    c.wrP s f.d.predN (fun l => ICmp.holds k (rd (c.a s t.words l)) (rd (c.b s t.words l)))) s

/-- psetf (R337). -/
def execPsetf (f : Fmt) (k : Sys2Proof.FCmp) (t : Ty) (s : State) :=
  issueOk (.psetf f k t) f (fun c s =>
    let one (l : Nat) : Bool × Flags := FCmp.holds k (valOf t (c.a s t.words l)) (valOf t (c.b s t.words l))
    c.flags (c.wrP s f.d.predN (fun l => (one l).1)) (c.runs.foldl (fun (a : Flags) l => a ||| (one l).2) 0)) s

/-- plog (R338). -/
def execPlog (f : Fmt) (lut : Byte) (s : State) :=
  issueOk (.plog f lut) f (fun c s =>
    let p (o : Opd) (l : Nat) : Nat := if c.w.pGet o.predN l then 1 else 0
    c.wrP s f.d.predN (fun l => lut.getLsbD (4 * p f.a l + 2 * p f.b l + p f.c l))) s

/-- pmov.get (R339). -/
def execPmovGet (f : Fmt) (s : State) :=
  issueOk (.pmovGet f) f (fun c s =>
    c.wr s 1 (fun l => (List.range 16).foldl (fun a k => if c.w.pGet k l then a + 2 ^ k else a) 0)) s

/-- pmov.put (R339). -/
def execPmovPut (f : Fmt) (s : State) :=
  issueOk (.pmovPut f) f (fun c s =>
    c.upd s (fun w => (List.range 16).foldl (fun (w : Warp) k =>
      let sel := maskOf (fun l => c.active.getLsbD l && (c.b s 1 l).testBit k)
      w.pPut k sel (maskOf (fun l => (c.a s 1 l).testBit k))) w)) s

/-- vote (R340). -/
def execVote (f : Fmt) (op : VOp) (s : State) :=
  issueOk (.vote f op) f (fun c s =>
    let m := c.active &&& c.w.pMask f.a.predN
    match op with
    | .ballot => c.wr s 1 (fun _ => m.toNat)
    | .any => c.wrP s f.d.predN (fun _ => m != 0)
    | .all => c.wrP s f.d.predN (fun _ => m == c.active)
    | .eq => c.wrP s f.d.predN (fun _ => m == 0 || m == c.active)) s

end Sys2Proof.Machine
end

