-- ==== Sys2Proof/Machine/Dispatch.lean ====
section
/-! DEFINITION. The meaning of each instruction, one arm for each constructor of Instr. -/

namespace Sys2Proof.Machine

def exec (i : Instr) (s : State) : Host.Outcome State Fault Refusal :=
  match i with
  | .packageReset => Sys2Proof.Machine.execPackageReset s
  | .dpst rd rs1 rs2 => Sys2Proof.Machine.execDpst rd rs1 rs2 s
  | .clret => Sys2Proof.Machine.execClret s
  | .deposit page orig data => Sys2Proof.Machine.execDeposit page orig data s
  | .depositToRecords => Sys2Proof.Machine.execDepositToRecords s
  | .dpcfgWrite ix val => Sys2Proof.Machine.execDpcfgWrite ix val s
  | .uitcfgWrite ix val => Sys2Proof.Machine.execUitcfgWrite ix val s
  | .dequeEntryWrite ix k val => Sys2Proof.Machine.execDequeEntryWrite ix k val s
  | .gpctlWrite ix val => Sys2Proof.Machine.execGpctlWrite ix val s
  | .grtselWrite val => Sys2Proof.Machine.execGrtselWrite val s
  | .ptpcfgWrite val => Sys2Proof.Machine.execPtpcfgWrite val s
  | .erlostWrite val => Sys2Proof.Machine.execErlostWrite val s
  | .registerWrite off size val => Sys2Proof.Machine.execRegisterWrite off size val s
  | .nreg c => Sys2Proof.Machine.execNreg c s
  | .nunreg c => Sys2Proof.Machine.execNunreg c s
  | .nodeUnregisterEffect gen nid => Sys2Proof.Machine.execNodeUnregisterEffect gen nid s
  | .keygen c => Sys2Proof.Machine.execKeygen c s
  | .keykill c => Sys2Proof.Machine.execKeykill c s
  | .partset c => Sys2Proof.Machine.execPartset c s
  | .attest c => Sys2Proof.Machine.execAttest c s
  | .cmdUndefined c => Sys2Proof.Machine.execCmdUndefined c s
  | .tillSpillReturn die => Sys2Proof.Machine.execTillSpillReturn die s
  | .tillTimerExpiry gen nid die => Sys2Proof.Machine.execTillTimerExpiry gen nid die s
  | .bgPromotion gen nid die => Sys2Proof.Machine.execBgPromotion gen nid die s
  | .groupAdmission die => Sys2Proof.Machine.execGroupAdmission die s
  | .stagingComplete core group => Sys2Proof.Machine.execStagingComplete core group s
  | .warpParkTimeout core warp => Sys2Proof.Machine.execWarpParkTimeout core warp s
  | .warpUnpark core slice => Sys2Proof.Machine.execWarpUnpark core slice s
  | .yieldIntervalEnd core warp => Sys2Proof.Machine.execYieldIntervalEnd core warp s
  | .loadDataReturn core warp op => Sys2Proof.Machine.execLoadDataReturn core warp op s
  | .warpComplete core warp => Sys2Proof.Machine.execWarpComplete core warp s
  | .queueCommitNotice core group ring count => Sys2Proof.Machine.execQueueCommitNotice core group ring count s
  | .matrixResultWritten core warp => Sys2Proof.Machine.execMatrixResultWritten core warp s
  | .redPerformed core warp => Sys2Proof.Machine.execRedPerformed core warp s
  | .copyPosting core copy count => Sys2Proof.Machine.execCopyPosting core copy count s
  | .copyComplete core copy => Sys2Proof.Machine.execCopyComplete core copy s
  | .monitorDeadline k => Sys2Proof.Machine.execMonitorDeadline k s
  | .switchPrepare core => Sys2Proof.Machine.execSwitchPrepare core s
  | .switchSignal => Sys2Proof.Machine.execSwitchSignal s
  | .switchHaltEnd core => Sys2Proof.Machine.execSwitchHaltEnd core s
  | .switchDrainEnd core => Sys2Proof.Machine.execSwitchDrainEnd core s
  | .switchDrainLimit core => Sys2Proof.Machine.execSwitchDrainLimit core s
  | .switchSaveEnd core => Sys2Proof.Machine.execSwitchSaveEnd core s
  | .clockChangeEnd core => Sys2Proof.Machine.execClockChangeEnd core s
  | .switchRestoreEnd core => Sys2Proof.Machine.execSwitchRestoreEnd core s
  | .flitReceive port flit => Sys2Proof.Machine.execFlitReceive port flit s
  | .resyncTimer port => Sys2Proof.Machine.execResyncTimer port s
  | .resyncReceive port flit => Sys2Proof.Machine.execResyncReceive port flit s
  | .drainMarkerSend port => Sys2Proof.Machine.execDrainMarkerSend port s
  | .drainMarkerReceive port => Sys2Proof.Machine.execDrainMarkerReceive port s
  | .drainMarkerTimeout port => Sys2Proof.Machine.execDrainMarkerTimeout port s
  | .portLightLoss port => Sys2Proof.Machine.execPortLightLoss port s
  | .sackTimer src block => Sys2Proof.Machine.execSackTimer src block s
  | .packetRetransmit dst psn => Sys2Proof.Machine.execPacketRetransmit dst psn s
  | .epochSend dst => Sys2Proof.Machine.execEpochSend dst s
  | .rd p => Sys2Proof.Machine.execRd p s
  | .wr p => Sys2Proof.Machine.execWr p s
  | .atomPacket p => Sys2Proof.Machine.execAtomPacket p s
  | .redPacket p => Sys2Proof.Machine.execRedPacket p s
  | .taskDecrementPacket p => Sys2Proof.Machine.execTaskDecrementPacket p s
  | .mon p => Sys2Proof.Machine.execMon p s
  | .recPacket p => Sys2Proof.Machine.execRecPacket p s
  | .claim p => Sys2Proof.Machine.execClaim p s
  | .esct p => Sys2Proof.Machine.execEsct p s
  | .escd p => Sys2Proof.Machine.execEscd p s
  | .rdr p => Sys2Proof.Machine.execRdr p s
  | .atomr p => Sys2Proof.Machine.execAtomr p s
  | .claimr p => Sys2Proof.Machine.execClaimr p s
  | .errr p => Sys2Proof.Machine.execErrr p s
  | .sack p => Sys2Proof.Machine.execSack p s
  | .wake p => Sys2Proof.Machine.execWake p s
  | .fbar p => Sys2Proof.Machine.execFbar p s
  | .frel p => Sys2Proof.Machine.execFrel p s
  | .sdec p => Sys2Proof.Machine.execSdec p s
  | .snot p => Sys2Proof.Machine.execSnot p s
  | .tte p => Sys2Proof.Machine.execTte p s
  | .ptpm p => Sys2Proof.Machine.execPtpm p s
  | .pren p => Sys2Proof.Machine.execPren p s
  | .ttr p => Sys2Proof.Machine.execTtr p s
  | .abrt p => Sys2Proof.Machine.execAbrt p s
  | .fwdr p => Sys2Proof.Machine.execFwdr p s
  | .epoch p => Sys2Proof.Machine.execEpoch p s
  | .nop f => Sys2Proof.Machine.execNop f s
  | .bra f => Sys2Proof.Machine.execBra f s
  | .brx f => Sys2Proof.Machine.execBrx f s
  | .call f => Sys2Proof.Machine.execCall f s
  | .ret f => Sys2Proof.Machine.execRet f s
  | .exit f => Sys2Proof.Machine.execExit f s
  | .cvset f => Sys2Proof.Machine.execCvset f s
  | .cvwait f => Sys2Proof.Machine.execCvwait f s
  | .yield f => Sys2Proof.Machine.execYield f s
  | .trap f => Sys2Proof.Machine.execTrap f s
  | .svc f => Sys2Proof.Machine.execSvc f s
  | .brk f => Sys2Proof.Machine.execBrk f s
  | .sget f sidx => Sys2Proof.Machine.execSget f sidx s
  | .sset f sidx => Sys2Proof.Machine.execSset f sidx s
  | .mxhint f => Sys2Proof.Machine.execMxhint f s
  | .pset f cmp t => Sys2Proof.Machine.execPset f cmp t s
  | .psetf f cmp t => Sys2Proof.Machine.execPsetf f cmp t s
  | .plog f lut => Sys2Proof.Machine.execPlog f lut s
  | .pmovGet f => Sys2Proof.Machine.execPmovGet f s
  | .pmovPut f => Sys2Proof.Machine.execPmovPut f s
  | .vote f op => Sys2Proof.Machine.execVote f op s
  | .add f t sat => Sys2Proof.Machine.execAdd f t sat s
  | .sub f t sat => Sys2Proof.Machine.execSub f t sat s
  | .addc f t cp => Sys2Proof.Machine.execAddc f t cp s
  | .subb f t cp => Sys2Proof.Machine.execSubb f t cp s
  | .mul f t => Sys2Proof.Machine.execMul f t s
  | .mulhi f t => Sys2Proof.Machine.execMulhi f t s
  | .mad f t => Sys2Proof.Machine.execMad f t s
  | .madhi f t => Sys2Proof.Machine.execMadhi f t s
  | .div f t => Sys2Proof.Machine.execDiv f t s
  | .rem f t => Sys2Proof.Machine.execRem f t s
  | .min f t => Sys2Proof.Machine.execMin f t s
  | .max f t => Sys2Proof.Machine.execMax f t s
  | .abs f t sat => Sys2Proof.Machine.execAbs f t sat s
  | .neg f t sat => Sys2Proof.Machine.execNeg f t sat s
  | .lea f t sh => Sys2Proof.Machine.execLea f t sh s
  | .and f t => Sys2Proof.Machine.execAnd f t s
  | .or f t => Sys2Proof.Machine.execOr f t s
  | .xor f t => Sys2Proof.Machine.execXor f t s
  | .not f t => Sys2Proof.Machine.execNot f t s
  | .andn f t => Sys2Proof.Machine.execAndn f t s
  | .shl f t => Sys2Proof.Machine.execShl f t s
  | .shr f t => Sys2Proof.Machine.execShr f t s
  | .sar f t => Sys2Proof.Machine.execSar f t s
  | .rot f t => Sys2Proof.Machine.execRot f t s
  | .bfx f t => Sys2Proof.Machine.execBfx f t s
  | .bfi f t => Sys2Proof.Machine.execBfi f t s
  | .popc f t => Sys2Proof.Machine.execPopc f t s
  | .clz f t => Sys2Proof.Machine.execClz f t s
  | .ctz f t => Sys2Proof.Machine.execCtz f t s
  | .brev f t => Sys2Proof.Machine.execBrev f t s
  | .sel f t ps => Sys2Proof.Machine.execSel f t ps s
  | .mov f t => Sys2Proof.Machine.execMov f t s
  | .movi f t => Sys2Proof.Machine.execMovi f t s
  | .movd f t lo => Sys2Proof.Machine.execMovd f t lo s
  | .prmt f => Sys2Proof.Machine.execPrmt f s
  | .fadd f t => Sys2Proof.Machine.execFadd f t s
  | .fsub f t => Sys2Proof.Machine.execFsub f t s
  | .fmul f t => Sys2Proof.Machine.execFmul f t s
  | .ffma f t => Sys2Proof.Machine.execFfma f t s
  | .fmin f t => Sys2Proof.Machine.execFmin f t s
  | .fmax f t => Sys2Proof.Machine.execFmax f t s
  | .fneg f t => Sys2Proof.Machine.execFneg f t s
  | .fabs f t => Sys2Proof.Machine.execFabs f t s
  | .fcsign f t => Sys2Proof.Machine.execFcsign f t s
  | .fdiv f t => Sys2Proof.Machine.execFdiv f t s
  | .fsqrt f t => Sys2Proof.Machine.execFsqrt f t s
  | .fscale f t => Sys2Proof.Machine.execFscale f t s
  | .fgexp f t => Sys2Proof.Machine.execFgexp f t s
  | .frnd f t => Sys2Proof.Machine.execFrnd f t s
  | .fcls f t => Sys2Proof.Machine.execFcls f t s
  | .fcvt f dt st inf => Sys2Proof.Machine.execFcvt f dt st inf s
  | .icvt f dt st inf => Sys2Proof.Machine.execIcvt f dt st inf s
  | .vsin f => Sys2Proof.Machine.execVsin f s
  | .vcos f => Sys2Proof.Machine.execVcos f s
  | .vscs f => Sys2Proof.Machine.execVscs f s
  | .vex2 f => Sys2Proof.Machine.execVex2 f s
  | .vlg2 f => Sys2Proof.Machine.execVlg2 f s
  | .vrcp f => Sys2Proof.Machine.execVrcp f s
  | .vrsq f => Sys2Proof.Machine.execVrsq f s
  | .vtanh f => Sys2Proof.Machine.execVtanh f s
  | .padd f t inf => Sys2Proof.Machine.execPadd f t inf s
  | .psub f t inf => Sys2Proof.Machine.execPsub f t inf s
  | .pmul f t inf => Sys2Proof.Machine.execPmul f t inf s
  | .pfma f t inf => Sys2Proof.Machine.execPfma f t inf s
  | .pmin f t => Sys2Proof.Machine.execPmin f t s
  | .pmax f t => Sys2Proof.Machine.execPmax f t s
  | .pdot f t inf => Sys2Proof.Machine.execPdot f t inf s
  | .pcvt f dt st inf => Sys2Proof.Machine.execPcvt f dt st inf s
  | .ppack f t pos inf => Sys2Proof.Machine.execPpack f t pos inf s
  | .punpk f t pos => Sys2Proof.Machine.execPunpk f t pos s
  | .pabs f t inf => Sys2Proof.Machine.execPabs f t inf s
  | .lshf f t m seg => Sys2Proof.Machine.execLshf f t m seg s
  | .lred f t op seg => Sys2Proof.Machine.execLred f t op seg s
  | .lscan f t op seg exc => Sys2Proof.Machine.execLscan f t op seg exc s
  | .lbc f t => Sys2Proof.Machine.execLbc f t s
  | .vhash f => Sys2Proof.Machine.execVhash f s
  | .vdrop f => Sys2Proof.Machine.execVdrop f s
  | .ld f sp sz ord sco pr sh => Sys2Proof.Machine.execLd f sp sz ord sco pr sh s
  | .ldro f sz sh => Sys2Proof.Machine.execLdro f sz sh s
  | .ldk f cnt => Sys2Proof.Machine.execLdk f cnt s
  | .st f sp sz ord sco sh => Sys2Proof.Machine.execSt f sp sz ord sco sh s
  | .atom f op t ord sco pr sp sh => Sys2Proof.Machine.execAtom f op t ord sco pr sp sh s
  | .red f op t ord sco sh => Sys2Proof.Machine.execRed f op t ord sco sh s
  | .fence f ord sco => Sys2Proof.Machine.execFence f ord sco s
  | .fro f => Sys2Proof.Machine.execFro f s
  | .rcfence f => Sys2Proof.Machine.execRcfence f s
  | .awaitCnt f => Sys2Proof.Machine.execAwaitCnt f s
  | .awaitPh f sco => Sys2Proof.Machine.execAwaitPh f sco s
  | .awaitPhG f sco => Sys2Proof.Machine.execAwaitPhG f sco s
  | .awaitMem f cmp dw sco => Sys2Proof.Machine.execAwaitMem f cmp dw sco s
  | .bini f => Sys2Proof.Machine.execBini f s
  | .barv f sco => Sys2Proof.Machine.execBarv f sco s
  | .bexp f => Sys2Proof.Machine.execBexp f s
  | .gbarGrid f => Sys2Proof.Machine.execGbarGrid f s
  | .gbarFab f => Sys2Proof.Machine.execGbarFab f s
  | .qcls f qn => Sys2Proof.Machine.execQcls f qn s
  | .qstat f qn => Sys2Proof.Machine.execQstat f qn s
  | .mma f m => Sys2Proof.Machine.execMma f m s
  | .mmaz f m => Sys2Proof.Machine.execMmaz f m s
  | .accld f nqm ssp => Sys2Proof.Machine.execAccld f nqm ssp s
  | .accst f nqm ssp => Sys2Proof.Machine.execAccst f nqm ssp s
  | .accz f nqm => Sys2Proof.Machine.execAccz f nqm s
  | .rqnt f inf sl sls => Sys2Proof.Machine.execRqnt f inf sl sls s
  | .qpack f inf sl => Sys2Proof.Machine.execQpack f inf sl s
  | .qunpk f inf sl => Sys2Proof.Machine.execQunpk f inf sl s
  | .plsplit f => Sys2Proof.Machine.execPlsplit f s
  | .plmrg f sl => Sys2Proof.Machine.execPlmrg f sl s
  | .topk f t pp => Sys2Proof.Machine.execTopk f t pp s
  | .cpy f cpl ds ss ctw => Sys2Proof.Machine.execCpy f cpl ds ss ctw s
  | .cpyt f cpl dir ctw => Sys2Proof.Machine.execCpyt f cpl dir ctw s
  | .cpyw f cpl ctw => Sys2Proof.Machine.execCpyw f cpl ctw s
  | .cpyg f cpl ctw => Sys2Proof.Machine.execCpyg f cpl ctw s
  | .cpys f cpl ctw => Sys2Proof.Machine.execCpys f cpl ctw s
  | .emit f => Sys2Proof.Machine.execEmit f s
  | .emitRem f => Sys2Proof.Machine.execEmitRem f s
  | .emitTask f => Sys2Proof.Machine.execEmitTask f s
  | .spawn f => Sys2Proof.Machine.execSpawn f s
  | .tkget f => Sys2Proof.Machine.execTkget f s
  | .tkgetClaim f => Sys2Proof.Machine.execTkgetClaim f s
  | .tkput f => Sys2Proof.Machine.execTkput f s
  | .tdec f => Sys2Proof.Machine.execTdec f s
  | .tdecRem f => Sys2Proof.Machine.execTdecRem f s
  | .sret f skip => Sys2Proof.Machine.execSret f skip s
  | .mbrecv f pe pf => Sys2Proof.Machine.execMbrecv f pe pf s
  | .mbpost f => Sys2Proof.Machine.execMbpost f s
  | .frep f => Sys2Proof.Machine.execFrep f s
  | .fdrop f => Sys2Proof.Machine.execFdrop f s
  | .tlbi f scp => Sys2Proof.Machine.execTlbi f scp s
  | .wpark f => Sys2Proof.Machine.execWpark f s
  | .wwake f => Sys2Proof.Machine.execWwake f s
  | .sctxRd f vlt => Sys2Proof.Machine.execSctxRd f vlt s
  | .sctxWr f vlt => Sys2Proof.Machine.execSctxWr f vlt s
  | .slotWindowEnd core => Sys2Proof.Machine.execSlotWindowEnd core s
  | .matrixRampTimer core slice => Sys2Proof.Machine.execMatrixRampTimer core slice s
  | .copyAccessFault core copy => Sys2Proof.Machine.execCopyAccessFault core copy s
  | .userInterruptWaitEnd target => Sys2Proof.Machine.execUserInterruptWaitEnd target s
  | .lockLossTimeout => Sys2Proof.Machine.execLockLossTimeout s
  | .holdoverTimeout => Sys2Proof.Machine.execHoldoverTimeout s
  | .hotPageEpochEnd => Sys2Proof.Machine.execHotPageEpochEnd s
  | .measurementExtend ix data => Sys2Proof.Machine.execMeasurementExtend ix data s
  | .cluitxWrite hart val => Sys2Proof.Machine.execCluitxWrite hart val s
  | .userInterruptTake hart => Sys2Proof.Machine.execUserInterruptTake hart s
  | .vfReset vf => Sys2Proof.Machine.execVfReset vf s
  | .coreRestart core => Sys2Proof.Machine.execCoreRestart core s
  | .ptpExchange parent offset hops root rate => Sys2Proof.Machine.execPtpExchange parent offset hops root rate s
  | .patrolRead slice => Sys2Proof.Machine.execPatrolRead slice s
  | .arrayCorrectedError pa => Sys2Proof.Machine.execArrayCorrectedError pa s
  | .arrayUncorrectableError at_ => Sys2Proof.Machine.execArrayUncorrectableError at_ s
  | .hdieUncorrectableError hcore key pa => Sys2Proof.Machine.execHdieUncorrectableError hcore key pa s
  | .portLightReturn port far fport => Sys2Proof.Machine.execPortLightReturn port far fport s
  | .portRelockComplete port => Sys2Proof.Machine.execPortRelockComplete port s
  | .relockTimeout port => Sys2Proof.Machine.execRelockTimeout port s
  | .darkTimeout port => Sys2Proof.Machine.execDarkTimeout port s
  | .portDownRetrain port trained => Sys2Proof.Machine.execPortDownRetrain port trained s
  | .laneLoss port lane => Sys2Proof.Machine.execLaneLoss port lane s
  | .laneRetrain port lane => Sys2Proof.Machine.execLaneRetrain port lane s
  | .unreachableDeclare dst => Sys2Proof.Machine.execUnreachableDeclare dst s
  | .preemptionSlotEnd gen => Sys2Proof.Machine.execPreemptionSlotEnd gen s

end Sys2Proof.Machine
end

