-- ==== Sys2Proof/Machine/Turn.lean ====
section
/-! DEFINITION. A turn: a cycle of a slice, from its candidates to an issue, and what an entry of the agenda does. -/

namespace Sys2Proof.Machine

/-- A fetched path issues. -/
def issueFetched (f : Fetched) (s : State) : Host.Outcome State Fault Refusal :=
  match f with
  | .instr cu i => exec i { s with cur := some cu, issued := false }
  | .fault cu r => settleRes cu cu.size s (.fault r)
  | .replay cu r => settleRes cu cu.size s (.replay 1 r)
  | .wait => .next { s with issued := false }

/-- The second path issues with the first when R40 lets it (R39, R462), and with avoid not on that unit (R45). -/
def issueSecond (c wix : Nat) (avoid : Option Nat) (f : Fetched) (q : DWord × Mask) (s : State) : Host.Outcome State Fault Refusal :=
  if (s.warp c wix).stopped || (s.warp c wix).replay.isSome then .next { s with issued := false }
  else
    match f, s.fetch c wix q.2 8 q.1 with
    | .instr _ i, (.instr cu j, t) =>
      if pairOk t c wix i j && avoid != some j.unit then issueFetched (.instr cu j) t else .next { s with issued := false }
    | _, _ => .next { s with issued := false }

/-- The paths of a warp in turn, until one issues (R39); with avoid, none issues on that unit (R45). The state's field issued says
whether one did. -/
def issuePaths (c sl wix cyc : Nat) (avoid : Option Nat) (all : List (DWord × Mask)) :
    List (DWord × Mask) → State → Host.Outcome State Fault Refusal
  | [], s => .next { s with issued := false }
  | p :: rest, s =>
    let (f, t) := s.fetch c wix p.2 8 p.1
    let barred : Bool := match f with | .instr _ i => avoid == some i.unit | _ => false
    if barred then issuePaths c sl wix cyc avoid all rest s
    else
      match issueFetched f t with
      | .next u =>
        if u.issued then
          let u1 := u.dropFetched c wix
          match rest with
          | [] => .next { u1.noteIssue c wix all p.2 cyc with issued := true }
          | q :: _ =>
            match issueSecond c wix avoid f q u1 with
            | .next v =>
              .next { v.noteIssue c wix all (if v.issued then p.2 ||| q.2 else p.2) cyc with issued := true }
            | o => o
        else issuePaths c sl wix cyc avoid all rest u
      | o => o

/-! ### Readiness and starvation (R38, R39, R45, R59) -/

/-- A try of a warp: what its paths wait for is noted afresh. -/
def tryWarp (c sl wix cyc : Nat) (avoid : Option Nat) (s : State) : Host.Outcome State Fault Refusal :=
  let ps := (s.warp c wix).ranked
  issuePaths c sl wix cyc avoid ps ps (s.updWarp c wix (fun w => { w with needs := [] }))

/-- What a warp would do in a cycle in which the units stood like this: none when it would issue, else the machine after its wait. -/
def probeWarp (c sl wix cyc : Nat) (busy : List Nat) (s : State) : Option State :=
  match tryWarp c sl wix cyc none (s.updSlice c sl (fun x => { x with busy := busy })) with
  | .next u => if u.issued then none else some (u.updSlice c sl (fun x => { x with busy := (s.slice c sl).busy }))
  | _ => none

/-- A register that some path of the warp waits for will be filled by a fabric operation: a remote access, or a transfer from a peer page into
its register window (R59, R109). -/
def State.fabricWait (s : State) (c wix : Nat) : Bool :=
  let w := s.warp c wix
  let remote (x : Nat × Nat × Mask) : Bool :=
    w.ops.any (fun o => !o.reqs.isEmpty && o.fills.any (fun f => f.isV == (x.1 == 0) && f.reg == x.2.1))
  let window (x : Nat × Nat × Mask) : Bool := ((List.range s.cores.length).zip s.cores).any (fun k => k.2.copies.any (fun y =>
    y.binds.any (fun b => b.1 == c && b.2.2 == (wix, (s.core c).gen) && y.xfers.any (fun f => s.farFills k.1 c b.2.1 f x))))
  w.needs.any (fun p => p.any (fun x => remote x || window x))

/-- The warp is ready, from this cycle on if it was not (R38, R39). -/
def Warp.markReady (w : Warp) (cyc : Nat) : Warp :=
  { w with age := w.rank cyc, ready := true, keen := none, since := 0, needs := [] }

/-- A warp that does not issue is not ready: whether only the unit of its first path keeps it from issuing (R45), and since when it has
waited for a fabric operation (R59). -/
def State.markHeld (s : State) (c sl wix cyc : Nat) : State :=
  let first := (s.warp c wix).ranked.take 1
  let only : Bool := match issuePaths c sl wix cyc none first first (s.updSlice c sl (fun x => { x with busy := [] })) with
    | .next u => u.issued
    | _ => true
  let fab := s.fabricWait c wix
  s.updWarp c wix (fun w => { w with
    ready := false, keen := if only then w.keen.or (some cyc) else none
    since := if fab then (if w.since = 0 then max s.ptb 1 else w.since) else 0 })

/-- The readiness of a warp that another was issued before. busy: the units as the cycle began. -/
def State.markRest (c sl cyc : Nat) (busy : List Nat) (s : State) (wix : Nat) : State :=
  match probeWarp c sl wix cyc busy s with
  | none => s.updWarp c wix (fun w => w.markReady cyc)
  | some t => t.markHeld c sl wix cyc

/-- The cycle from which a candidate counts as the oldest: since it is ready, or since only the unit keeps it (R45). -/
def Warp.eager (w : Warp) : Option Nat := if w.ready then some w.age else w.keen

/-- The oldest of some warps, with the cycle from which each counts. -/
def oldestOf (ws : List (Nat × Option Nat)) : Option Nat :=
  (ws.foldl (fun (b : Option (Nat × Nat)) p =>
    match p.2, b with
    | none, _ => b
    | some x, none => some (x, p.1)
    | some x, some y => if x < y.1 then some (x, p.1) else b) none).map Prod.snd

/-- The starvation count after a cycle (R45): how often the oldest ready warp has been passed over. -/
def Slice.passed (x : Slice) (oldest did : Option Nat) : Slice :=
  match oldest with
  | none => { x with starv := 0, starvWix := none }
  | some w =>
    if did == some w then { x with starv := 0, starvWix := none }
    else { x with starv := if x.starvWix == some w then x.starv + 1 else 1, starvWix := some w }

/-- The unit that no other warp may use: that of the first path of a warp passed over 32 times (R45). -/
def State.kept (s : State) (c sl : Nat) : Option (Nat × Nat) :=
  let x := s.slice c sl
  if x.starv < 32 then none
  else x.starvWix.bind (fun wix =>
    (s.warp c wix).ranked.head?.bind (fun p =>
      match (s.fetch c wix p.2 8 p.1).1 with
      | .instr _ i => some (wix, i.unit)
      | _ => none))

/-- The candidate warps of a slice in turn, until one issues (R39, R45); done: those tried, in order. -/
def issueWarps (c sl cyc : Nat) (busy : List Nat) (kept : Option (Nat × Nat)) : List Nat → List Nat → State → Host.Outcome State Fault Refusal
  | done, [], s =>
    .next (s.updSlice c sl (fun x => x.passed (oldestOf (done.map (fun w => (w, (s.warp c w).eager)))) none))
  | done, wix :: rest, s =>
    let avoid := kept.bind (fun k => if k.1 == wix then none else some k.2)
    match tryWarp c sl wix cyc avoid s with
    | .next u =>
      if u.issued then
        let v := rest.foldl (State.markRest c sl cyc busy) { u with issued := false }
        let ages := done.map (fun w => (w, (v.warp c w).eager)) ++ [(wix, some ((s.warp c wix).rank cyc))] ++ rest.map (fun w => (w, (v.warp c w).eager))
        .next (v.updSlice c sl (fun x => x.passed (oldestOf ages) (some wix)))
      else issueWarps c sl cyc busy kept (done ++ [wix]) rest (if avoid.isSome then State.markRest c sl cyc busy u wix else u.markHeld c sl wix cyc)
    | o => o

/-- A cycle of a slice. -/
def sliceTurn (c sl : Nat) (s : State) : Host.Outcome State Fault Refusal :=
  let t := s.tickSlice c sl
  if !t.booted then .next s else issueWarps c sl (t.slice c sl).cyc (t.slice c sl).busy (t.kept c sl) [] (t.candidates c sl) t

/-- A hart runs one word, if Shatus has been started (R280). -/
def hartTurn (n : Nat) (s : State) : Host.Outcome State Fault Refusal :=
  if s.noShatus then .next s
  else match decodeHost (s.hartWord n) with
  | some i => exec i { s with cur := some (hartCur n (s.hart n).pc) }
  | none => .refused .hostInstruction

/-- What an entry of the agenda does. -/
def perform (a : Act) (s : State) : Host.Outcome State Fault Refusal :=
  match a with
  | .slice c sl => sliceTurn c sl s
  | .hart n => hartTurn n s
  | .command => match s.nextCommand with | some i => exec i s | none => .next s
  | .packet p => match p.instr with | some i => exec i s | none => .next s
  | .occur i => exec i s
  | .completion g => .next (s.writeCompletion g)

end Sys2Proof.Machine
end

