-- ==== Sys2Proof/Machine/Step.lean ====
section
/-! DEFINITION. One step of the package: what the agenda names next, or what is due, or the next slice's cycle. -/

namespace Sys2Proof.Machine

/-- One step: the head of the agenda after its delay; with an empty agenda bring-up first, then whatever is due, then the slices in
turn, with a nanosecond for each round of them (log entry 1). -/
def step (s : State) : Host.Outcome State Fault Refusal :=
  match s.agenda with
  | (dt, a) :: rest => perform a ({ s with agenda := rest }.elapse dt)
  | [] =>
    if !s.booted then exec .packageReset s
    else
      match s.due with
      | some o => o
      | none =>
        let n := s.rr
        let last := decide (4 * s.nCores ≤ n + 1)
        sliceTurn (n / 4) (n % 4) ({ s with rr := if last then 0 else n + 1 }.elapse (if last then 1 else 0))

/-- s with one instruction stored where the next step fetches it, its bits numbered as the opcode table numbers them: a word of R255 or
R262 at hart 0's PC; any other at the PC of a warp of core 0, a user warp unless the word decodes only for the supervisor warp. -/
def State.withFetchWord (s : State) (nbits w : Nat) : State :=
  let bs := leBytes 20 w
  if nbits ≤ 32 && (decodeHost (BitVec.ofNat 32 w)).isSome then s.placeHart (leBytes 4 w)
  else
    let ws := (List.range 5).map (fun k => BitVec.ofNat 32 (w / 2 ^ (32 * k)))
    match decodeWords false ws with
    | .ok _ => s.placeWords false bs
    | .error _ => match decodeWords true ws with | .ok _ => s.placeWords true bs | .error _ => s.placeWords false bs

end Sys2Proof.Machine
end

