-- ==== Sys2Proof/Safety.lean ====
section
/-! DEFINITION. The terms in which statements about the machine are made: the canonical form of memory, when an instruction that has been
issued executes (R38, R55, R466), what an instruction leaves alone, and what each instruction that only computes does in each lane. -/

namespace Sys2Proof.Machine

/-! ### Memory -/

/-- Memory in its canonical form: addresses strictly rising, and no entry that holds what an unlisted address reads as. -/
def Memory.wf (m : List Host.Cell) : Bool := SMap.wf m

/-- Every map that the package keeps outside its cores is in canonical form. -/
def State.canonical (s : State) : Bool := Memory.wf s.mem && Memory.wf s.hostMem && SMap.wf s.cp && SMap.wf s.keyTag

/-! ### An instruction that executes -/

/-- The path of cu is issuing on a warp of its core, nothing has stopped the model, and nothing holds or stops the instruction: no budget
or queue binding is broken (R50, R292), the unit is free, every source and destination is full, no counter is at its limit (R38, R55, R56,
R137), no trap bit meets an empty source (R55), no queue it pushes to has been closed by the warp (R399), and some lane is ACTIVE
(R306). -/
def ready (i : Instr) (f : Fmt) (cu : Cur) (s : State) : Bool :=
  let c := mkCtx s cu i f
  let g := s.group cu.core c.w.gid
  s.cur == some cu && s.stop == none && ((s.core cu.core).warp? cu.wix).isSome
  && c.w.overBudget (runsOf i f g) == none && c.w.queueFault [] (queueUses i f) == none
  && c.unitFree s i.unit && c.active != 0 && !c.blocked s i && c.trapEmpty s i == none && c.pushClosed i == none

/-- The state in which the meaning of an instruction that executes acts: its lanes have the next PC, its unit is taken, the lanes that
the mask shuts out are zeroed (R37, R307). -/
def begun (i : Instr) (f : Fmt) (occ : Ctx → State → Nat) (cu : Cur) (s : State) : State :=
  let c := mkCtx s cu i f
  c.upd (c.occupy (c.upd s (fun w => w.advance c.lanes c.next)) i.unit (occ c s)) (c.zeroWrites i (s.group cu.core c.w.gid))

/-- The issue is over, and the instruction completed. -/
def finished (t : State) : State := { t with cur := none, issued := true }

/-- The state after an instruction that began in s and whose effect left t: the entries of the queue registers that it read are claimed, and D
waits for them (R54, R95). It is t where the instruction reads no queue register. -/
def popped (i : Instr) (f : Fmt) (cu : Cur) (s t : State) : State := (mkCtx s cu i f).popAll i s t

/-- The state after a slice's cycle in which warp wix, the first of its candidates, has issued and left u: the readiness of the other candidates
ws, and how often the oldest warp has been passed over (R39, R45). s0: the machine when the cycle had begun. -/
def cycleEnd (c sl wix : Nat) (ws : List Nat) (s0 u : State) : State :=
  let cyc := (s0.slice c sl).cyc
  let v := ws.foldl (State.markRest c sl cyc (s0.slice c sl).busy) { u with issued := false }
  v.updSlice c sl (fun x => x.passed
    (oldestOf ((wix, some ((s0.warp c wix).rank cyc)) :: ws.map (fun w => (w, (v.warp c w).eager)))) (some wix))

/-! ### What an instruction leaves alone -/

/-- Only the issuing core and the end of the issue differ: memory, the CP, the fabric, every other core and every other field of the
package are as before. -/
structure Elsewhere (c : Nat) (s t : State) : Prop where
  rest  : t = { s with cores := t.cores, cur := none, issued := true }
  len   : t.cores.length = s.cores.length
  other : ∀ k, k ≠ c → t.core k = s.core k

/-- On the issuing core only the issuing warp, its slice's clocks and, where a queue register is named, the rings of its group and their
entries differ. -/
structure OnlyWarp (i : Instr) (f : Fmt) (cu : Cur) (s t : State) : Prop where
  core  : t.core cu.core = { s.core cu.core with
    warps := (t.core cu.core).warps, slices := (t.core cu.core).slices, groups := (t.core cu.core).groups, sp := (t.core cu.core).sp }
  queue : queueUses i f = [] → (t.core cu.core).groups = (s.core cu.core).groups ∧ (t.core cu.core).sp = (s.core cu.core).sp
  warps : ∀ k, k ≠ cu.wix → (t.core cu.core).warp? k = (s.core cu.core).warp? k

/-- The lanes of the path have the next PC, the other lanes theirs (R37). -/
def Advanced (c : Ctx) (w : Warp) : Prop :=
  ∀ l, l < 32 → w.pcs[l]? = (c.w.pcs[l]?).map (fun p => if c.lanes.getLsbD l then c.next else p)

/-! ### Instructions that only compute -/

/-- What an instruction that only computes does: the registers of D and the value it gives D in each lane, the value it gives a
predicate in each lane (none: the predicate keeps its own), and the flags it raises. -/
structure DataEff where
  n   : Nat := 0
  val : Ctx → State → Nat → Nat := fun _ _ _ => 0
  prd : Nat → Option (Ctx → State → Nat → Bool) := fun _ => none
  flg : Ctx → State → Flags := fun _ _ => 0

/-- The flags of the lanes together (R167). -/
def laneFlags (c : Ctx) (fl : Nat → Flags) : Flags := c.runs.foldl (fun (a : Flags) l => a ||| fl l) 0

/-- The lane whose value a lane takes: its own, or in the uniform pipe the lowest ACTIVE one's (R43). -/
def Ctx.laneOf (c : Ctx) (l : Nat) : Nat := if c.unif then c.low else l

/-- A v register of a lane afterwards: the registers of D take the value in the ACTIVE lanes, zero in the lanes that .z shuts out, and
keep theirs in the others (R293, R306, R307). -/
def vAfter (c : Ctx) (i : Instr) (n : Nat) (val : Nat → Nat) (r l : Nat) : Nat :=
  match c.f.d with
  | .v d =>
    if d ≤ r ∧ r < d + n then
      if c.active.getLsbD l then val (c.laneOf l) / 2 ^ (32 * (r - d)) % 2 ^ 32
      else if (c.zeroed i).getLsbD l then 0 else c.w.vGet r l
    else c.w.vGet r l
  | _ => c.w.vGet r l

/-- A w register afterwards (R293, R43). -/
def wAfter (c : Ctx) (n : Nat) (val : Nat → Nat) (r : Nat) : Nat :=
  match c.f.d with
  | .w d => if d ≤ r ∧ r < d + n then val c.low / 2 ^ (32 * (r - d)) % 2 ^ 32 else c.w.wGet r
  | _ => c.w.wGet r

/-- A predicate of a lane afterwards (R323). -/
def pAfter (c : Ctx) (s : State) (prd : Nat → Option (Ctx → State → Nat → Bool)) (p l : Nat) : Bool :=
  match prd p with
  | some b => if p < c.w.preds.length ∧ c.active.getLsbD l then b c s (c.laneOf l) else c.w.pGet p l
  | none => c.w.pGet p l

/-- RESULT AND FRAME of an instruction that only computes: the lanes advance, D, the predicate and the flags take their values, no
register becomes empty, and nothing else of the machine changes. -/
structure DataDone (i : Instr) (f : Fmt) (e : DataEff) (cu : Cur) (s t : State) : Prop where
  away  : Elsewhere cu.core s t
  only  : OnlyWarp i f cu s t
  warp  : ((t.core cu.core).warp? cu.wix).isSome = true
  frame : t.warp cu.core cu.wix = { (mkCtx s cu i f).w with
    pcs := (t.warp cu.core cu.wix).pcs, since := 0, needs := [], v := (t.warp cu.core cu.wix).v, vE := (t.warp cu.core cu.wix).vE
    w := (t.warp cu.core cu.wix).w, wE := (t.warp cu.core cu.wix).wE, preds := (t.warp cu.core cu.wix).preds
    fpstat := (t.warp cu.core cu.wix).fpstat }
  pcs   : Advanced (mkCtx s cu i f) (t.warp cu.core cu.wix)
  v     : ∀ r l, l < 32 → (t.warp cu.core cu.wix).vGet r l = vAfter (mkCtx s cu i f) i e.n (e.val (mkCtx s cu i f) s) r l
  w     : ∀ r, (t.warp cu.core cu.wix).wGet r = wAfter (mkCtx s cu i f) e.n (e.val (mkCtx s cu i f) s) r
  full  : (∀ r, (t.warp cu.core cu.wix).vEmpty r = (mkCtx s cu i f).w.vEmpty r) ∧ (t.warp cu.core cu.wix).wE = (mkCtx s cu i f).w.wE
  preds : ∀ p l, l < 32 → (t.warp cu.core cu.wix).pGet p l = pAfter (mkCtx s cu i f) s e.prd p l
  flags : (t.warp cu.core cu.wix).fpstat = ((mkCtx s cu i f).w.orFlags (e.flg (mkCtx s cu i f) s)).fpstat

/-! ### The tables of the instructions that only compute -/

/-- n registers of D with a value in each lane. -/
def DataEff.d (n : Nat) (val : Ctx → State → Nat → Nat) : DataEff := { n := n, val := val }

/-- n registers of D with a value and flags in each lane. -/
def DataEff.fl (n : Nat) (val : Ctx → State → Nat → Nat × Flags) : DataEff :=
  { n := n, val := fun c s l => (val c s l).1, flg := fun c s => laneFlags c (fun l => (val c s l).2) }

/-- Predicate q with a value in each lane. -/
def DataEff.p (q : Nat) (b : Ctx → State → Nat → Bool) : DataEff := { prd := fun p => if p = q then some b else none }

/-- A + B + CP, or A − B − CP, exactly (R342). -/
def carrySum (t : Ty) (cp : BitVec 4) (sub : Bool) (c : Ctx) (s : State) (l : Nat) : Int :=
  let k : Int := if c.pred cp.toNat l then 1 else 0
  if sub then rdTy t (c.a s t.words l) - rdTy t (c.b s t.words l) - k else rdTy t (c.a s t.words l) + rdTy t (c.b s t.words l) + k

/-- Integer and logic instructions (R341 to R347), and cvset (R46). -/
def intEff : Instr → Option (Fmt × DataEff)
  | .add f t sat => some (f, .d t.words (fun c s l => narrow t sat (rdTy t (c.a s t.words l) + rdTy t (c.b s t.words l))))
  | .sub f t sat => some (f, .d t.words (fun c s l => narrow t sat (rdTy t (c.a s t.words l) - rdTy t (c.b s t.words l))))
  | .addc f t cp => some (f, { DataEff.p cp.toNat (fun c s l => (2 ^ tyBits t : Nat) ≤ carrySum t cp false c s l) with
      n := t.words, val := fun c s l => narrow t false (carrySum t cp false c s l) })
  | .subb f t cp => some (f, { DataEff.p cp.toNat (fun c s l => carrySum t cp true c s l < 0) with
      n := t.words, val := fun c s l => narrow t false (carrySum t cp true c s l) })
  | .mul f t => some (f, .d t.words (fun c s l => narrow t false (rdTy t (c.a s t.words l) * rdTy t (c.b s t.words l))))
  | .mulhi f t => some (f, .d t.words (fun c s l => narrow t false (mulHi t (c.a s t.words l) (c.b s t.words l))))
  | .mad f t => some (f, .d t.words (fun c s l =>
      narrow t false (rdTy t (c.a s t.words l) * rdTy t (c.b s t.words l) + rdTy t (c.c s t.words l))))
  | .madhi f t => some (f, .d t.words (fun c s l =>
      narrow t false (mulHi t (c.a s t.words l) (c.b s t.words l) + rdTy t (c.c s t.words l))))
  | .div f t => some (f, .d t.words (fun c s l => divI t (c.a s t.words l) (c.b s t.words l)))
  | .rem f t => some (f, .d t.words (fun c s l => remI t (c.a s t.words l) (c.b s t.words l)))
  | .min f t => some (f, .d t.words (fun c s l => narrow t false (min (rdTy t (c.a s t.words l)) (rdTy t (c.b s t.words l)))))
  | .max f t => some (f, .d t.words (fun c s l => narrow t false (max (rdTy t (c.a s t.words l)) (rdTy t (c.b s t.words l)))))
  | .abs f t sat => some (f, .d t.words (fun c s l => narrow t sat ((rdTy t (c.a s t.words l)).natAbs : Int)))
  | .neg f t sat => some (f, .d t.words (fun c s l => narrow t sat (-(rdTy t (c.a s t.words l)))))
  | .lea f t sh => some (f, .d 2 (fun c s l =>
      wrapN 64 ((c.a s 2 l : Int) + rdInt (t == .i32) 32 (c.b s 1 l) * (2 ^ sh.toNat : Nat)
        + (if f.len = .l128 then sInt 32 f.x.toNat else 0))))
  | .and f t => some (f, .d t.words (fun c s l => c.a s t.words l &&& c.b s t.words l))
  | .or f t => some (f, .d t.words (fun c s l => c.a s t.words l ||| c.b s t.words l))
  | .xor f t => some (f, .d t.words (fun c s l => c.a s t.words l ^^^ c.b s t.words l))
  | .not f t => some (f, .d t.words (fun c s l => 2 ^ tyBits t - 1 - c.a s t.words l % 2 ^ tyBits t))
  | .andn f t => some (f, .d t.words (fun c s l => c.a s t.words l &&& (2 ^ tyBits t - 1 - c.b s t.words l % 2 ^ tyBits t)))
  | .shl f t => some (f, .d t.words (fun c s l => shlN (tyBits t) (c.a s t.words l) (c.b s 1 l)))
  | .shr f t => some (f, .d t.words (fun c s l => shrN (tyBits t) (c.a s t.words l) (c.b s 1 l)))
  | .sar f t => some (f, .d t.words (fun c s l => sarN (tyBits t) (c.a s t.words l) (c.b s 1 l)))
  | .rot f t => some (f, .d t.words (fun c s l => rotN (tyBits t) (c.a s t.words l) (c.b s 1 l)))
  | .bfx f t => some (f, .d t.words (fun c s l => bfxN t (c.a s t.words l) (c.b s 1 l)))
  | .bfi f t => some (f, .d t.words (fun c s l => bfiN (tyBits t) (c.a s t.words l) (c.b s 1 l) (c.c s t.words l)))
  | .popc f t => some (f, .d 1 (fun c s l => popN (tyBits t) (c.a s t.words l)))
  | .clz f t => some (f, .d 1 (fun c s l => clzN (tyBits t) (c.a s t.words l)))
  | .ctz f t => some (f, .d 1 (fun c s l => ctzN (tyBits t) (c.a s t.words l)))
  | .brev f t => some (f, .d t.words (fun c s l => revN (tyBits t) (c.a s t.words l)))
  | .sel f t ps => some (f, .d t.words (fun c s l => if c.pred ps.toNat l then c.a s t.words l else c.b s t.words l))
  | .mov f t => some (f, .d t.words (fun c s l => c.a s t.words l))
  | .movi f t => some (f, .d t.words (fun c s l => c.a s t.words l))
  | .movd f _ lo => some (f, .d 2 (fun _ _ _ => lo.toNat + 2 ^ 32 * f.x.toNat))
  | .prmt f => some (f, .d 1 (fun c s l => prmtN (c.a s 1 l) (c.b s 1 l) (c.c s 1 l)))
  | .cvset f => some (f, .d 1 (fun c _ _ => c.active.toNat))
  | _ => none

/-- Predicate instructions (R336 to R340). -/
def predEff : Instr → Option (Fmt × DataEff)
  | .pset f k t => some (f, .p f.d.predN (fun c s l => ICmp.holds k (rdTy t (c.a s t.words l)) (rdTy t (c.b s t.words l))))
  | .psetf f k t => some (f, { DataEff.p f.d.predN (fun c s l => (FCmp.holds k (valOf t (c.a s t.words l)) (valOf t (c.b s t.words l))).1) with
      flg := fun c s => laneFlags c (fun l => (FCmp.holds k (valOf t (c.a s t.words l)) (valOf t (c.b s t.words l))).2) })
  | .plog f lut => some (f, .p f.d.predN (fun c _ l =>
      lut.getLsbD (4 * (if c.w.pGet f.a.predN l then 1 else 0) + 2 * (if c.w.pGet f.b.predN l then 1 else 0)
        + (if c.w.pGet f.c.predN l then 1 else 0))))
  | .pmovGet f => some (f, .d 1 (fun c _ l => (List.range 16).foldl (fun a k => if c.w.pGet k l then a + 2 ^ k else a) 0))
  | .pmovPut f => some (f, {
      prd := fun p =>
        if p < 16 then some (fun c s l => if (c.b s 1 l).testBit p then (c.a s 1 l).testBit p else c.w.pGet p l) else none })
  | .vote f .ballot => some (f, .d 1 (fun c _ _ => (c.active &&& c.w.pMask f.a.predN).toNat))
  | .vote f .any => some (f, .p f.d.predN (fun c _ _ => c.active &&& c.w.pMask f.a.predN != 0))
  | .vote f .all => some (f, .p f.d.predN (fun c _ _ => c.active &&& c.w.pMask f.a.predN == c.active))
  | .vote f .eq => some (f, .p f.d.predN (fun c _ _ =>
      c.active &&& c.w.pMask f.a.predN == 0 || c.active &&& c.w.pMask f.a.predN == c.active))
  | _ => none

/-- A value and flags from one, two or three sources in the lane's rounding mode (R154, R155). -/
def fl1 (f : Fmt) (nd n : Nat) (op : RC → Nat → Nat × Flags) : Option (Fmt × DataEff) :=
  some (f, .fl nd (fun c s l => op (c.w.rc f.pre l 0) (c.a s n l)))
def fl2 (f : Fmt) (nd n nb : Nat) (op : RC → Nat → Nat → Nat × Flags) : Option (Fmt × DataEff) :=
  some (f, .fl nd (fun c s l => op (c.w.rc f.pre l 0) (c.a s n l) (c.b s nb l)))
def fl3 (f : Fmt) (n : Nat) (op : RC → Nat → Nat → Nat → Nat × Flags) : Option (Fmt × DataEff) :=
  some (f, .fl n (fun c s l => op (c.w.rc f.pre l 0) (c.a s n l) (c.b s n l) (c.c s n l)))

/-- Floating-point instructions (R348 to R353). -/
def floatEff : Instr → Option (Fmt × DataEff)
  | .fadd f t => fl2 f t.words t.words t.words (fun rc a b => finish (fpOf t) rc (exAdd rc.mode (valOf t a) (valOf t b)))
  | .fsub f t => fl2 f t.words t.words t.words (fun rc a b => finish (fpOf t) rc (exAdd rc.mode (valOf t a) (valOf t b).neg))
  | .fmul f t => fl2 f t.words t.words t.words (fun rc a b => finish (fpOf t) rc (exMul (valOf t a) (valOf t b)))
  | .ffma f t => fl3 f t.words (fun rc a b c => finish (fpOf t) rc (exFma rc.mode (valOf t a) (valOf t b) (valOf t c)))
  | .fmin f t => fl2 f t.words t.words t.words (fun _ a b => minMaxNum (fpOf t) false a b)
  | .fmax f t => fl2 f t.words t.words t.words (fun _ a b => minMaxNum (fpOf t) true a b)
  | .fneg f t => some (f, .d t.words (fun c s l => (c.a s t.words l % 2 ^ tyBits t) ^^^ signBit t))
  | .fabs f t => some (f, .d t.words (fun c s l => c.a s t.words l % signBit t))
  | .fcsign f t => some (f, .d t.words (fun c s l =>
      c.a s t.words l % signBit t + c.b s t.words l % 2 ^ tyBits t / signBit t * signBit t))
  | .fdiv f t => fl2 f t.words t.words t.words (fun rc a b => finish (fpOf t) rc (exDiv (valOf t a) (valOf t b)))
  | .fsqrt f t => fl1 f t.words t.words (fun rc a => finish (fpOf t) rc (exSqrt (valOf t a)))
  | .fscale f t => fl2 f t.words t.words 1 (fscaleV t)
  | .fgexp f t => fl1 f 1 t.words (fun _ a => fgexpV t a)
  | .frnd f t => fl1 f t.words t.words (frndV t)
  | .fcls f t => some (f, .d 1 (fun c s l => fclsV t (c.a s t.words l)))
  | .fcvt f dt st inf => fl1 f dt.words st.words (cvtV dt st inf)
  | .icvt f dt st inf => fl1 f dt.words st.words (cvtV dt st inf)
  | _ => none

/-- Special functions (R172, R173, R354). -/
def specEff : Instr → Option (Fmt × DataEff)
  | .vsin f => fl1 f 1 1 (fun _ a => special 0x080 (BitVec.ofNat 32 a))
  | .vcos f => fl1 f 1 1 (fun _ a => special 0x081 (BitVec.ofNat 32 a))
  | .vscs f => fl1 f 2 1 (fun _ a =>
      ((special 0x080 (BitVec.ofNat 32 a) 0x182).1 + 2 ^ 32 * (special 0x081 (BitVec.ofNat 32 a) 0x282).1,
        (special 0x080 (BitVec.ofNat 32 a) 0x182).2 ||| (special 0x081 (BitVec.ofNat 32 a) 0x282).2))
  | .vex2 f => fl1 f 1 1 (fun _ a => special 0x083 (BitVec.ofNat 32 a))
  | .vlg2 f => fl1 f 1 1 (fun _ a => special 0x084 (BitVec.ofNat 32 a))
  | .vrcp f => fl1 f 1 1 (fun _ a => special 0x085 (BitVec.ofNat 32 a))
  | .vrsq f => fl1 f 1 1 (fun _ a => special 0x086 (BitVec.ofNat 32 a))
  | .vtanh f => fl1 f 1 1 (fun _ a => special 0x087 (BitVec.ofNat 32 a))
  | _ => none

/-- Each sub-element by itself, with its own draw (R356). -/
def fl1s (f : Fmt) (t : Ty) (op : RC → Nat → Nat → Nat → Nat → Nat × Flags) : Option (Fmt × DataEff) :=
  some (f, .fl 1 (fun c s l => subwise c.w f.pre l t (fun rc k => op rc (c.a s 1 l) (c.b s 1 l) (c.c s 1 l) k)))

/-- Packed instructions (R355 to R358). -/
def packEff : Instr → Option (Fmt × DataEff)
  | .padd f t inf => fl1s f t (fun rc a b _ k =>
      subArith t inf (subInt t a k + subInt t b k) (fun rc => exAdd rc.mode (subVal t a k) (subVal t b k)) rc)
  | .psub f t inf => fl1s f t (fun rc a b _ k =>
      subArith t inf (subInt t a k - subInt t b k) (fun rc => exAdd rc.mode (subVal t a k) (subVal t b k).neg) rc)
  | .pmul f t inf => fl1s f t (fun rc a b _ k =>
      subArith t inf (subInt t a k * subInt t b k) (fun _ => exMul (subVal t a k) (subVal t b k)) rc)
  | .pfma f t inf => fl1s f t (fun rc a b d k =>
      subArith t inf (subInt t a k * subInt t b k + subInt t d k)
        (fun rc => exFma rc.mode (subVal t a k) (subVal t b k) (subVal t d k)) rc)
  | .pmin f t => fl1s f t (fun _ a b _ k => subMinMax t false a b k)
  | .pmax f t => fl1s f t (fun _ a b _ k => subMinMax t true a b k)
  | .pdot f t inf => fl3 f 1 (pdotV t inf)
  | .pcvt f dt st inf => fl1s f dt (fun rc a _ _ k =>
      if dt == st then (if (subVal st a k).isNaN && !st.isPInt then ((fpOf st).cnan, 0) else (subOf st a k, 0))
      else subCvt dt inf rc (subVal st a k))
  | .ppack f t pos inf => some (f, .fl 1 (fun c s l =>
      let x := subCvt t inf (c.w.rc f.pre l pos.toNat) (if t.isPInt then fvInt (sInt 32 (c.a s 1 l)) else valOf .f32 (c.a s 1 l))
      (packOf t (fun k => if k = pos.toNat then x.1 else subOf t (c.b s 1 l) k), x.2)))
  | .punpk f t pos => fl1 f 1 1 (fun _ a =>
      if t.isPInt then (wrapN 32 (subInt t a pos.toNat), 0) else cvtFloat (fpOf .f32) true .rne (subVal t a pos.toNat))
  | .pabs f t inf => some (f, .d 1 (fun c s l =>
      packOf t (fun k =>
        if t.isPInt then subNarrow t inf ((subInt t (c.a s 1 l) k).natAbs : Int) else subOf t (c.a s 1 l) k % 2 ^ (subBits t - 1))))
  | _ => none

/-- The values of the lanes after the steps of lred (R361). -/
def lredEnd (f : Fmt) (t : Ty) (o : Sys2Proof.ROp) (seg : BitVec 3) (c : Ctx) (s : State) : List Nat × Flags :=
  steps c.active (fun k x l => ROp.apply o t (c.w.rc f.pre (l - l % 2 ^ (k + 1)) 0) (x.getD l 0) (x.getD (l ^^^ 2 ^ k) 0))
    (segSteps seg) 0 (c.start s o t) 0

/-- The values of the lanes after the steps of lscan (R362). -/
def lscanEnd (f : Fmt) (t : Ty) (o : Sys2Proof.ROp) (seg : BitVec 3) (c : Ctx) (s : State) : List Nat × Flags :=
  steps c.active (fun k x l =>
    if 2 ^ k ≤ l % segLen seg then ROp.apply o t (c.w.rc f.pre l 0) (x.getD (l - 2 ^ k) 0) (x.getD l 0) else (x.getD l 0, 0))
    (segSteps seg) 0 (c.start s o t) 0

/-- Cross-lane and random instructions that need nothing of a finished lane (R359 to R362, R364). -/
def laneEff : Instr → Option (Fmt × DataEff)
  | .lshf f t m seg => some (f, .d t.words (fun c s l =>
      match shufLane m (segLen seg) l (c.b s 1 l) with
      | some j => c.a s t.words (if c.active.getLsbD j then j else l)
      | none => c.a s t.words l))
  | .lred f t o seg => some (f, { n := 1, val := fun c s l => (lredEnd f t o seg c s).1.getD l 0
                                  flg := fun c s => (lredEnd f t o seg c s).2 })
  | .lscan f t o seg exc => some (f, { n := 1
                                       val := fun c s l =>
                                         if !exc then (lscanEnd f t o seg c s).1.getD l 0
                                         else if l % segLen seg = 0 then ROp.identity o t
                                         else (lscanEnd f t o seg c s).1.getD (l - 1) 0
                                       flg := fun c s => (lscanEnd f t o seg c s).2 })
  | .vhash f => some (f, .d 2 (fun c s l => (elemHash (BitVec.ofNat 64 (c.a s 2 l)) c.w.seed).toNat))
  | .vdrop f => some (f, .d 1 (fun c s l =>
      if (elemHash (BitVec.ofNat 64 (c.b s 2 l)) c.w.seed).toNat / 2 ^ 48 < c.c s 1 l % 65536 then 0 else c.a s 1 l))
  | _ => none

/-- Status registers (R296, R297, R334). -/
def statEff : Instr → Option (Fmt × DataEff)
  | .sget f x => some (f, .d (if x.toNat = 8 || x.toNat = 13 then 2 else 1) (fun c s l => c.status s x.toNat l))
  | _ => none

/-- The word of qstat (R400): entries to pop, entries to push, the direction, drained, closed. -/
def qstatWord (qn : BitVec 3) (c : Ctx) (s : State) : Nat :=
  let b := c.w.binding qn.toNat
  let g := s.group c.core c.w.gid
  let r := g.ring b.2.2
  (r.commit - r.head) + ((g.ringDef b.2.2).2.1 + r.dlv - r.tail) % 2 ^ 9 * 2 ^ 9 + (if b.2.1 then 2 ^ 18 else 0)
    + (if (r.closeAt.map (fun x => decide (x ≤ r.head))).getD false then 2 ^ 30 else 0) + (if r.closeAt.isSome then 2 ^ 31 else 0)

/-- The value that lbc gives a lane when the source lane has exited: free (R363, log entry 3). -/
def freeLane (s : State) (l : Nat) : Nat :=
  (Config.freeWord (s.fresh + 2 * l)).toNat + 2 ^ 32 * (Config.freeWord (s.fresh + 2 * l + 1)).toNat

/-! ### Instructions that change their own warp -/

/-- What an instruction makes of its warp, once the lanes of the path have advanced (R46 to R48, R327, R329, R331, R335, R413). -/
def ctlEff : Instr → Option (Fmt × (Ctx → State → Warp → Warp))
  | .nop f => some (f, fun _ _ w => w)
  | .exit f => some (f, fun c _ w => w.finish c.active)
  | .cvwait f => some (f, fun c s w => w.arrive f.a.wN (BitVec.ofNat 32 (c.a s 1 c.low)) c.active c.next)
  | .yield f => some (f, fun c s w => { w with wait := .yield ((s.slice c.core c.slice).cyc + 17) })
  | .sset f x => some (f, fun c s w =>
      if x.toNat = 13 then { w with seed := BitVec.ofNat 64 (c.a s 2 c.low) } else { w with fpstat := fpstatOf (c.a s 1 c.low) })
  | .mxhint f => some (f, fun _ _ w => w)
  | _ => none

/-- The instruction changes its own warp as g says, and nothing else but its slice's clocks. -/
structure WarpDone (i : Instr) (f : Fmt) (g : Warp → Warp) (cu : Cur) (s t : State) : Prop where
  away : Elsewhere cu.core s t
  only : OnlyWarp i f cu s t
  warp : t.warp cu.core cu.wix = g ((mkCtx s cu i f).w.advance (mkCtx s cu i f).lanes (mkCtx s cu i f).next)

/-- The PC of a lane after a branch (R37, R328): its target in ACTIVE, the next PC in the path's other lanes. -/
def branchPc (c : Ctx) (s : State) (l : Nat) (p : DWord) : DWord :=
  if c.active.getLsbD l then BitVec.ofNat 64 (c.target s l) else if c.lanes.getLsbD l then c.next else p

/-- A branch is taken: the lanes go where branchPc says, D of a call takes the next PC, every other register, predicate and flag keeps
its value. -/
structure Branched (i : Instr) (f : Fmt) (n : Nat) (cu : Cur) (s t : State) : Prop where
  away  : Elsewhere cu.core s t
  only  : OnlyWarp i f cu s t
  frame : t.warp cu.core cu.wix = { (mkCtx s cu i f).w with
    pcs := (t.warp cu.core cu.wix).pcs, since := 0, needs := [], v := (t.warp cu.core cu.wix).v, vE := (t.warp cu.core cu.wix).vE
    w := (t.warp cu.core cu.wix).w, wE := (t.warp cu.core cu.wix).wE }
  pcs   : ∀ l, l < 32 → (t.warp cu.core cu.wix).pcs[l]? =
    ((mkCtx s cu i f).w.pcs[l]?).map (branchPc (mkCtx s cu i f) s l)
  v     : ∀ r l, l < 32 → (t.warp cu.core cu.wix).vGet r l =
    vAfter (mkCtx s cu i f) i n (fun _ => (mkCtx s cu i f).next.toNat) r l
  w     : ∀ r, (t.warp cu.core cu.wix).wGet r = wAfter (mkCtx s cu i f) n (fun _ => (mkCtx s cu i f).next.toNat) r

/-- bra, brx, call and ret, with the registers that each writes (R328). -/
def branchOf : Instr → Option (Fmt × Nat)
  | .bra f | .brx f | .ret f => some (f, 0)
  | .call f => some (f, 2)
  | _ => none

/-! ### Faults -/

/-- No doorbell rings on the core (R439). -/
def noBell (c : Nat) (s : State) : Bool := (s.core c).mbdb == 0

/-- The CP error ring is off: records are counted in ERLOST and written nowhere (R459, R460). -/
def ringOff (s : State) : Bool := s.cpw oERCFG % 2 == 0

/-- The record that the mailbox takes for a fault of the instruction that is issuing (R457, R458, R461). -/
def faultEntry (cu : Cur) (s : State) (r : FRec) : MEntry :=
  let q : FRec := { s.recAt cu.core cu.wix cu.pc.toNat cu.ib r with stop := true, ptb := s.ptb }
  ⟨1, q.bytes s, cu.wix, q.gen⟩

/-- A user warp has stopped at its instruction with a fault (R461): the warp is as it was but for the stop, the record is the last entry of
the mailbox, and nothing else changes. -/
structure FaultTaken (cu : Cur) (s t : State) (r : FRec) : Prop where
  away : Elsewhere cu.core s t
  core : t.core cu.core = { s.core cu.core with
    warps := (t.core cu.core).warps, mbox := (s.core cu.core).mbox ++ [faultEntry cu s r] }
  warps : ∀ k, k ≠ cu.wix → (t.core cu.core).warp? k = (s.core cu.core).warp? k
  warp : t.warp cu.core cu.wix =
    { s.warp cu.core cu.wix with stopped := true, stopAt := some (cu.pc, cu.pc + BitVec.ofNat 64 cu.size), since := 0 }

/-- Where a fault of the issuing warp is taken so: a user warp of class 1, 2 or 4, with room in the mailbox and no doorbell. -/
def takes (cu : Cur) (s : State) (r : FRec) : Bool :=
  s.cur == some cu && s.stop == none && ((s.core cu.core).warp? cu.wix).isSome && !(s.warp cu.core cu.wix).sup
    && decide ((s.core cu.core).mbox.length < 64) && noBell cu.core s && (r.cls == 1 || r.cls == 2 || r.cls == 4)

/-! ### Queue registers -/

/-- The ring of the group of the issuing warp that queue register q is bound to (R90, R92). -/
def ringOf (c : Ctx) (q : Nat) (s : State) : Ring := (s.group c.core c.w.gid).ring (c.w.binding q).2.2

/-! ### What an instruction that goes beyond its warp leaves alone -/

/-- On the issuing core only the issuing warp, its slice's clocks, the rings of its group where a queue register is named, and what g
changes differ; the scratchpad is left out when sp is true. -/
structure OnCore (i : Instr) (f : Fmt) (g : Core → Core) (sp : Bool) (cu : Cur) (s t : State) : Prop where
  core  : t.core cu.core = { g (s.core cu.core) with
    warps := (t.core cu.core).warps, slices := (t.core cu.core).slices, groups := (t.core cu.core).groups, sp := (t.core cu.core).sp }
  queue : queueUses i f = [] → (t.core cu.core).groups = (s.core cu.core).groups ∧ (sp = false → (t.core cu.core).sp = (s.core cu.core).sp)
  warps : ∀ k, k ≠ cu.wix → (t.core cu.core).warp? k = (s.core cu.core).warp? k

/-- The warp that issued is as g makes it, once the lanes of its path have advanced. -/
def WarpIs (i : Instr) (f : Fmt) (g : Warp → Warp) (cu : Cur) (s t : State) : Prop :=
  t.warp cu.core cu.wix = g ((mkCtx s cu i f).w.advance (mkCtx s cu i f).lanes (mkCtx s cu i f).next)

/-- A warp is as before, or a monitor's wake has reached it (R123). -/
def WokenOnly (w x : Warp) : Prop := x = { w with preds := x.preds, wait := x.wait, result := x.result, age := x.age }

/-! ### Memory instructions -/

/-- For how long the unit is taken (R326, R369). -/
def occFor (i : Instr) (c : Ctx) (s : State) : Nat :=
  match i with
  | .ld _ sp sz _ _ _ sh => c.memOcc s sp (szBytes sz) sh.toNat
  | .ldro _ sz sh => c.memOcc s .g (szBytes sz) sh.toNat
  | .st _ sp sz _ _ sh => c.memOcc s sp (szBytes sz) sh.toNat
  | .atom _ _ ty _ _ _ sp sh => c.memOcc s (if sp then .s else .g) (tyBytes ty) sh.toNat
  | .red _ _ ty _ _ sh => c.memOcc s .g (tyBytes ty) sh.toNat
  | i => c.occOf s i

/-- The state in which the meaning of an instruction acts. -/
def starts (i : Instr) (f : Fmt) (cu : Cur) (s : State) : State := begun i f (occFor i) cu s

/-- The location exists (R110). -/
def State.there (s : State) : Loc → Bool
  | .hbm pa => s.locExists (locOf pa)
  | _ => true

/-- No monitor entry watches a byte of the access, and no entry is spilled (R121, R125). -/
def State.unwatched (s : State) (x : Loc) (n : Nat) : Bool :=
  match x with
  | .hbm pa => s.mons.all (fun m => locOf pa + n ≤ locOf m.pa || locOf m.pa + m.bytes ≤ locOf pa)
  | _ => true

/-- No monitor entry is spilled (R125). -/
def State.unspilled (s : State) : Bool := s.mons.all (fun m => !m.spilled)

/-- No byte of the access is in a race (R134, R141). -/
def State.unraced (s : State) (ac : Acc) (x : Loc) (n : Nat) : Bool :=
  match x with
  | .hbm pa => !(s.hb.raced ac (locOf pa) n).any id
  | .host a => !(s.hb.raced ac.hostSc (hbHost (locOf a)) n).any id
  | .sp k a => !(s.hb.raced ac.spSc (hbSp k a) n).any id
  | _ => true

/-- The bytes at a place that can be read without a packet and is not poisoned. -/
def State.holds (s : State) (c : Ctx) (x : LAcc) (n : Nat) : Option (List Byte) :=
  match x.loc with
  | .hbm pa => if s.poisoned pa then none else some (s.peek pa n)
  | .host a => some (SMap.getN s.hostMem n (locOf a))
  | .sp k a => some (SMap.getN (s.core k).sp n a)
  | .const off => some ((List.range n).map (fun j => (s.group c.core c.w.gid).constByte c.w.warp x.lane (off + j)))
  | _ => none

/-- Two accesses of n bytes touch different bytes: in local HBM, different sectors, or different bytes under one key (R111). -/
def Loc.apart (n : Nat) (x y : Loc) : Bool :=
  match x, y with
  | .hbm p, .hbm q => locOf p / 64 != locOf q / 64 || (keyOf p == keyOf q && (locOf p + n ≤ locOf q || locOf q + n ≤ locOf p))
  | .host p, .host q => locOf p + n ≤ locOf q || locOf q + n ≤ locOf p
  | .sp k p, .sp j q => k != j || p + n ≤ q || q + n ≤ p
  | _, _ => true

/-- An access of n bytes leaves the byte at a physical address as it reads (R111). -/
def Loc.sparesPA (n : Nat) (pa : Nat) : Loc → Bool
  | .hbm q => locOf pa / 64 != locOf q / 64 || (keyOf pa == keyOf q && (locOf pa < locOf q || locOf q + n ≤ locOf pa))
  | _ => true

/-- The same for a byte of host memory, and for a byte of a scratchpad. -/
def Loc.sparesHost (n : Nat) (a : Nat) : Loc → Bool
  | .host q => a < locOf q || locOf q + n ≤ a
  | _ => true
def Loc.sparesSp (n : Nat) (k a : Nat) : Loc → Bool
  | .sp j q => k != j || a < q || q + n ≤ a
  | _ => true

/-- No port waits for its last flits to go before it turns dark (R247), so that what is sent moves no port's state. -/
def State.noDark (s : State) : Bool :=
  (List.range 64).all (fun i => !(s.portState i == 2 && (s.port (31 + i)).marked && (s.port (31 + i)).farMarked))

/-- What an access that only reads leaves of the package: all but ERLOST and its limits, a port that turns dark as its last flits go, the free values used, happens-before, the record of
the mixed-size check, and what sending requests moves. -/
structure Looked (i : Instr) (f : Fmt) (cu : Cur) (s t : State) : Prop where
  rest  : t = { s with
    cores := t.cores, cp := t.cp, rate := t.rate, fresh := t.fresh, hb := t.hb, strong := t.strong, tag := t.tag, hot := t.hot
    dests := t.dests, ports := t.ports, outs := t.outs, agenda := t.agenda, cur := none, issued := true }
  cp    : ∀ k, k ≠ oERLOST / 8 → s.noDark = true ∨ k < oGPCTL / 8 ∨ oGPCTL / 8 + 64 ≤ k → t.cp.get k = s.cp.get k
  other : ∀ k, k ≠ cu.core → t.core k = s.core k
  core  : OnCore i f (fun k => { k with tlb := (t.core cu.core).tlb }) false cu s t

/-- What an access that writes leaves of the package beside: everything but memory, its key tags and poison marks, the monitors and the
warps they wake. -/
structure Wrote (i : Instr) (f : Fmt) (cu : Cur) (s t : State) : Prop where
  rest  : t = { s with
    cores := t.cores, cp := t.cp, rate := t.rate, fresh := t.fresh, hb := t.hb, strong := t.strong, tag := t.tag, hot := t.hot
    dests := t.dests, srcs := t.srcs, ports := t.ports, outs := t.outs, agenda := t.agenda, mem := t.mem, keyTag := t.keyTag, poison := t.poison, undo := t.undo
    hostMem := t.hostMem, mons := t.mons, cur := none, issued := true }
  cp    : ∀ k, k ≠ oERLOST / 8 → s.noDark = true ∨ k < oGPCTL / 8 ∨ oGPCTL / 8 + 64 ≤ k → t.cp.get k = s.cp.get k
  other : ∀ k, k ≠ cu.core → t.core k = { s.core k with warps := (t.core k).warps, sp := (t.core k).sp }
  core  : t.core cu.core = { s.core cu.core with
    warps := (t.core cu.core).warps, slices := (t.core cu.core).slices, groups := (t.core cu.core).groups, sp := (t.core cu.core).sp
    tlb := (t.core cu.core).tlb }
  queue : queueUses i f = [] → (t.core cu.core).groups = (s.core cu.core).groups
  warps : ∀ k j, (k = cu.core → j ≠ cu.wix) → WokenOnly (s.warp k j) (t.warp k j)

/-- Every byte that no lane stores to reads as before. -/
structure BytesKept (ls : List LAcc) (n : Nat) (s t : State) : Prop where
  hbm  : ∀ pa, (∀ x ∈ ls, x.loc.sparesPA n pa = true) → t.peek pa 1 = s.peek pa 1
  host : ∀ a, (∀ x ∈ ls, x.loc.sparesHost n a = true) → SMap.get t.hostMem a = SMap.get s.hostMem a
  sp   : ∀ k a, (∀ x ∈ ls, x.loc.sparesSp n k a = true) → (t.core k).sp.get a = (s.core k).sp.get a

/-- The place can be written without a packet, under a key that is loaded. -/
def State.takesBytes (s : State) (x : Loc) : Bool :=
  match x with
  | .hbm pa => (s.keyDraw (keyOf pa)).isSome
  | .host _ | .sp _ _ => true
  | _ => false

/-- The form of a load: space, bytes per lane, sign extension, scale, how the access is made, and whether it takes the read-only path. -/
structure LoadForm where
  sp : Space
  n  : Nat
  sx : Bool
  sh : Nat
  ac : Ctx → Acc
  ro : Bool

/-- ld and ldro (R372, R373). -/
def loadForm : Instr → Option (Fmt × LoadForm)
  | .ld f sp sz ord sco pr sh => some (f, ⟨sp, szBytes sz, szSx sz, sh.toNat, fun c => Acc.of (.warp c.core c.wix) ord sco pr, false⟩)
  | .ldro f sz sh => some (f, ⟨.g, szBytes sz, szSx sz, sh.toNat, fun c => Acc.weak (.warp c.core c.wix), true⟩)
  | _ => none

/-- The operation of the warp that fills D when the data of a load or an atomic returns (R54, R372). -/
def fillOp (c : Ctx) (kind : OpKind) (words n : Nat) (vals : List (Nat × Nat)) (reqs : List Req) (bad : Option Nat) (at_ : Nat)
    (later : List (Packet × Req) := []) (acc : Option Acc := none) : Op :=
  let d : Nat × Bool := match c.f.d with | .v r => (r, true) | .w r => (r, true) | _ => (0, false)
  { id := 0, kind := kind, fills := c.fillsOf words vals, reqs := reqs, later := later, acc := acc, w := d.2, reg := d.1, sz := n
    stopVA := bad, issued := at_ }

/-- Every lane of an access to a peer waits for a packet sent to it (R227 to R230). -/
def peersAsked (ls : List LAcc) (n : Nat) (sx : Bool) (reqs : List Req) : Prop :=
  ∀ x ∈ ls, ∀ d pa, x.loc = .peer d pa → ∃ r ∈ reqs, r.dst = d ∧ r.pa = pa / 64 * 64 ∧ ⟨x.lane, pa % 64, n, sx⟩ ∈ r.lanes

/-- Each request has been sent and is not yet acknowledged, or follows one that is not (R226). -/
def allSent (reqs : List Req) (later : List (Packet × Req)) (w : Warp) : Prop := ∀ r ∈ reqs, r ∈ w.unacked ∨ r ∈ later.map Prod.snd

/-! ### Barrier objects -/

/-- A barrier object is as given afterwards, and every other byte of the scratchpads, every other core's registers, memory and the CP are
as before (R390). -/
structure BarDone (i : Instr) (f : Fmt) (core phys : Nat) (o : Bar) (bars : List Nat) (cu : Cur) (s t : State) : Prop where
  rest  : t = { s with cores := t.cores, hb := t.hb, cur := none, issued := true }
  obj   : barOf (SMap.getN (t.core core).sp 16 phys) = o
  sp    : queueUses i f = [] → ∀ k a, ¬(k = core ∧ phys ≤ a ∧ a < phys + 16) → (t.core k).sp.get a = (s.core k).sp.get a
  listed : (t.core core).bars = bars
  other : ∀ k, k ≠ cu.core → t.core k = { s.core k with sp := (t.core k).sp, bars := (t.core k).bars }
  bars  : ∀ k, k ≠ core → (t.core k).bars = (s.core k).bars
  on    : OnCore i f (fun k => { k with bars := (t.core cu.core).bars }) true cu s t

/-- The object as a barrier instruction reads it. -/
def State.bar (s : State) (core phys : Nat) : Bar := barOf (SMap.getN (s.core core).sp 16 phys)

/-- Where a core's park area lies (R10, R189). -/
def State.parkArea (s : State) (c : Nat) : Nat := (s.core c).slot.park

/-- The park area of a core lies in memory that exists, under a key that is loaded, and no monitor entry watches it. -/
structure ParkOpen (c : Nat) (s : State) : Prop where
  key  : (s.keyDraw (keyOf (s.parkArea c))).isSome = true
  base : s.parkArea c % 2 ^ 20 = 0
  here : ∀ a, a < 2 ^ 20 → s.locExists (locOf (s.parkArea c + a)) = true
  mons : ∀ m ∈ s.mons, locOf m.pa + m.bytes ≤ locOf (s.parkArea c) ∨ locOf (s.parkArea c) + 2 ^ 20 ≤ locOf m.pa

/-- Of memory only the park area of a core may differ. -/
def OutsidePark (c : Nat) (s t : State) : Prop :=
  ∀ qa, locOf qa / 2 ^ 20 ≠ locOf (s.parkArea c) / 2 ^ 20 → t.peek qa 1 = s.peek qa 1

/-- A warp has room in the park area (R59). -/
def State.parkFits (s : State) (c : Nat) (w : Warp) : Bool :=
  decide ((s.core c).parked.foldl (fun n w => n + w.parkBytes) 0 + w.parkBytes ≤ 2 ^ 20)

/-- No other resident user warp of the slice shares registers or tiles with the warp, or its slot (R52). -/
def Core.alone (k : Core) (w : Warp) (sl n : Nat) : Prop :=
  ∀ u ∈ k.warps, u ≠ w → u.sup = false → ∀ m, u.place = some (sl, m) →
    m ≠ n ∧ (u.vBase + u.vBud ≤ w.vBase ∨ w.vBase + w.vBud ≤ u.vBase) ∧ (u.aBase + u.aBud ≤ w.aBase ∨ w.aBase + w.aBud ≤ u.aBase)

/-- What R202 places in a vault of a resident warp: the lanes of its v registers, their full bits, and its tiles. -/
structure Imaged (vault : Nat) (w : Warp) (sl : Nat) (t : State) : Prop where
  v    : ∀ r l, r < w.vBud → l < 32 → t.peek (vault + 0x30000 + 0x20000 * sl + 128 * (w.vBase + r) + 4 * l) 4 = leBytes 4 (w.vGet r l)
  full : ∀ r, r < w.vBud → t.peek (vault + 0x29000 + 4 * (1024 * sl + w.vBase + r)) 4 = leBytes 4 (~~~ (w.vEmpty r)).toNat
  acc  : ∀ q j, q < w.aBud → j < 128 →
    t.peek (vault + 0xB0000 + 0x10000 * sl + 512 * (w.aBase + q) + 4 * j) 4 = leBytes 4 (w.acc.get (128 * q + j)).toNat

/-- A change of the warp can be laid in its park record: it is resident, or its record lies in a park area that is open (R61). -/
def Layable (c wix : Nat) (s : State) : Prop :=
  (s.warp c wix).place.isSome = true ∨ (ParkOpen c s ∧ (s.warp c wix).parkAt + (s.warp c wix).parkBytes ≤ 2 ^ 20)

/-- t is u, but for the park record of the warp where it is parked (R61). -/
structure Relaid (c wix : Nat) (u t : State) : Prop where
  rest : t = { u with mem := t.mem, keyTag := t.keyTag, poison := t.poison, undo := t.undo }
  park : OutsidePark c u t
  here : (u.warp c wix).place.isSome = true → t = u

/-- What await.ph.g and await.mem watch: bytes of the word, its VA, the entry and the wait (R387, R388). -/
def watchOf (c : Ctx) (s : State) : Instr → Option (Nat × Nat × Mon × Wait)
  | .awaitPhG _ sc => some (8, c.a s 2 c.low, c.monOf s .meq true sc (1 - c.b s 1 c.low % 2) 1 0, .phg sc)
  | .awaitMem f cmp dw sc =>
    let n := if dw then 2 else 1
    some (4 * n, wrapN 64 ((c.a s 2 c.low : Int) + (if c.f.len = .l128 then sInt 32 c.f.x.toNat else 0)),
      c.monOf s cmp dw sc (c.b s n c.low) (c.c s n c.low) (c.fourth s 2 c.low), .mem c.active f.d.predN sc)
  | _ => none

/-! ### The matrix unit -/

/-- The operation that the M counter counts (R137, R401). -/
def matOp (at_ : Nat) : Op := { id := 0, kind := .mat, cls := some .m, issued := at_ }

/-- What a matrix instruction leaves alone: everything but the tiles, v registers and FPSTAT of its warp, its M counter, and the scratchpad
where sp says that the destination lies there. -/
structure MatDone (i : Instr) (f : Fmt) (sp : Bool) (cu : Cur) (s t : State) : Prop where
  rest  : t = { s with cores := t.cores, hb := t.hb, fresh := t.fresh, cur := none, issued := true }
  other : ∀ k, k ≠ cu.core → t.core k = { s.core k with sp := (t.core k).sp }
  on    : OnCore i f (fun k => k) true cu s t
  sp    : sp = false → ∀ k, (t.core k).sp = (s.core k).sp
  warp  : let w := (starts i f cu s).warp cu.core cu.wix
          t.warp cu.core cu.wix = { w with
            acc := (t.warp cu.core cu.wix).acc, v := (t.warp cu.core cu.wix).v, vE := (t.warp cu.core cu.wix).vE
            fpstat := (t.warp cu.core cu.wix).fpstat, ops := (w.addOp (matOp s.ptb)).ops }

/-- The tiles from base b that ts names hold the words w gives, and no other tile changes. -/
def TilesAre (b : Nat) (ts : List Nat) (w : Nat → Nat → Nat) (x y : Warp) : Prop :=
  (∀ j ∈ ts, ∀ k, k < 128 → y.tileWord (b + j) k = w j k % 2 ^ 32)
  ∧ ∀ n k, (∀ j ∈ ts, n ≠ b + j) → k < 128 → y.tileWord n k = x.tileWord n k

/-- The v registers and FPSTAT of a warp are the same. -/
def RegsKept (x y : Warp) : Prop := y.v = x.v ∧ y.vE = x.vE ∧ y.fpstat = x.fpstat

/-- An operand of mma (R402). -/
def mmaOpd (c : Ctx) (s : State) (o : Opd) (isB sp : Bool) (sl : Slot) (pw : BitVec 7) (k : Nat) : MOpd :=
  ⟨sl, sp, o.vN, c.src s o 1 c.low, if sp then c.w.wGet pw.toNat else 0, k, isB⟩

/-- What mma reads when none of R402 to R407 faults: the tiles in scratchpad, N, and the rows of A and the columns of B of each quarter, their
scales included. -/
def mmaReadsAll (c : Ctx) (s : State) (m : MmaMods) (zero : Bool) :
    Option (List (Nat × Nat × Nat) × Nat × List (Nat × List (List FV) × List (List FV))) :=
  let g := s.group c.core c.w.gid
  let sa := g.slot m.sla.toNat
  let sb := g.slot m.slb.toNat
  let qs := quarters m.nqm
  let low := qs.headD 0
  match (if m.dsp then c.tilesAt s (c.src s c.f.d 1 c.low) qs else .ok []), mmaShape sa sb with
  | .ok sp, some (k, n) =>
    let a := mmaOpd c s c.f.a false m.asp sa m.apw k
    let b := mmaOpd c s c.f.b true m.bsp sb m.bpw k
    match c.mmaFault m a b, c.tensorScale s sa with
    | none, (.ok ta, s1) =>
      match c.tensorScale s1 sb with
      | (.ok tb, s2) =>
        match c.mmaReads (mmaKind sa sb) m.inf zero n a b ta tb low qs s2 with
        | (.ok rows, _) => some (sp, n, rows)
        | _ => none
      | _ => none
    | _, _ => none
  | _, _ => none

/-- Word k of a tile after mma, when old gives the words before (R168, R169, R408, R409). -/
def mmaWord (c : Ctx) (s : State) (m : MmaMods) (zero : Bool) (n : Nat) (x : List (List FV) × List (List FV)) (old : Nat → Nat) (k : Nat) : Nat :=
  let g := s.group c.core c.w.gid
  (((tileNew (mmaKind (g.slot m.sla.toNat) (g.slot m.slb.toNat)) m.inf zero n x.1 x.2 old).1.find? (fun p => p.1 == k)).map Prod.snd).getD (old k)

/-- The flags of a quarter (R167, R168). -/
def mmaFlags (c : Ctx) (s : State) (m : MmaMods) (zero : Bool) (n : Nat) (x : List (List FV) × List (List FV)) (old : Nat → Nat) : Flags :=
  let g := s.group c.core c.w.gid
  (tileNew (mmaKind (g.slot m.sla.toNat) (g.slot m.slb.toNat)) m.inf zero n x.1 x.2 old).2

/-- mma and mmaz. -/
def mmaOf : Instr → Option (Fmt × MmaMods × Bool)
  | .mma f m => some (f, m, false)
  | .mmaz f m => some (f, m, true)
  | _ => none

/-- Words (register and lane, and value) that a conversion writes into the registers from d, later ones over earlier ones. -/
def wordsGet (d : Nat) (out : List ((Nat × Nat) × Nat)) (w : Warp) (r l : Nat) : Nat :=
  match out.reverse.find? (fun p => d + p.1.1 == r && p.1.2 == l) with
  | some p => p.2 % 2 ^ 32
  | none => w.vGet r l

/-- The blocks that qpack and rqnt encode, and the elements that qunpk decodes, when the slot fits (R415 to R417): words and flags. -/
def convOut (c : Ctx) (s : State) : Instr → Option (List ((Nat × Nat) × Nat) × Flags)
  | .qpack f inf sl =>
    let q := (s.group c.core c.w.gid).slot sl.toNat
    match c.tensorScale s q with
    | (.ok ts, _) =>
      let bs := (List.range q.nblocks).map (fun β =>
        encBlock c q inf ts none ((blockElems c.active q.blk β).map (fun p => (p, fvOf (fpOf .f32) (c.w.vGet (f.a.vN + p.1) p.2)))))
      let some_ := (List.range q.nblocks).filter (fun β => !(blockElems c.active q.blk β).isEmpty)
      if q.packs then some (some_.flatMap (fun β => (bs.getD β ([], 0)).1), some_.foldl (fun (a : Flags) β => a ||| (bs.getD β ([], 0)).2) 0)
      else none
    | _ => none
  | .rqnt f inf sl sls =>
    let g := s.group c.core c.w.gid
    let q := g.slot sl.toNat
    let p := g.slot sls.toNat
    match c.tensorScale s q with
    | (.ok ts, s1) =>
      match c.tensorScale s1 p with
      | (.ok tp, _) =>
        let low (β : Nat) : Nat := (blockElems c.active q.blk β).foldl (fun m e => min m e.2) 31
        let bs := (List.range q.nblocks).map (fun β =>
          encBlock c q inf ts (match f.b with | .v r => some (fld (c.w.vGet r (low β)) 15 8) | _ => none)
            ((blockElems c.active q.blk β).map (fun e => (e, seVal p tp (c.w.vGet (f.a.vN + e.1) e.2)))))
        let some_ := (List.range q.nblocks).filter (fun β => !(blockElems c.active q.blk β).isEmpty)
        if q.packs && p.packs && q.blk == p.blk then
          some (some_.flatMap (fun β => (bs.getD β ([], 0)).1), some_.foldl (fun (a : Flags) β => a ||| (bs.getD β ([], 0)).2) 0)
        else none
      | _ => none
    | _ => none
  | .qunpk f inf sl =>
    let q := (s.group c.core c.w.gid).slot sl.toNat
    match c.tensorScale s q with
    | (.ok ts, _) =>
      let es := (List.range q.regs).flatMap (fun r => (maskLanes c.active).map (fun l => (r, l)))
      let val (e : Nat × Nat) : Nat × Flags := cvtFloat (fpOf .f32) inf (c.w.rc f.pre e.2 e.1) (seVal q ts (c.w.vGet (f.a.vN + e.1) e.2))
      if q.unpacks then some (es.map (fun e => (e, (val e).1)), es.foldl (fun (a : Flags) e => a ||| (val e).2) 0) else none
    | _ => none
  | _ => none

/-- Bit b of word l of byte plane half h that plsplit makes of 256 bytes, one an element (R418). -/
def planeBit (c : Ctx) (h l b : Nat) : Bool :=
  let byte := 4 * (32 * h + l) + b / 8
  (c.w.vGet (c.f.a.vN + (8 * (byte % 32) + b % 8) / 32) ((8 * (byte % 32) + b % 8) % 32)).testBit (7 - byte / 32)

/-- Element e that plmrg makes of its planes (R418). -/
def planeVal (c : Ctx) (npl e : Nat) : Nat :=
  (List.range npl).foldl (fun v p =>
    if (c.w.vGet (c.f.a.vN + (32 * p + e / 8) / 128) ((32 * p + e / 8) % 128 / 4)).testBit (8 * ((32 * p + e / 8) % 4) + e % 8)
    then v + 2 ^ (7 - p) else v) 0

/-- The lane is among the k of largest key, ties to the lower lane (R419). -/
def topkSel (t : Ty) (c : Ctx) (s : State) (l : Nat) : Bool :=
  let key (l : Nat) : Nat := topkKey t (c.a s 1 l)
  decide (((maskLanes c.active).filter (fun m => decide (key l < key m) || (key m == key l && decide (m < l)))).length < c.b s 1 c.low)

/-- plsplit and plmrg with every lane ACTIVE, and topk (R418, R419). -/
def planeEff (c : Ctx) (s : State) : Instr → Option (Fmt × DataEff)
  | .plsplit f => if c.active = BitVec.allOnes 32 then some (f, .d 2 (fun c _ l =>
      (List.range 2).foldl (fun v h => (List.range 32).foldl (fun v b => if planeBit c h l b then v + 2 ^ (32 * h + b) else v) v) 0)) else none
  | .plmrg f sl =>
    let q := (s.group c.core c.w.gid).slot sl.toNat
    if c.active = BitVec.allOnes 32 ∧ q.ef = 15 then some (f, .d 8 (fun c _ l =>
      (List.range 8).foldl (fun v r => v + wrapN 32 (planesQ q.ctr q.npl (planeVal c q.npl (32 * r + l))) * 2 ^ (32 * r)) 0)) else none
  | .topk f t pp => some (f, {
      n := 2, val := fun c s l => if topkSel t c s l then c.a s 1 l else 2 ^ 32 * c.a s 1 l
      prd := fun p => if pp.map BitVec.toNat = some p then some (fun c s l => topkSel t c s l) else none })
  | _ => none

/-! ### Copies -/

/-- A copy instruction: its opcode and modifiers, completion form, CTW, whether its length is in range, and its operands (R420, R423, R426 to
R428). -/
structure CopyForm where
  opc  : Nat
  mods : Nat
  cpl  : Cpl
  ctw  : BitVec 7
  size : Bool
  args : List Nat
  las  : List (Nat × Nat) := []

def copyForm (c : Ctx) (s : State) : Instr → Option (Fmt × CopyForm)
  | .cpy f cpl ds ss ctw =>
    let n := c.c s 1 c.low
    some (f, ⟨0x1C0, (if ds then 1 else 0) + (if ss then 2 else 0), cpl, ctw, n % 4 = 0 && 4 ≤ n && n ≤ 2 ^ 24,
      [if ds then c.a s 1 c.low else c.a s 2 c.low, if ss then c.b s 1 c.low else c.b s 2 c.low, n], []⟩)
  | .cpyt f cpl dir ctw =>
    some (f, ⟨0x1C1, if dir then 1 else 0, cpl, ctw, true, c.a s 2 c.low :: (List.range 5).map (fun d => c.w.wGet (f.b.wN + d)) ++ [c.c s 1 c.low], []⟩)
  | .cpyw f cpl ctw =>
    let o := (List.range 6).map (fun d => c.w.wGet (f.b.wN + d))
    some (f, ⟨0x1C2, 0, cpl, ctw, 1 ≤ o.getD 5 0 && o.getD 5 0 ≤ 4096, c.a s 2 c.low :: o ++ [c.c s 1 c.low], []⟩)
  | .cpyg f cpl ctw => some (f, ⟨0x1C3, 0, cpl, ctw, c.b s 1 c.low % 4 = 0 && 4 ≤ c.b s 1 c.low && c.b s 1 c.low ≤ 4096,
      [c.b s 1 c.low, c.c s 1 c.low], (maskLanes c.active).map (fun l => (l, c.a s 2 l))⟩)
  | .cpys f cpl ctw => some (f, ⟨0x1C4, 0, cpl, ctw, c.b s 1 c.low % 4 = 0 && 4 ≤ c.b s 1 c.low && c.b s 1 c.low ≤ 4096,
      [c.b s 1 c.low, c.c s 1 c.low], (maskLanes c.active).map (fun l => (l, c.a s 2 l))⟩)
  | _ => none

/-- Every lane of a gather or a scatter passes the checks of step 12, lane by lane (R368): the state after them. -/
def lanesChecked (c : Ctx) (s : State) (k : AKind) : Option State :=
  let n := c.b s 1 c.low
  (maskLanes c.active).foldl (fun (a : Option State) l => a.bind (fun t =>
    match c.locate t .g k 4 l (c.a t 2 l) with
    | (.ok _, t1) =>
      if !(n % 4 = 0 && 4 ≤ n && n ≤ 4096) || (c.spadRun t1 l (c.c s 1 c.low + n * l) n).isNone then some t1 else none
    | _ => none)) (some s)

/-- The addresses of a copy instruction pass the checks of step 12 (R466): the state after them. -/
def copyChecked (c : Ctx) (s : State) : Instr → Option State
  | .cpy _ _ ds ss _ =>
    let n := c.c s 1 c.low
    let len := if n % 4 = 0 && 4 ≤ n && n ≤ 2 ^ 24 then n else 0
    let one (sp : Bool) (k : AKind) (a : Nat) (t : State) : Option State :=
      if sp then (if (c.spadRun t c.low a len).isNone then some t else none)
      else match c.locate t .g k 4 c.low a with | (.ok _, t1) => some t1 | _ => none
    if c.active = 0 then some s
    else (one ds .write (if ds then c.a s 1 c.low else c.a s 2 c.low) s).bind (fun t => one ss .read (if ss then c.b s 1 c.low else c.b s 2 c.low) t)
  | .cpyg _ _ _ => lanesChecked c s .read
  | .cpys _ _ _ => lanesChecked c s .write
  | _ => some s

/-- A copy instruction that executes: as ready, but ACTIVE may be empty (R420). -/
def readyCopy (i : Instr) (f : Fmt) (cu : Cur) (s : State) : Bool :=
  let c := mkCtx s cu i f
  let g := s.group cu.core c.w.gid
  i.isCopy && s.cur == some cu && s.stop == none && ((s.core cu.core).warp? cu.wix).isSome
  && c.w.overBudget (runsOf i f g) == none && c.w.queueFault [] (queueUses i f) == none
  && c.unitFree s i.unit && !c.blocked s i && c.trapEmpty s i == none && c.pushClosed i == none

/-- The copy of the set that the next piece of the warp belongs to (R420). -/
def nextCopy (c : Ctx) (s : State) : Option Copy :=
  (s.core c.core).copies.find? (fun x =>
    x.gid == c.w.gid && x.role == ((s.group c.core c.w.gid).copySet c.w.warp).2.1 && x.index == c.w.pieces && x.opc != opStage)

/-- The piece that a copy instruction supplies. -/
def pieceOf (c : Ctx) (m : CopyForm) : Piece :=
  { wix := c.wix, pc := c.pc.toNat, op := c.w.nextOp, empty := c.active == 0, args := m.args, lanesA := m.las, ib := c.ib }

/-- The copy that a piece begins (R420). -/
def newCopy (c : Ctx) (s : State) (m : CopyForm) : Copy :=
  { id := (s.core c.core).nextId, gid := c.w.gid, role := ((s.group c.core c.w.gid).copySet c.w.warp).2.1, index := c.w.pieces
    opc := m.opc, mods := m.mods, target := if m.cpl = .cnt then 0 else c.ctw m.ctw, cpl := m.cpl, pieces := [pieceOf c m] }

/-- The copies of the core once the warp has supplied its piece. -/
def withPiece (c : Ctx) (s : State) (m : CopyForm) : List Copy :=
  match nextCopy c s with
  | some x => (s.core c.core).copies.map (fun (y : Copy) => if y.id == x.id then { y with pieces := y.pieces ++ [pieceOf c m] } else y)
  | none => (s.core c.core).copies ++ [newCopy c s m]

/-- The machine once a warp has begun a copy: what the warp has done comes before the engine's accesses (R132), its piece is counted, and the C
counter with counter completion (R420, R421). b: the machine after the checks of the addresses. -/
def copyBegun (c : Ctx) (b : State) (m : CopyForm) : State :=
  let x := newCopy c b m
  let t := c.upd { b with hb := b.hb.pass (.warp c.core c.wix) (.engine c.core x.id) } (fun w => { w with pieces := w.pieces + 1 })
  let t1 := if m.cpl = .cnt then c.upd t (fun w => w.addOp { id := 0, kind := .copy x.id, cls := some .c, issued := b.ptb }) else t
  t1.updCore c.core (fun k => { k with copies := k.copies ++ [x], nextId := x.id + 1 })

/-- The warp is the only one of its copy set. -/
def soleOfSet (c : Ctx) (s : State) : Prop :=
  ((s.group c.core c.w.gid).copySet c.w.warp).2 = (c.w.warp, 1) ∧ c.w.sup = false ∧ c.w.wix = c.wix
  ∧ (s.core c.core).warps.find? (fun w => !w.sup && w.gid == c.w.gid && w.warp == c.w.warp) = some c.w

/-- The copy that has just taken the piece waits for one from another warp, and nothing else of the group can start. -/
def setWaits (c : Ctx) (s : State) : Bool :=
  let g := s.group c.core c.w.gid
  let set := g.copySet (g.copySet c.w.warp).2.1
  let have_ : List Piece := ((nextCopy c s).map Copy.pieces).getD []
  (List.range set.2.2).any (fun k =>
    match (s.core c.core).warps.find? (fun w => !w.sup && w.gid == c.w.gid && w.warp == set.2.1 + k) with
    | some w => w.wix != c.wix && !have_.any (fun p => p.wix == w.wix) && decide (w.pieces ≤ c.w.pieces)
    | none => false)
  && (s.core c.core).copies.all (fun x =>
    x.gid != c.w.gid || x.opc == opStage || x.started || x.want.isSome || some x == nextCopy c s)

/-! ### Records and packets -/

/-- The packets that a source holds for a destination, sent and waiting, without their numbers (R224). -/
def Dest.queued (x : Dest) : List Packet := (x.unacked.map Sent.pkt ++ x.waiting).map (fun (p : Packet) => { p with psn := 0 })

/-- The records of a till, as bytes. -/
def State.tillBytes (s : State) (gen nid die : Nat) : List (List Byte) :=
  (((s.tills.find? (fun t => t.gen == gen && t.nid == nid && t.die == die)).map Till.recs).getD []).map TRec.bytes

/-- A die has room for n more records on chip, and none of the generation's is spilled (R75, R486). -/
def State.tillRoom (s : State) (gen die n : Nat) : Bool :=
  !s.aborted.contains gen && (s.servingDies gen).contains die && decide (s.onChip die + n ≤ 8192)
    && !s.tills.any (fun t => t.gen == gen && t.recs.any TRec.spilled)

/-- The bytes of a payload area from an offset. -/
def State.area (s : State) (a : Nat × Nat) (off n : Nat) : List Byte := SMap.getN (s.core a.1).sp n (a.2 + off)

/-- A request of the issuing warp's generation to another package (R221). -/
def Ctx.packet (c : Ctx) (s : State) (d opc tag addr : Nat) (pay : List Byte) : Packet := s.mkPacket (c.pktGen s) d 0 opc tag addr pay

/-! ### What happens outside the warps -/

/-- No access is noted that another could race with (R134, R141), and no key has the mixed-size check on (R492). -/
def State.calm (s : State) : Bool :=
  s.hb.wlog.isEmpty && s.hb.rlog.isEmpty && (List.range 4).all (fun k => s.cpw (oMSCHK + 8 * k) == 0)

/-- Nothing has stopped the model, no access is noted that another could race with, no monitor watches, and the CP error ring is off. -/
def State.still (s : State) : Bool := s.stop == none && s.calm && s.mons.isEmpty && ringOff s

/-- A physical address of local HBM that exists, under a key that is loaded. -/
def State.open_ (s : State) (pa : Nat) : Bool := (s.keyDraw (keyOf pa)).isSome && s.locExists (locOf pa)

/-- A register whose bits of m take those of v, and whose other bits keep theirs. -/
def Masked (m v old new : Nat) : Prop := ∀ b, b < 64 → new.testBit b = if m.testBit b then v.testBit b else old.testBit b

/-- No CP register but those at the offsets differs. -/
def RegsBut (offs : List Nat) (s t : State) : Prop := ∀ k, (∀ o ∈ offs, k ≠ o / 8) → t.cp.get k = s.cp.get k

/-- Of the package only the CP register at an offset differs. -/
def OneReg (off : Nat) (s t : State) : Prop := t = { s with cp := t.cp } ∧ RegsBut [off] s t

/-- A control word that is not written while its V, bit 0, is set, unless the store clears V (R251, R273). -/
def Guarded (off m v : Nat) (s t : State) : Prop :=
  (s.cpw off % 2 = 1 → v % 2 = 1 → t.cpw off = s.cpw off) ∧ (¬(s.cpw off % 2 = 1 ∧ v % 2 = 1) → Masked m v (s.cpw off) (t.cpw off))

/-- A register of the window that R270 to R276 let software write, and that nothing but its mask governs. -/
def plainReg (off : Nat) : Bool :=
  off % 8 == 0 && cpMask off != 0 && off != oPTPCFG
    && !((oDPCFG ≤ off && off < oDPCFG + 0x8000) || (oUITCFG ≤ off && off < oUITCFG + 0x2000) || (oDQ ≤ off && off < oDQ + 0x800)
      || (oFNCE ≤ off && off < oFNCE + 512) || (oFBAR ≤ off && off < oFBAR + 0x4000) || (oGTAB ≤ off && off < oGTAB + 0x10000))

/-- n records of a class are counted while the ring is off (R459). -/
def Counted (cls n : Nat) (s t : State) : Prop :=
  fld (t.cpw oERLOST) (8 * cls - 1) (8 * cls - 8) = min 255 (fld (s.cpw oERLOST) (8 * cls - 1) (8 * cls - 8) + n)

/-- The command at HEAD has ended: its status word is written, HEAD has advanced (R268). -/
structure Ended (status : Nat) (s t : State) : Prop where
  word : t.peek (s.cmdAddr + 0x18) 8 = leBytes 8 (2 ^ 63 + status)
  head : fld (t.cpw oCMDPOS) 31 0 = (fld (s.cpw oCMDPOS) 31 0 + 1) % 2 ^ 32 ∧ fld (t.cpw oCMDPOS) 63 32 = fld (s.cpw oCMDPOS) 63 32

/-- Of memory only the sector of the command's entry differs, and what the command itself changes is all that differs beside. -/
structure EndedOnly (status : Nat) (s t : State) : Prop extends Ended status s t where
  mem  : ∀ a, a / 64 ≠ (s.cmdAddr + 0x18) / 64 → SMap.get t.mem a = SMap.get s.mem a
  rest : t = { s with
    mem := t.mem, keyTag := t.keyTag, poison := t.poison, undo := t.undo, hb := t.hb, cp := t.cp, nodes := t.nodes, tills := t.tills
    keys := t.keys, draws := t.draws }

/-- A command stands at HEAD, and its entry can be written. -/
def State.atHead (s : State) (i : Instr) : Bool :=
  s.still && s.nextCommand == some i && decide (s.cmdAddr < 2 ^ 48) && s.open_ s.cmdAddr

/-- A hart's word is running. -/
def State.runsHart (s : State) (n : Nat) : Bool := s.curHart == some n && decide (n < s.harts.length)

/-- The 128 bytes of a deposit at a physical address can be read. -/
def State.source (s : State) (pa : Nat) : Bool :=
  pa % 128 == 0 && s.open_ pa && s.open_ (pa + 64) && !s.poisoned pa && !s.poisoned (pa + 64)

/-- The page takes one more deposit (R254). -/
def State.pageTakes (s : State) (page : Nat) : Bool :=
  decide (page < 4096) && (s.cpw (oDPCFG + 8 * page)).testBit 0 && decide (s.dpCount page < fld (s.cpw (oDPCFG + 8 * page)) 7 4)
    && decide (s.depQ.length < 1024)

/-- The deposit is accepted (R254): it is queued, and the page counts it. -/
structure Deposited (page : Nat) (data : List Byte) (s t : State) : Prop where
  queue : ∃ clk, t.depQ = s.depQ ++ [{ page := page, data := data, at_ := s.ptb, clk := clk }]
  count : t.dpCount page = s.dpCount page + 1
  total : fld (t.cpw (0x1000 * page + 0x80)) 63 32 = (fld (s.cpw (0x1000 * page + 0x80)) 63 32 + 1) % 2 ^ 32
  regs  : RegsBut [0x1000 * page + 0x80] s t

/-- Records that number i of n goes to on the j-th of d dies (R75). -/
def shareOf (n d j : Nat) : List Nat := (List.range n).filter (fun i => i % d == j)

/-- A till, by its key. -/
def State.till? (s : State) (gen nid die : Nat) : Option Till := s.tills.find? (fun t => t.gen == gen && t.nid == nid && t.die == die)

/-- The die of R75 for the next message of another package to a node. -/
def State.msgDie (s : State) (gen nid : Nat) : Nat :=
  let ds := s.servingDies gen
  ds.getD (((s.node gen nid).map NodeReg.msgs).getD 0 % ds.length) 4

/-- A node has been sent one message more (R75), and the others none. -/
def OneMsg (gen nid : Nat) (s t : State) : Prop :=
  ∀ g d, t.node g d = (s.node g d).map (fun n => if g = gen ∧ d = nid then { n with msgs := n.msgs + 1 } else n)

/-- No two tills have one key. -/
abbrev State.tillsApart (s : State) : Prop := (s.tills.map (fun (t : Till) => (t.gen, t.nid, t.die))).Nodup

/-- The warp has no register that is empty in a lane, and every register and predicate holds zero (R53). -/
def Warp.fresh (w : Warp) : Prop := w.v = [] ∧ w.vE = [] ∧ w.w = [] ∧ w.wE = 0 ∧ w.acc = [] ∧ w.preds = List.replicate 16 0 ∧ w.fin = 0

/-- The bytes of a copy that it reads are apart from those that it writes (R423). -/
def State.readsApart (s : State) (c : Nat) (x : Copy) : Prop :=
  ∀ g ∈ x.xfers, ∀ h ∈ x.xfers, ∀ a b, s.sideAt c g.src = some a → s.sideAt c h.dst = some b → a + g.n ≤ b ∨ b + h.n ≤ a

/-- What lets a warp that is held for 2 µs park (R59): an await of a counter or of a barrier object, or registers, none of which has filled. -/
def Warp.parks (w : Warp) : Prop :=
  w.stopped = false ∧ w.replay = none
  ∧ ((∃ thr, w.wait = .cnt thr) ∨ (∃ k a b sc, w.wait = .ph k a b sc)
    ∨ (w.wait = .none ∧ w.parkHeld = false ∧ w.needs ≠ [] ∧ ∀ p ∈ w.needs, w.met p = false))

/-- What a transfer's source holds: bytes of a scratchpad, or of unpoisoned local HBM as the core translates. -/
def State.sourceBytes (s : State) (c : Nat) (l : CLoc) (n : Nat) : Option (List Byte) :=
  match l with
  | .sp k ph => some (SMap.getN (s.core k).sp n ph)
  | .fill pat => some ((List.range n).map (fun i => pat.getD (i % max 1 pat.length) 0))
  | .va a =>
    match (s.xlate c false (s.core c).gen a .read).1 with
    | .ok pa leaf => if aperOf leaf = 0 && s.open_ pa && !s.poisoned pa then some (s.peek pa n) else none
    | _ => none
  | .skip => none

/-- The machine once a transfer's source is translated. -/
def State.sourceRead (s : State) (c : Nat) (l : CLoc) : State :=
  match l with
  | .va a => (s.xlate c false (s.core c).gen a .read).2
  | _ => s

/-- Transfer k of a copy is made, or, with a tag, waits for the answer of a package. -/
def XferMade (c id k : Nat) (x : Copy) (g : Xfer → Xfer) (t : State) : Prop := ((t.core c).copy? id).map Copy.xfers = some (modNth x.xfers k g)

/-- A generation of a partition, as the table of generations has it (R271). -/
def State.inPart (s : State) (k g : Nat) : Prop :=
  ∃ i, i < 1024 ∧ (s.cpw (oGTAB + 64 * i)).testBit 0 = true ∧ fld (s.cpw (oGTAB + 64 * i)) 47 40 = k ∧ fld (s.cpw (oGTAB + 64 * i)) 63 48 = g

/-- Every generation of a partition runs here without grids, deposits, fabric barriers, escrow entries or writes that its abort could lose
(R500). -/
def State.partIdle (s : State) (k : Nat) : Prop :=
  (∀ i, i < 256 → s.escSt i = 0) ∧ (∀ m ∈ s.mons, m.spilled = false ∧ m.st ≠ .deferred)
  ∧ ∀ g, s.inPart k g → g ≠ 0 ∧ s.lossy g = [] ∧ (∀ x ∈ s.grids, x.gen ≠ g) ∧ (∀ d ∈ s.depQ, fld (s.cpw (oDPCFG + 8 * d.page)) 63 48 ≠ g)
      ∧ ∀ x ∈ s.fbars, x.gen ≠ g

/-- Every generation of the partition is aborted and gone from the cores, the tills and the monitors, and no other is (R499, R500). -/
structure PartGone (k : Nat) (s t : State) : Prop where
  gone : ∀ g, s.inPart k g → t.aborted.contains g = true ∧ (∀ x ∈ t.tills, x.gen ≠ g) ∧ (∀ x ∈ t.mons, x.gen ≠ g)
    ∧ ∀ q, q < s.cores.length → (t.core q).gen ≠ g
  kept : ∀ g, ¬s.inPart k g → t.aborted.contains g = s.aborted.contains g
    ∧ ∀ q, q < s.cores.length → (s.core q).gen = g →
        t.core q = { s.core q with mbox := (t.core q).mbox, fbuf := (t.core q).fbuf, heldRecs := (t.core q).heldRecs }

/-- The bytes of a completion record (R259), with CSTAT done. -/
def completionBytes (status cook seq at_ end_ launched : Nat) : List Byte :=
  leBytes 8 (2 ^ 63 + status) ++ leBytes 8 cook ++ leBytes 8 seq ++ leBytes 8 at_ ++ leBytes 8 end_ ++ leBytes 8 launched ++ List.replicate 16 0

/-- The record's own bytes are none of the tables that translate its address: it is written in two steps (R259). -/
def State.recordApart (s : State) (gen comp cook seq at_ end_ launched : Nat) : Prop :=
  (s.jobStore gen (comp + 8) { who := .cp, strong := true, sc := .sy } ((completionBytes 0 cook seq at_ end_ launched).drop 8)).xlateCp gen comp .write
    = s.xlateCp gen comp .write

/-- What the package sends for the interrupt of a deposit page that is not a user interrupt (R260): none, or an MSI-X of the physical function
or of the page's VF. -/
def State.pageMsix (s : State) (page : Nat) : List Out :=
  let cfg := s.cpw (oDPCFG + 8 * page)
  if fld cfg 21 12 = 0x3FF then []
  else if fld cfg 39 38 = 1 then [.msix 0 (fld cfg 21 12)]
  else if fld cfg 39 38 = 2 then [.msix (fld cfg 37 32 + 1) (fld cfg 21 12)]
  else []

/-- A posting of n bytes to a barrier object (R393). -/
def Bar.posted (b : Bar) (n : Nat) : Bar := ({ b with bytes := sInt 32 (wrapN 32 (b.bytes - n)) } : Bar).settle

/-! ### Packets -/

/-- The package takes a packet: it is for it, new, within the window, not fenced, of no aborted generation, and, where the CP applies it, the CP's
firmware runs (R224, R280, R500, R522, R527). -/
def State.accepts (s : State) (p : Packet) : Bool :=
  let x := s.srcOf p.src.toNat
  s.stop == none && s.noDark && p.dst.toNat == s.dev
    && !x.bars p.psn.toNat && (!s.noCp || !byCp p.opc.toNat)
    && !x.done.contains p.psn.toNat && !s.keeps p.src.toNat p.psn.toNat && (s.fenced p.src.toNat p.gen.toNat).isNone && (p.gen == 0 || !s.aborted.contains p.gen.toNat)

/-- The package has performed a packet, and beside what u says only the sending of packets and of acknowledgements has moved. -/
structure Took (p : Packet) (u t : State) : Prop where
  done : (t.srcOf p.src.toNat).done.contains p.psn.toNat = true
  rest : t = { u with
    fresh := t.fresh, dests := t.dests, srcs := t.srcs, ports := t.ports, outs := t.outs, agenda := t.agenda }

/-- One more packet is on its way to a package, or waits for a path or a place in the window. -/
def Queued (d : Nat) (x : Packet) (s t : State) : Prop := (t.dest d).queued = (s.dest d).queued ++ [x]

/-- The reply to a packet (R225). -/
def State.replyTo (s : State) (p : Packet) (opc addr : Nat) (pay : List Byte) : Packet :=
  s.mkPacket p.gen.toNat p.src.toNat 1 opc p.tag.toNat addr pay

/-- The package holds a packet that it cannot perform yet (R196): it is not acknowledged. -/
def Holds (i : Instr) (p : Packet) (s : State) : Prop := exec i s = .next { s with held := s.held ++ [(p.gen.toNat, p)] }

/-- What the CP writes of episode k of a barrier, in order: offsets from SRVA and bytes (R235): the lag of each member, the earliest arrival e, and
EPI with the number of members. -/
def episodeWords (k e : Nat) (lags : List (Nat × Nat)) : List (Nat × List Byte) :=
  lags.zipIdx.map (fun p => (0x40 + 128 * p.2 + 2 * (k % 64), leBytes 2 p.1.2))
    ++ [(8, leBytes 8 e), (0, leBytes 8 ((k + 1) % 2 ^ 32 + lags.length * 2 ^ 32))]

/-- A record at va lies in local HBM from pa on: each of its writes in turn translates so, in memory that exists under a key that is loaded, whatever
those before it have written. -/
def State.recordAt (s : State) (gen va pa : Nat) (ws : List (Nat × List Byte)) : Prop :=
  pa % 64 = 0 ∧ ∀ j w, ws[j]? = some w →
    s.open_ (pa + w.1) = true
    ∧ ∃ leaf, aperOf leaf = 0 ∧ ((ws.take j).foldl (fun (t : State) x =>
        t.jobStore gen (va + x.1) { who := .cp, strong := true, sc := .sy, rel := true } x.2) s).xlateCp gen (va + w.1) .write = .ok (pa + w.1) leaf

/-- Of memory only the sector of an address may differ. -/
def OneSector (pa : Nat) (s t : State) : Prop := ∀ qa, locOf qa / 64 ≠ locOf pa / 64 → t.peek qa 1 = s.peek qa 1

/-- An operation of a warp on a core of the package waits with one request for a packet's answer, and will fill v register d. -/
structure Waits (p : Packet) (c wix d : Nat) (o : Op) (r : Req) (s : State) : Prop where
  found : s.waiting p.src.toNat p.tag.toNat = some (c, (s.core c).gen, wix, o)
  req   : o.reqs = [r] ∧ r.tag = p.tag.toNat ∧ r.dst = p.src.toNat ∧ o.pops = []
  fill  : o.fills = [⟨true, d, []⟩] ∧ o.w = true ∧ o.reg = d ∧ o.stopVA = none
  lanes : (r.lanes.map ReqLane.lane).Nodup ∧ ∀ q ∈ r.lanes, q.lane < 32

/-- The operation has ended: lane q of register d is full and holds val q. -/
structure Answered (c wix d : Nat) (o : Op) (r : Req) (val : ReqLane → Nat) (t : State) : Prop where
  vals : ∀ q ∈ r.lanes, (t.warp c wix).vGet d q.lane = val q % 2 ^ 32 ∧ ((t.warp c wix).vEmpty d).getLsbD q.lane = false
  gone : ∀ x ∈ (t.warp c wix).ops, x.id = o.id → x.cls.isSome = true

end Sys2Proof.Machine
end

