-- ==== Sys2Proof/Certificates/Slice0/Obligations.lean ====
section
/-! DEFINITION. The statements for the provers. Terms are those of Sys2Proof/Safety.lean. -/

open Sys2Proof Sys2Proof.Machine

/-! ### Decoding and the step -/

/-- A few words of the encoding tables decode to the instructions they stand for: exit (R329), add.i32 v2, v0, v1 (R342), bra to itself (R328),
a prefixed fadd.f32 under p1 (R306, R349), dpst a0, a1, a2 (R255) and clret (R262). -/
def Obligations.WordsDecode : Prop :=
  decodeWords false [0x00000501, 0x00000000] = .ok (.exit ⟨.l64, none, none, .none, .none, .none, .none, false, false, false, 0⟩)
  ∧ decodeWords false [0x00342001, 0x00100002] =
      .ok (.add ⟨.l64, none, none, .v 2, .v 0, .v 1, .none, false, false, false, 0⟩ .i32 false)
  ∧ decodeWords false [0x00000102, 0x000FF000, 0x00000000] =
      .ok (.bra ⟨.l96, none, none, .none, .imm, .none, .none, false, false, false, 0⟩)
  ∧ decodeWords false [0x00000440, 0x00006001, 0x00100002] =
      .ok (.fadd ⟨.l64, some ⟨some ⟨1, false⟩, .rne, none⟩, none, .v 2, .v 0, .v 1, .none, false, false, false, 0⟩ .f32)
  ∧ decodeHost 0x00C5850B = some (.dpst 10 11 12)
  ∧ decodeHost 0x0000100B = some .clret

/-- R310: decoding the words of a well-formed instruction gives it back, in a mode in which its opcode is legal, and so do the two words of the
host die. -/
def Obligations.DecodeEncode : Prop :=
  (∀ (i : Instr) (sup : Bool), i.fmt.isSome = true → i.wf = true → i.modeOk sup = true → decodeWords sup (encode i) = .ok i)
  ∧ (∀ rd rs1 rs2 : BitVec 5, (encode (.dpst rd rs1 rs2)).map decodeHost = [some (.dpst rd rs1 rs2)])
  ∧ (encode .clret).map decodeHost = [some .clret]

/-- A slice's cycle in which the bytes at the PC of its first candidate's first path decode to i, and no warp passed over 32 times keeps its unit
(R45), is exec of i with that path issuing: the second path may issue, but not on a unit that such a warp keeps; the warp's age and its other
paths' skip counts are noted, and the other candidates are ready or not. A fault of exec is the step's. That bytes read from a peer page serve
one issue and are dropped after it is the model's choice (log entries 75, 89 and 90). -/
def Obligations.StepRunsDecoded : Prop :=
  ∀ (s s1 : State) (dt c sl wix : Nat) (rest : List (Nat × Act)) (ws : List Nat) (p : DWord × Mask) (ps : List (DWord × Mask))
    (bs ib : List Byte) (size : Nat) (i : Instr),
    s.agenda = (dt, .slice c sl) :: rest →
    let s0 := ({ s with agenda := rest } : State).elapse dt |>.tickSlice c sl
    s0.booted = true → s0.candidates c sl = wix :: ws → (s0.warp c wix).ranked = p :: ps →
    (∀ k, s0.kept c sl = some k → k.1 = wix ∨ k.2 ≠ i.unit) →
    (s0.updWarp c wix (fun w => { w with needs := [] })).fetchBlock c wix (p.1.toNat / 32 * 32) = (.ok (some bs), s1) →
    p.1.toNat % 32 ≠ 28 → decodeBlock (s0.warp c wix).sup bs 0 (p.1.toNat % 32) = .unit size ib (.ok i) →
    let cu : Cur := { core := c, wix := wix, pc := p.1, lanes := p.2, size := size, ib := ib }
    let cyc := (s0.slice c sl).cyc
    let avoid := (s0.kept c sl).bind (fun k => if k.1 == wix then none else some k.2)
    (∀ r, exec i { s1 with cur := some cu, issued := false } = .fault r → step s = .fault r)
    ∧ ∀ u, exec i { s1 with cur := some cu, issued := false } = .next u → u.issued = true →
        let u1 := u.dropFetched c wix
        let done (v : State) (did : Mask) : State := cycleEnd c sl wix ws s0 (v.noteIssue c wix (p :: ps) did cyc)
        match ps with
        | [] => step s = .next (done u1 p.2)
        | q :: _ =>
          match issueSecond c wix avoid (.instr cu i) q u1 with
          | .next v => step s = .next (done v (if v.issued then p.2 ||| q.2 else p.2))
          | .fault r => step s = .fault r
          | .refused r => step s = .refused r

/-- A hart's word of the host die (once Shatus has been started, R280), a command at the head of the ring, an arriving packet and an event that
the agenda names are each exec of the instruction that they are; what the agenda names beside them is the writing of a completion record (R258). -/
def Obligations.StepRunsOthers : Prop :=
  ∀ (s : State) (dt : Nat) (rest : List (Nat × Act)),
    let s0 := ({ s with agenda := rest } : State).elapse dt
    (∀ n i, s.agenda = (dt, .hart n) :: rest → s0.noShatus = false → decodeHost (s0.hartWord n) = some i →
      step s = exec i { s0 with cur := some (hartCur n (s0.hart n).pc) })
    ∧ (∀ i, s.agenda = (dt, .command) :: rest → s0.nextCommand = some i → step s = exec i s0)
    ∧ (∀ p i, s.agenda = (dt, .packet p) :: rest → p.instr = some i → step s = exec i s0)
    ∧ (∀ i, s.agenda = (dt, .occur i) :: rest → step s = exec i s0)
    ∧ (∀ g, s.agenda = (dt, .completion g) :: rest → step s = .next (s0.writeCompletion g))

/-- R466, R306, R307, R55, R292, R38: what stands before the effect of any warp instruction. A register budget that it breaks is a fault, else
a queue binding that it breaks is one. With ACTIVE empty it only advances its lanes, unless it is a copy piece (R420) or zeroes lanes. While a
source is empty without a trap bit, a destination is empty or a counter full, or an acquire that a peer has yet to answer precedes an access
(R131), its path waits, what it waits for is noted, and nothing else changes; an empty source with its trap bit is a fault, where the
instruction does not itself have to wait, or the empty register says where it accesses memory. -/
def Obligations.IssueOrder : Prop :=
  ∀ (i : Instr) (f : Fmt) (cu : Cur) (s : State),
    let c := mkCtx s cu i f
    let broken := c.w.overBudget (runsOf i f (s.group cu.core c.w.gid))
    let queue := c.w.queueFault [] (queueUses i f)
    let faults (r : FRec) : Prop := takes cu s r = true → ∃ t, exec i s = .next t ∧ FaultTaken cu s t r
    i.fmt = some f → s.cur = some cu → s.stop = none → ((s.core cu.core).warp? cu.wix).isSome = true →
    (∀ n, broken = some n → faults { cls := 1, code := 4, info := n })
    ∧ (∀ why q, broken = none → queue = some (why, q) → faults { cls := 1, code := 0xD, info := why + 256 * q })
    ∧ (broken = none → queue = none → c.unitFree s i.unit = true →
        (c.active = 0 → i.isCopy = false → c.zeroed i = 0 →
          ∃ t, exec i s = .next t ∧ Elsewhere cu.core s t ∧ OnlyWarp i f cu s t ∧ WarpIs i f (fun w => w) cu s t)
        ∧ ((c.active ≠ 0 ∨ i.isCopy = true) → c.blocked s i = true →
          ∃ t, exec i s = .next t ∧ t = { s with cores := t.cores, cur := none, issued := false }
            ∧ t.warp cu.core cu.wix = { c.w with needs := if (c.needsOf s i).isEmpty && c.queueWait s i then c.w.needs else c.needsOf s i :: c.w.needs }
            ∧ t.core cu.core = { s.core cu.core with warps := (t.core cu.core).warps }
            ∧ (∀ k, k ≠ cu.wix → (t.core cu.core).warp? k = (s.core cu.core).warp? k) ∧ ∀ k, k ≠ cu.core → t.core k = s.core k)
        ∧ ∀ r, (c.active ≠ 0 ∨ i.isCopy = true) → c.blocked s i = false → c.trapEmpty s i = some r →
            (i.mayWait = false ∨ (i.addressed = true ∧ r.info ≠ 3)) → faults r)

/-- Every row has its meaning: exec never refuses. -/
def Obligations.NeverRefused : Prop := ∀ (i : Instr) (s : State) (r : Refusal), exec i s ≠ .refused r

/-- Every step keeps the maps of memory, key tags, host memory and CP registers in canonical form. -/
def Obligations.CanonicalKept : Prop := ∀ s t : State, s.canonical = true → step s = .next t → t.canonical = true

/-- They are in canonical form after reset. -/
def Obligations.CanonicalAtReset : Prop := State.reset.canonical = true

/-- R269, R281: after package reset every CP register reads 0 and the measurement registers are zero; nothing runs until bring-up, which is the
first step when the agenda names none. That memory lists nothing, no key is loaded, and every register of a hart is 0, are the model's choices
(log entries 4 and 5), and so is that the part is a full one, with 320 cores (log entry 6: R8 gives that number to a full part). -/
def Obligations.ResetValues : Prop :=
  (∀ off, State.reset.cpw off = 0) ∧ (∀ i, i < 8 → State.reset.meas[i]? = some (List.replicate 64 0))
  ∧ State.reset.cores.length = 320 ∧ (∀ c, (State.reset.core c).warps = [] ∧ (State.reset.core c).groups = [] ∧ (State.reset.core c).mbox = [])
  ∧ (∀ n r, (State.reset.hart n).get r = 0) ∧ State.reset.mem = [] ∧ State.reset.hostMem = [] ∧ State.reset.keys = []
  ∧ State.reset.booted = false ∧ step State.reset = exec .packageReset State.reset

/-! ### Warp instructions that only compute -/

/-- R341 to R347, R46: every integer and logic instruction that is ready completes with the result, the carry and the frame of its row. -/
def Obligations.IntegerInstructions : Prop :=
  ∀ (i : Instr) (f : Fmt) (e : DataEff) (cu : Cur) (s : State),
    i.wf = true → intEff i = some (f, e) → ready i f cu s = true → ∃ t, exec i s = .next (popped i f cu s t) ∧ DataDone i f e cu s t

/-- R336 to R340: the predicate instructions. -/
def Obligations.PredicateInstructions : Prop :=
  ∀ (i : Instr) (f : Fmt) (e : DataEff) (cu : Cur) (s : State),
    i.wf = true → predEff i = some (f, e) → ready i f cu s = true → ∃ t, exec i s = .next (popped i f cu s t) ∧ DataDone i f e cu s t

/-- R348 to R353: the floating-point instructions. R354, R172, R173: the special functions; within the bound of R172 their values are the
part's own (free, log entry 15). -/
def Obligations.FloatInstructions : Prop :=
  (∀ (i : Instr) (f : Fmt) (e : DataEff) (cu : Cur) (s : State),
     i.wf = true → floatEff i = some (f, e) → ready i f cu s = true → ∃ t, exec i s = .next (popped i f cu s t) ∧ DataDone i f e cu s t)
  ∧ (∀ (i : Instr) (f : Fmt) (e : DataEff) (cu : Cur) (s : State),
       i.wf = true → specEff i = some (f, e) → ready i f cu s = true → ∃ t, exec i s = .next (popped i f cu s t) ∧ DataDone i f e cu s t)

/-- R355 to R358: the packed instructions. -/
def Obligations.PackedInstructions : Prop :=
  ∀ (i : Instr) (f : Fmt) (e : DataEff) (cu : Cur) (s : State),
    i.wf = true → packEff i = some (f, e) → ready i f cu s = true → ∃ t, exec i s = .next (popped i f cu s t) ∧ DataDone i f e cu s t

/-- R359 to R362, R364: lshf, lred, lscan, vhash and vdrop. R363: lbc gives every ACTIVE lane A of the source lane; that a source lane that has
exited gives free values is the model's choice (log entry 3). -/
def Obligations.LaneInstructions : Prop :=
  (∀ (i : Instr) (f : Fmt) (e : DataEff) (cu : Cur) (s : State),
     i.wf = true → laneEff i = some (f, e) → ready i f cu s = true → ∃ t, exec i s = .next (popped i f cu s t) ∧ DataDone i f e cu s t)
  ∧ (∀ (f : Fmt) (t : Ty) (cu : Cur) (s : State),
       let i : Instr := .lbc f t
       let c := mkCtx s cu i f
       let src := c.b s 1 c.low % 32
       i.wf = true → ready i f cu s = true → c.w.emptyIn (BitVec.ofNat 32 (2 ^ src)) (0, f.a.vN, t.words) = 0 →
       (c.w.fin.getLsbD src = false →
         ∃ u, exec i s = .next (popped i f cu s u) ∧ DataDone i f (.d t.words (fun c s _ => c.a s t.words src)) cu s u)
       ∧ (c.w.fin.getLsbD src = true →
         ∃ u, exec i s = .next (popped i f cu s u) ∧ u.fresh = s.fresh + 64
           ∧ DataDone i f (.d t.words (fun _ s l => freeLane s l)) cu s { u with fresh := s.fresh }))

/-! ### Control -/

/-- R327, R329, R331, R335, R413 and R46 to R48: nop, exit, cvwait, yield, sset and mxhint change their warp as their rows say, exit finishes
its ACTIVE lanes, and mxhint wakes the slice's matrix unit. R334, R296, R297: sget gives D the status register. -/
def Obligations.ControlAndStatus : Prop :=
  (∀ (i : Instr) (f : Fmt) (g : Ctx → State → Warp → Warp) (cu : Cur) (s : State),
     let c := mkCtx s cu i f
     i.wf = true → ctlEff i = some (f, g) → ready i f cu s = true →
     ∃ t, exec i s = .next (popped i f cu s t) ∧ WarpDone i f (g c s) cu s t
       ∧ (i = .exit f → (t.warp cu.core cu.wix).fin = c.w.fin ||| c.active)
       ∧ (i = .mxhint f → c.slice < (s.core cu.core).slices.length →
           (t.slice cu.core c.slice).mx = (s.slice cu.core c.slice).wake.mx))
  ∧ (∀ (i : Instr) (f : Fmt) (e : DataEff) (cu : Cur) (s : State),
       i.wf = true → statEff i = some (f, e) → ready i f cu s = true → ∃ t, exec i s = .next (popped i f cu s t) ∧ DataDone i f e cu s t)

/-- R328: bra, brx, call and ret, when the target of every ACTIVE lane is a multiple of 4 with bits 63:60 zero. R328: when some ACTIVE lane has
a target that is no address, no lane branches: the lowest such lane's fault is taken. -/
def Obligations.Branches : Prop :=
  (∀ (i : Instr) (f : Fmt) (n : Nat) (cu : Cur) (s : State),
     let c := mkCtx s cu i f
     i.wf = true → branchOf i = some (f, n) → ready i f cu s = true → (∀ l ∈ maskLanes c.active, badTarget (c.target s l) = false) →
     ∃ t, exec i s = .next (popped i f cu s t) ∧ Branched i f n cu s t)
  ∧ (∀ (i : Instr) (f : Fmt) (n l : Nat) (cu : Cur) (s : State),
       let c := mkCtx s cu i f
       let r : FRec := { cls := 1, code := 8, lane := some l, va := c.target s l }
       branchOf i = some (f, n) → ready i f cu s = true → takes cu s r = true →
       (maskLanes c.active).find? (fun l => badTarget (c.target s l)) = some l →
       ∃ t, exec i s = .next t ∧ FaultTaken cu s t r)

/-- R332, R461: trap and brk stop the warp with their fault: class 1, code 0x0009 with the immediate or code 0x000A. R333: svc makes a request
of the warp's core the last entry of the mailbox, and the warp waits for the reply; nothing else changes while no doorbell is set. -/
def Obligations.TrapsAndCalls : Prop :=
  (∀ (f : Fmt) (cu : Cur) (s : State),
     (let r : FRec := { cls := 1, code := 9, info := f.x.toNat % 65536 }
      ready (.trap f) f cu s = true → takes cu s r = true → ∃ t, exec (.trap f) s = .next t ∧ FaultTaken cu s t r)
     ∧ (let r : FRec := { cls := 1, code := 0xA }
        ready (.brk f) f cu s = true → takes cu s r = true → ∃ t, exec (.brk f) s = .next t ∧ FaultTaken cu s t r))
  ∧ (∀ (f : Fmt) (cu : Cur) (s : State),
       let i : Instr := .svc f
       let c := mkCtx s cu i f
       i.wf = true → ready i f cu s = true → (s.core cu.core).mbox.length < 64 → noBell cu.core s = true →
       ∃ t, exec i s = .next t ∧ Elsewhere cu.core s t
         ∧ t.warp cu.core cu.wix = { c.w.advance c.lanes c.next with wait := .svc }
         ∧ t.core cu.core = { s.core cu.core with
             warps := (t.core cu.core).warps, slices := (t.core cu.core).slices
             mbox := (s.core cu.core).mbox ++ [⟨0, c.request s (f.x.toNat % 65536), cu.wix, (s.core cu.core).gen⟩] }
         ∧ ∀ k, k ≠ cu.wix → (t.core cu.core).warp? k = (s.core cu.core).warp? k)

/-! ### Queue registers -/

/-- R54, R92, R93, R95: mov.i32 from a bound queue register claims the entry at HEAD, whose word 4l is lane l's value (IntegerInstructions), and
D waits for its delivery: the registers of D are empty and keep their values, and one operation fills them with the lanes' values when the entry
has come (WarpEvents). mov.i32 to one writes the entry at TAIL: word 4l is the value of lane l, zero in the lanes outside ACTIVE; no other byte
of the scratchpad and no other ring changes. -/
def Obligations.QueueRegisters : Prop :=
  ∀ (f : Fmt) (cu : Cur) (s : State) (q : Nat),
    let i : Instr := .mov f .i32
    let c := mkCtx s cu i f
    let g := s.group cu.core c.w.gid
    let k := (c.w.binding q).2.2
    i.wf = true → ready i f cu s = true → ((s.core cu.core).group? c.w.gid).isSome = true → k < g.rings.length →
    (queueUses i f = [(q, false)] →
      ∃ t u, exec i s = .next u ∧ u = popped i f cu s t ∧ DataDone i f (.d 1 (fun c s l => c.a s 1 l)) cu s t
        ∧ (u.core cu.core).sp = (s.core cu.core).sp ∧ ringOf c q u = (ringOf c q s).claim
        ∧ (ringOf c q u).head = (ringOf c q s).head + 1 ∧ (ringOf c q u).claimed = (ringOf c q s).claimed ++ [(ringOf c q s).head]
        ∧ (∀ j, j ≠ k → (u.group cu.core c.w.gid).ring j = g.ring j)
        ∧ (∀ d, f.d = .v d →
            (∀ l, l < 32 → c.active.getLsbD l = true →
              (u.warp cu.core cu.wix).vGet d l = c.w.vGet d l ∧ ((u.warp cu.core cu.wix).vEmpty d).getLsbD l = true)
            ∧ (u.warp cu.core cu.wix).ops = (c.w.addOp {
                id := 0, kind := .pop, pops := [(k, (ringOf c q s).head)], issued := s.ptb
                fills := [⟨true, d, (maskLanes c.active).map (fun l => (l, BitVec.ofNat 32 (c.a s 1 l)))⟩] }).ops)
        ∧ ∀ d, f.d = .w d →
            (u.warp cu.core cu.wix).wGet d = c.w.wGet d ∧ (u.warp cu.core cu.wix).wE = (c.w.wClear d).wE
            ∧ (u.warp cu.core cu.wix).ops = (c.w.addOp {
                id := 0, kind := .pop, pops := [(k, (ringOf c q s).head)], issued := s.ptb
                fills := [⟨false, d, [(0, BitVec.ofNat 32 (c.a s 1 c.low))]⟩] }).ops)
    ∧ (queueUses i f = [(q, true)] →
      ∃ t, exec i s = .next t ∧ ringOf c q t = { ringOf c q s with tail := (ringOf c q s).tail + 1 }
        ∧ (∀ j, j ≠ k → (t.group cu.core c.w.gid).ring j = g.ring j)
        ∧ (∀ l, l < 32 → SMap.getN (t.core cu.core).sp 4 (g.ringAddr k (ringOf c q s).tail + 4 * l)
            = leBytes 4 (if c.active.getLsbD l then c.a s 1 l else 0))
        ∧ ∀ a, (a < g.ringAddr k (ringOf c q s).tail ∨ g.ringAddr k (ringOf c q s).tail + 128 ≤ a) →
            (t.core cu.core).sp.get a = (s.core cu.core).sp.get a)

/-! ### Memory -/

/-- R367, R368, R372, R373: a load whose lanes pass their checks completes: D becomes empty in ACTIVE, and one operation is outstanding that
will fill D with what each lane's place held, or waits for the packets to peers, each of which is sent, or follows one to the same bytes (R226);
no register takes a value, and no memory changes. That the value is what the place held at issue is the model's choice (log entries 8 and 18). R374:
ldk at an aligned offset of the constant space below 8 KiB. -/
def Obligations.Loads : Prop :=
  (∀ (i : Instr) (f : Fmt) (m : LoadForm) (cu : Cur) (s s1 : State) (ls : List LAcc),
     let c := mkCtx s cu i f
     let b := starts i f cu s
     let peers := ls.any LAcc.isPeer
     i.wf = true → loadForm i = some (f, m) → ready i f cu s = true → ringOff s = true →
     c.locateAll m.sp .read m.n (c.memAddr b m.sp m.sh) c.runs [] b = .ok ls s1 → c.opFault s1 ls false none = none →
     (∀ x ∈ ls, c.w.mustFollow x m.n = false ∧ s.there x.loc = true) →
     ∃ t vals reqs later un bad, exec i s = .next (popped i f cu s t) ∧ Looked i f cu s t
       ∧ t.warp cu.core cu.wix = (c.emptyD (max 1 (m.n / 4)) { b.warp cu.core cu.wix with unacked := un }).addOp
           (fillOp c .load (max 1 (m.n / 4)) m.n vals reqs bad s.ptb later (some (m.ac c)))
       ∧ allSent reqs later (t.warp cu.core cu.wix) ∧ (peers = false → un = c.w.unacked)
       ∧ vals.map Prod.fst = (ls.filter (fun x => !x.isPeer)).map LAcc.lane ∧ peersAsked ls m.n m.sx reqs
       ∧ (∀ x ∈ ls, ∀ bs, s.holds c x m.n = some bs → s.unraced (m.ac c) x.loc m.n = true →
           (m.ro = true → s.olderValues c.core x.pa m.n = []) → (x.lane, loadVal m.sx bs) ∈ vals)
       ∧ ((∀ x ∈ ls, ∀ pa, x.loc = .hbm pa → s.poisoned pa = false) → bad = none))
  ∧ (∀ (f : Fmt) (cnt : BitVec 3) (cu : Cur) (s : State),
       let i : Instr := .ldk f cnt
       let c := mkCtx s cu i f
       let n := 2 ^ cnt.toNat
       let a := c.a s 1 c.low
       let g := s.group cu.core c.w.gid
       ready i f cu s = true → a % (4 * n) = 0 → a < 0x2000 →
       ∃ t, exec i s = .next (popped i f cu s t) ∧ Elsewhere cu.core s t ∧ OnlyWarp i f cu s t
         ∧ t.warp cu.core cu.wix = (c.emptyD n ((starts i f cu s).warp cu.core cu.wix)).addOp
             (fillOp c .load n (4 * n) [(c.low, leVal ((List.range (4 * n)).map (fun k => g.constByte c.w.warp c.low (a + k))))] [] none s.ptb))

/-- R368, R375, R118, R120: a store whose lanes pass their checks, none of them in the on-chip map, completes: each lane's bytes stand at its
place unless a later lane overlaps it, and every other byte, every register and the CP are as before. R107, R108, R375: a store of one lane
into the on-chip map completes with what the map makes of its bytes, and no byte of local HBM or of host memory changes. That memory changes at
issue is the model's choice (log entry 8). -/
def Obligations.Stores : Prop :=
  (∀ (f : Fmt) (sp : Space) (sz : Sz) (ord : Sys2Proof.Ord) (sco : Scope) (sh : BitVec 3) (cu : Cur) (s s1 : State) (ls : List LAcc),
     let i : Instr := .st f sp sz ord sco sh
     let c := mkCtx s cu i f
     let b := starts i f cu s
     let n := szBytes sz
     let ac := Acc.of (.warp cu.core cu.wix) ord sco
     i.wf = true → ready i f cu s = true → ringOff s = true → c.w.wait = .none → c.mustWait s ac = false → s.unspilled = true →
     c.locateAll sp .write n (c.memAddr b sp sh.toNat) c.runs [] b = .ok ls s1 → c.opFault s1 ls false none = none →
     (ls.any LAcc.isPeer = true → c.w.counter .f < 63) →
     (∀ x ∈ ls, c.w.mustFollow x n = false ∧ s.there x.loc = true ∧ ∀ o, x.loc ≠ .ocm o) →
     ∃ t reqs later un, exec i s = .next (popped i f cu s t) ∧ Wrote i f cu s t ∧ BytesKept ls n s t ∧ peersAsked ls n false reqs
       ∧ t.warp cu.core cu.wix =
           (if ls.any LAcc.isPeer then
             ({ b.warp cu.core cu.wix with unacked := un } : Warp).addOp
               { id := 0, kind := .store, cls := some .f, reqs := reqs, later := later, issued := s.ptb }
           else b.warp cu.core cu.wix)
       ∧ allSent reqs later (t.warp cu.core cu.wix)
       ∧ ∀ x ∈ ls, s.takesBytes x.loc = true → s.unraced ac x.loc n = true → (ac.strong = true → ls = [x] ∨ s.unwatched x.loc n = true) →
           (∀ y ∈ ls, x.lane < y.lane → x.loc.apart n y.loc = true) →
           (∀ pa, x.loc = .hbm pa → t.peek pa n = leBytes n (c.c s (max 1 (n / 4)) x.lane))
           ∧ (∀ a, x.loc = .host a → SMap.getN t.hostMem n a = leBytes n (c.c s (max 1 (n / 4)) x.lane))
           ∧ ∀ k a, x.loc = .sp k a → SMap.getN (t.core k).sp n a = leBytes n (c.c s (max 1 (n / 4)) x.lane))
  ∧ (∀ (f : Fmt) (sp : Space) (sz : Sz) (ord : Sys2Proof.Ord) (sco : Scope) (sh : BitVec 3) (cu : Cur) (s s1 : State) (x : LAcc) (o : Nat),
       let i : Instr := .st f sp sz ord sco sh
       let c := mkCtx s cu i f
       let b := starts i f cu s
       let n := szBytes sz
       let ac := Acc.of (.warp cu.core cu.wix) ord sco
       ready i f cu s = true → c.mustWait s ac = false →
       c.locateAll sp .write n (c.memAddr b sp sh.toNat) c.runs [] b = .ok [x] s1 → x.loc = .ocm o → c.opFault s1 [x] false none = none →
       ∃ t, exec i s = .next (popped i f cu s t) ∧ t = finished (s1.ocmStore ac o (leBytes n (c.c s (max 1 (n / 4)) x.lane)))
         ∧ t.mem = s.mem ∧ t.hostMem = s.hostMem ∧ t.keyTag = s.keyTag)

/-- R376 to R378: an atomic whose lanes pass their checks completes. A lane that no other overlaps takes the old value, and its place holds the
new value of R376, or the old one where a .cas fails; every other byte, and every register but D's full bits, is as before. That memory changes
at issue is the model's choice (log entry 8). -/
def Obligations.Atomics : Prop :=
  ∀ (f : Fmt) (op : AOp) (ty : Ty) (ord : Sys2Proof.Ord) (sco : Scope) (pr sp : Bool) (sh : BitVec 3) (cu : Cur) (s s1 : State)
    (ls : List LAcc),
    let i : Instr := .atom f op ty ord sco pr sp sh
    let c := mkCtx s cu i f
    let b := starts i f cu s
    let n := tyBytes ty
    let space : Space := if sp then .s else .g
    let new (old : List Byte) (l : Nat) : List Byte :=
      if aopWrites op (leVal old) (c.c s ty.words l) (c.fourth s ty.words l) then leBytes n (aopNew op ty (leVal old) (c.c s ty.words l) (c.fourth s ty.words l)) else old
    let ac := Acc.of (.warp cu.core cu.wix) ord sco pr
    i.wf = true → ready i f cu s = true → ringOff s = true → c.w.wait = .none → c.mustWait s ac = false → s.unspilled = true →
    c.locateAll space .atomic n (c.memAddr b space sh.toNat) c.runs [] b = .ok ls s1 → c.opFault s1 ls false (some op) = none →
    (∀ x ∈ ls, c.w.mustFollow x n = false ∧ s.there x.loc = true) →
    ∃ t vals reqs later un bad, exec i s = .next (popped i f cu s t) ∧ Wrote i f cu s t ∧ BytesKept ls n s t ∧ peersAsked ls n false reqs
      ∧ t.warp cu.core cu.wix = (c.emptyD ty.words { b.warp cu.core cu.wix with unacked := un }).addOp
          (fillOp c .atom ty.words n vals reqs bad s.ptb later (some ac))
      ∧ allSent reqs later (t.warp cu.core cu.wix)
      ∧ vals.map Prod.fst = (ls.filter (fun x => !x.isPeer)).map LAcc.lane
      ∧ ∀ x ∈ ls, ∀ old, s.holds c x n = some old → s.takesBytes x.loc = true → s.unraced ac x.loc n = true →
          (ac.strong = true → ls = [x] ∨ s.unwatched x.loc n = true) → (∀ y ∈ ls, x.lane ≠ y.lane → x.loc.apart n y.loc = true) →
          (x.lane, leVal old) ∈ vals
          ∧ (∀ pa, x.loc = .hbm pa → t.peek pa n = new old x.lane)
          ∧ (∀ a, x.loc = .host a → SMap.getN t.hostMem n a = new old x.lane)
          ∧ ∀ k a, x.loc = .sp k a → SMap.getN (t.core k).sp n a = new old x.lane

/-- R379, R380: a reduction whose lanes pass their checks completes: what its local lanes have to do is one outstanding operation of class A,
what it sends to peers one of class F; no register takes a value, and no memory changes yet: that a local lane is performed by redPerformed and not
at issue is the model's choice (log entry 19). -/
def Obligations.Reductions : Prop :=
  ∀ (f : Fmt) (op : AOp) (ty : Ty) (ord : Sys2Proof.Ord) (sco : Scope) (sh : BitVec 3) (cu : Cur) (s s1 : State) (ls : List LAcc),
    let i : Instr := .red f op ty ord sco sh
    let c := mkCtx s cu i f
    let b := starts i f cu s
    let n := tyBytes ty
    let locals := ls.filter (fun x => !x.isPeer)
    let peers := ls.any LAcc.isPeer
    i.wf = true → ready i f cu s = true → c.mustWait s (Acc.of (.warp cu.core cu.wix) ord sco) = false →
    c.locateAll .g .atomic n (c.memAddr b .g sh.toNat) c.runs [] b = .ok ls s1 → c.opFault s1 ls true (some op) = none →
    (peers = true → c.w.counter .f < 63) → (locals ≠ [] → c.w.counter .a < 63) →
    (∀ x ∈ ls, x.isPeer = true → c.w.mustFollow x n = false) →
    ∃ t reds reqs later un, exec i s = .next (popped i f cu s t) ∧ Looked i f cu s t ∧ peersAsked ls n false reqs
      ∧ reds.map (fun (r : RedLane) => (r.op, r.ty, r.rel, r.sc, r.pa, r.val))
          = locals.map (fun x => (op, ty, Ord.releases ord, sco, x.pa, c.c s ty.words x.lane))
      ∧ t.warp cu.core cu.wix =
          (let w1 := if locals = [] then b.warp cu.core cu.wix
            else (b.warp cu.core cu.wix).addOp { id := 0, kind := .red, cls := some .a, reds := reds, issued := s.ptb }
          if peers then
            ({ w1 with unacked := un } : Warp).addOp { id := 0, kind := .red, cls := some .f, reqs := reqs, later := later, issued := s.ptb }
          else w1)
      ∧ allSent reqs later (t.warp cu.core cu.wix)

/-- R382 to R384, R142: a fence that need not wait acts on what the warp has synchronised with and on nothing else; fro makes the core's read-
only path read what is written now, and rcfence empties the core's record cache, and no record on its way from a peer will enter it. -/
def Obligations.Fences : Prop :=
  (∀ (f : Fmt) (ord : Sys2Proof.Ord) (sco : Scope) (cu : Cur) (s : State),
    let i : Instr := .fence f ord sco
    let c := mkCtx s cu i f
    ready i f cu s = true → (ord = .acq ∨ ord = .ar → c.w.readsBack = true) → (Ord.releases ord = true → c.w.mayRelease = true) →
    ∃ t, exec i s = .next t ∧ Elsewhere cu.core { s with hb := s.hb.fence (.warp cu.core cu.wix) ord sco } t ∧ OnlyWarp i f cu s t
      ∧ (i.wf = true → WarpIs i f (fun w => w) cu s t))
  ∧ (∀ (f : Fmt) (cu : Cur) (s : State),
    let i : Instr := .fro f
    i.wf = true → ready i f cu s = true →
    ∃ t, exec i s = .next t ∧ Elsewhere cu.core s t ∧ WarpIs i f (fun w => w) cu s t
      ∧ OnCore i f (fun k => { k with roAt := s.undo.length }) false cu s t
      ∧ ∀ pa n, t.olderValues cu.core pa n = [])
  ∧ ∀ (f : Fmt) (cu : Cur) (s : State),
    let i : Instr := .rcfence f
    i.wf = true → ready i f cu s = true → (∀ o ∈ (mkCtx s cu i f).w.ops, o.kind = .store → o.done = true) →
    ∃ t, exec i s = .next t ∧ Elsewhere cu.core s t ∧ WarpIs i f (fun w => w) cu s t
      ∧ OnCore i f (fun k => { k with
          rcache := [], copies := k.copies.map (fun (x : Copy) => if x.want.isSome then { x with stale := true } else x) }) false cu s t

/-! ### Barrier objects, waiting and queues -/

/-- R390 to R394: bini of 1 to 65,535 arrivals at a place that is not listed, on a core with fewer than 256 objects, lists an object with
EXPECTED = PENDING = n, BYTES 0 and PHASE 0; at an object at rest it sets EXPECTED and PENDING, and the reserved bits to zero. R392, R395: barv
takes n arrivals off a listed object, turns its phase where none is left and no byte is owed, and gives D the phase before; bexp adds the bytes
that are owed; both keep the reserved bits. -/
def Obligations.BarrierObjects : Prop :=
  (∀ (f : Fmt) (cu : Cur) (s : State) (a core phys : Nat),
     let i : Instr := .bini f
     let c := mkCtx s cu i f
     let n := c.b s 1 c.low
     let o := s.bar core phys
     i.wf = true → ready i f cu s = true → c.barAt s = .ok (a, core, phys) → 1 ≤ n → n ≤ 65535 →
     s.unraced (barAcc (.warp cu.core cu.wix) .cl false) (.sp core phys) 16 = true →
     (s.listed core phys = false → (s.core core).bars.length < 256 →
       ∃ t, exec i s = .next (popped i f cu s t)
         ∧ BarDone i f core phys { exp := n, pend := n, bytes := 0, phase := false } ((s.core core).bars ++ [phys]) cu s t
         ∧ WarpIs i f (fun w => w) cu s t)
     ∧ (s.listed core phys = true → o.pend = o.exp → o.bytes = 0 →
       ∃ t, exec i s = .next (popped i f cu s t) ∧ BarDone i f core phys { o with exp := n, pend := n, rest := 0 } (s.core core).bars cu s t
         ∧ WarpIs i f (fun w => w) cu s t))
  ∧ (∀ (f : Fmt) (sco : Scope) (cu : Cur) (s : State) (a core phys : Nat),
       let c := mkCtx s cu (.barv f sco) f
       let n := c.b s 1 c.low
       let o := s.bar core phys
       c.barAt s = .ok (a, core, phys) → s.listed core phys = true →
       (let i : Instr := .barv f sco
        s.unraced (barAcc (.warp cu.core cu.wix) sco false) (.sp core phys) 16 = true → i.wf = true → ready i f cu s = true → c.w.mayRelease = true → n ≤ o.pend →
         ∃ t, exec i s = .next (popped i f cu s t)
           ∧ BarDone i f core phys ({ o with pend := o.pend - n } : Bar).settle (s.core core).bars cu s t
           ∧ (∀ r l, l < 32 → (t.warp cu.core cu.wix).vGet r l = vAfter c i 1 (fun _ => if o.phase then 1 else 0) r l)
           ∧ ∀ r, (t.warp cu.core cu.wix).wGet r = wAfter c 1 (fun _ => if o.phase then 1 else 0) r)
       ∧ (let i : Instr := .bexp f
          s.unraced (barAcc (.warp cu.core cu.wix) .cl false) (.sp core phys) 16 = true → i.wf = true → ready i f cu s = true →
          -(2 ^ 31) ≤ o.bytes + n → o.bytes + n < 2 ^ 31 →
           ∃ t, exec i s = .next (popped i f cu s t)
             ∧ BarDone i f core phys ({ o with bytes := o.bytes + n } : Bar).settle (s.core core).bars cu s t
             ∧ WarpIs i f (fun w => w) cu s t))

/-- R386: await.cnt does not hold a warp whose counters are at or below their thresholds, and holds any other from now on. R387: await.ph goes
on at a listed object whose phase is no longer the token's, and waits otherwise. -/
def Obligations.CounterAndPhaseWaits : Prop :=
  (∀ (f : Fmt) (cu : Cur) (s : State),
     let i : Instr := .awaitCnt f
     let c := mkCtx s cu i f
     let thr := c.a s 1 c.low
     i.wf = true → ready i f cu s = true →
     (c.w.atMost thr = true →
       ∃ t, exec i s = .next (popped i f cu s t) ∧ Elsewhere cu.core { s with hb := t.hb } t ∧ OnlyWarp i f cu s t
         ∧ WarpIs i f (fun w => { w with landed := w.landed.filter w.unretired }) cu s t)
     ∧ (c.w.atMost thr = false →
       ∃ t, exec i s = .next (popped i f cu s t) ∧ Elsewhere cu.core s t ∧ OnlyWarp i f cu s t
         ∧ WarpIs i f (fun w => { w with wait := .cnt (BitVec.ofNat 32 thr), since := max s.ptb 1 }) cu s t))
  ∧ (∀ (f : Fmt) (sco : Scope) (cu : Cur) (s : State) (a core phys : Nat),
       let i : Instr := .awaitPh f sco
       let c := mkCtx s cu i f
       let tok := (c.b s 1 c.low).testBit 0
       i.wf = true → ready i f cu s = true → c.barAt s = .ok (a, core, phys) → s.listed core phys = true →
       s.unraced (barAcc (.warp cu.core cu.wix) sco false) (.sp core phys) 16 = true →
       ((s.bar core phys).phase ≠ tok →
         ∃ t, exec i s = .next (popped i f cu s t) ∧ Elsewhere cu.core { s with hb := t.hb } t ∧ OnlyWarp i f cu s t
           ∧ WarpIs i f (fun w => w) cu s t)
       ∧ ((s.bar core phys).phase = tok →
         ∃ t, exec i s = .next (popped i f cu s t) ∧ Elsewhere cu.core s t ∧ OnlyWarp i f cu s t
           ∧ WarpIs i f (fun w => { w with wait := .ph core phys tok sco, since := max s.ptb 1 }) cu s t))

/-- R121 to R125, R131, R387, R388: await.ph.g and await.mem on a word of local HBM that is not poisoned and in no race, and that no earlier
access of the warp has yet to reach. Where the condition holds, or
the deadline has passed, the wait is over at once, and the predicate of await.mem says which; else one entry watches the word, in the table where
there is room, and the warp waits for it, parked where the park area has room (R59); of memory only that area changes. -/
def Obligations.MemoryWaits : Prop :=
  ∀ (i : Instr) (f : Fmt) (n va : Nat) (m : Mon) (wait : Wait) (cu : Cur) (s s1 : State) (l pa : Nat),
    let c := mkCtx s cu i f
    let b := starts i f cu s
    let e : Mon := { m with pa := pa }
    let v := leVal (s.peek pa e.bytes)
    i.wf = true → ready i f cu s = true → ringOff s = true → c.w.stopped = false → c.w.replay = none → watchOf c s i = some (n, va, m, wait) →
    c.locateAll .g .read n (fun _ => va) [c.low] [] b = .ok [⟨l, va, .hbm pa⟩] s1 → s.poisoned pa = false →
    s.unraced (s.monAcc e) (.hbm pa) e.bytes = true → c.w.mustFollow ⟨l, va, .hbm pa⟩ e.bytes = false →
    (monCond e v = true ∨ m.late s.ptb = true →
      ∃ t, exec i s = .next (popped i f cu s t) ∧ Elsewhere cu.core { s with hb := t.hb, cp := t.cp, rate := t.rate, strong := t.strong } t
        ∧ RegsBut [oERLOST] s t ∧ (t.warp cu.core cu.wix).wait = .none
        ∧ (∀ ls p sc, wait = .mem ls p sc →
            ∀ q j, j < 32 → (t.warp cu.core cu.wix).pGet q j
              = if q = p ∧ p < c.w.preds.length ∧ ls.getLsbD j = true then monCond e v else c.w.pGet q j)
        ∧ (∀ sc, wait = .phg sc → (t.warp cu.core cu.wix).preds = c.w.preds)
        ∧ (t.warp cu.core cu.wix).v = c.w.v ∧ (t.warp cu.core cu.wix).w = c.w.w)
    ∧ (monCond e v = false → m.late s.ptb = false → s.monTable (s.homeSlice (locOf pa)) < Config.monEntries →
      ParkOpen cu.core s → (locOf pa + e.bytes ≤ locOf (s.parkArea cu.core) ∨ locOf (s.parkArea cu.core) + 2 ^ 20 ≤ locOf pa) →
      ∃ t, exec i s = .next (popped i f cu s t)
        ∧ t = { s with
            cores := t.cores, hb := t.hb, mem := t.mem, keyTag := t.keyTag, poison := t.poison, undo := t.undo, mons := t.mons
            cp := t.cp, rate := t.rate, strong := t.strong, cur := none, issued := true }
        ∧ RegsBut [oERLOST] s t ∧ (∀ k, k ≠ cu.core → t.core k = s.core k) ∧ OutsidePark cu.core s t
        ∧ t.mons = s.mons ++ [{ e with st := .armed, ack := none }] ∧ (t.warp cu.core cu.wix).wait = wait
        ∧ (c.w.sup = false → c.w.place.isSome = true → s.parkFits cu.core c.w = true → (t.warp cu.core cu.wix).place = none)
        ∧ (c.w.sup = true → (t.warp cu.core cu.wix).place = c.w.place)
        ∧ (t.warp cu.core cu.wix).preds = c.w.preds ∧ (t.warp cu.core cu.wix).v = c.w.v ∧ (t.warp cu.core cu.wix).w = c.w.w)

/-- R396, R397: an arrival at a grid barrier that is not the last is counted, and nothing else changes; the last starts the count again and the
phase word in local HBM takes its next value, which the word in memory gives (log entry 70). R233: an arrival at a fabric barrier that is not the last of this member's is counted; the last
starts the count again and one FBAR with the PTB is on its way to the root, this package or another. -/
def Obligations.GridAndFabricBarriers : Prop :=
  (∀ (f : Fmt) (cu : Cur) (s : State) (pa leaf : Nat),
     let i : Instr := .gbarGrid f
     let c := mkCtx s cu i f
     let g := c.b s 1 c.low % 256
     let gen := (s.core cu.core).gen
     let had := ((s.gbCount.find? (fun p => p.1 == gen && p.2.1 == g)).map (fun p => p.2.2)).getD 0
     i.wf = true → ready i f cu s = true → ringOff s = true → c.w.mayRelease = true → s.gbValid gen g = true →
     (had + 1 < fld (s.gbWord gen g 0) 32 1 →
       ∃ t, exec i s = .next (popped i f cu s t) ∧ Elsewhere cu.core { s with hb := t.hb, gbCount := t.gbCount } t ∧ OnlyWarp i f cu s t
         ∧ WarpIs i f (fun w => w) cu s t ∧ t.gbCount.find? (fun p => p.1 == gen && p.2.1 == g) = some (gen, g, had + 1))
     ∧ (fld (s.gbWord gen g 0) 32 1 ≤ had + 1 → s.xlateCp gen (s.gbWord gen g 1) .write = .ok pa leaf → aperOf leaf = 0 →
         (s.keyDraw (keyOf pa)).isSome = true → s.locExists (locOf pa) = true → pa % 8 = 0 → s.poisoned pa = false → s.calm = true →
         s.unspilled = true →
       ∃ t, exec i s = .next (popped i f cu s t) ∧ t.gbCount.find? (fun p => p.1 == gen && p.2.1 == g) = none
         ∧ t.peek pa 8 = leBytes 8 (phaseNext (leVal (s.peek pa 8)) 0)
         ∧ ∀ qa, locOf qa / 64 ≠ locOf pa / 64 → t.peek qa 1 = s.peek qa 1))
  ∧ (∀ (f : Fmt) (cu : Cur) (s : State),
       let i : Instr := .gbarFab f
       let c := mkCtx s cu i f
       let b := c.b s 1 c.low % 256
       let gen := (s.core cu.core).gen
       let lexp := fld (s.fbDesc b 3) 31 0
       let root := fld (s.fbDesc b 1) 30 16
       i.wf = true → ready i f cu s = true → c.w.mayRelease = true → s.fbValid b = true → (s.fb b).noRoot = false →
       (((s.fb b).count + 1 < lexp →
         ∃ t, exec i s = .next (popped i f cu s t) ∧ Elsewhere cu.core { s with hb := t.hb, fbars := t.fbars } t ∧ OnlyWarp i f cu s t
           ∧ WarpIs i f (fun w => w) cu s t ∧ (t.fb b).count = (s.fb b).count + 1)
       ∧ (lexp ≤ (s.fb b).count + 1 → (s.dest root).bad = false → (s.dest root).waiting = [] →
           (s.dest root).unacked.length < 1024 → s.pathTo root = true →
         ∃ t x, exec i s = .next (popped i f cu s t) ∧ (t.fb b).count = 0 ∧ WarpIs i f (fun w => w) cu s t ∧ t.mem = s.mem
           ∧ (t.dest root).unacked = (s.dest root).unacked ++ [⟨(s.dest root).next, x, s.ptb, s.ptb⟩]
           ∧ x.opc = 0x1A ∧ x.addr.toNat = b ∧ x.pay = leBytes 8 s.ptb ∧ x.dst.toNat = root ∧ x.gen.toNat = gen % 2 ^ 16)))

/-- R399, R400: qcls closes the warp's push binding, and the ring where no other warp of the group may still push to it; qstat gives D the
state of the ring. -/
def Obligations.QueueControl : Prop :=
  (∀ (f : Fmt) (qn : BitVec 3) (cu : Cur) (s : State),
    let i : Instr := .qcls f qn
    let c := mkCtx s cu i f
    let bd := c.w.binding qn.toNat
    i.wf = true → ready i f cu s = true → bd.1 = true → bd.2.1 = true →
    ∃ t, exec i s = .next t ∧ Elsewhere cu.core s t
      ∧ WarpIs i f (fun w => { w with qcls := w.qcls ||| BitVec.ofNat 8 (2 ^ qn.toNat) }) cu s t
      ∧ (t.core cu.core).sp = (s.core cu.core).sp
      ∧ ((t.core cu.core).warps.any (fun w => w.gid == c.w.gid && w.pushes bd.2.2 && !w.qClosed bd.2.2) = true →
          (t.core cu.core).groups = (s.core cu.core).groups)
      ∧ ((t.core cu.core).warps.any (fun w => w.gid == c.w.gid && w.pushes bd.2.2 && !w.qClosed bd.2.2) = false →
          ((s.core cu.core).group? c.w.gid).isSome = true → bd.2.2 < (s.group cu.core c.w.gid).rings.length →
          (ringOf c qn.toNat s).closeAt = none → (ringOf c qn.toNat t).closeAt = some (ringOf c qn.toNat s).tail))
  ∧ ∀ (f : Fmt) (qn : BitVec 3) (cu : Cur) (s : State),
    let i : Instr := .qstat f qn
    i.wf = true → ready i f cu s = true → ((mkCtx s cu i f).w.binding qn.toNat).1 = true →
    ∃ t, exec i s = .next (popped i f cu s t) ∧ DataDone i f (.d 1 (fun c s _ => qstatWord qn c s)) cu s t

/-! ### The matrix unit -/

/-- R168, R169, R401 to R411: with the unit warm and no matrix fault, mma and mmaz give every word of the tiles of the quarters that take part
the value of R168 from the old word (mma) or from zero (mmaz), in tiles of the warp or in scratchpad, and are outstanding in the M counter; the
flags go to FPSTAT; no other tile, and no byte of a scratchpad outside the tiles, changes. -/
def Obligations.MatrixProducts : Prop :=
  ∀ (i : Instr) (f : Fmt) (m : MmaMods) (zero : Bool) (cu : Cur) (s : State) (sp : List (Nat × Nat × Nat)) (n : Nat)
    (rows : List (Nat × List (List FV) × List (List FV))),
    let c := mkCtx s cu i f
    let b := starts i f cu s
    i.wf = true → mmaOf i = some (f, m, zero) → ready i f cu s = true → (s.slice cu.core c.slice).mx = .warm →
    mmaReadsAll c b m zero = some (sp, n, rows) →
    (m.dsp = false →
      ∃ t, exec i s = .next (popped i f cu s t) ∧ MatDone i f false cu s t ∧ (t.warp cu.core cu.wix).v = c.w.v ∧ (t.warp cu.core cu.wix).vE = c.w.vE
        ∧ (∀ x ∈ rows, ∀ k, k < 128 →
            (t.warp cu.core cu.wix).tileWord (f.d.tileN + x.1) k = mmaWord c b m zero n x.2 (c.w.tileWord (f.d.tileN + x.1)) k % 2 ^ 32)
        ∧ (∀ q k, (∀ x ∈ rows, q ≠ f.d.tileN + x.1) → k < 128 → (t.warp cu.core cu.wix).tileWord q k = c.w.tileWord q k)
        ∧ (t.warp cu.core cu.wix).fpstat = (c.w.orFlags (rows.foldl (fun (a : Flags) x =>
            a ||| mmaFlags c b m zero n x.2 (c.w.tileWord (f.d.tileN + x.1))) 0)).fpstat)
    ∧ (m.dsp = true → c.tilesAt s (c.src s f.d 1 c.low) (quarters m.nqm) = .ok sp →
      (∀ p ∈ sp, s.unraced (tileAcc c true) (.sp p.2.1 p.2.2) 512 = true) →
      let old (q : Nat) : Nat → Nat :=
        ((sp.find? (fun p => p.1 == q)).map (fun p => wordsOf (SMap.getN (s.core p.2.1).sp 512 p.2.2))).getD (fun _ => 0)
      ∃ t, exec i s = .next (popped i f cu s t) ∧ MatDone i f true cu s t ∧ (t.warp cu.core cu.wix).v = c.w.v ∧ (t.warp cu.core cu.wix).vE = c.w.vE
        ∧ (t.warp cu.core cu.wix).acc = c.w.acc
        ∧ (∀ p ∈ sp, ∀ x ∈ rows, x.1 = p.1 → ∀ k, k < 128 →
            leVal (SMap.getN (t.core p.2.1).sp 4 (p.2.2 + 4 * k)) = mmaWord c b m zero n x.2 (old p.1) k % 2 ^ 32)
        ∧ (∀ k a, (∀ p ∈ sp, k ≠ p.2.1 ∨ a < p.2.2 ∨ p.2.2 + 512 ≤ a) → (t.core k).sp.get a = (s.core k).sp.get a)
        ∧ (t.warp cu.core cu.wix).fpstat
            = (c.w.orFlags (rows.foldl (fun (a : Flags) x => a ||| mmaFlags c b m zero n x.2 (old x.1)) 0)).fpstat)

/-- R412: accz zeroes the tiles of the quarters that take part. R412: accld takes tiles from v registers (word k of quarter j is register k mod
16, lane 8j + k / 16) or from scratchpad. R412: accst gives v registers or scratchpad the words of tiles, which keep theirs. -/
def Obligations.TileMoves : Prop :=
  (∀ (f : Fmt) (nqm : BitVec 4) (cu : Cur) (s : State),
     let i : Instr := .accz f nqm
     i.wf = true → ready i f cu s = true →
     ∃ t, exec i s = .next (popped i f cu s t) ∧ MatDone i f false cu s t ∧ RegsKept (mkCtx s cu i f).w (t.warp cu.core cu.wix)
       ∧ TilesAre f.d.tileN (quarters nqm) (fun _ _ => 0) (mkCtx s cu i f).w (t.warp cu.core cu.wix))
  ∧ (∀ (f : Fmt) (nqm : BitVec 4) (cu : Cur) (s : State),
       (let i : Instr := .accld f nqm false
        let c := mkCtx s cu i f
        i.wf = true → ready i f cu s = true → c.lanesMissing nqm = false →
         ∃ t, exec i s = .next (popped i f cu s t) ∧ MatDone i f false cu s t ∧ RegsKept c.w (t.warp cu.core cu.wix)
           ∧ TilesAre f.d.tileN (quarters nqm) (fun j k => c.w.vGet (f.a.vN + k % 16) (8 * j + k / 16)) c.w (t.warp cu.core cu.wix))
       ∧ (let i : Instr := .accld f nqm true
          let c := mkCtx s cu i f
          ∀ ps, i.wf = true → ready i f cu s = true → c.tilesAt s (c.a s 1 c.low) (quarters nqm) = .ok ps →
           (∀ p ∈ ps, s.unraced (tileAcc c false) (.sp p.2.1 p.2.2) 512 = true) →
           ∃ t, exec i s = .next (popped i f cu s t) ∧ MatDone i f false cu s t ∧ RegsKept c.w (t.warp cu.core cu.wix)
             ∧ ∀ p ∈ ps, ∀ k, k < 128 →
                 (t.warp cu.core cu.wix).tileWord (f.d.tileN + p.1) k = leVal (SMap.getN (s.core p.2.1).sp 4 (p.2.2 + 4 * k))))
  ∧ (∀ (f : Fmt) (nqm : BitVec 4) (cu : Cur) (s : State),
       (let i : Instr := .accst f nqm false
        let c := mkCtx s cu i f
        i.wf = true → ready i f cu s = true → c.lanesMissing nqm = false →
         ∃ t, exec i s = .next (popped i f cu s t) ∧ MatDone i f false cu s t ∧ (t.warp cu.core cu.wix).acc = c.w.acc
           ∧ (∀ j ∈ quarters nqm, ∀ k, k < 128 →
               (t.warp cu.core cu.wix).vGet (f.d.vN + k % 16) (8 * j + k / 16) = c.w.tileWord (f.a.tileN + j) k)
           ∧ ∀ r l, l < 32 → (r < f.d.vN ∨ f.d.vN + 16 ≤ r ∨ l / 8 ∉ quarters nqm) →
               (t.warp cu.core cu.wix).vGet r l = ((starts i f cu s).warp cu.core cu.wix).vGet r l)
       ∧ (let i : Instr := .accst f nqm true
          let c := mkCtx s cu i f
          ∀ ps, i.wf = true → ready i f cu s = true → c.tilesAt s (c.src s f.d 1 c.low) (quarters nqm) = .ok ps →
           (∀ p ∈ ps, s.unraced (tileAcc c false) (.sp p.2.1 p.2.2) 512 = true) →
           ∃ t, exec i s = .next (popped i f cu s t) ∧ MatDone i f true cu s t ∧ (t.warp cu.core cu.wix).acc = c.w.acc ∧ (t.warp cu.core cu.wix).v = c.w.v
             ∧ (∀ p ∈ ps, ∀ k, k < 128 → leVal (SMap.getN (t.core p.2.1).sp 4 (p.2.2 + 4 * k)) = c.w.tileWord (f.a.tileN + p.1) k)
             ∧ ∀ k a, (∀ p ∈ ps, k ≠ p.2.1 ∨ a < p.2.2 ∨ p.2.2 + 512 ≤ a) → (t.core k).sp.get a = (s.core k).sp.get a))

/-- R414 to R417: qpack, qunpk and rqnt give the ACTIVE lanes of D the words of their blocks, and no other register changes. R418, R419:
plsplit, plmrg and topk complete as an instruction that only computes, and are outstanding in the M counter. -/
def Obligations.ConversionsAndSelection : Prop :=
  (∀ (i : Instr) (f : Fmt) (out : List ((Nat × Nat) × Nat) × Flags) (cu : Cur) (s : State),
     let c := mkCtx s cu i f
     let w := (starts i f cu s).warp cu.core cu.wix
     i.wf = true → i.fmt = some f → ready i f cu s = true → convOut c (starts i f cu s) i = some out →
     ∃ t, exec i s = .next (popped i f cu s t) ∧ MatDone i f false cu s t ∧ (t.warp cu.core cu.wix).acc = c.w.acc
       ∧ (∀ r l, l < 32 → (t.warp cu.core cu.wix).vGet r l = wordsGet f.d.vN out.1 w r l)
       ∧ (t.warp cu.core cu.wix).fpstat = (w.orFlags out.2).fpstat)
  ∧ (∀ (i : Instr) (f : Fmt) (e : DataEff) (cu : Cur) (s : State),
       i.wf = true → planeEff (mkCtx s cu i f) s i = some (f, e) → ready i f cu s = true →
       ∃ t, DataDone i f e cu s t
         ∧ exec i s = .next (popped i f cu s { t.updWarp cu.core cu.wix (fun w => w.addOp (matOp s.ptb)) with
             hb := (s.hb.stamp (.unit cu.core cu.wix)).1 }))

/-! ### Copies -/

/-- R420, R421, R423, R426 to R428: a copy instruction whose operands pass their checks supplies the warp's next piece of its copy set, and,
with counter completion, is outstanding in the C counter. While the set lacks a piece of another warp, nothing else changes. R420, R423, R426 to
R428: each of cpy, cpyt, cpyw, cpyg and cpys by the only warp of its copy set, where no copy is under way on the core and its shape record can be
had (cpyt, cpyw), completes and starts the copy at once, with the transfers of its piece; memory does not change yet. R423: the transfers of cpy
move the bytes from B to A in order. -/
def Obligations.CopyInstructions : Prop :=
  (∀ (i : Instr) (f : Fmt) (m : CopyForm) (cu : Cur) (s : State),
     let c := mkCtx s cu i f
     let b := starts i f cu s
     i.wf = true → copyForm c s i = some (f, m) → readyCopy i f cu s = true → (copyChecked c b i).isSome = true →
     c.barUnlisted b m.cpl m.ctw = none → (m.size = true ∨ c.active = 0) →
     ((s.core cu.core).copies.filter (fun x => x.opc != opStage && !x.discarded)).length < 32 →
     (∀ x, nextCopy c s = some x → x.discarded = false ∧ x.opc = m.opc ∧ x.mods = m.mods ∧ x.cpl = m.cpl
       ∧ (m.cpl ≠ .cnt → x.target = c.ctw m.ctw)) → setWaits c s = true →
     ∃ t, exec i s = .next (popped i f cu s t) ∧ t.mem = s.mem ∧ t.hostMem = s.hostMem ∧ t.cp = s.cp ∧ t.outs = s.outs
       ∧ (t.core cu.core).copies = withPiece c s m ∧ (t.core cu.core).sp = (s.core cu.core).sp
       ∧ (let id := ((nextCopy c s).map Copy.id).getD (s.core cu.core).nextId
          WarpIs i f (fun w =>
            let w1 := { w with pieces := w.pieces + 1 }
            if m.cpl = .cnt then w1.addOp { id := 0, kind := .copy id, cls := some .c, issued := s.ptb } else w1) cu s t)
       ∧ ∀ k, k ≠ cu.core → t.core k = s.core k)
  ∧ (∀ (i : Instr) (f : Fmt) (m : CopyForm) (cu : Cur) (s b u : State) (xs : List Xfer),
       let c := mkCtx s cu i f
       i.wf = true → copyForm c s i = some (f, m) → readyCopy i f cu s = true → ringOff s = true →
       copyChecked c (starts i f cu s) i = some b → c.barUnlisted b m.cpl m.ctw = none → (m.size = true ∨ c.active = 0) →
       (s.core cu.core).copies = [] → soleOfSet c s →
       (copyBegun c b m).pieceMoves cu.core (newCopy c b m) (pieceOf c m) = (.ok xs, u) → u.stop = none →
       ∃ t x, exec i s = .next (popped i f cu s t) ∧ (t.core cu.core).copies = [x]
         ∧ x.id = (s.core cu.core).nextId ∧ x.opc = m.opc ∧ x.mods = m.mods ∧ x.cpl = m.cpl ∧ x.target = (if m.cpl = .cnt then 0 else c.ctw m.ctw)
         ∧ x.pieces = [pieceOf c m] ∧ x.started = true ∧ x.xfers = xs ∧ x.want = none
         ∧ (t.warp cu.core cu.wix).pcs = (c.w.advance c.lanes c.next).pcs ∧ (t.warp cu.core cu.wix).pieces = c.w.pieces + 1
         ∧ (t.warp cu.core cu.wix).counter .c = c.w.counter .c + (if m.cpl = .cnt then 1 else 0)
         ∧ t.mem = s.mem ∧ t.keyTag = s.keyTag ∧ t.hostMem = s.hostMem ∧ ∀ k, (t.core k).sp = (s.core k).sp)
  ∧ (∀ (f : Fmt) (cpl : Cpl) (ds ss : Bool) (ctw : BitVec 7) (m : CopyForm) (cu : Cur) (s : State),
       let i : Instr := .cpy f cpl ds ss ctw
       let c := mkCtx s cu i f
       let b := starts i f cu s
       i.wf = true → copyForm c s i = some (f, m) → readyCopy i f cu s = true → c.active ≠ 0 → (copyChecked c b i).isSome = true →
       c.barUnlisted b cpl ctw = none → m.size = true → (s.core cu.core).copies = [] →
       soleOfSet c s →
       ∃ t x, exec i s = .next (popped i f cu s t) ∧ (t.core cu.core).copies = [x] ∧ x.started = true ∧ x.opc = 0x1C0
         ∧ (x.xfers.map Xfer.n).foldl (· + ·) 0 = c.c s 1 c.low ∧ (∀ y ∈ x.xfers, y.done = false ∧ 1 ≤ y.n ∧ y.n ≤ 64)
         ∧ (ds = false → (x.xfers.head?.map Xfer.dst) = some (.va (c.a s 2 c.low)))
         ∧ (ss = false → (x.xfers.head?.map Xfer.src) = some (.va (c.b s 2 c.low)))
         ∧ t.mem = s.mem ∧ t.hostMem = s.hostMem)

/-! ### Tasks -/

/-- R431, R432, R76, R75: emit to a registered node whose till has room on the warp's die appends one record for each lane of the payload area:
the node ID, the group's depth and ID, and the area's bytes 0x08 to 0x3F. -/
def Obligations.Emissions : Prop :=
  ∀ (f : Fmt) (cu : Cur) (s : State) (as : List (Nat × Nat)) (n : NodeReg),
    let i : Instr := .emit f
    let c := mkCtx s cu i f
    let nid := c.b s 1 c.low % 2 ^ 24
    let gen := c.pktGen s
    let die := s.dieOf cu.core
    let g := s.group cu.core c.w.gid
    i.wf = true → ready i f cu s = true → c.w.mayRelease = true → c.areas s c.recLanes = .ok as → s.node gen nid = some n → n.kind ≠ 2 →
    s.tillRoom gen die as.length = true → (∀ a ∈ as, s.unraced (Acc.weak (.warp cu.core cu.wix)) (.sp a.1 (a.2 + 8)) 56 = true) →
    ∃ t, exec i s = .next (popped i f cu s t) ∧ Elsewhere cu.core { s with hb := t.hb, tills := t.tills } t ∧ OnlyWarp i f cu s t ∧ WarpIs i f (fun w => w) cu s t
      ∧ t.tillBytes gen nid die = s.tillBytes gen nid die ++ as.map (fun a => mkRec nid g.depth g.gid (s.area a 8 56))

/-- R87, R88, R432: emit.task of one record creates a named task: its entry holds the record, and its state COUNT plus the count given,
created; no node need be registered for it then, nor for another emission while its node is not (log entry 73, the model's choice). A
decrement by tdec takes one off. Neither launches while COUNT is not zero. R433, R34: spawn by a leader makes a child grid of its
group: N records, numbered from 0, of the group's depth plus 1. -/
def Obligations.TasksAndSpawns : Prop :=
  (∀ (f : Fmt) (cu : Cur) (s : State) (pa : Nat),
     (let i : Instr := .emitTask f
      let c := mkCtx s cu i f
      ∀ (a : Nat × Nat) (as : List (Nat × Nat)),
      let nid := c.b s 1 c.low % 2 ^ 24
      let word := c.c s 1 c.low
      let g := s.group cu.core c.w.gid
      let v := leVal (s.peek pa 8)
      let n := (fld v 31 0 + fld word 31 16) % 2 ^ 32
      i.wf = true → ready i f cu s = true → ringOff s = true → c.w.mayRelease = true → c.areas s c.recLanes = .ok (a :: as) →
      (∀ r, f.a ≠ .v r) → fld word 31 16 ≠ 0 → s.poisoned pa = false → s.taskEntry (c.pktGen s) (word % 65536) = some pa → v.testBit 32 = false → v.testBit 33 = false →
      (s.keyDraw (keyOf pa)).isSome = true → s.locExists (locOf pa) = true → s.calm = true → s.unspilled = true → n ≠ 0 →
      ∃ t, exec i s = .next (popped i f cu s t) ∧ t.peek pa 8 = leBytes 8 (n + 2 ^ 32) ∧ t.peek (pa + 0x40) 64 = mkRec nid g.depth g.gid (s.area a 8 56)
       ∧ (∀ qa, locOf qa / 128 ≠ locOf pa / 128 → t.peek qa 1 = s.peek qa 1) ∧ t.tills = s.tills)
     ∧ (let i : Instr := .tdec f
        let c := mkCtx s cu i f
        let v := leVal (s.peek pa 8)
        let n := (fld v 31 0 + 2 ^ 32 - 1) % 2 ^ 32
        i.wf = true → ready i f cu s = true → ringOff s = true → c.w.mayRelease = true →
        s.taskEntry (c.pktGen s) (c.b s 1 c.low % 65536) = some pa → s.poisoned pa = false → v.testBit 33 = false → (v.testBit 32 = true → n ≠ 0) →
        (s.keyDraw (keyOf pa)).isSome = true → s.locExists (locOf pa) = true → s.calm = true → s.unspilled = true →
        ∃ t, exec i s = .next (popped i f cu s t) ∧ t.peek pa 8 = leBytes 8 (n + (if v.testBit 32 then 2 ^ 32 else 0)) ∧ t.tills = s.tills
         ∧ ∀ qa, locOf qa / 64 ≠ locOf pa / 64 → t.peek qa 1 = s.peek qa 1))
  ∧ (∀ (f : Fmt) (cu : Cur) (s : State) (a : Nat × Nat) (as : List (Nat × Nat)),
       let i : Instr := .spawn f
       let c := mkCtx s cu i f
       let nid := c.b s 1 c.low % 2 ^ 24
       let n := c.c s 1 c.low
       let gen := c.pktGen s
       let die := s.dieOf cu.core
       let g := s.group cu.core c.w.gid
       i.wf = true → ready i f cu s = true → c.w.mayRelease = true → c.areas s [c.low] = .ok (a :: as) → c.leaderOnly = true → c.w.sup = false →
       g.depth < 10 → 1 ≤ n → n < 2 ^ 24 → (s.node gen nid).isSome = true → s.tillRoom gen die n = true →
       ((s.core cu.core).group? c.w.gid).isSome = true → s.unraced (Acc.weak (.warp cu.core cu.wix)) (.sp a.1 (a.2 + 8)) 48 = true →
       ∃ t, exec i s = .next (popped i f cu s t) ∧ t.gridNo = s.gridNo + 1
         ∧ t.grids = s.grids ++ [{ id := s.gridNo, gen := gen, parent := some (cu.core, c.w.gid), recs := n, at_ := s.ptb }]
         ∧ (t.group cu.core c.w.gid).children = g.children ++ [s.gridNo]
         ∧ t.tillBytes gen nid die = s.tillBytes gen nid die
             ++ (List.range n).map (fun k => mkRec nid (g.depth + 1) g.gid (s.area a 8 48 ++ leBytes 8 k))
         ∧ t.mem = s.mem ∧ WarpIs i f (fun w => w) cu s t)

/-- R97, R98, R434: tkput to a deque of the warp's generation that accepts and has room writes the record at TAIL, advances TAIL and gives D 0;
to one that does not accept or is full it gives D 1. R97, R98, R434: the owner's tkget of an empty deque gives D 1; of another it takes the
record before TAIL, which becomes a record of its node's till, and gives D 0. -/
def Obligations.DequeMoves : Prop :=
  (∀ (f : Fmt) (cu : Cur) (s : State) (a : Nat × Nat) (as : List (Nat × Nat)) (pa : Nat),
     let i : Instr := .tkput f
     let c := mkCtx s cu i f
     let q := c.b s 1 c.low % 64
     let g := s.group cu.core c.w.gid
     i.wf = true → ready i f cu s = true → ringOff s = true → c.w.mayRelease = true → c.areas s [c.low] = .ok (a :: as) →
     (s.dqCfg q).testBit 0 = true → s.dqGen q = c.pktGen s →
     ((s.dqCfg q).testBit 1 = false ∨ 2 ^ fld (s.dqCfg q) 7 4 ≤ s.dqCount q →
       ∃ t, exec i s = .next (popped i f cu s t) ∧ DataDone i f (.d 1 (fun _ _ _ => 1)) cu s t)
     ∧ ((s.dqCfg q).testBit 1 = true → s.dqCount q < 2 ^ fld (s.dqCfg q) 7 4 → s.dqPA q (s.dqTail q) .write = .ok pa →
         (s.keyDraw (keyOf pa)).isSome = true → s.locExists (locOf pa) = true → pa % 64 = 0 → s.calm = true → s.unspilled = true →
       ∃ t, exec i s = .next (popped i f cu s t)
         ∧ t.peek pa 64 = mkRec (recNid (s.area a 0 64)) g.depth g.gid ((s.area a 0 64).drop 8)
         ∧ t.dqTail q = (s.dqTail q + 1) % 2 ^ 32 ∧ t.dqHead q = s.dqHead q
         ∧ (∀ r l, l < 32 → (t.warp cu.core cu.wix).vGet r l = vAfter c i 1 (fun _ => 0) r l)
         ∧ (∀ r, (t.warp cu.core cu.wix).wGet r = wAfter c 1 (fun _ => 0) r)
         ∧ ∀ qa, locOf qa / 64 ≠ locOf pa / 64 → t.peek qa 1 = s.peek qa 1))
  ∧ (∀ (f : Fmt) (cu : Cur) (s : State) (pa : Nat),
       let i : Instr := .tkget f
       let c := mkCtx s cu i f
       let q := c.b s 1 c.low % 64
       let k := (s.dqTail q + 2 ^ 32 - 1) % 2 ^ 32
       let gen := s.dqGen q
       let die := s.dieOf cu.core
       i.wf = true → ready i f cu s = true → ringOff s = true → (s.dqCfg q).testBit 0 = true → s.dqGen q = c.pktGen s →
       (s.dqCount q = 0 → ∃ t, exec i s = .next (popped i f cu s t) ∧ DataDone i f (.d 1 (fun _ _ _ => 1)) cu s t)
       ∧ (s.dqCount q ≠ 0 → s.dqPA q k .write = .ok pa → s.poisoned pa = false → s.locExists (locOf pa) = true → pa % 64 = 0 → s.calm = true → s.unspilled = true →
           s.esc = [] → s.tillRoom gen die 1 = true → (s.node gen (recNid (s.peek pa 64))).isSome = true →
         ∃ t, exec i s = .next (popped i f cu s t) ∧ t.dqTail q = k ∧ t.dqHead q = s.dqHead q ∧ t.mem = s.mem
           ∧ t.tillBytes gen (recNid (s.peek pa 64)) die = s.tillBytes gen (recNid (s.peek pa 64)) die ++ [s.peek pa 64]
           ∧ (∀ r l, l < 32 → (t.warp cu.core cu.wix).vGet r l = vAfter c i 1 (fun _ => 0) r l)
           ∧ ∀ r, (t.warp cu.core cu.wix).wGet r = wAfter c 1 (fun _ => 0) r))

/-- R432: emit.rem queues a REC packet for each record to the package that C names, and is outstanding in the F counter until they are
answered. R435, R436, R223: tkget.claim queues a CLAIM that names the deque to another package and empties D until it is answered; tdec.rem
queues a RED that names the decrement. -/
def Obligations.RemoteTaskRequests : Prop :=
  (∀ (f : Fmt) (cu : Cur) (s : State) (as : List (Nat × Nat)),
     let i : Instr := .emitRem f
     let c := mkCtx s cu i f
     let nid := c.b s 1 c.low % 2 ^ 24
     let d := c.c s 1 c.low % 2 ^ 15
     i.wf = true → ready i f cu s = true → c.w.mayRelease = true → c.w.counter .f < 63 → c.areas s c.recLanes = .ok as → (s.dest d).bad = false →
     (∀ a ∈ as, s.unraced (Acc.weak (.warp cu.core cu.wix)) (.sp a.1 (a.2 + 8)) 56 = true) →
     ∃ t reqs, exec i s = .next (popped i f cu s t) ∧ t.mem = s.mem ∧ t.tills = s.tills ∧ reqs.map Req.dst = as.map (fun _ => d)
       ∧ WarpIs i f (fun w => w.addOp { id := 0, kind := .emit, cls := some .f, reqs := reqs, issued := s.ptb }) cu s t
       ∧ (t.dest d).queued = (s.dest d).queued
           ++ (as.zip reqs).map (fun p => c.packet s d 0x06 p.2.tag nid (mkRec nid 0 (s.dev % 2 ^ 15) (s.area p.1 8 56))))
  ∧ ((∀ (f : Fmt) (cu : Cur) (s : State),
       let i : Instr := .tkgetClaim f
       let c := mkCtx s cu i f
       let d := c.c s 1 c.low % 2 ^ 15
       i.wf = true → ready i f cu s = true → d ≠ s.dev → (s.dest d).bad = false →
       ∃ t, exec i s = .next (popped i f cu s t) ∧ t.mem = s.mem ∧ t.tag = (s.tag + 1) % 2 ^ 32
         ∧ t.warp cu.core cu.wix = (c.emptyD 1 ((starts i f cu s).warp cu.core cu.wix)).addOp
             (fillOp c (.claim (c.b s 1 c.low % 64) d) 1 4 [] [⟨s.tag, d, 0, c.runs.map (fun l => ⟨l, 0, 4, false⟩)⟩] none s.ptb)
         ∧ (t.dest d).queued = (s.dest d).queued ++ [c.packet s d 0x07 s.tag (c.b s 1 c.low % 64) []])
     ∧ ∀ (f : Fmt) (cu : Cur) (s : State),
       let i : Instr := .tdecRem f
       let c := mkCtx s cu i f
       let d := c.c s 1 c.low % 2 ^ 15
       i.wf = true → ready i f cu s = true → c.w.mayRelease = true → (s.dest d).bad = false →
       ∃ t, exec i s = .next (popped i f cu s t) ∧ t.mem = s.mem
         ∧ WarpIs i f (fun w => w.addOp { id := 0, kind := .emit, reqs := [⟨s.tag, d, 0, []⟩], issued := s.ptb }) cu s t
         ∧ (t.dest d).queued = (s.dest d).queued ++ [c.packet s d 0x04 s.tag (c.b s 1 c.low % 65536) (leBytes 8 (2 ^ 24 + 4 * 2 ^ 16))])

/-! ### The supervisor -/

/-- R438, R464: sret lets a stopped user warp of the core issue again, at its PCs, or after the faulted instruction with .skip; nothing else
changes but the clocks of the slice. R441, R479: frep of an entry of a warp's access frees the entry and lets the warp try again; fdrop of one
frees it and stops the warp at the instruction, with a new record of the same CODE in the mailbox. -/
def Obligations.FaultHandling : Prop :=
  (∀ (f : Fmt) (skip : Bool) (cu : Cur) (s : State) (w : Warp),
     let i : Instr := .sret f skip
     let c := mkCtx s cu i f
     let j := c.a s 1 c.low % 256
     i.wf = true → ready i f cu s = true → (s.core cu.core).userWarp j = some w → w.stopped = true → w.asyncStop = none → j ≠ cu.wix →
     (∀ u ∈ (s.core cu.core).warps, u.wix = j → u.sup = false) →
     ∃ t, exec i s = .next (popped i f cu s t) ∧ Elsewhere cu.core s t ∧ WarpIs i f (fun w => w) cu s t
       ∧ (t.warp cu.core j).stopped = false ∧ (t.warp cu.core j).stopAt = none
       ∧ (t.warp cu.core j).v = w.v ∧ (t.warp cu.core j).w = w.w
       ∧ (t.warp cu.core j).pcs = (match skip, w.stopAt with
           | true, some (pc, nx) => w.pcs.map (fun p => if p == pc then nx else p)
           | _, _ => w.pcs)
       ∧ ∀ k, k ≠ cu.wix → k ≠ j → (t.core cu.core).warp? k = (s.core cu.core).warp? k)
  ∧ (∀ (f : Fmt) (cu : Cur) (s : State) (e : FEntry) (w : Warp),
       (let i : Instr := .frep f
        let c := mkCtx s cu i f
        i.wf = true → ready i f cu s = true → c.w.mayRelease = true → (s.core cu.core).entry (c.a s 1 c.low) = some e → e.src ≤ 1 →
        (s.core cu.core).gen = e.gen → e.who ≠ cu.wix → (s.core cu.core).warp? e.who = some w → Layable cu.core e.who s →
         ∃ u t, exec i s = .next (popped i f cu s t) ∧ Elsewhere cu.core { s with hb := u.hb } u ∧ Relaid cu.core e.who u t
           ∧ WarpIs i f (fun w => w) cu s t ∧ (t.core cu.core).entry (c.a s 1 c.low) = none ∧ (t.warp cu.core e.who).replay = none
           ∧ (t.warp cu.core e.who).v = w.v ∧ (t.warp cu.core e.who).w = w.w ∧ (t.warp cu.core e.who).pcs = w.pcs)
       ∧ (let i : Instr := .fdrop f
          let c := mkCtx s cu i f
          i.wf = true → ready i f cu s = true → (s.core cu.core).entry (c.a s 1 c.low) = some e → e.src ≤ 1 → (s.core cu.core).gen = e.gen →
          e.who ≠ cu.wix → e.who ≠ supWix → (s.core cu.core).warp? e.who = some w → (s.core cu.core).mbox.length < 64 → noBell cu.core s = true →
           ∃ t x, exec i s = .next (popped i f cu s t) ∧ Elsewhere cu.core s t ∧ WarpIs i f (fun w => w) cu s t
             ∧ (t.core cu.core).entry (c.a s 1 c.low) = none
             ∧ t.warp cu.core e.who = { w with
                 replay := none, stopped := true
                 stopAt := some (BitVec.ofNat 64 e.rec_.pc, BitVec.ofNat 64 e.rec_.pc + BitVec.ofNat 64 e.rec_.size) }
             ∧ (t.core cu.core).mbox = (s.core cu.core).mbox ++ [x] ∧ x.kind = 1 ∧ x.wix = e.who ∧ x.gen = e.rec_.gen))

/-- R264, R439: mbrecv gives w D to D + 15 the bytes of the oldest entry, PE true and PF true for a fault record, and removes the entry; of an
empty mailbox it makes both predicates false and writes no register. R266, R440: mbpost gives w0 to w7 of a user warp of the core's generation
that waits for a reply the eight registers from B, and the warp goes on. -/
def Obligations.MailboxInstructions : Prop :=
  (∀ (f : Fmt) (pe pf : BitVec 4) (cu : Cur) (s : State),
     let i : Instr := .mbrecv f pe pf
     let c := mkCtx s cu i f
     i.wf = true → ready i f cu s = true → pe ≠ pf → c.w.preds.length = 16 →
     ((s.core cu.core).mbox = [] →
       ∃ t, exec i s = .next t ∧ Elsewhere cu.core s t ∧ (t.core cu.core).mbox = [] ∧ (t.warp cu.core cu.wix).w = c.w.w
         ∧ ∀ l, l < 32 → c.active.getLsbD l = true →
             (t.warp cu.core cu.wix).pGet pe.toNat l = false ∧ (t.warp cu.core cu.wix).pGet pf.toNat l = false)
     ∧ ∀ e rest, (s.core cu.core).mbox = e :: rest → (s.core cu.core).heldRecs = [] →
       ∃ t, exec i s = .next t ∧ Elsewhere cu.core s t ∧ (t.core cu.core).mbox = rest
         ∧ (∀ k, k < 16 → (t.warp cu.core cu.wix).wGet (f.d.wN + k) = leVal e.bytes / 2 ^ (32 * k) % 2 ^ 32)
         ∧ (∀ r, (r < f.d.wN ∨ f.d.wN + 16 ≤ r) → (t.warp cu.core cu.wix).wGet r = c.w.wGet r)
         ∧ ∀ l, l < 32 → c.active.getLsbD l = true →
             (t.warp cu.core cu.wix).pGet pe.toNat l = true ∧ (t.warp cu.core cu.wix).pGet pf.toNat l = (e.kind == 1))
  ∧ (∀ (f : Fmt) (cu : Cur) (s : State) (w : Warp),
       let i : Instr := .mbpost f
       let c := mkCtx s cu i f
       let j := c.a s 1 c.low % 256
       i.wf = true → ready i f cu s = true → (s.core cu.core).gen = fld (c.a s 1 c.low) 31 16 → (s.core cu.core).userWarp j = some w →
       w.wait = .svc → j ≠ cu.wix → (∀ u ∈ (s.core cu.core).warps, u.wix = j → u.sup = false) → Layable cu.core j s →
       ∃ u t, exec i s = .next (popped i f cu s t) ∧ Elsewhere cu.core s u ∧ Relaid cu.core j u t ∧ WarpIs i f (fun w => w) cu s t
         ∧ (t.warp cu.core j).wait = .none ∧ (t.warp cu.core j).v = w.v ∧ (t.warp cu.core j).pcs = w.pcs
         ∧ (∀ r, (t.warp cu.core j).wGet r = if r < 8 then c.w.wGet (f.b.wN + r) else w.wGet r)
         ∧ ∀ k, k ≠ cu.wix → k ≠ j → (t.core cu.core).warp? k = (s.core cu.core).warp? k)

/-- R116, R442, R539: tlbi of a size class, once the earlier stores of its warp are performed, removes every cached translation of the generation that lies in its page, on this core or on all, and no
other, and what stood in memory before it is seen by no later walk of that page there; nothing else changes. R59, R60, R443: wpark holds a user warp off its slice, and parks it where the park area has room; wwake lets it
go. R444: sctx.rd gives D an item of a user warp of the core; sctx.wr of a warp that is stopped or held writes an item that exists and may be
written, which then reads as what was written; the park record of a parked warp follows (R61). -/
def Obligations.SupervisorAccess : Prop :=
  (∀ (f : Fmt) (scp : Bool) (cu : Cur) (s : State),
     let i : Instr := .tlbi f scp
     let c := mkCtx s cu i f
     let hit (e : TlbE) : Bool := e.covered (c.c s 1 c.low % 2 ^ 16) (c.b s 1 c.low) (c.a s 2 c.low)
     i.wf = true → ready i f cu s = true → c.b s 1 c.low < 4 → (∀ o ∈ c.w.ops, o.kind = .store → o.done = true) →
     ∃ t, exec i s = .next (popped i f cu s t) ∧ WarpIs i f (fun w => w) cu s t
       ∧ t = { s with cores := t.cores, cur := none, issued := true }
       ∧ (∀ k e, e ∈ (t.core k).tlb ↔ e ∈ (s.core k).tlb ∧ ((k = cu.core ∨ scp = true) → hit e = false))
       ∧ (∀ k, k < s.cores.length → (t.core k).flushes
           = if k = cu.core ∨ scp = true then ⟨c.c s 1 c.low % 2 ^ 16, c.b s 1 c.low, c.a s 2 c.low, s.undo.length⟩ :: (s.core k).flushes
             else (s.core k).flushes)
       ∧ ∀ k, k ≠ cu.core → t.core k = { s.core k with tlb := (t.core k).tlb, flushes := (t.core k).flushes })
  ∧ (∀ (f : Fmt) (cu : Cur) (s : State) (w : Warp),
       (let i : Instr := .wpark f
        let j := (mkCtx s cu i f).a s 1 (mkCtx s cu i f).low
        i.wf = true → ready i f cu s = true → (s.core cu.core).userWarp j = some w → (s.core cu.core).warp? j = some w → j ≠ cu.wix →
        ParkOpen cu.core s →
         ∃ u t, exec i s = .next (popped i f cu s t) ∧ Elsewhere cu.core s u ∧ WarpIs i f (fun w => w) cu s t
           ∧ t = { u with mem := t.mem, keyTag := t.keyTag, poison := t.poison, undo := t.undo } ∧ OutsidePark cu.core s t
           ∧ (t.warp cu.core j = { w with parkHeld := true }
             ∨ t.warp cu.core j = { w with parkHeld := true, place := none, parkAt := (t.warp cu.core j).parkAt })
           ∧ (s.parkFits cu.core w = true → (t.warp cu.core j).place = none)
           ∧ ∀ k, k ≠ cu.wix → k ≠ j →
               (t.core cu.core).warp? k = ((s.core cu.core).warp? k).map (fun (x : Warp) => { x with parkAt := (t.warp cu.core k).parkAt }))
       ∧ (let i : Instr := .wwake f
          let j := (mkCtx s cu i f).a s 1 (mkCtx s cu i f).low
          i.wf = true → ready i f cu s = true → (s.core cu.core).userWarp j = some w → (s.core cu.core).warp? j = some w → j ≠ cu.wix →
           ∃ t, exec i s = .next (popped i f cu s t) ∧ Elsewhere cu.core s t ∧ WarpIs i f (fun w => w) cu s t ∧ (t.warp cu.core j).parkHeld = false
             ∧ t.warp cu.core j = { w with parkHeld := false, age := (t.warp cu.core j).age }))
  ∧ (∀ (f : Fmt) (cu : Cur) (s : State) (w : Warp),
       (let i : Instr := .sctxRd f false
        let c := mkCtx s cu i f
        let x := selOf (c.a s 1 c.low)
        i.wf = true → ready i f cu s = true → (s.core cu.core).userWarp x.wix = some w → x.wix ≠ cu.wix → x.ok w = true → x.cls ≠ 12 →
        x.cls ≠ 13 → ∃ t, exec i s = .next (popped i f cu s t) ∧ DataDone i f (.d 1 (fun _ _ _ => x.get w)) cu s t)
       ∧ (let i : Instr := .sctxWr f false
          let c := mkCtx s cu i f
          let x := selOf (c.a s 1 c.low)
          let v := c.c s 1 c.low
          i.wf = true → ready i f cu s = true → (s.core cu.core).userWarp x.wix = some w → (s.core cu.core).warp? x.wix = some w →
          x.wix ≠ cu.wix → (w.stopped = true ∨ w.parkHeld = true) → x.ok w = true → x.writable v = true → x.cls ≠ 12 → x.cls ≠ 13 →
           Layable cu.core x.wix s →
           let put (w : Warp) : Warp := { x.put v w with needs := [] }
           ∃ u t, exec i s = .next (popped i f cu s t) ∧ Elsewhere cu.core s u ∧ Relaid cu.core x.wix u t
             ∧ OnCore i f (fun k => k) false cu { s with cores := (s.updWarp cu.core x.wix put).cores } t
             ∧ WarpIs i f (fun w => w) cu s t ∧ t.warp cu.core x.wix = put w
             ∧ (x.cls ≠ 5 → x.cls ≠ 2 → v < 2 ^ 32 → w.pcs.length = 32 → x.cls ≠ 11 → x.get (x.put v w) = v)
             ∧ ∀ k, k ≠ cu.wix → k ≠ x.wix → (t.core cu.core).warp? k = (s.core cu.core).warp? k)
       ∧ (let i : Instr := .sctxWr f false
          let c := mkCtx s cu i f
          i.wf = true → ready i f cu s = true → (selOf (c.a s 1 c.low)).cls = 12 →
           ∃ t, exec i s = .next (popped i f cu s t) ∧ Elsewhere cu.core s t ∧ WarpIs i f (fun w => w) cu s t
             ∧ (t.core cu.core).mbdb.toNat = setFld (s.core cu.core).mbdb.toNat 31 0 (c.c s 1 c.low)))

/-! ### The command processor -/

/-- R251, R252, R269, R272, R273, R246, R214, R183, R459: what a store to the CP register window does. A page or interrupt table word is not
written while V stays set, and a page whose V is set counts its deposits anew; DQPOS and DQASN are written only while V is clear, DQTS never;
GPCTL takes STATE 2 from 1 alone; this package becomes scheduler peer where it is eligible and ranks highest, and keeps the role while it is a candidate (the choice of log entry 44); a zero byte clears a count of ERLOST; a store of another size, or off a word, changes nothing. Without Shatus (R280) no store is made. -/
def Obligations.RegisterWrites : Prop :=
  (∀ (s : State) (v : DWord) (off size : Nat), s.noShatus = true → exec (.registerWrite off size v) s = .next s)
  ∧ ∀ (s : State) (v : DWord), s.stop = none → s.noShatus = false →
    (∀ i, i < 4096 →
      let off := oDPCFG + 8 * i
      let st := 0x1000 * i + 0x80
      ∃ t, exec (.dpcfgWrite i v) s = .next t ∧ t = { s with cp := t.cp } ∧ Guarded off (bitsOf 63 32 + bitsOf 21 12 + bitsOf 7 4 + 1) v.toNat s t
        ∧ (s.cpw off % 2 = 0 ∧ v.toNat % 2 = 1 → RegsBut [off, st] s t ∧ t.cpw st = fld (s.cpw st) 31 0)
        ∧ (¬(s.cpw off % 2 = 0 ∧ v.toNat % 2 = 1) → RegsBut [off] s t))
    ∧ (∀ i, i < 1024 →
      ∃ t, exec (.uitcfgWrite i v) s = .next t ∧ OneReg (oUITCFG + 8 * i) s t
        ∧ Guarded (oUITCFG + 8 * i) (bitsOf 55 12 + bitsOf 7 4 + 1) v.toNat s t)
    ∧ (∀ i k, i < 64 → k < 4 →
      let off := oDQ + 32 * i + 8 * k
      ∃ t, exec (.dequeEntryWrite i k v) s = .next t ∧ OneReg off s t
        ∧ (k = 0 → Masked (bitsOf 59 16 + bitsOf 7 4 + 3) v.toNat (s.cpw off) (t.cpw off))
        ∧ (k = 1 → s.dqCfg i % 2 = 0 → t.cpw off = v.toNat)
        ∧ (k = 2 → s.dqCfg i % 2 = 0 → Masked (bitsOf 15 0) v.toNat (s.cpw off) (t.cpw off))
        ∧ ((k = 1 ∨ k = 2) → s.dqCfg i % 2 = 1 → t = s) ∧ (k = 3 → t = s))
    ∧ (∀ i, i < 64 →
      let off := oGPCTL + 8 * i
      (s.portState i = 1 → v.toNat % 8 = 2 →
        ∃ t, exec (.gpctlWrite i v) s = .next t ∧ t.portState i = 2 ∧ fld (t.cpw off) 63 3 = fld (s.cpw off) 63 3
          ∧ t = { s with cp := t.cp, ports := t.ports, dests := t.dests, outs := t.outs, agenda := t.agenda, fresh := t.fresh }
          ∧ (s.noDark = true → RegsBut [off, oPTBSTAT] s t)
          ∧ ((s.port (31 + i)).queue = [] → t = { s with cp := t.cp, ports := t.ports } ∧ RegsBut [off, oPTBSTAT] s t
              ∧ ∀ j, j ≠ 31 + i → t.port j = s.port j))
      ∧ (¬(s.portState i = 1 ∧ v.toNat % 8 = 2) → exec (.gpctlWrite i v) s = .next s))
    ∧ (∃ t, exec (.grtselWrite v) s = .next t ∧ OneReg oGRTSEL s t ∧ Masked 1 v.toNat (s.cpw oGRTSEL) (t.cpw oGRTSEL))
    ∧ (∃ t, exec (.ptpcfgWrite v) s = .next t ∧ t = { s with cp := t.cp, peer := t.peer } ∧ RegsBut [oPTPCFG] s t
        ∧ t.cpw oPTPCFG = v.toNat % 2 ^ 17 ∧ (s.peer = some s.dev → v.getLsbD 16 = true → t.peer = some s.dev)
        ∧ (v.getLsbD 16 = false → t.peer = some s.dev → ∃ p ∈ Config.candidates s.ptb, p.1 = s.dev)
        ∧ (v.getLsbD 16 = true → s.peer = none → t.peer = some s.dev ∨ ∃ p ∈ Config.candidates s.ptb, fld v.toNat 15 8 ≤ p.2))
    ∧ (∃ t, exec (.erlostWrite v) s = .next t ∧ OneReg oERLOST s t
        ∧ ∀ c, c < 8 → fld (t.cpw oERLOST) (8 * c + 7) (8 * c)
            = if fld v.toNat (8 * c + 7) (8 * c) = 0 then 0 else fld (s.cpw oERLOST) (8 * c + 7) (8 * c))
    ∧ ∀ off size,
      (∃ t, exec (.registerWrite off size v) s = .next t
        ∧ t = { s with
            cp := t.cp, ports := t.ports, dests := t.dests, outs := t.outs, agenda := t.agenda, fresh := t.fresh, peer := t.peer
            fbars := t.fbars, aborted := t.aborted, spillSaid := t.spillSaid })
      ∧ (size ≠ 8 ∨ off % 8 ≠ 0 → exec (.registerWrite off size v) s = .next s)
      ∧ (size = 8 → plainReg off = true →
        ∃ t, exec (.registerWrite off size v) s = .next t ∧ OneReg off s t ∧ Masked (cpMask off) v.toNat (s.cpw off) (t.cpw off))

/-- R267, R268, R277, R278, R275, R284, R474, R65: the command at HEAD ends with its status, HEAD advances, and it has its effect: NREG
registers the descriptor in local HBM that the node table names, once it passes every check; NUNREG marks the node; KEYGEN loads a key never
drawn before; KEYKILL unloads one; PARTSET writes the fields of PARTCFG (reserved bits of its image are ignored, the choice of log entry 95), and with V = 0 aborts every
generation of the partition and no other (R499); ATTEST lays the report; an undefined opcode is 0xFF. An operand that R474 calls invalid ends
the command with its status; the order in which NREG makes its checks is the choice of log entry 45. A node that is marked, with no group and no
record, is no longer registered. -/
def Obligations.Commands : Prop :=
  ∀ (c : Cmd) (s : State),
    let gen := c.gen.toNat
    let nid := c.nid.toNat
    let k := c.k.toNat
    (s.atHead (.nreg c) = true →
      ((s.node gen nid).isSome = true → ∃ t, exec (.nreg c) s = .next t ∧ EndedOnly 7 s t ∧ t.nodes = s.nodes)
      ∧ (s.node gen nid = none → s.nodeVA gen nid = none → (∀ pa, s.nodePA gen nid = some pa → (s.keyDraw (keyOf pa)).isSome = true) →
          ∃ t, exec (.nreg c) s = .next t ∧ EndedOnly 1 s t ∧ t.nodes = s.nodes)
      ∧ (∀ va, s.node gen nid = none → s.nodeVA gen nid = some va →
          ((∀ pa leaf, s.xlateCp gen va .read ≠ .ok pa leaf)
            ∨ ∃ pa leaf j, s.xlateCp gen va .read = .ok pa leaf ∧ aperOf leaf = 0 ∧ j < 4 ∧ s.poisoned (pa + 64 * j) = true) →
          ∃ t, exec (.nreg c) s = .next t ∧ EndedOnly 0xB s t ∧ t.nodes = s.nodes)
      ∧ ∀ va pa leaf, s.node gen nid = none → s.nodeVA gen nid = some va → s.xlateCp gen va .read = .ok pa leaf → aperOf leaf = 0 →
          (∀ j, j < 4 → s.open_ (pa + 64 * j) = true ∧ s.poisoned (pa + 64 * j) = false) →
          let n : NodeReg := { gen := gen, nid := nid, desc := (List.range 4).flatMap (fun j => s.peek (pa + 64 * j) 64) }
          ∃ t, exec (.nreg c) s = .next t ∧ EndedOnly (s.nodeStatus n) s t ∧ t.nodes = (if s.nodeStatus n = 0 then s.nodes ++ [n] else s.nodes))
    ∧ (s.atHead (.nunreg c) = true →
        ∃ t, exec (.nunreg c) s = .next t ∧ EndedOnly (if (s.node gen nid).isSome then 0 else 8) s t
          ∧ ∀ g d, t.node g d = (s.node g d).map (fun n => if g = gen ∧ d = nid then { n with unreg := true } else n))
    ∧ (s.atHead (.keygen c) = true →
        (k = 0 ∨ s.keyInUse k = true → ∃ t, exec (.keygen c) s = .next t ∧ EndedOnly 9 s t ∧ t.keys = s.keys)
        ∧ (k ≠ 0 → s.keyInUse k = false →
          ∃ t, exec (.keygen c) s = .next t ∧ EndedOnly 0 s t ∧ t.draws = s.draws + 1 ∧ t.keyDraw k = some (s.draws + 1)
            ∧ ∀ j, j ≠ k → t.keyDraw j = s.keyDraw j))
    ∧ (s.atHead (.keykill c) = true →
        (k = 0 ∨ s.keyInUse k = true → ∃ t, exec (.keykill c) s = .next t ∧ EndedOnly 9 s t ∧ t.keys = s.keys)
        ∧ (k ≠ 0 → s.keyInUse k = false →
          ∃ t, exec (.keykill c) s = .next t ∧ EndedOnly 0 s t ∧ t.keyDraw k = none ∧ ∀ j, j ≠ k → t.keyDraw j = s.keyDraw j))
    ∧ (s.atHead (.partset c) = true →
        let v := c.opa.toNat
        (k = 0 → ∃ t, exec (.partset c) s = .next t ∧ EndedOnly 0xA s t ∧ RegsBut [oCMDPOS] s t)
        ∧ (k ≠ 0 → v % 2 = 1 →
          ∃ t, exec (.partset c) s = .next t ∧ EndedOnly 0 s t ∧ RegsBut [oCMDPOS, oPARTCFG + 8 * k] s t
            ∧ ∀ b, b < 64 → (t.cpw (oPARTCFG + 8 * k)).testBit b = ((b == 0 || (decide (9 ≤ b) && decide (b ≤ 15))) && v.testBit b))
        ∧ (k ≠ 0 → v % 2 = 0 → s.partIdle k →
          ∃ t, exec (.partset c) s = .next t ∧ Ended 0 s t ∧ PartGone k s t
            ∧ ∀ b, b < 64 → (t.cpw (oPARTCFG + 8 * k)).testBit b = ((decide (9 ≤ b) && decide (b ≤ 15)) && v.testBit b)))
    ∧ (s.atHead (.attest c) = true →
        let a := c.opa.toNat
        let b := c.opb.toNat
        let r := s.report (s.peek0 a 32)
        (2 ^ 48 ≤ a ∨ 2 ^ 48 ≤ b ∨ b % 64 ≠ 0 ∨ s.locExists (a + 31) = false ∨ s.locExists (b + 100847) = false → ∃ t, exec (.attest c) s = .next t ∧ EndedOnly 0xA s t)
        ∧ (a + 32 ≤ 2 ^ 48 → b + r.length ≤ 2 ^ 48 → b % 64 = 0 → s.locExists (a + 31) = true → s.locExists (b + 100847) = true →
            s.poisoned a = false → s.poisoned (a + 31) = false → (∀ i, i < r.length → s.locExists (b + i) = true) →
            (b + r.length ≤ s.cmdAddr ∨ s.cmdAddr + 32 ≤ b) →
          ∃ t, exec (.attest c) s = .next t ∧ Ended 0 s t ∧ ∀ i, i < r.length → t.peek (b + i) 1 = [r.getD i 0]))
    ∧ (s.atHead (.cmdUndefined c) = true → ∃ t, exec (.cmdUndefined c) s = .next t ∧ EndedOnly 0xFF s t)
    ∧ ∀ n, s.node gen nid = some n → n.unreg = true → s.nodeLive gen nid = false →
        (∀ x ∈ s.tills, x.gen = gen → x.nid = nid → x.recs = []) →
        ∃ t, exec (.nodeUnregisterEffect gen nid) s = .next t ∧ t = { s with nodes := t.nodes, tills := t.tills } ∧ t.node gen nid = none
          ∧ ∀ g d, (g ≠ gen ∨ d ≠ nid) → t.node g d = s.node g d

/-! ### The host die and deposits -/

/-- R254, R255, R256, R261, R262: an accepted dpst gives rd 0 and queues the 128 bytes at rs2, one that is turned away gives rd 1 and changes
no register of the CP; the hart goes on after it. clret returns from a user interrupt. A deposit store is accepted, retried, or answered
Unsupported Request (a store to no window is answered retry, and each answer is noted in what the package has sent out: the choices of log
entries 25 and 58). From a function of the PCIe port a deposit names a place among the pages that its BAR 0 presents (R269, R276). A user interrupt that waits is delivered once its ring
has room, and goes when its target is configured no more (R273); and a hart in user mode takes one that is pending and
enabled. -/
def Obligations.HostDie : Prop :=
  ∀ (s : State) (n : Nat),
    let h := s.hart n
    (∀ rd rs1 rs2 : BitVec 5,
      let src := h.pa (h.get rs2).toNat
      let data := s.peek src 64 ++ s.peek (src + 64) 64
      s.stop = none → s.runsHart n = true → s.source src = true → s.calm = true → ringOff s = true →
      (∀ p, depPage (h.get rs1).toNat = some p → fld (s.cpw (oDPCFG + 8 * p)) 39 38 = 0 → s.pageTakes p = true →
          s.reservation (fld (s.cpw (oDPCFG + 8 * p)) 63 48) = none →
        ∃ t, exec (.dpst rd rs1 rs2) s = .next t ∧ Deposited p data s t ∧ t.cur = none ∧ t.hart n = { h.put rd 0 with pc := h.pc + 4 }
          ∧ t = { s with cp := t.cp, depQ := t.depQ, hb := t.hb, harts := t.harts, cur := none })
      ∧ ((∀ p, depPage (h.get rs1).toNat = some p → fld (s.cpw (oDPCFG + 8 * p)) 39 38 = 0 → s.pageTakes p = false) →
        ∃ t, exec (.dpst rd rs1 rs2) s = .next t ∧ t.hart n = { h.put rd 1 with pc := h.pc + 4 }
          ∧ t = { s with hb := t.hb, harts := t.harts, cur := none }))
    ∧ (s.stop = none → s.runsHart n = true →
        ∃ t, exec .clret s = .next t ∧ t.hart n = { h with pc := h.cluepc, cluie := 1 } ∧ t = { s with harts := t.harts, cur := none })
    ∧ (∀ at_ orig data,
        let page := if orig = .native then at_ else (s.barPages orig).getD at_ 4096
        let cfg := s.cpw (oDPCFG + 8 * page)
        let mine : Bool := decide (page < 4096) && s.pageOf orig page
        s.stop = none → data.length = 128 → s.reservation (fld cfg 63 48) = none →
        (mine = true → s.pageTakes page = true →
          ∃ t, exec (.deposit at_ orig data) s = .next t ∧ Deposited page data s t ∧ t.outs = .note 0 page :: s.outs)
        ∧ (mine = true → cfg.testBit 0 = true → s.pageTakes page = false →
          exec (.deposit at_ orig data) s = .next { s with outs := .note 1 page :: s.outs })
        ∧ (mine = false ∨ cfg.testBit 0 = false →
          exec (.deposit at_ orig data) s = .next { s with outs := .note (if orig = .native then 1 else 2) page :: s.outs }))
    ∧ (∀ v : DWord, s.stop = none → n < s.harts.length →
        ∃ t, exec (.cluitxWrite n v) s = .next t ∧ t = { s with harts := t.harts } ∧ (t.hart n).cluitx = v &&& 0x800003FF
          ∧ (v.getLsbD 31 = true → (t.hart n).clupend = if s.uitTail (v.toNat % 1024) = s.uitHead (v.toNat % 1024) then 0 else 1)
          ∧ ∀ j, j ≠ n → t.hart j = s.hart j)
    ∧ (s.stop = none → n < s.harts.length → h.user = true → h.clupend.getLsbD 0 = true → h.cluie.getLsbD 0 = true →
        ∃ t, exec (.userInterruptTake n) s = .next t ∧ t = { s with harts := t.harts }
          ∧ t.hart n = { h with cluepc := h.pc, cluie := 0, clupend := 0, pc := h.clutvec } ∧ ∀ j, j ≠ n → t.hart j = s.hart j)
    ∧ ∀ target cook seq, s.still = true → s.uirqs.find? (fun q => q.1 == target) = some (target, cook, seq) →
        ((s.cpw (oUITCFG + 8 * target)).testBit 0 = false →
          exec (.userInterruptWaitEnd target) s = .next { s with uirqs := s.uirqs.erase (target, cook, seq) })
        ∧ ((s.cpw (oUITCFG + 8 * target)).testBit 0 = true → s.uitFull target = false →
        cook < 2 ^ 64 → seq < 2 ^ 64 → s.open_ (s.uitBase target + 16 * 2 ^ s.uitLog target) = true →
        (∀ j, j < 2 ^ s.uitLog target → s.open_ (s.uitBase target + 16 * j) = true) →
        ∃ t, exec (.userInterruptWaitEnd target) s = .next t ∧ t.uirqs = s.uirqs.erase (target, cook, seq)
          ∧ t.outs = .userIrq target :: s.outs ∧ t.uitTail target = (s.uitTail target + 1) % 2 ^ 64
          ∧ t.peek (s.uitBase target + 16 * (s.uitTail target % 2 ^ s.uitLog target)) 16 = leBytes 8 cook ++ leBytes 8 seq
          ∧ ∀ k, k < s.harts.length → (s.hart k).cluitx.getLsbD 31 = true → (s.hart k).cluitx.toNat % 1024 = target → (t.hart k).clupend = 1)

/-- R253, R256, R257, R75, R488: the oldest deposit of the highest class becomes records: a grid of its N records, numbered from 0, which go in turn
to the dies that the generation has in force. One that breaks R253 makes no record, and leaves the page: with DCOMP aligned and translating for
writing, here to local HBM, it gets its completion record with STATUS 2, else none, and in either case the page's interrupt. R258 to R260: the
completion record of a retired grid is written with its STATUS, its times and its count of groups, and the page's interrupt follows. User
interrupts are those of HostDie. That the completion record comes 50 ns after the retirement is the time of R449's example (log entry 92), and
what a write to DCOMP that cannot be made leaves is the choice of log entry 59. -/
def Obligations.DepositsBecomeRecords : Prop :=
  ∀ (s : State) (d : Dep),
    let gen := fld (s.cpw (oDPCFG + 8 * d.page)) 63 48
    let w := depWord d.data
    let dies := s.servingDies gen
    let n := fld (w 1) 23 0
    s.stop = none → ringOff s = true →
    (s.nextDep = some d → d.page < 4096 → 1 ≤ s.dpCount d.page →
    (∀ m, s.depOk gen d.data = true → s.depNode gen (w 0) = some m → dies ≠ [] → (∀ e ∈ dies, s.tillRoom gen e n = true) →
      ∃ t, exec .depositToRecords s = .next t ∧ t.depQ = s.depQ.erase d ∧ t.dpCount d.page = s.dpCount d.page - 1 ∧ t.gridNo = s.gridNo + 1
        ∧ t.grids = s.grids ++ [{ id := s.gridNo, gen := gen, page := some d.page, dep := d.data, recs := n, at_ := d.at_ }]
        ∧ (∀ j, j < dies.length → t.tillBytes gen m.nid (dies.getD j 0) = s.tillBytes gen m.nid (dies.getD j 0)
            ++ (shareOf n dies.length j).map (fun i => mkRec m.nid 0 i (d.data.drop 0x48)))
        ∧ t = { s with cp := t.cp, depQ := t.depQ, grids := t.grids, gridNo := t.gridNo, tills := t.tills })
    ∧ (s.depOk gen d.data = false → (w 2 % 64 ≠ 0 ∨ ∀ pa leaf, s.xlateCp gen (w 2) .write ≠ .ok pa leaf) →
        (fld (s.cpw (oDPCFG + 8 * d.page)) 21 12 = 0x3FF ∨ fld (s.cpw (oDPCFG + 8 * d.page)) 39 38 ≠ 0) → s.reservation gen = none →
      ∃ t, exec .depositToRecords s = .next t ∧ t.dpCount d.page = s.dpCount d.page - 1 ∧ Counted 4 1 s t
        ∧ t = { s with cp := t.cp, depQ := s.depQ.erase d, outs := s.pageMsix d.page ++ s.outs })
    ∧ (∀ pa leaf, s.depOk gen d.data = false → w 2 % 64 = 0 → s.xlateCp gen (w 2) .write = .ok pa leaf → aperOf leaf = 0 → s.still = true →
        s.recordApart gen (w 2) (w 3) (w 4) d.at_ s.ptb 0 → s.open_ pa = true → (fld (s.cpw (oDPCFG + 8 * d.page)) 21 12 = 0x3FF ∨ fld (s.cpw (oDPCFG + 8 * d.page)) 39 38 ≠ 0) → s.reservation gen = none →
      ∃ t, exec .depositToRecords s = .next t ∧ t.dpCount d.page = s.dpCount d.page - 1 ∧ Counted 4 1 s t ∧ t.depQ = s.depQ.erase d
        ∧ t.peek pa 64 = completionBytes 2 (w 3) (w 4) d.at_ s.ptb 0 ∧ OneSector pa s t ∧ t.outs = s.pageMsix d.page ++ s.outs
        ∧ t.tills = s.tills ∧ t.grids = s.grids))
    ∧ ∀ (g : Grid) (page r pa leaf dt : Nat) (rest : List (Nat × Act)),
        let u := depWord g.dep
        let s0 := ({ s with agenda := rest } : State).elapse dt
        s.agenda = (dt, .completion g.id) :: rest → s0.still = true →
        s0.grids.find? (fun x => x.id == g.id) = some g → g.page = some page → page < 4096 → g.retired = some r → r + 50 ≤ s0.ptb →
        u 2 % 64 = 0 → s0.xlateCp g.gen (u 2) .write = .ok pa leaf → aperOf leaf = 0 → s0.open_ pa = true →
        s0.recordApart g.gen (u 2) (u 3) (u 4) g.at_ r g.launched →
        (fld (s0.cpw (oDPCFG + 8 * page)) 21 12 = 0x3FF ∨ fld (s0.cpw (oDPCFG + 8 * page)) 39 38 ≠ 0) → s0.reservation g.gen = none →
      ∃ t, step s = .next t ∧ t.peek pa 64 = completionBytes g.status (u 3) (u 4) g.at_ r g.launched ∧ OneSector pa s0 t
        ∧ t.outs = s0.pageMsix page ++ s0.outs ∧ t.grids = s0.grids.filter (fun x => x.id != g.id)

/-! ### Reset and time -/

/-- R280, R281, R182, R246, R263: after a bring-up whose images all pass their verification (log entry 79) every core of the package runs
nothing but its supervisor warp, at Shatus's entry point; no key but key 0 is loaded, no table of the CP holds an entry, the enabled lanes of
the local links are up, M0 to M3 have taken the images, M4 to M7 are zero, and memory, the device ID and the PTB are as they were (memory and what is still to come: log entry 81; the device ID: log entry 7; the PTB: log
entry 5; each the model's choice). An image that
fails its verification is not run: no supervisor warp stands, no link is trained, and what the CP or Shatus would do is not done. -/
def Obligations.PackageResets : Prop :=
  ∀ s : State, ∃ t, exec .packageReset s = .next t ∧ t.booted = true ∧ t.dev = s.dev ∧ t.ptb = s.ptb ∧ t.mem = s.mem ∧ t.keyTag = s.keyTag
    ∧ t.hostMem = s.hostMem ∧ t.part = s.part ∧ t.cores.length = s.nCores
    ∧ (let runs (n : Nat) : Bool := (List.range n).all Config.genuine
       t.noCp = !runs 2 ∧ t.noShatus = !runs 3 ∧ t.keys = (if runs 2 then [(0, s.draws + 1)] else [])
       ∧ (∀ c, c < s.nCores → (t.core c).gen = 0 ∧ (t.core c).groups = [] ∧ (t.core c).mbox = []
          ∧ (runs 4 = true → ∃ w, (t.core c).warps = [w] ∧ w.sup = true ∧ w.place = some (0, 0)
              ∧ w.pcs = List.replicate 32 Config.supervisorEntry ∧ w.fresh)
          ∧ (runs 4 = false → (t.core c).warps = []))
       ∧ (∀ j, j < 31 →
          let up := if runs 3 then (s.part.llanes.getD j 0).toNat else 0
          t.linkUp j = decide (up ≠ 0) ∧ fld (t.cpw (oLLSTAT + 8 * j)) 15 8 = up)
       ∧ (runs 4 = true → ∀ i, i < 4 → t.meas.getD i [] = shake256 (List.replicate 64 0 ++ shake256 (Config.bootImage i) 64) 64))
    ∧ (∀ off, ¬(oLLSTAT ≤ off ∧ off < oLLSTAT + 248) → t.cpw off = 0)
    ∧ (∀ i, 4 ≤ i → i < 8 → t.meas.getD i [] = List.replicate 64 0)
    ∧ t.table = [] ∧ t.nodes = [] ∧ t.tills = [] ∧ t.mons = [] ∧ t.cmdWaits = false

/-- R179, R180, R182, R506, R507, R459, R460: an exchange is heard, and one with the neighbour of the fewest hops, the lower device ID before the
higher, or of a timing root, is followed: it writes PTBSTAT, takes the rate held to ±200 ppm, and moves the PTB only the first
time, and then forwards (that the first exchange steps it, and that an exchange is heard from any neighbour but followed from the parent alone, is
the choice of log entry 29); LOCK comes at the 64th exchange within 100 ns and goes at the 8th beyond 1,000 ns, or after 64 µs without one.
Holdover of 100 ms is recorded once: in the error ring at its tail, or as a count where the ring is off. -/
def Obligations.Clock : Prop :=
  ∀ s : State, s.stop = none →
    (∀ parent (offset : Int) hops (root : Bool) (rate : Int), ringOff s = true → s.dev < 2 ^ 15 → s.noDark = true →
      let heard : State := { s with nbrs := (parent, hops) :: s.nbrs.filter (fun n => n.1 != parent) }
      (root = false → heard.ptpPick ≠ some (parent, hops) → exec (.ptpExchange parent offset hops root rate) s = .next heard)
      ∧ (root = true ∨ heard.ptpPick = some (parent, hops) →
      let lock := (s.cpw oPTBSTAT).testBit 0
      let ok := if offset.natAbs ≤ 100 then s.ptp.ok + 1 else 0
      let bad := if 1000 < offset.natAbs then s.ptp.bad + 1 else 0
      ∃ t, exec (.ptpExchange parent offset hops root rate) s = .next t
        ∧ t = { s with
            cp := t.cp, ptb := t.ptb, ptp := t.ptp, nbrs := if root then s.nbrs else heard.nbrs
            dests := t.dests, ports := t.ports, outs := t.outs, agenda := t.agenda, fresh := t.fresh }
        ∧ (root = true → t.outs = s.outs) ∧ (root = false → t.ptp.asked = max s.ptb 1)
        ∧ RegsBut [oPTBSTAT, oERLOST] s t ∧ t.ptp.rate = max (-200) (min 200 rate)
        ∧ (t.cpw oPTBSTAT).testBit 0 = (if lock then decide (bad < 8) else decide (64 ≤ ok))
        ∧ (t.cpw oPTBSTAT).testBit 1 = root ∧ fld (t.cpw oPTBSTAT) 15 8 = min hops 255
        ∧ sInt 16 (fld (t.cpw oPTBSTAT) 31 16) = max (-32767) (min 32767 offset)
        ∧ fld (t.cpw oPTBSTAT) 46 32 = (if root then s.dev else parent % 2 ^ 15)
        ∧ s.ptb ≤ t.ptb ∧ (s.ptp.ever = true ∨ s.ptp.last ≠ 0 → t.ptb = s.ptb)))
    ∧ (ringOff s = true →
        (s.locked = true ∧ s.ptp.last + 64000 ≤ s.ptb →
          ∃ t, exec .lockLossTimeout s = .next t ∧ t = { s with cp := t.cp, ptp := t.ptp } ∧ t.locked = false ∧ t.ptp.hold = some s.ptb
            ∧ (∀ b, 1 ≤ b → (t.cpw oPTBSTAT).testBit b = (s.cpw oPTBSTAT).testBit b) ∧ Counted 5 1 s t)
        ∧ (¬(s.locked = true ∧ s.ptp.last + 64000 ≤ s.ptb) → exec .lockLossTimeout s = .next s))
    ∧ ∀ h, s.ptp.hold = some h → h + 100000000 ≤ s.ptb →
        (s.ptp.said = true → exec .holdoverTimeout s = .next s)
        ∧ (s.ptp.said = false → ringOff s = true →
          ∃ t, exec .holdoverTimeout s = .next t ∧ t = { s with cp := t.cp, ptp := { s.ptp with said := true } } ∧ Counted 5 1 s t)
        ∧ (s.ptp.said = false → s.cpw oERCFG % 2 = 1 →
            let size := 2 ^ (fld (s.cpw oERCFG) 7 4 + 6)
            let tail := fld (s.cpw oERPOS) 63 32
            let at_ := fld (s.cpw oERCFG) 55 12 * 2 ^ 12 + 64 * (tail % size)
            (tail + 2 ^ 32 - fld (s.cpw oERPOS) 31 0) % 2 ^ 32 < size → at_ < 2 ^ 48 → (s.keyDraw 0).isSome = true → s.locExists at_ = true → s.mons = [] →
          ∃ t, exec .holdoverTimeout s = .next t ∧ t.peek at_ 64 = FRec.bytes s { cls := 5, code := 2, ptb := s.ptb }
            ∧ fld (t.cpw oERPOS) 63 32 = (tail + 1) % 2 ^ 32 ∧ fld (t.cpw oERPOS) 31 0 = fld (s.cpw oERPOS) 31 0
            ∧ t.outs = .errIrq (BitVec.ofNat 64 (s.cpw oERIMASK)) :: s.outs ∧ RegsBut [oERPOS] s t
            ∧ ∀ a, a / 64 ≠ at_ / 64 → SMap.get t.mem a = SMap.get s.mem a)

/-- R281, R286, R288, R289, R484, R494, R495, R497, R501, R503: what the package does for its arrays and for the host: the end of a hot-page
epoch, the extension of a measurement register, the patrol, errors in arrays (a sector, a line's tag, a slice, a monitor entry, registers,
scratchpad, accumulators, L1, a till, the fault buffer), the reset of a virtual function and an error that an H-die core
consumes. The layout of a hot-page entry and which sectors a slice keeps the times of are the model's choice (log entry 47). -/
def Obligations.Upkeep : Prop :=
  ∀ s : State, s.stop = none →
    let hpep := fld (s.cpw oHPCFG) 16 0
    (hpep = 0 ∨ s.ptb < s.hotAt + 1000 * hpep → exec .hotPageEpochEnd s = .next s)
    ∧ (hpep ≠ 0 → s.hotAt + 1000 * hpep ≤ s.ptb → (s.cpw oHPPCFG).testBit 0 = false → (s.cpw oHPNCFG).testBit 0 = false →
        exec .hotPageEpochEnd s = .next { s with hot := [], hotAt := s.ptb })
    ∧ (∀ gen g dev n,
        let cfg := s.cpw oHPPCFG
        let size := 2 ^ (fld cfg 7 4 + 6)
        let tail := fld (s.cpw oHPPPOS) 63 32
        let at_ := fld cfg 47 12 * 2 ^ 12 + 32 * (tail % size)
        hpep ≠ 0 → s.hotAt + 1000 * hpep ≤ s.ptb → s.still = true → s.hot = [(gen, g, dev, n)] → fld (s.cpw oHPCFG) 63 32 ≤ n → cfg.testBit 0 = true →
        (∀ pa leaf, s.xlateFresh false gen (g * 65536) = .ok pa leaf → leaf.testBit 8 = false) → s.open_ at_ = true → at_ < 2 ^ 48 →
        (tail + 2 ^ 32 - fld (s.cpw oHPPPOS) 31 0) % 2 ^ 32 < size →
        ∃ t, exec .hotPageEpochEnd s = .next t ∧ t.hot = [] ∧ t.hotAt = s.ptb
          ∧ t.peek at_ 32 = leBytes 8 (g * 65536) ++ leBytes 8 dev ++ leBytes 8 n ++ leBytes 8 gen
          ∧ fld (t.cpw oHPPPOS) 63 32 = (tail + 1) % 2 ^ 32 ∧ RegsBut [oHPPPOS] s t)
    ∧ (∀ i data, 4 ≤ i → i < 8 → i < s.meas.length → s.noShatus = false →
        ∃ t, exec (.measurementExtend i data) s = .next t ∧ t = { s with meas := t.meas }
          ∧ t.meas.getD i [] = shake256 (s.meas.getD i [] ++ shake256 data 64) 64 ∧ ∀ j, j ≠ i → t.meas.getD j [] = s.meas.getD j [])
    ∧ (∀ sl, sl < s.part.chans → ringOff s = true →
        let next (u : State) : Nat := ((u.patrol.find? (fun p => p.1 == sl)).map Prod.snd).getD 0
        let loc := (next s * s.part.chans + sl) * 256
        ∃ t, exec (.patrolRead sl) s = .next t ∧ t = { s with patrol := t.patrol, cp := t.cp } ∧ next t = (next s + 1) % 5859375
          ∧ (s.ckptCurrent loc = true → t.cp = s.cp)
          ∧ (s.ckptCurrent loc = false → Counted 3 ((List.range 4).filter (fun k => s.poisoned (loc + 64 * k))).length s t))
    ∧ (∀ pa, ringOff s = true →
        let times (u : State) : List Nat := ((u.hist.find? (fun h => h.1 == locOf pa / 64)).map Prod.snd).getD []
        ∃ t, exec (.arrayCorrectedError pa) s = .next t ∧ t = { s with hist := t.hist, cp := t.cp } ∧ times t = s.ptb :: times s
          ∧ Counted 3 (if thrice (s.ptb :: times s) then 1 else 0) s t)
    ∧ (∀ pa, ringOff s = true →
        ∃ t, exec (.arrayUncorrectableError (.sector pa)) s = .next t ∧ t = { s with poison := t.poison, cp := t.cp } ∧ Counted 3 1 s t
          ∧ (∀ qa, t.poisoned qa = (decide (locOf qa / 64 = locOf pa / 64) || s.poisoned qa))
          ∧ exec (.arrayUncorrectableError (.l1 pa)) s = .next t
          ∧ exec (.arrayUncorrectableError (.latent pa)) s = .next { s with poison := t.poison })
    ∧ (∀ sl, sl < s.part.chans →
        ∃ t, exec (.arrayUncorrectableError (.slice sl)) s = .next t ∧ t = { s with badSl := t.badSl }
          ∧ ∀ qa, t.poisoned qa = (decide (s.homeSlice (locOf qa) = sl) || s.poisoned qa))
    ∧ (∀ line, ringOff s = true →
        ∃ t, exec (.arrayUncorrectableError (.tag line)) s = .next t ∧ t = { s with poison := t.poison, cp := t.cp } ∧ Counted 3 1 s t
          ∧ ∀ qa, t.poisoned qa = (decide (locOf qa / 256 = line) || s.poisoned qa))
    ∧ (∀ sl k m, ringOff s = true → (s.mons.filter (fun m => s.homeSlice (locOf m.pa) == sl))[k]? = some m →
        (∀ m ∈ s.mons, m.spilled = false ∧ m.st ≠ .deferred) →
        let i : Instr := .arrayUncorrectableError (.monitor sl k)
        (∀ w ls q sc, m.dev = s.dev → (m.wix = supWix ∨ (s.core m.core).gen = m.gen) → (s.core m.core).warp? m.wix = some w → w.wait = .mem ls q sc →
            w.stopped = false → w.replay = none → q < w.preds.length →
          ∃ t, exec i s = .next t ∧ Counted 3 1 s t ∧ t.mons = s.mons.filter (· != m) ∧ t.mem = s.mem ∧ (t.warp m.core m.wix).wait = .none
            ∧ ∀ p l, l < 32 → (t.warp m.core m.wix).pGet p l = (w.pGet p l && !(p == q && ls.getLsbD l)))
        ∧ (m.dev ≠ s.dev → m.ack = none → s.noDark = true → (s.dest m.dev).bad = false →
          ∃ t, exec i s = .next t ∧ Counted 3 1 s t ∧ t.mons = s.mons.filter (· != m) ∧ t.mem = s.mem ∧ t.cores = s.cores
            ∧ Queued m.dev (wakePacket s m false) s t))
    ∧ (∀ i c wix, ringOff s = true → i ∈ [Instr.arrayUncorrectableError (.registers c wix), .arrayUncorrectableError (.accumulator c wix)] →
        (∀ w, (s.core c).warp? wix = some w → w.stopped = false →
          ∃ t, exec i s = .next t ∧ t.mem = s.mem ∧ Counted 3 1 s t
            ∧ t.warp c wix = { w with stopped := true, stopAt := none, since := 0 } ∧ ∀ k, k ≠ c → t.core k = s.core k)
        ∧ ((s.core c).warp? wix = none → ∃ t, exec i s = .next t ∧ t = { s with cp := t.cp } ∧ Counted 3 1 s t))
    ∧ (∀ c off, ringOff s = true → c < s.cores.length →
        let at_ := (s.core c).groups.find? (fun g => decide (g.spBase ≤ off) && decide (off < g.spBase + g.spBytes))
        let pl := (at_.map (fun g => g.clp.getD [(c, g.gid)])).getD []
        let n := (pl.map (fun q => ((s.core q.1).warps.filter (fun w => !w.sup && w.gid == q.2)).length)).sum
        (n = 0 →
          ∃ t, exec (.arrayUncorrectableError (.scratchpad c off)) s = .next t ∧ t = { s with cp := t.cp, cores := t.cores } ∧ Counted 3 1 s t
            ∧ t.core c = { s.core c with sp := (t.core c).sp } ∧ (∀ k, k ≠ c → t.core k = s.core k)
            ∧ ∀ a, (t.core c).sp.get a = if a / 8 = off / 8 then 0 else (s.core c).sp.get a)
        ∧ (n ≠ 0 → pl.Nodup → (∀ q ∈ pl, q.1 < s.cores.length) → (∀ k, ((s.core k).warps.map Warp.wix).Nodup) →
            (∀ q ∈ pl, ∀ w ∈ (s.core q.1).warps, w.sup = false → w.gid = q.2 → w.stopped = false) →
          ∃ t, exec (.arrayUncorrectableError (.scratchpad c off)) s = .next t ∧ t = { s with cp := t.cp, cores := t.cores } ∧ Counted 3 n s t
            ∧ ∀ k wix w, (s.core k).warp? wix = some w →
                t.warp k wix = if w.sup = false ∧ (k, w.gid) ∈ pl then { w with stopped := true, stopAt := none, since := 0 } else w))
    ∧ (∀ gen, ringOff s = true → s.partIdle (s.partOf gen) →
        ∃ t, exec (.arrayUncorrectableError (.till gen)) s = .next t ∧ PartGone (s.partOf gen) s t)
    ∧ (∀ c k e, ringOff s = true → (s.core c).fbuf.find? (fun e => e.idx == k) = some e →
        (e.gen = 0 → exec (.arrayUncorrectableError (.faultBuffer c k)) s = .next s)
        ∧ (e.gen ≠ 0 → s.partIdle (s.partOf e.gen) →
          ∃ t, exec (.arrayUncorrectableError (.faultBuffer c k)) s = .next t ∧ PartGone (s.partOf e.gen) s t))
    ∧ (∀ vf k, ringOff s = true →
        (List.range 256).find? (fun k => k != 0 && (s.cpw (oPARTCFG + 8 * k)).testBit 9 && fld (s.cpw (oPARTCFG + 8 * k)) 15 10 == vf) = some k →
        (∀ i, i < 1024 → ¬((s.cpw (oGTAB + 64 * i)).testBit 0 = true ∧ fld (s.cpw (oGTAB + 64 * i)) 47 40 = k)) →
        (∀ m ∈ s.mons, m.spilled = false ∧ m.st ≠ .deferred) →
        ∃ t, exec (.vfReset vf) s = .next t ∧ t.keyDraw k = none ∧ Counted 7 1 s t ∧ t.mons = s.mons.filter (fun m => keyOf m.pa != k)
          ∧ t = { s with cp := t.cp, keys := t.keys, mons := t.mons, draws := s.draws + 1, keyTag := t.keyTag })
    ∧ (∀ hcore key pa, ringOff s = true → key ≠ 0 → s.partIdle key →
        ∃ t, exec (.hdieUncorrectableError hcore key pa) s = .next t ∧ Counted 8 1 s t ∧ PartGone key s t ∧ t.harts = s.harts ∧ t.meas = s.meas)
    ∧ ∀ hcore key pa, ringOff s = true →
        (∀ i, i < 1024 → ¬((s.cpw (oGTAB + 64 * i)).testBit 0 = true ∧ (key = 0 ∨ fld (s.cpw (oGTAB + 64 * i)) 47 40 = key))) →
        ∃ t, exec (.hdieUncorrectableError hcore key pa) s = .next t ∧ Counted 8 1 s t
          ∧ t = { s with cp := t.cp, harts := t.harts, ptp := t.ptp, cores := t.cores }
          ∧ (key ≠ 0 → t.harts = s.harts ∧ t.cores = s.cores ∧ RegsBut [oERLOST] s t)
          ∧ (key = 0 → t.harts = List.replicate s.part.hcores {} ∧ t.locked = false
            ∧ (Config.genuine 3 = true → s.noShatus = false → t.cores = s.cores.map (fun k => { k with warps := [supWarp s.supEntry 0] })))

/-! ### Task engines and cores -/

/-- R76, R77, R81: a spilled record of a running generation comes back on chip where its die has room; a till becomes ready by its count or its
timer; a ready BG till ranks as NORM after 1 ms. No record is made, lost or changed. -/
def Obligations.Tills : Prop :=
  ∀ (s : State) (die : Nat),
    (die < 4 → s.onChip die < 8192 → s.tillsApart → (∃ x ∈ s.tills, x.die = die ∧ s.running x.gen = true ∧ x.recs.any TRec.spilled = true) →
      ∃ t, exec (.tillSpillReturn die) s = .next t ∧ t = { s with tills := t.tills } ∧ t.onChip die = s.onChip die + 1
        ∧ t.tills.map (fun x => { x with recs := x.recs.map (fun (r : TRec) => { r with spilled := false }) })
          = s.tills.map (fun x => { x with recs := x.recs.map (fun (r : TRec) => { r with spilled := false }) }))
    ∧ (8192 ≤ s.onChip die → exec (.tillSpillReturn die) s = .next s)
    ∧ (∀ gen nid x n, s.stop = none → die < 4 → s.tillsApart → s.till? gen nid die = some x → s.node gen nid = some n → s.running gen = true →
        x.ready = none →
        ∃ t at_, exec (.tillTimerExpiry gen nid die) s = .next t ∧ t = { s with tills := t.tills }
          ∧ t.till? gen nid die = some { x with ready := at_ }
          ∧ (at_.isSome = true ↔ n.coal ≤ x.recs.length ∨ ∃ r, x.recs.head? = some r ∧ n.timer ≤ r.age)
          ∧ ∀ g d e, (g ≠ gen ∨ d ≠ nid ∨ e ≠ die) → t.till? g d e = s.till? g d e)
    ∧ ∀ gen nid x n r, s.till? gen nid die = some x → s.node gen nid = some n → n.prio = 3 → x.ready = some r → r + 1000000 ≤ s.ptb →
        ∃ t, exec (.bgPromotion gen nid die) s = .next t ∧ t = { s with tills := t.tills }
          ∧ t.till? gen nid die = some { x with promoted := true }
          ∧ ∀ g d e, (g ≠ gen ∨ d ≠ nid ∨ e ≠ die) → t.till? g d e = s.till? g d e

/-- R53, R74, R79 to R83, R85, R86, R91: the first-ranked ready till whose group fits on a core launches: the group takes its oldest records, the
next number that no live group has, and its scratchpad, its warps stand at their entry points with every register full and zero, and it has started when the node has no
region. Where a node has regions, the group starts once every byte of them has been moved. That a group is launched as it is admitted (log entry
72), where its scratchpad and registers lie (log entry 43), the search for slices (log entry 78) and the depth of a group of mixed records (log
entry 93) are the model's choice. -/
def Obligations.Launches : Prop :=
  ∀ (s : State), s.stop = none →
    (∀ die x n rest c sp, s.readyTills die = (x, n) :: rest → s.spots die x.gen n = some [(c, sp)] → c < s.cores.length → n.clp = false →
      let gid := freeGid s.liveGids s.liveGids.length (s.inst + 1)
      n.regions = 0 → (∀ r ∈ x.recs, r.prov.grid = none) → gid ∉ s.liveGids →
      ∃ t ws g, exec (.groupAdmission die) s = .next t ∧ t = { s with cores := t.cores, hb := t.hb, inst := gid, tills := t.tills }
        ∧ (s.inst + 1 < 2 ^ 32 → s.inst + 1 ∉ s.liveGids → gid = s.inst + 1)
        ∧ (t.core c).groups = (s.core c).groups ++ [g] ∧ (t.core c).warps = (s.core c).warps ++ ws
        ∧ g.gid = gid ∧ g.nid = n.nid ∧ g.gen = n.gen ∧ g.desc = n.desc ∧ g.recs = (x.recs.take n.coal).map TRec.bytes
        ∧ g.spBase = sp.sp ∧ g.spBytes = n.spad ∧ g.started = true
        ∧ ws.length = min n.warps.length (min sp.warps.length sp.wixs.length)
        ∧ (∀ k, k < ws.length → ∃ w, ws[k]? = some w ∧ w.fresh ∧ w.gid = gid ∧ w.warp = k ∧ w.sup = false
            ∧ w.pcs = List.replicate 32 (n.warps.getD k (0, (0, 0, 0), 0)).1 ∧ w.vBud = (n.warps.getD k (0, (0, 0, 0), 0)).2.1.1
            ∧ w.wBud = (n.warps.getD k (0, (0, 0, 0), 0)).2.1.2.1 ∧ w.wix = sp.wixs.getD k 0)
        ∧ ∀ k, k ≠ c → t.core k = s.core k)
    ∧ (∀ die x n rest, s.readyTills die = (x, n) :: rest → s.spots die x.gen n = none → exec (.groupAdmission die) s = .next s)
    ∧ ∀ c gid x, c < s.cores.length → (s.core c).copies.find? (fun x => x.opc == opStage && x.gid == gid) = some x → (s.core c).phase = .run →
        (∀ f ∈ x.xfers, f.done = true) → (∀ y ∈ (s.core c).copies, y.id = x.id → y = x) → ((s.core c).group? gid).isSome = true →
        ∃ t, exec (.stagingComplete c gid) s = .next t ∧ t = { s with cores := t.cores, hb := t.hb }
          ∧ (t.core c).copies = (s.core c).copies.filter (fun y => y.id != x.id) ∧ (t.group c gid).started = true
          ∧ (t.core c).warps = (s.core c).warps ∧ (t.core c).sp = (s.core c).sp ∧ ∀ k, k ≠ c → t.core k = s.core k

/-- R59 to R62, R54, R95, R137, R331, R93, R94, R35, R413, R124, R379: what becomes of warps between their instructions: parking and its end, the
end of a yield, the landing of a load, of a queue entry once it is committed, of a matrix operation and of a reduction, the completion of a warp, the commitment of queue entries, the
matrix unit's power, and a monitor's deadline. That a warp's reductions are performed in their order is the model's choice (log entry 19), and so are
the moments at which loaded values are taken (log entry 18) and what a notice of commitments names (log entry 87); that queue registers count
among those that must be full when a warp completes is an inference (log entry 96). -/
def Obligations.WarpEvents : Prop :=
  ∀ (s : State) (c wix : Nat) (w : Warp), s.stop = none → c < s.cores.length → (s.core c).warp? wix = some w →
    (w.parks → w.since ≠ 0 → w.since + 2000 ≤ s.ptb → w.sup = false → w.place ≠ none → s.parkFits c w = true → ParkOpen c s →
        ∃ t, exec (.warpParkTimeout c wix) s = .next t
          ∧ t = { s with cores := t.cores, mem := t.mem, keyTag := t.keyTag, poison := t.poison, undo := t.undo } ∧ OutsidePark c s t
          ∧ t.warp c wix = { w with place := none, parkAt := (t.warp c wix).parkAt }
          ∧ (∀ k, k ≠ wix → (t.core c).warp? k = ((s.core c).warp? k).map (fun (x : Warp) => { x with parkAt := (t.warp c k).parkAt }))
          ∧ ∀ k, k ≠ c → t.core k = s.core k)
    ∧ (∀ sl slot reg tile room, sl < 4 → (s.core c).phase = .run → (s.core c).warps.filter Warp.parkReady = [w] →
        ((s.core c).room sl).fit sl w.vBud w.aBud = some ((slot, reg, tile), room) →
        ∃ t, exec (.warpUnpark c sl) s = .next t ∧ t = { s with cores := t.cores }
          ∧ t.warp c wix = { w with place := some (sl, slot), vBase := reg, aBase := tile, since := 0, needs := [], ready := true }
          ∧ (∀ k, k ≠ wix → (t.core c).warp? k = (s.core c).warp? k) ∧ ∀ k, k ≠ c → t.core k = s.core k)
    ∧ (∀ n, w.wait = .yield n →
        ∃ t, exec (.yieldIntervalEnd c wix) s = .next t ∧ t = { s with cores := t.cores }
          ∧ t.warp c wix = (if n ≤ s.cycOf c w then { w with wait := .none, age := n } else w)
          ∧ (∀ k, k ≠ wix → (t.core c).warp? k = (s.core c).warp? k) ∧ ∀ k, k ≠ c → t.core k = s.core k)
    ∧ (∀ o d vals, w.ops.find? (fun x => x.id == o.id) = some o → o.kind = .load → o.reqs = [] → o.fills = [⟨true, d, vals⟩] → o.stopVA = none →
        (vals.map Prod.fst).Nodup → (∀ p ∈ vals, p.1 < 32) → o.cls = none → o.pops = [] → Layable c wix s →
        ∃ u t, exec (.loadDataReturn c wix o.id) s = .next t ∧ u = { s with cores := u.cores } ∧ Relaid c wix u t
          ∧ (∀ p ∈ vals, (t.warp c wix).vGet d p.1 = p.2.toNat ∧ ((t.warp c wix).vEmpty d).getLsbD p.1 = false)
          ∧ (∀ r l, l < 32 → (r ≠ d ∨ l ∉ vals.map Prod.fst) → (t.warp c wix).vGet r l = w.vGet r l) ∧ (t.warp c wix).w = w.w
          ∧ (∀ k, k ≠ wix → (t.core c).warp? k = (s.core c).warp? k) ∧ ∀ k, k ≠ c → t.core k = s.core k)
    ∧ (∀ o d vals k e, w.ops.find? (fun x => x.id == o.id) = some o → o.kind = .pop → o.reqs = [] → o.fills = [⟨true, d, vals⟩] → o.stopVA = none →
        (vals.map Prod.fst).Nodup → (∀ p ∈ vals, p.1 < 32) → o.cls = none → o.pops = [(k, e)] → Layable c wix s →
        ((s.core c).group? w.gid).isSome = true → k < (s.group c w.gid).rings.length →
        let r := (s.group c w.gid).ring k
        (r.arrived e = false → exec (.loadDataReturn c wix o.id) s = .next s)
        ∧ (r.arrived e = true →
          ∃ u t, exec (.loadDataReturn c wix o.id) s = .next t ∧ u = { s with cores := u.cores } ∧ Relaid c wix u t
            ∧ (t.group c w.gid).ring k = Ring.deliver e r
            ∧ (∀ p ∈ vals, (t.warp c wix).vGet d p.1 = p.2.toNat ∧ ((t.warp c wix).vEmpty d).getLsbD p.1 = false)
            ∧ (t.core c).sp = (s.core c).sp ∧ ∀ k, k ≠ c → t.core k = s.core k))
    ∧ (∀ o rest, w.ops.filter (fun x => x.cls == some .m) = o :: rest → (∀ x ∈ w.ops, x.done = false) → (w.ops.map Op.id).Nodup → Layable c wix s →
        ∃ u t, exec (.matrixResultWritten c wix) s = .next t ∧ u = { s with cores := u.cores } ∧ Relaid c wix u t ∧ (t.warp c wix).counter .m + 1 = w.counter .m
          ∧ (∀ k, k ≠ .m → (t.warp c wix).counter k = w.counter k) ∧ (t.warp c wix).v = w.v
          ∧ (∀ k, k ≠ wix → (t.core c).warp? k = (s.core c).warp? k) ∧ ∀ k, k ≠ c → t.core k = s.core k)
    ∧ (∀ o rest r, w.ops.filter (fun x => x.cls == some .a) = o :: rest → (∀ x ∈ w.ops, x.done = false) → (w.ops.map Op.id).Nodup →
        o.reds = [r] → r.aper = 0 → s.still = true → s.open_ r.pa = true → s.poisoned r.pa = false → locOf r.pa % 64 + tyBytes r.ty ≤ 64 →
        Layable c wix s →
        ∃ u t, exec (.redPerformed c wix) s = .next t ∧ Relaid c wix u t
          ∧ u = { s with cores := u.cores, hb := u.hb, mem := u.mem, keyTag := u.keyTag, poison := u.poison, undo := u.undo }
          ∧ u.peek r.pa (tyBytes r.ty) = leBytes (tyBytes r.ty) (aopNew r.op r.ty (leVal (s.peek r.pa (tyBytes r.ty))) r.val 0)
          ∧ OneSector r.pa s u ∧ (t.warp c wix).counter .a + 1 = w.counter .a ∧ (t.warp c wix).v = w.v ∧ (t.warp c wix).w = w.w)
    ∧ (w.over (s.group c w.gid) = true → w.sup = false → ((s.core c).group? w.gid).isSome = true → (s.core c).copies = [] →
        (∃ x ∈ (s.core c).warps, x.wix ≠ wix ∧ x.gid = w.gid ∧ x.sup = false) →
        ∃ t, exec (.warpComplete c wix) s = .next t ∧ t = { s with cores := t.cores, hb := t.hb } ∧ (t.core c).warp? wix = none
          ∧ (t.core c).warps = (s.core c).warps.filter (fun x => x.wix != wix) ∧ (t.core c).sp = (s.core c).sp ∧ ∀ k, k ≠ c → t.core k = s.core k)
    ∧ (∀ gid k (n : Word), ((s.core c).group? gid).isSome = true → k < (s.group c gid).rings.length →
        let r := (s.group c gid).ring k
        ∃ t, exec (.queueCommitNotice c gid k n) s = .next t ∧ t = { s with cores := t.cores }
          ∧ (∀ m, r.commit ≤ m → m < r.commit + 2 ^ 32 → n.toNat = m % 2 ^ 32 →
              (t.group c gid).ring k = { r with commit := if m ≤ r.tail then m else r.commit })
          ∧ (t.core c).warps = (s.core c).warps ∧ (t.core c).sp = (s.core c).sp)
    ∧ (∀ sl, sl < (s.core c).slices.length →
        let x := s.slice c sl
        ∃ t, exec (.matrixRampTimer c sl) s = .next t ∧ t = { s with cores := t.cores }
          ∧ (x.mx = .rampup → x.mxAt + 64 ≤ x.cyc → (t.slice c sl).mx = .warm)
          ∧ (x.mx = .warm → x.mxAt + 64 ≤ x.cyc → x.mxUse + 64 ≤ x.cyc → (t.slice c sl).mx = .rampdown)
          ∧ (x.mx = .rampdown → x.mxAt + 32 ≤ x.cyc → (t.slice c sl).mx = if x.mxReq then .rampup else .cold)
          ∧ (x.mx = .cold → t.slice c sl = x) ∧ (t.core c).warps = (s.core c).warps)
    ∧ ∀ k m ls p sc, s.mons[k]? = some m → m.late s.ptb = true → m.st = .armed → m.dev = s.dev → m.core = c → m.wix = wix → m.gen = (s.core c).gen →
        w.wait = .mem ls p sc → w.stopped = false → w.replay = none → p < w.preds.length →
        (∀ x ∈ s.mons, x.spilled = false ∧ x.st ≠ .deferred) → s.mons.Nodup →
        ∃ t, exec (.monitorDeadline k) s = .next t ∧ t = { s with cores := t.cores, mons := s.mons.erase m } ∧ (t.warp c wix).wait = .none
          ∧ (∀ l, l < 32 → (t.warp c wix).pGet p l = (!ls.getLsbD l && w.pGet p l)) ∧ (t.warp c wix).v = w.v
          ∧ ∀ k, k ≠ wix → (t.core c).warp? k = (s.core c).warp? k

/-- R393, R421, R480: a copy engine's work on a copy of its core. A transfer into scratchpad, from scratchpad, from a fill pattern or from
local HBM, moves its bytes, and one into local HBM does; with barrier completion they are posted to the object; one to or from a peer page sends WR
or RD and waits; a copy whose transfers are all made is gone, and with counter completion it counts no more in C, with task completion the task's
count goes down, here or by RED; a transfer whose
source does not translate waits in the lowest free entry of the fault buffer, with its record in the mailbox. -/
def Obligations.CopyEvents : Prop :=
  ∀ (s : State) (c id : Nat) (x : Copy), s.stop = none → c < s.cores.length → (s.core c).copy? id = some x → x.id = id →
    (∀ k f,
      let gen := (s.core c).gen
      let s1 := s.sourceRead c f.src
      let done (g : Xfer) : Xfer := { g with done := true, tag := none }
      x.started = true → x.faulted = none → (s.core c).copying = true → x.nextXfer = some (k, f) → s.trails c x f = false → x.opc ≠ opStage →
      (∀ bs, s.sourceBytes c f.src f.n = some bs → s.calm = true → s.readsApart c x →
        (∀ j ph, f.dst = .sp j ph → j < s.cores.length →
          (x.cpl ≠ .bar →
            ∃ t, exec (.copyPosting c id 1) s = .next t ∧ SMap.getN (t.core j).sp f.n ph = bs
              ∧ (∀ q a, (q ≠ j ∨ a < ph ∨ ph + f.n ≤ a) → (t.core q).sp.get a = (s.core q).sp.get a)
              ∧ XferMade c id k x done t ∧ t = { s with cores := t.cores, hb := t.hb })
          ∧ ∀ kb pb, x.cpl = .bar → s.spadAt c x.gid x.target = some (kb, pb) → s.listed kb pb = true → kb < s.cores.length →
              (kb ≠ j ∨ pb + 16 ≤ ph ∨ ph + f.n ≤ pb) →
            ∃ t, exec (.copyPosting c id 1) s = .next t ∧ SMap.getN (t.core j).sp f.n ph = bs ∧ t.bar kb pb = (s.bar kb pb).posted f.n
              ∧ (∀ q a, (q ≠ j ∨ a < ph ∨ ph + f.n ≤ a) → (q ≠ kb ∨ a < pb ∨ pb + 16 ≤ a) → (t.core q).sp.get a = (s.core q).sp.get a)
              ∧ XferMade c id k x done t ∧ t = { s with cores := t.cores, hb := t.hb })
        ∧ (∀ a pa leaf, f.dst = .va a → (s1.xlate c false gen a .write).1 = .ok pa leaf → aperOf leaf = 0 → s.open_ pa = true → s.mons = [] →
            locOf pa % 64 + f.n ≤ 64 → x.cpl ≠ .bar →
          ∃ t, exec (.copyPosting c id 1) s = .next t ∧ t.peek pa f.n = bs
            ∧ (∀ qa, Loc.sparesPA f.n qa (.hbm pa) = true → t.peek qa 1 = s.peek qa 1) ∧ (∀ q, (t.core q).sp = (s.core q).sp) ∧ XferMade c id k x done t
            ∧ t = { s with cores := t.cores, hb := t.hb, mem := t.mem, keyTag := t.keyTag, poison := t.poison, undo := t.undo })
        ∧ (∀ a pa leaf,
            let d := devOf leaf
            f.dst = .va a → (s1.xlate c false gen a .write).1 = .ok pa leaf → aperOf leaf = 1 → s.noDark = true → (s.dest d).bad = false →
          ∃ t, exec (.copyPosting c id 1) s = .next t ∧ t.mem = s.mem ∧ (∀ q, (t.core q).sp = (s.core q).sp)
            ∧ XferMade c id k x (fun g => { g with tag := some s.tag, dev := d, wr := true }) t
            ∧ Queued d (s.mkPacket gen d 0 0x02 s.tag (pa / 64 * 64) (wrPay pa bs)) s t))
      ∧ ∀ a pa leaf,
          let d := devOf leaf
          f.src = .va a → (s.xlate c false gen a .read).1 = .ok pa leaf → aperOf leaf = 1 → s.noDark = true → (s.dest d).bad = false →
        ∃ t, exec (.copyPosting c id 1) s = .next t ∧ t.mem = s.mem ∧ (∀ q, (t.core q).sp = (s.core q).sp)
          ∧ XferMade c id k x (fun g => { g with tag := some s.tag, dev := d, wr := false }) t
          ∧ Queued d (s.mkPacket gen d 0 0x01 s.tag (pa / 64 * 64) (leBytes 8 ((2 ^ f.n - 1) * 2 ^ (pa % 64)))) s t)
    ∧ (x.finished = true → x.cpl = .cnt →
      ∃ t, exec (.copyComplete c id) s = .next t ∧ t = { s with cores := t.cores } ∧ (t.core c).copies = (s.core c).copies.filter (fun y => y.id != id)
        ∧ (∀ p w, x.pieces = [p] → (s.core c).warp? p.wix = some w → (∀ o ∈ w.ops, o.done = false) →
            (∀ o ∈ w.ops, o.id = p.op ↔ o.cls = some .c) → (w.ops.filter (fun o => o.cls == some .c)).length = 1 →
            (t.warp c p.wix).counter .c = 0 ∧ (t.warp c p.wix).landed = w.landed ++ [id] ∧ (t.warp c p.wix).v = w.v ∧ (t.warp c p.wix).pcs = w.pcs)
        ∧ (t.core c).sp = (s.core c).sp ∧ ∀ k, k ≠ c → t.core k = s.core k)
    ∧ (x.finished = true → x.cpl = .task →
      let gen := (s.core c).gen
      let n := x.target % 65536
      let d := fld x.target 30 16
      (x.target.testBit 31 = true → s.noDark = true → (s.dest d).bad = false →
        ∃ t, exec (.copyComplete c id) s = .next t ∧ t.mem = s.mem ∧ (t.core c).copies = (s.core c).copies.filter (fun y => y.id != id)
          ∧ Queued d (s.mkPacket gen d 0 0x04 0 n (leBytes 8 (2 ^ 24 + 4 * 2 ^ 16))) s t)
      ∧ ∀ pa,
        let v := leVal (s.peek pa 8)
        let m := (fld v 31 0 + 2 ^ 32 - 1) % 2 ^ 32
        x.target.testBit 31 = false → s.taskEntry gen n = some pa → s.poisoned pa = false → v.testBit 33 = false → (v.testBit 32 = true → m ≠ 0) →
        s.open_ pa = true → s.calm = true → s.mons = [] →
        ∃ t, exec (.copyComplete c id) s = .next t ∧ t.peek pa 8 = leBytes 8 (m + (if v.testBit 32 then 2 ^ 32 else 0)) ∧ t.tills = s.tills
          ∧ OneSector pa s t ∧ (t.core c).copies = (s.core c).copies.filter (fun y => y.id != id))
    ∧ ∀ k f va code level i, s.trails c x f = false → x.faulted = none → (s.core c).copying = true → x.nextXfer = some (k, f) → f.src = .va va → x.opc ≠ opStage → code ≠ 1 →
        (s.xlate c false (s.core c).gen va .read).1 = .bad code level → freeEntry (s.core c) = some i →
        (s.core c).mbox.length < 64 → noBell c s = true →
      ∃ t e r, exec (.copyAccessFault c id) s = .next t ∧ t = { s with cores := t.cores } ∧ (t.core c).fbuf = e :: (s.core c).fbuf
        ∧ e.idx = i ∧ e.src = 2 ∧ e.who = id ∧ e.gen = (s.core c).gen ∧ e.rec_.cls = 2 ∧ e.rec_.code = code ∧ e.rec_.va = va
        ∧ ((t.core c).copy? id).bind Copy.faulted = some i ∧ (t.core c).mbox = (s.core c).mbox ++ [r] ∧ r.kind = 1 ∧ (t.core c).sp = (s.core c).sp

/-! ### Switching -/

/-- R190 to R193, R200, R205, R207, R210, R504, R510 to R513: the steps of a switch on a core, in order: preparation, the signal when the slot
in force is another one, the end of the halt, of the drain (at once for a DIRECT slot, else when no fabric operation is open, or after 6 µs,
which is recorded), of a clock change; the end of a slot and of a pre-emption slot; and the restart of a core whose supervisor warp has
stopped. That each core has a clock of its own, which its switch changes, and how long the steps take, are the model's choice (log entries 54 and
55). -/
def Obligations.Switching : Prop :=
  ∀ (s : State) (c : Nat), s.stop = none → c < s.cores.length →
    let k := s.core c
    let signalled (u : State) (q : Nat) : Core :=
      if (s.core q).phase = .run ∧ (s.core q).slot.holds (u.target q) = false then
        { s.core q with phase := .halt, inc := u.target q, swAt := s.ptb, phAt := s.ptb } else s.core q
    let only (t : State) (f : Core → Core) : Prop := t = { s with cores := t.cores } ∧ t.core c = f k ∧ ∀ q, q ≠ c → t.core q = s.core q
    ((∀ e ∈ s.table, entLcr e = false → s.ptb < entSwt e → entSwt e ≤ s.ptb + fld (entW e 6) 31 0 → s.applies e c = true →
        ∃ t, exec (.switchPrepare c) s = .next t ∧ only t (fun k => { k with prep := true })))
    ∧ (s.preempt = [] → s.cores.length = s.nCores →
        ∃ t, exec .switchSignal s = .next t ∧ t = { s with cores := t.cores } ∧ t.cores.length = s.nCores ∧ ∀ q, q < s.nCores → t.core q = signalled s q)
    ∧ (∃ t, exec (.slotWindowEnd c) s = .next t ∧ only t (fun _ => signalled s c))
    ∧ (∀ p gen, s.preempt = [p] → p.gen = gen → p.on = true → (∃ u, p.u = some u ∧ u ≤ s.ptb) → p.wdr = false → s.cores.length = s.nCores →
        ∃ t, exec (.preemptionSlotEnd gen) s = .next t ∧ t = { s with cores := t.cores, preempt := [] }
          ∧ ∀ q, q < s.nCores → t.core q = signalled { s with preempt := [] } q)
    ∧ (k.phase = .halt → (∀ w ∈ k.warps, w.ops = []) →
        ∃ t, exec (.switchHaltEnd c) s = .next t ∧ only t (fun k => { k with
          phase := .drain, phAt := s.ptb
          groups := k.groups.map (fun (g : Group) => { g with rings := g.rings.map (fun (r : Ring) => { r with commit := r.tail }) }) }))
    ∧ (k.phase = .drain → (k.slot.direct = true ∨ k.fabricOps = 0) →
        ∃ t, exec (.switchDrainEnd c) s = .next t ∧ only t (fun k => { k with phase := .save, phAt := s.ptb }))
    ∧ (k.phase = .drain → k.slot.direct = false → k.fabricOps ≠ 0 → ringOff s = true →
        (s.ptb < k.phAt + 6000 → exec (.switchDrainEnd c) s = .next s ∧ exec (.switchDrainLimit c) s = .next s)
        ∧ (k.phAt + 6000 ≤ s.ptb →
          ∃ t, exec (.switchDrainLimit c) s = .next t ∧ t = { s with cores := t.cores, cp := t.cp } ∧ Counted 5 1 s t
            ∧ t.core c = { k with phase := .save, phAt := s.ptb } ∧ ∀ q, q ≠ c → t.core q = s.core q))
    ∧ (k.phase = .clock → k.phAt + 1000 ≤ s.ptb → s.target c = k.inc → k.inc.aclk ≠ 0 →
        ∃ t, exec (.clockChangeEnd c) s = .next t ∧ only t (fun k => { k with aclk := k.inc.aclk, phase := .restore, phAt := s.ptb }))
    ∧ ∀ w, k.warps.find? Warp.sup = some w → w.stopped = true → k.restart = false →
        (k.phase = .run → ∃ t, exec (.coreRestart c) s = .next t
          ∧ only t (fun k => { k with restart := true, phase := .halt, inc := s.target c, swAt := s.ptb, phAt := s.ptb }))
        ∧ (k.phase = .halt ∨ k.phase = .drain ∨ k.phase = .save → ∃ t, exec (.coreRestart c) s = .next t ∧ only t (fun k => { k with restart := true }))
        ∧ (k.phase = .restore ∨ k.phase = .clock → ringOff s = true →
          ∃ t, exec (.coreRestart c) s = .next t ∧ t = { s with cores := t.cores, cp := t.cp } ∧ Counted 8 1 s t
            ∧ (∀ q, q ≠ c → t.core q = s.core q)
            ∧ ∃ x, (t.core c).warps = k.warps.filter (fun w => !w.sup) ++ [x] ∧ x.sup = true ∧ x.stopped = false ∧ x.fresh
                ∧ x.pcs = List.replicate 32 s.supEntry)

/-- R197, R198, R202, R203, R266, R512, R513: the save of a core keeps its user warps, groups, scratchpad, barrier objects, mailbox entries and
copies as the vault of its slot, which is data of the state (log entry 23, the model's choice, and 34 for copies), and lays in that vault's memory
the header with JOB, GEN, the PTB and ACLK, the scratchpad of its groups, and of its resident warps the registers, their full bits and the tiles;
it leaves the core with its supervisor warp alone; the restore of a slot
whose vault holds a context of its generation gives the core that context back, and of any other starts the generation with nothing. -/
def Obligations.SavesAndRestores : Prop :=
  ∀ (s : State) (c : Nat), s.stop = none → c < s.cores.length →
    let k := s.core c
    (k.phase = .save → k.gen ≠ 0 → k.restart = false → k.gen < 2 ^ 16 → s.tills = [] → ringOff s = true →
        (s.keyDraw (keyOf k.slot.vault)).isSome = true → k.slot.vault % 2 ^ 21 = 0 → (∀ a, a < 2 ^ 21 → s.locExists (locOf (k.slot.vault + a)) = true) →
        (∀ g ∈ k.groups, g.spBase + g.spBytes ≤ Config.spadBytes) →
        (∀ w ∈ k.warps, w.vBase + w.vBud ≤ 1024 ∧ w.aBase + w.aBud ≤ 128 ∧ ∀ p, w.place = some p → p.1 < 4 ∧ p.2 < 16) →
        (∀ m ∈ s.mons, locOf m.pa + m.bytes ≤ locOf k.slot.vault ∨ locOf k.slot.vault + 2 ^ 21 ≤ locOf m.pa) →
      ∃ t v, exec (.switchSaveEnd c) s = .next t ∧ v ∈ t.vaults ∧ v.pa = k.slot.vault ∧ v.core = c ∧ v.gen = k.gen ∧ v.job = k.job
        ∧ v.warps = k.warps.filter (fun w => !w.sup) ∧ v.groups = k.groups ∧ v.sp = k.sp ∧ v.bars = k.bars ∧ v.copies = k.copies
        ∧ v.mbox = k.mbox.filter (fun e => e.gen == k.gen) ∧ t.peek k.slot.vault 8 = leBytes 8 (k.job % 2 ^ 32 * 2 ^ 16 + k.gen)
        ∧ t.peek (k.slot.vault + 8) 8 = leBytes 8 s.ptb ∧ t.peek (k.slot.vault + 16) 8 = leBytes 8 (k.aclk % 2 ^ 16)
        ∧ (∀ g ∈ k.groups, ∀ a, g.spBase ≤ a → a < g.spBase + g.spBytes → t.peek (k.slot.vault + 0xF0000 + a) 1 = [k.sp.get a])
        ∧ (∀ w ∈ k.warps, ∀ sl n, w.sup = false → w.place = some (sl, n) → k.alone w sl n → Imaged k.slot.vault w sl t)
        ∧ (∀ qa, locOf qa / 2 ^ 21 ≠ locOf k.slot.vault / 2 ^ 21 → t.peek qa 1 = s.peek qa 1)
        ∧ (t.core c).gen = 0 ∧ (t.core c).warps = k.warps.filter Warp.sup ∧ (t.core c).groups = [] ∧ (t.core c).copies = []
        ∧ ((t.core c).phase = .restore ∨ (t.core c).phase = .clock) ∧ (∀ q, q ≠ c → t.core q = s.core q))
    ∧ (k.phase = .save → k.gen = 0 → k.restart = false → (∀ w ∈ k.warps, w.sup = true) → (s.target c).aclk = 0 → (k.inc.holds (s.target c) = true ∨ k.inc.gen = 0) →
      ∃ t, exec (.switchSaveEnd c) s = .next t ∧ t = { s with cores := t.cores }
        ∧ t.core c = { k with inc := s.target c, phase := .restore, phAt := s.ptb } ∧ ∀ q, q ≠ c → t.core q = s.core q)
    ∧ (k.phase = .restore → s.aborted.contains k.inc.gen = false → s.ptb ≤ k.swAt + 60000 → s.tills = [] → s.held = [] →
        (k.inc.gen = 0 ∨ s.saved c k.inc = none →
          ∃ t, exec (.switchRestoreEnd c) s = .next t ∧ t = { s with cores := t.cores } ∧ (∀ q, q ≠ c → t.core q = s.core q)
            ∧ t.core c = { k with
                phase := .run, gen := k.inc.gen, job := k.inc.job, slot := k.inc, inc := {}, prep := false, tlb := [], tlbAt := s.undo.length
                flushes := [], rcache := [], roAt := s.undo.length })
        ∧ ∀ v, k.inc.gen ≠ 0 → s.saved c k.inc = some v → s.mons = [] → v.copies = [] →
            k.heldRecs = [] → v.heldRecs = [] →
            (∀ w ∈ k.warps, w.asyncStop = none ∧ ∀ o ∈ w.ops, o.later = []) →
            (∀ w ∈ v.warps, w.asyncStop = none ∧ w.result = none ∧ ∀ o ∈ w.ops, o.later = []) →
            (∀ g ∈ v.groups, g.started = false ∨ g.children ≠ [] ∨ ∃ w ∈ v.warps, w.sup = false ∧ w.gid = g.gid) →
            let as_ (w : Warp) : Warp := { w with age := 0, since := 0, ready := true, keen := none }
          ∃ t, exec (.switchRestoreEnd c) s = .next t ∧ (t.core c).phase = .run ∧ (t.core c).gen = k.inc.gen ∧ (t.core c).job = k.inc.job
            ∧ (t.core c).groups = v.groups ∧ (t.core c).sp = v.sp ∧ (t.core c).bars = v.bars ∧ (t.core c).mbox = k.mbox ++ v.mbox
            ∧ (t.core c).warps.map as_ = k.warps.map as_ ++ v.warps.map as_
            ∧ t = { s with cores := t.cores, hb := t.hb } ∧ ∀ q, q ≠ c → t.core q = s.core q)

/-! ### Links and ports -/

/-- R218 to R220, R247 to R249, R516 to R520, R534, R535: flits, resynchronisation, drain markers and the states of a port. A flit whose CRC
fails is counted and nothing else is taken from it; a packet of one flit for this package arrives, and its slot is freed; that a packet's slots
are freed once it is whole is the model's choice (log entry 46); a resynchronisation flit that shows lost slots frees them, and they are counted in
AUDIT; that a port has as many wavelengths as wlmin says is the model's choice (log entry 97); a far marker counts
whether it comes before or after this end's own DRAIN; a port drains, goes
dark, trains again and comes up as its rules say, and a lane or a wavelength is lost and found. -/
def Obligations.Links : Prop :=
  ∀ (s : State) (i : Nat), s.stop = none → s.ports.length = 95 →
    (∀ p f, p < 95 → s.portLive p = true → Flit.crcOk f = false → (s.port p).crcs.length < 999 →
      ∃ t, exec (.flitReceive p f) s = .next t ∧ t = { s with cp := t.cp, ports := t.ports } ∧ RegsBut [portStat p] s t
        ∧ fld (t.cpw (portStat p)) 63 48 = min 65535 (fld (s.cpw (portStat p)) 63 48 + 1)
        ∧ exec (.resyncReceive p f) s = .next t
        ∧ t.port p = { s.port p with crcs := s.ptb :: (s.port p).crcs.filter (fun x => decide (s.ptb < x + 1000000)) } ∧ ∀ j, j ≠ p → t.port j = s.port j)
    ∧ (∀ p f, p < 95 → s.portLive p = true → Flit.crcOk f = true → f.hdr.getLsbD 1 = false → fld f.hdr.toNat 5 3 = 0 → f.hdr.getLsbD 2 = true →
        Flit.hop f ≤ 4 → (Packet.ofBytes f.body).dst.toNat = s.dev → (s.port p).queue = [] → (s.port p).rcvd.length = 20 → (s.port p).freed.length = 20 →
      ∃ t, exec (.flitReceive p f) s = .next t ∧ t = { s.arrive (Packet.ofBytes f.body) with ports := t.ports }
        ∧ (t.port p).rcvd.getD (Flit.pair f) 0 = ((s.port p).rcvd.getD (Flit.pair f) 0 + 1) % 2 ^ 16
        ∧ (t.port p).freed.getD (Flit.pair f) 0 = ((s.port p).freed.getD (Flit.pair f) 0 + 1
            + (((s.port p).rx.find? (fun x => x.1 == Flit.pair f)).map (fun x => x.2.2)).getD 0) % 2 ^ 16
        ∧ (fld f.hdr.toNat 15 11 < (s.port p).ret.length → fld f.hdr.toNat 15 11 < 20 →
            (t.port p).ret.getD (fld f.hdr.toNat 15 11) 0 = fld f.hdr.toNat 31 16))
    ∧ (∀ p, p < 95 → s.portLive p = true → (s.port p).ridx < 20 → (∀ v ∈ (s.port p).freed, v < 2 ^ 16) →
      ∃ t f, exec (.resyncTimer p) s = .next t ∧ t = { s with ports := t.ports, outs := .flit p f :: s.outs } ∧ f.hdr.getLsbD 1 = true
        ∧ f.body = ((s.port p).resyncBody ++ List.replicate 56 0).take 56 ∧ (t.port p).audit = ((s.port p).audit + 1) % 3 ∧ Flit.crcOk f = true)
    ∧ (∀ p f, p < 95 → s.portLive p = true → Flit.crcOk f = true → f.hdr.getLsbD 1 = true → f.body.headD 0 = 2 → (s.port p).queue = [] →
        (∀ j, j < 7 → 7 * (f.body.getD 1 0).toNat + j < 20 → leVal ((f.body.drop (42 + 2 * j)).take 2) = (s.port p).rcvd.getD (7 * (f.body.getD 1 0).toNat + j) 0) →
      ∃ t, exec (.resyncReceive p f) s = .next t ∧ t = { s with ports := t.ports }
        ∧ (t.port p).ret = (List.range 20).map (fun k => leVal ((f.body.drop (2 + 2 * k)).take 2)) ∧ ∀ j, j ≠ p → t.port j = s.port j)
    ∧ (∀ p f,
        let g := (f.body.getD 1 0).toNat
        let q := s.port p
        let sent (j : Nat) : Nat := leVal ((f.body.drop (42 + 2 * j)).take 2)
        let lost (j : Nat) : Nat := (sent j + 2 ^ 16 - q.rcvd.getD (7 * g + j) 0) % 2 ^ 16
        let js := (List.range 7).filter (fun j => decide (7 * g + j < 20))
        let all := js.foldl (fun n j => n + lost j) 0
        p < 95 → s.portLive p = true → Flit.crcOk f = true → f.hdr.getLsbD 1 = true → f.body.headD 0 = 2 → q.queue = [] → g < 3 → ringOff s = true →
        q.rcvd.length = 20 → q.freed.length = 20 → all ≠ 0 →
      ∃ t, exec (.resyncReceive p f) s = .next t ∧ t = { s with cp := t.cp, rate := t.rate, ports := t.ports }
        ∧ (20 ≤ fld f.hdr.toNat 15 11 → exec (.flitReceive p f) s = .next t) ∧ RegsBut [portStat p, oERLOST] s t
        ∧ (∀ j ∈ js, (t.port p).rcvd.getD (7 * g + j) 0 = sent j ∧ (t.port p).freed.getD (7 * g + j) 0 = (q.freed.getD (7 * g + j) 0 + lost j) % 2 ^ 16)
        ∧ (∀ k, (∀ j ∈ js, k ≠ 7 * g + j) → (t.port p).rcvd.getD k 0 = q.rcvd.getD k 0 ∧ (t.port p).freed.getD k 0 = q.freed.getD k 0)
        ∧ (t.port p).ret = (List.range 20).map (fun k => leVal ((f.body.drop (2 + 2 * k)).take 2)) ∧ (∀ j, j ≠ p → t.port j = s.port j)
        ∧ fld (t.cpw (portStat p)) 47 32 = min 65535 (fld (s.cpw (portStat p)) 47 32 + all)
        ∧ Counted 6 (match s.rate.find? (fun x => x.1 == 0x6030000 + p) with | some x => if s.ptb < x.2 + 1000000 then 0 else 1 | none => 1) s t)
    ∧ (i < 64 →
        let q := s.port (31 + i)
        let passing := s.ports.any (fun x => x.queue.any (cameBy (31 + i)))
        let goes (x : Instr) (st : Nat) : Prop :=
          ∃ t, exec x s = .next t ∧ t = { s with cp := t.cp, ports := t.ports } ∧ t.portState i = st ∧ RegsBut [oGPCTL + 8 * i, oGPSTAT + 8 * i, oPTBSTAT, oERLOST] s t
            ∧ ∀ j, j ≠ 31 + i → t.port j = s.port j
        (s.portState i = 2 →
          (q.marked = false → q.queue = [] →
            ∃ t, exec (.drainMarkerSend i) s = .next t ∧ (t.port (31 + i)).marked = true
              ∧ t.portState i = (if q.farMarked && !passing then 3 else 2) ∧ ∃ f, t.outs = .flit (31 + i) f :: s.outs ∧ f.body.headD 0 = 1)
          ∧ goes (.drainMarkerReceive i) (if q.marked && !passing then 3 else 2)
          ∧ (q.marked = true → q.farMarked = false → q.at_ + 100000 ≤ s.ptb → ringOff s = true → passing = false → goes (.drainMarkerTimeout i) 3))
        ∧ (s.portState i = 1 →
          (ringOff s = true → goes (.portLightLoss i) 0)
          ∧ exec (.drainMarkerReceive i) s = .next (s.updPort (31 + i) (fun x => { x with farMarked := true })))
        ∧ (s.portState i = 3 →
          (passing = false → ∀ far fport, goes (.portLightReturn i far fport) 4)
          ∧ (q.at_ + 1000000000 < s.ptb → ringOff s = true → goes (.darkTimeout i) 0))
        ∧ (s.portState i = 4 →
          (∃ t f rest, exec (.portRelockComplete i) s = .next t ∧ t.portState i = 1 ∧ t.outs = rest ++ .flit (31 + i) f :: s.outs
            ∧ f.hdr.getLsbD 1 = true ∧ f.body.headD 0 = 2 ∧ (s.noDark = true → RegsBut [oGPCTL + 8 * i] s t))
          ∧ (q.at_ + 20000 ≤ s.ptb → ringOff s = true → goes (.relockTimeout i) 0))
        ∧ (s.portState i = 0 →
          (passing = false → s.part.gports.testBit i = true → ∀ far fport, goes (.portDownRetrain i (some (far, fport))) 4)
          ∧ exec (.portDownRetrain i none) s = .next s))
    ∧ (∀ p lane, p < 31 → lane < 8 →
        ((s.cpw (portStat p)).testBit (8 + lane) = true → ringOff s = true →
          ∃ t, exec (.laneLoss p lane) s = .next t ∧ t = { s with cp := t.cp } ∧ Counted 6 1 s t
            ∧ (t.cpw (portStat p)).testBit (8 + lane) = false ∧ t.liveLanes p + 1 = s.liveLanes p ∧ (t.liveLanes p = 0 → t.linkUp p = false))
        ∧ ((s.part.llanes.getD p 0).getLsbD lane = true → (s.cpw (portStat p)).testBit (8 + lane) = false →
          ∃ t, exec (.laneRetrain p lane) s = .next t ∧ OneReg (portStat p) s t ∧ t.liveLanes p = s.liveLanes p + 1 ∧ t.linkUp p = true))
    ∧ ∀ lane, i < 64 → ringOff s = true →
        (1 < fld (s.cpw (oGPSTAT + 8 * i)) 7 0 →
          ∃ t, exec (.laneLoss (31 + i) lane) s = .next t ∧ t = { s with cp := t.cp } ∧ t.liveLanes (31 + i) + 1 = s.liveLanes (31 + i)
            ∧ Counted 6 1 s t)
        ∧ (fld (s.cpw (oGPSTAT + 8 * i)) 7 0 = 1 → s.portState i = 1 →
          ∃ t, exec (.laneLoss (31 + i) lane) s = .next t ∧ t.liveLanes (31 + i) = 0 ∧ t.portState i = 0)
        ∧ (s.portLive (31 + i) = true → fld (s.cpw (oGPSTAT + 8 * i)) 7 0 < s.part.wlmin → s.part.wlmin < 256 →
          ∃ t, exec (.laneRetrain (31 + i) lane) s = .next t ∧ OneReg (oGPSTAT + 8 * i) s t ∧ t.liveLanes (31 + i) = s.liveLanes (31 + i) + 1)

/-- R224, R521 to R523, R540: SACKs, retransmission, EPOCH and the declaration that a destination is unreachable. A SACK takes its packets from
those that the source holds; a block with bits unreported for 500 ns is reported; a packet unacknowledged for 20 µs is sent again; a
destination without an acknowledgement for 1 ms, or without a path for 100 µs, is declared; a destination found again counts from where the
source is. That an EPOCH, of which R540 does not say that it carries no PSN, moves the window whenever it comes is the model's choice (log
entry 40). -/
def Obligations.EndToEnd : Prop :=
  ∀ s : State, s.stop = none → s.noDark = true →
    (∀ src block bits since, (s.srcOf src).fresh.find? (fun b => b.1 == block) = some (block, bits, since) →
        (s.ptb < since + 500 → exec (.sackTimer src block) s = .next s)
        ∧ (since + 500 ≤ s.ptb →
          ∃ t, exec (.sackTimer src block) s = .next t ∧ (t.srcOf src).done = (s.srcOf src).done
            ∧ (t.srcOf src).fresh = (s.srcOf src).fresh.filter (fun b => b.1 != block)
            ∧ t = { s with srcs := t.srcs, fresh := t.fresh, dests := t.dests, ports := t.ports, outs := t.outs, agenda := t.agenda }))
    ∧ (∀ d u, (s.dest d).unacked.find? (fun x => x.psn == u.psn) = some u →
        (s.ptb < u.last + 20000 → exec (.packetRetransmit d u.psn) s = .next s)
        ∧ (u.last + 20000 ≤ s.ptb → u.pkt.dst.toNat = d → d ≠ s.dev →
          ∃ t, exec (.packetRetransmit d u.psn) s = .next t ∧ (t.dest d).unacked.map Sent.pkt = (s.dest d).unacked.map Sent.pkt
            ∧ (t.dest d).unacked.find? (fun x => x.psn == u.psn) = some { u with last := s.ptb }
            ∧ (s.pathTo d = true → ∃ rest, t.outs = rest ++ .packet u.pkt :: s.outs)
            ∧ t = { s with fresh := t.fresh, dests := t.dests, ports := t.ports, outs := t.outs }))
    ∧ (∀ p : Packet,
        let d := p.src.toNat
        let base := p.addr.toNat % 2 ^ 16
        p.dst.toNat = s.dev → (s.dest d).bad = false → (s.dest d).waiting = [] →
        (∀ u ∈ (s.dest d).unacked, base ≤ u.psn → u.psn < base + 64 → u.pkt.opc.toNat ∉ [0x02, 0x04, 0x06]) →
        s.after = [] → s.cpReads = [] → (∀ x ∈ s.places, ∀ w ∈ x.2.2.1, w.unacked = []) →
        ∃ t, exec (.sack p) s = .next t ∧ t = { s with dests := t.dests }
          ∧ (t.dest d).unacked = (s.dest d).unacked.filter (fun u => !(decide (base ≤ u.psn) && decide (u.psn < base + 64)
              && (Packet.word p 0).testBit (u.psn - base))))
    ∧ (∀ p : Packet,
        let src := p.src.toNat
        let next := p.addr.toNat % 2 ^ 16
        p.dst.toNat = s.dev → (s.srcOf src).low = none →
        ∃ t, exec (.epoch p) s = .next t ∧ (t.srcOf src).low = some next
          ∧ (t.srcOf src).done = (s.srcOf src).done.filter (fun q => decide (1024 ≤ (q + 2 ^ 16 - next) % 2 ^ 16))
          ∧ t = { s with srcs := t.srcs, fresh := t.fresh, dests := t.dests, ports := t.ports, outs := t.outs, agenda := t.agenda })
    ∧ (∀ d, (s.dest d).bad = true → (s.dest d).epochAt + 100000 ≤ s.ptb → s.pathTo d = true → d < 2 ^ 15 → d ≠ s.dev →
        ∃ t, exec (.epochSend d) s = .next t ∧ (t.dest d).epochAt = s.ptb ∧ (t.dest d).epochNext = some (s.dest d).next ∧ (t.dest d).bad = true
          ∧ t = { s with fresh := t.fresh, dests := t.dests, ports := t.ports, outs := t.outs })
    ∧ ∀ d, (s.dest d).bad = false → ringOff s = true → s.esc = [] →
        (((∃ n, (s.dest d).noPath = some n ∧ n + 100000 ≤ s.ptb) ∨ ∃ u ∈ (s.dest d).unacked, u.first + 1000000 ≤ s.ptb) →
          (∀ a ∈ s.after, a.1 ≠ d) →
          (∀ x ∈ s.places, (∀ w ∈ x.2.2.1, w.waitDev ≠ some d ∧ (∀ r ∈ w.unacked, r.dst ≠ d) ∧ ∀ o ∈ w.ops, ∀ r ∈ o.reqs, r.dst ≠ d)
            ∧ ∀ y ∈ x.2.2.2, (∀ f ∈ y.xfers, f.dev ≠ d ∨ f.tag = none) ∧ ∀ q, y.want = some q → q.2.1 ≠ d) →
          (∀ i, i < 256 → s.escSt i = 0 ∧ s.fbValid i = false) →
          ∃ t, exec (.unreachableDeclare d) s = .next t ∧ (t.dest d).bad = true ∧ (t.dest d).queued = [] ∧ Counted 6 1 s t
            ∧ t = { s with cp := t.cp, dests := t.dests, cpReads := t.cpReads, cmdReads := t.cmdReads })
        ∧ ((s.dest d).noPath = none → (∀ u ∈ (s.dest d).unacked, s.ptb < u.first + 1000000) → exec (.unreachableDeclare d) s = .next s)

/-! ### Packets -/

/-- R224, R225, R280, R500, R522, R527: a packet that has been performed is only reported again; one that is outside the window and below all
that has been reported since the window was set, or for another package, or that the CP would apply while its firmware does not run, or that the
package holds already, is dropped; one of an aborted generation, or behind a fence, is acknowledged without effect. -/
def Obligations.PacketsOnce : Prop :=
  ∀ (i : Instr) (p : Packet) (s : State), s.stop = none → s.noDark = true →
    i ∈ [.rd p, .wr p, .atomPacket p, .redPacket p, .taskDecrementPacket p, .mon p, .recPacket p, .claim p, .esct p, .escd p, .rdr p, .atomr p, .claimr p,
      .errr p, .wake p, .fbar p, .frel p, .sdec p, .snot p, .tte p, .ttr p, .abrt p, .fwdr p] →
    let x := s.srcOf p.src.toNat
    let psn := p.psn.toNat
    (p.dst.toNat ≠ s.dev → exec i s = .next s)
    ∧ (∀ l, x.low = some l → 1024 ≤ (psn + 2 ^ 16 - l) % 2 ^ 16 → x.slid < (l + 2 ^ 16 - psn) % 2 ^ 16 → exec i s = .next s)
    ∧ (s.noCp = true → byCp p.opc.toNat = true → exec i s = .next s)
    ∧ (p.dst.toNat = s.dev → x.bars psn = false → (s.noCp = false ∨ byCp p.opc.toNat = false) →
        (x.done.contains psn = true →
          ∃ t, exec i s = .next t ∧ (t.srcOf p.src.toNat).done = x.done
            ∧ t = { s with srcs := t.srcs, fresh := t.fresh, dests := t.dests, ports := t.ports, outs := t.outs, agenda := t.agenda })
        ∧ (x.done.contains psn = false → s.keeps p.src.toNat psn = true → exec i s = .next s)
        ∧ (x.done.contains psn = false → s.keeps p.src.toNat psn = false → s.fenced p.src.toNat p.gen.toNat = none → p.gen ≠ 0 → s.aborted.contains p.gen.toNat = true →
          ∃ t, exec i s = .next t ∧ Took p s t)
        ∧ (x.done.contains psn = false → s.keeps p.src.toNat psn = false → (s.fenced p.src.toNat p.gen.toNat).isSome = true → ringOff s = true →
          ∃ t, exec i s = .next t ∧ Took p { s with cp := t.cp, rate := t.rate } t))

/-- R223, R225 to R231, R436: a request at the home slice. RD answers the sector, WR writes the bytes that its mask names and no others, ATOM
answers the old values and RED answers none, each lane replaced by the operation's value; a named task's count goes down; MON answers at once
where its condition holds, and else an entry watches. The answer of MON goes to the device that WHO names (log entry 84, the model's choice). -/
def Obligations.MemoryRequests : Prop :=
  ∀ (p : Packet) (s : State),
    let pa := Packet.sec p
    let src := p.src.toNat
    s.accepts p = true → ringOff s = true → (s.dest src).bad = false →
    (s.open_ pa = true → s.poisoned pa = false → s.unraced { Packet.acc p with acq := true } (.hbm pa) 64 = true →
      ∃ t, exec (.rd p) s = .next t ∧ Took p { s with hb := t.hb, cp := t.cp, rate := t.rate, strong := t.strong } t ∧ RegsBut [oERLOST] s t ∧ Queued src (s.replyTo p 0x10 p.addr.toNat (s.peek pa 64)) s t)
    ∧ (s.still = true → s.open_ pa = true → p.pay.length = 72 →
      ∃ t, exec (.wr p) s = .next t ∧ (∀ j, j < 64 → t.peek (pa + j) 1 = if (Packet.word p 0).testBit j then [p.pay.getD (8 + j) 0] else s.peek (pa + j) 1)
        ∧ OneSector pa s t ∧ Took p { s with mem := t.mem, keyTag := t.keyTag, poison := t.poison, undo := t.undo, hb := t.hb } t)
    ∧ (∀ red k,
        let n := tyBytes k.ty
        let es := laneEnts p k
        ctlOf (Packet.word p 0) red = some k → s.still = true → s.open_ pa = true → s.poisoned pa = false → (∀ e ∈ es, e.off + n ≤ 64) →
        es.Pairwise (fun a b => a.off + n ≤ b.off ∨ b.off + n ≤ a.off) →
      ∃ t, exec (if red then .redPacket p else .atomPacket p) s = .next t
        ∧ (∀ e ∈ es, let old := leVal (s.peek (pa + e.off) n)
            t.peek (pa + e.off) n = if aopWrites k.op old e.c e.f then leBytes n (aopNew k.op k.ty old e.c e.f) else s.peek (pa + e.off) n)
        ∧ (∀ j, j < 64 → (∀ e ∈ es, j < e.off ∨ e.off + n ≤ j) → t.peek (pa + j) 1 = s.peek (pa + j) 1) ∧ OneSector pa s t
        ∧ (red = false → Queued src (s.replyTo p 0x11 p.addr.toNat (es.flatMap (fun e => leBytes n (leVal (s.peek (pa + e.off) n))))) s t))
    ∧ (∀ ta, Packet.word p 0 = 2 ^ 24 + 4 * 2 ^ 16 → p.pay.length = 8 → p.addr.toNat < 65536 → s.taskEntry p.gen.toNat p.addr.toNat = some ta →
        let v := leVal (s.peek ta 8)
        let n := (fld v 31 0 + 2 ^ 32 - 1) % 2 ^ 32
        v.testBit 33 = false → (v.testBit 32 = true → n ≠ 0) → s.open_ ta = true → s.poisoned ta = false → s.calm = true → s.mons = [] →
      ∃ t, exec (.taskDecrementPacket p) s = .next t ∧ t.peek ta 8 = leBytes 8 (n + (if v.testBit 32 then 2 ^ 32 else 0)) ∧ t.tills = s.tills
        ∧ OneSector ta s t)
    ∧ ∀ m, monOfPacket p = some m → s.poisoned m.pa = false → s.unraced (s.monAcc m) (.hbm m.pa) m.bytes = true →
        let v := leVal (s.peek m.pa m.bytes)
        ((monCond m v = true ∨ m.late s.ptb = true) → (s.dest m.dev).bad = false →
          ∃ t, exec (.mon p) s = .next t ∧ Took p { s with hb := t.hb, cp := t.cp, rate := t.rate, strong := t.strong } t ∧ RegsBut [oERLOST] s t
            ∧ Queued m.dev (wakePacket s m (monCond m v)) s t)
        ∧ (monCond m v = false → m.late s.ptb = false → s.monTable (s.homeSlice (locOf m.pa)) < Config.monEntries →
          ∃ t, exec (.mon p) s = .next t ∧ Took p { s with hb := t.hb, mons := t.mons, cp := t.cp, rate := t.rate, strong := t.strong } t
            ∧ RegsBut [oERLOST] s t ∧ t.mons = s.mons ++ [{ m with st := .armed, ack := none }])

/-- R96, R237 to R241: records and tiles from other packages. REC, and the notice of SNOT, are records of a handler node's till, with the
package that sent them as PARENT; a claim of an open deque that is not empty, while the escrow table has room, takes the record at HEAD into escrow
and answers it; any other claim is answered empty, and so is one whose record has no translation to local HBM, or is poisoned, which is recorded
while the deque and the escrow table stay as they are; ESCT notes the transfer, and ESCD adds 1 to the completion word and frees the entry, whose other fields stand. The die of such
a record is that of the message's number at its node (log entry 91), that SNOT counts as one and a refused message as none is log entry 33, all
the model's choice; the barrier descriptor that names the steal handler is the lowest of the
job's, else the lowest (log entry 31, the model's choice). -/
def Obligations.RecordsAndTiles : Prop :=
  ∀ (p : Packet) (s : State),
    let gen := p.gen.toNat
    let src := p.src.toNat
    let nid := p.addr.toNat % 2 ^ 24
    let die := s.msgDie gen nid
    s.accepts p = true → ringOff s = true → (s.dest src).bad = false →
    (s.takesRec gen nid = true → s.tillRoom gen die 1 = true →
      ∃ t, exec (.recPacket p) s = .next t ∧ Took p { s with hb := t.hb, tills := t.tills, nodes := t.nodes } t ∧ OneMsg gen nid s t
        ∧ t.tillBytes gen nid die = s.tillBytes gen nid die ++ [mkRec nid 0 src (p.pay.drop 8)])
    ∧ (s.takesRec gen nid = false → ∃ t, exec (.recPacket p) s = .next t ∧ Took p { s with cp := t.cp } t ∧ Counted 4 1 s t)
    ∧ (let valid := (List.range 256).filter s.fbValid
       (valid = [] → ∃ t, exec (.snot p) s = .next t ∧ Took p { s with cp := t.cp } t ∧ Counted 4 1 s t)
       ∧ ∀ b,
        let nid := fld (s.fbDesc b 0) 63 40
        let die := s.msgDie gen nid
        (valid.find? (fun b => (s.fb b).gen == gen)).or valid.head? = some b → s.takesRec gen nid = true → s.tillRoom gen die 1 = true →
      ∃ t, exec (.snot p) s = .next t ∧ OneMsg gen nid s t ∧ t.tillBytes gen nid die = s.tillBytes gen nid die
        ++ [mkRec nid 0 src (leBytes 8 (p.addr.toNat % 2 ^ 15) ++ leBytes 8 (Packet.word p 0) ++ leBytes 8 (Packet.word p 1) ++ leBytes 8 (Packet.word p 2 % 2))])
    ∧ (let dq := p.addr.toNat % 64
       let h := s.dqHead dq
       let isOpen : Bool := (s.dqCfg dq).testBit 0 && (s.dqCfg dq).testBit 2 && s.inPset (s.cpw (oDQ + 32 * dq + 24) % 2 ^ 10) src && s.dqCount dq != 0
       let slot := (List.range 256).find? (fun i => s.escSt i == 0)
       let nothing (cls : Nat) : Prop :=
         ∃ t, exec (.claim p) s = .next t ∧ Took p { s with cp := t.cp } t ∧ RegsBut [oERLOST] s t ∧ Counted cls 1 s t
           ∧ Queued src (s.replyTo p 0x12 (2 ^ 63 + dq * 2 ^ 32) []) s t
       (isOpen = false ∨ slot = none →
         ∃ t, exec (.claim p) s = .next t ∧ Took p s t ∧ Queued src (s.replyTo p 0x12 (2 ^ 63 + dq * 2 ^ 32) []) s t)
       ∧ (∀ e, isOpen = true → slot.isSome = true → s.dqPA dq h .read = .error e → nothing (if e.1 then 3 else 4))
       ∧ (∀ pa, isOpen = true → slot.isSome = true → s.dqPA dq h .read = .ok pa → s.poisoned pa = true → nothing 3)
       ∧ ∀ i pa, isOpen = true → slot = some i → s.dqPA dq h .read = .ok pa → s.poisoned pa = false →
           s.open_ pa = true → s.calm = true → (∀ e ∈ s.esc, e.back = false) → s.ptb < 2 ^ 64 →
         ∃ t, exec (.claim p) s = .next t ∧ t.dqHead dq = (h + 1) % 2 ^ 32 ∧ t.dqTail dq = s.dqTail dq
           ∧ t.escSt i = 1 ∧ fld (t.cpw (escOff i)) 14 0 = src ∧ fld (t.cpw (escOff i)) 31 26 = dq ∧ fld (t.cpw (escOff i)) 63 32 = h
           ∧ t.cpw (escOff i + 8) = s.ptb ∧ t.esc = { at_ := i, gen := gen, rec_ := s.peek pa 64 } :: s.esc ∧ t.mem = s.mem
           ∧ Queued src (s.replyTo p 0x12 (dq * 2 ^ 32 + h) (s.peek pa 64)) s t)
    ∧ (∀ i, s.escOf p = some i → s.escSt i = 1 →
        ∃ t, exec (.esct p) s = .next t ∧ Took p { s with cp := t.cp } t ∧ t.escSt i = 2 ∧ RegsBut [escOff i] s t)
    ∧ ∀ i e pa leaf, s.escOf p = some i → s.escSt i ≠ 3 → s.esc.find? (fun e => e.at_ == i) = some e →
        s.xlateCp (s.dqGen (fld (s.cpw (escOff i)) 31 26)) (leVal ((e.rec_.drop 8).take 8)) .write = .ok pa leaf → aperOf leaf = 0 → s.still = true →
        s.open_ pa = true → s.poisoned pa = false → pa % 8 = 0 →
        ∃ t, exec (.escd p) s = .next t ∧ t.escSt i = 0 ∧ t.esc = s.esc.filter (fun e => e.at_ != i)
          ∧ t.peek pa 8 = leBytes 8 (leVal (s.peek pa 8) + 1) ∧ OneSector pa s t ∧ RegsBut [escOff i] s t
          ∧ ∀ b, b ≠ 24 → b ≠ 25 → (t.cpw (escOff i)).testBit b = (s.cpw (escOff i)).testBit b

/-- R225, R227, R229, R240, R435, R525, R126, R127: the reply to a request of a warp fills the register that waits, ACTIVE lane by lane: RDR
from the sector, ATOMR with the old values in order, CLAIMR with 0 and its record in a till, or 1 when it is empty, ERRR with zero, and the
warp stops. WAKE ends the wait of await.mem and gives its predicate; that it comes to the device of WHO is the model's choice (log entry 84). -/
def Obligations.Replies : Prop :=
  ∀ (p : Packet) (s : State) (c wix d : Nat) (o : Op) (r : Req), s.accepts p = true → c < s.cores.length → Layable c wix s →
    let took (t : State) : Prop :=
      Took p { s with cores := t.cores, hb := t.hb, mem := t.mem, keyTag := t.keyTag, poison := t.poison, undo := t.undo } t
        ∧ OutsidePark c s t ∧ ((s.warp c wix).place.isSome = true → t.mem = s.mem) ∧ ∀ k, k ≠ c → t.core k = s.core k
    (Waits p c wix d o r s →
      (o.kind = .load ∨ o.kind = .atom → (o.acc = none ∨ s.calm = true) →
        ∃ t, exec (.rdr p) s = .next t ∧ Answered c wix d o r (fun q => loadVal q.sx ((p.pay.drop q.off).take q.n)) t ∧ took t)
      ∧ (o.kind = .atom → (o.acc = none ∨ s.calm = true) →
        ∃ t, exec (.atomr p) s = .next t
          ∧ Answered c wix d o r (fun q => leVal ((p.pay.drop (o.sz * r.lanes.findIdx (fun x => x == q))).take o.sz)) t ∧ took t)
      ∧ (p.addr.getLsbD 63 = true → ∃ t, exec (.claimr p) s = .next t ∧ Answered c wix d o r (fun _ => 1) t ∧ took t)
      ∧ (let gen := p.gen.toNat
         let nid := recNid p.pay
         let dies := s.servingDies gen
         let ticket := p.addr.toNat % 2 ^ 32
         let die := dies.getD (ticket % dies.length) 4
         p.addr.getLsbD 63 = false → s.tillRoom gen die 1 = true → (s.node gen nid).isSome = true → (s.dest p.src.toNat).bad = false →
        ∃ t, exec (.claimr p) s = .next t ∧ Answered c wix d o r (fun _ => 0) t
          ∧ t.tillBytes gen nid die = s.tillBytes gen nid die ++ [p.pay]
          ∧ Queued p.src.toNat (s.mkPacket gen p.src.toNat 0 0x08 0 (p.addr.toNat % 2 ^ 38) []) s t)
      ∧ (∀ w, o.kind = .load → ringOff s = true → (s.core c).warp? wix = some w → w.stopped = false →
        ∃ t, exec (.errr p) s = .next t ∧ Answered c wix d o r (fun _ => 0) t ∧ (t.warp c wix).stopped = true ∧ Counted 3 1 s t
          ∧ ∀ k, k ≠ c → t.core k = s.core k))
    ∧ ∀ w ls q sc,
        let a := p.addr.toNat
        fld a 23 15 = c → (if fld a 47 32 = 0 then supWix else fld a 31 24) = wix → (wix = supWix ∨ fld a 47 32 = (s.core c).gen) → (s.core c).warp? wix = some w →
        w.wait = .mem ls q sc → w.waitDev = some p.src.toNat → w.stopped = false → w.replay = none → q < w.preds.length →
        ∃ t, exec (.wake p) s = .next t ∧ took t ∧ (t.warp c wix).wait = .none ∧ (t.warp c wix).waitDev = none
          ∧ (∀ l, l < 32 → (t.warp c wix).pGet q l = if ls.getLsbD l then (Packet.word p 0).testBit 0 else w.pGet q l)
          ∧ (t.warp c wix).v = w.v ∧ (t.warp c wix).w = w.w

/-- R196, R225, R233, R234, R237, R499, R500, R531: barrier traffic is applied while its generation runs; while it does not it is held, and not
acknowledged. The root counts
an arrival that does not complete an episode; one that completes it releases every member that counts, with FREL, and its record gives the lags, the
earliest arrival and EPI; a member that is released inverts its phase word, whose next value the word in memory gives (log entry 70, the model's
choice); SDEC opens or closes the deques to claims; a
withdrawal counts a member out. ABRT ends a generation here: nothing of it runs, waits, watches or is queued any more; that a
core no longer has the generation, since its slots read as idle, is the model's choice (log entry 76). The arrivals of a
member count for its episodes in the order in which they come (log entry 100, the model's choice). -/
def Obligations.BarrierPacketsAndAborts : Prop :=
  ∀ (p : Packet) (s : State),
    let gen := p.gen.toNat
    let src := p.src.toNat
    let b := p.addr.toNat % 256
    let runs : Bool := p.gen == 0 || s.running gen
    s.accepts p = true → ringOff s = true →
    (∀ i, i ∈ [Instr.fbar p, .frel p, .sdec p, .fwdr p] → runs = false → Holds i p s)
    ∧ (runs = true → s.fbValid b = true → p.opc = 0x1A → (s.pset (fld (s.fbDesc b 1) 9 0)).contains src = true → (s.fb b).withdrawn.contains src = false →
        (s.fb b).lost.contains src = false → (∃ m ∈ s.fbLive b, m ≠ src ∧ ∀ a ∈ (s.fb b).arr, a.1 ≠ m) →
      ∃ t, exec (.fbar p) s = .next t ∧ Took p { s with fbars := t.fbars } t ∧ (t.fb b).arr = (s.fb b).arr ++ [(src, leVal (p.pay.take 8))]
        ∧ (t.fb b).epi = (s.fb b).epi)
    ∧ (∀ e,
        let x := s.fb b
        let live := s.fbLive b
        let all := s.pset (fld (s.fbDesc b 1) 9 0)
        let arr := x.arr ++ [(src, leVal (p.pay.take 8))]
        let g := if x.gen = 0 then gen else x.gen
        let va := s.fbDesc b 4
        let lags := all.map (fun m => (m, match arr.find? (fun a => a.1 == m && live.contains m) with | some a => min 0xFFFF ((a.2 - e) / 64) | none => 0xFFFF))
        let status := if x.lost ≠ [] then 2 else if x.withdrawn ≠ [] then 1 else 0
        let k := (x.epi + 1) % 2 ^ 32
        runs = true → s.fbValid b = true → p.opc = 0x1A → live.contains src = true → (∀ m ∈ live, (arr.filter (fun a => a.1 == m)).length = 1) →
        (∃ a ∈ arr, a.1 ∈ live ∧ a.2 = e) → (∀ a ∈ arr, a.1 ∈ live → e ≤ a.2) →
        (∀ m ∈ live, s.memberSen b m = false ∧ (s.dest m).bad = false) →
        (va = 0 ∨ (s.still = true ∧ ∃ pa, s.recordAt g va pa (episodeWords x.epi e lags))) →
      ∃ t, exec (.fbar p) s = .next t
        ∧ Took p { s with fbars := t.fbars, hb := t.hb, mem := t.mem, keyTag := t.keyTag, poison := t.poison, undo := t.undo } t
        ∧ (t.fb b).epi = x.epi + 1 ∧ (t.fb b).arr = arr.filter (fun a => !live.contains a.1) ∧ (t.fb b).lags = (lags :: x.lags).take 64
        ∧ (∀ m ∈ live, Queued m (s.mkPacket g m 2 0x1B 0 b (leBytes 8 (k * 2 ^ 32 + status * 2 ^ 8 + k % 2))) s t)
        ∧ (va = 0 → t.mem = s.mem)
        ∧ ∀ pa, va ≠ 0 → s.recordAt g va pa (episodeWords x.epi e lags) →
            (∀ w ∈ episodeWords x.epi e lags, t.peek (pa + w.1) w.2.length = w.2)
            ∧ ∀ qa, (∀ w ∈ episodeWords x.epi e lags, locOf qa / 64 ≠ locOf (pa + w.1) / 64) → t.peek qa 1 = s.peek qa 1)
    ∧ (∀ pa leaf, runs = true → s.fbValid b = true → p.opc = 0x1B → s.xlateCp (s.fb b).gen (s.fbDesc b 2) .write = .ok pa leaf → aperOf leaf = 0 →
        s.still = true → s.open_ pa = true → s.poisoned pa = false → pa % 8 = 0 →
      ∃ t, exec (.frel p) s = .next t ∧ t.peek pa 8 = leBytes 8 (phaseNext (leVal (s.peek pa 8)) (fld (leVal (p.pay.take 8)) 15 8)) ∧ OneSector pa s t
        ∧ (t.fb b).rels = (s.fb b).rels + 1)
    ∧ (∀ bits, bits = leVal (p.pay.take 8) → runs = true → s.fbValid b = true → p.opc = 0x1C → bits % 4 ≠ 0 →
      ∃ t, exec (.sdec p) s = .next t ∧ t.mem = s.mem ∧ t.fbars = s.fbars
        ∧ ∀ i, i < 64 → (t.dqCfg i).testBit 2 = if (s.fbDesc b 6).testBit i && (s.dqCfg i).testBit 0 then bits.testBit 0 else (s.dqCfg i).testBit 2)
    ∧ (runs = true → s.fbValid b = true → p.opc = 0x23 → (s.pset (fld (s.fbDesc b 1) 9 0)).contains src = true →
        (s.fb b).withdrawn.contains src = false → (s.fb b).lost.contains src = false → (∃ m ∈ s.fbLive b, m ≠ src ∧ ∀ a ∈ (s.fb b).arr, a.1 ≠ m) →
      ∃ t, exec (.fwdr p) s = .next t ∧ Took p { s with fbars := t.fbars, cp := t.cp } t ∧ Counted 6 1 s t
        ∧ (t.fb b).withdrawn = src :: (s.fb b).withdrawn ∧ src ∉ t.fbLive b)
    ∧ (let g := p.addr.toNat % 2 ^ 16
       fld p.addr.toNat 31 24 ≠ 2 → g ≠ 0 → s.lossy g = [] → (∀ x ∈ s.grids, x.gen ≠ g) → (∀ d ∈ s.depQ, fld (s.cpw (oDPCFG + 8 * d.page)) 63 48 ≠ g) →
        (∀ x ∈ s.fbars, x.gen ≠ g) → (∀ i, i < 256 → s.escSt i = 0) → (∀ m ∈ s.mons, m.spilled = false ∧ m.st ≠ .deferred) →
      ∃ t, exec (.abrt p) s = .next t ∧ t.aborted.contains g = true ∧ Counted 7 1 s t ∧ t.mem = s.mem
        ∧ (∀ c, c < s.cores.length → (t.core c).gen ≠ g
            ∧ ((s.core c).gen = g → (t.core c).warps = (s.core c).warps.filter Warp.sup ∧ (t.core c).groups = [] ∧ (t.core c).copies = [])
            ∧ ((s.core c).gen ≠ g → (t.core c).warps = (s.core c).warps ∧ (t.core c).groups = (s.core c).groups))
        ∧ (∀ x ∈ t.tills, x.gen ≠ g) ∧ (∀ x ∈ t.mons, x.gen ≠ g) ∧ (∀ x ∈ t.preempt, x.gen ≠ g) ∧ (∀ x ∈ t.held, x.1 ≠ g)
        ∧ (∀ i, i < 4096 → fld (s.cpw (oDPCFG + 8 * i)) 63 48 = g → (t.cpw (oDPCFG + 8 * i)).testBit 0 = false)
        ∧ ∀ i, i < 64 → s.dqGen i = g → (t.dqCfg i).testBit 0 = false)

/-- R179, R184, R185, R205, R207, R210, R211, R509, R514: an entry of the timetable that has no reason against it is held in place of the one of its
SWT and core set; another is refused with a reason against it, which is answered and recorded; that of several the lowest is given is the
model's choice (log entry 30), and so is that a replacement is accepted while 512 are held (log entry 106); a withdrawal takes the reservation out.
A notice of pre-emption, which carries no PSN, announces a slot of its source, then its end, or takes the end back. A timing message, which carries
none either, of a package that is not this one's parent is answered; how exchanges are made is the model's choice (log entry 29). -/
def Obligations.Timetable : Prop :=
  (∀ (p : Packet) (s : State), s.accepts p = true → ringOff s = true →
    let e := fitBytes 64 p.pay
    let u := s.pruneTable
    let why := u.entryReason e
    (why = 0 → entWdr e = false →
      ∃ t, exec (.tte p) s = .next t ∧ Took p { s with table := t.table } t ∧ t.table = u.table.filter (fun x => !sameEntry e x) ++ [e])
    ∧ (∀ x, why = 0 → entWdr e = true → u.table.find? (withdraws e) = some x → s.preempt = [] →
      ∃ t, exec (.tte p) s = .next t ∧ Took p { s with table := t.table } t ∧ t.table = u.table.filter (· != x))
    ∧ (why ≠ 0 → (s.dest p.src.toNat).bad = false →
      ∃ t, exec (.tte p) s = .next t ∧ Took p { s with table := u.table, cp := t.cp } t ∧ Counted 5 1 s t
        ∧ Queued p.src.toNat (s.mkPacket 0 p.src.toNat 2 0x1F 0 why (leBytes 8 (entSwt e) ++ leBytes 8 (entW e 1) ++ leBytes 8 (entW e 2))) s t)
    ∧ (∃ t, exec (.ttr p) s = .next t ∧ Took p s t ∧ .note 3 (p.addr.toNat % 16) ∈ t.outs))
  ∧ ∀ (p : Packet) (s : State), s.stop = none → s.noDark = true → p.dst.toNat = s.dev →
    (p.src.toNat = fld (s.cpw oPTBSTAT) 47 32 → exec (.ptpm p) s = .next s)
    ∧ (p.src.toNat ≠ fld (s.cpw oPTBSTAT) 47 32 →
        ∃ t, exec (.ptpm p) s = .next t
          ∧ t = { s with fresh := t.fresh, dests := t.dests, ports := t.ports, outs := t.outs, agenda := t.agenda }
          ∧ (s.pathTo p.src.toNat = true → ∃ q rest, t.outs = rest ++ .packet q :: s.outs ∧ q.opc = 0x20 ∧ q.dst = p.src))
    ∧ (let gen := p.addr.toNat % 2 ^ 16
       let v := Packet.word p 0
       ((s.reservation gen = none ∨ s.noCp = true) → exec (.pren p) s = .next s)
       ∧ ((s.reservation gen).isSome = true → s.noCp = false →
          (v = 0 → ∃ t, exec (.pren p) s = .next t ∧ t = { s with preempt := t.preempt } ∧ t.preempt.length = s.preempt.length
              ∧ ∀ q ∈ t.preempt, q.gen = gen → q.u = none)
          ∧ (s.ptb < v → (∀ q ∈ s.preempt, q.gen = gen → q.u.isSome = true ∨ q.src ≠ p.src.toNat) →
            exec (.pren p) s = .next { s with preempt := s.preempt ++ [{ gen := gen, job := fld p.addr.toNat 47 16, t := v, src := p.src.toNat }] })
          ∧ ∀ q, s.ptb < v → s.preempt = [q] → q.gen = gen → q.u = none → q.src = p.src.toNat →
            exec (.pren p) s = .next { s with preempt := [{ q with u := some v }] }))
end

