-- ==== Sys2Proof/Laws/Cores.lean ====
section
/-! SUPPORT. What the changes of a core, a warp, a group and a slice do, and what they leave alone. -/

namespace Sys2Proof.Machine

/-! ### Entries of a list -/

@[simp] theorem modNth_length {α : Type} (l : List α) (k : Nat) (f : α → α) : (modNth l k f).length = l.length := by
  unfold modNth
  split <;> simp

theorem modNth_getElem? {α : Type} (l : List α) (k : Nat) (f : α → α) (j : Nat) :
    (modNth l k f)[j]? = if k = j then l[j]?.map f else l[j]? := by
  unfold modNth
  split
  · next x h =>
    by_cases hk : k = j
    · subst hk
      have : k < l.length := by
        by_contra hc
        rw [List.getElem?_eq_none (by omega)] at h
        cases h
      rw [List.getElem?_eq_getElem this, Option.some.injEq] at h
      simp [this, h]
    · simp [hk]
  · next h =>
    by_cases hk : k = j
    · subst hk; simp [h]
    · simp [hk]

theorem modNth_getD {α : Type} (l : List α) (k : Nat) (f : α → α) (j : Nat) (d : α) :
    (modNth l k f).getD j d = if k = j ∧ j < l.length then f (l.getD j d) else l.getD j d := by
  simp only [List.getD_eq_getElem?_getD, modNth_getElem?]
  by_cases hk : k = j
  · by_cases hj : j < l.length
    · simp [hk, hj]
    · simp [hk, hj]
  · simp [hk]

/-! ### Cores -/

theorem State.core_updCore (s : State) (c k : Nat) (f : Core → Core) :
    (s.updCore c f).core k = if c = k ∧ k < s.cores.length then f (s.core k) else s.core k := by
  exact modNth_getD s.cores c f k {}

@[simp] theorem State.cores_length_updCore (s : State) (c : Nat) (f : Core → Core) :
    (s.updCore c f).cores.length = s.cores.length := by
  simp [State.updCore]

/-- A core that holds a warp is one of the machine's. -/
theorem State.core_lt_of_warp {s : State} {c wix : Nat} (h : ((s.core c).warp? wix).isSome = true) : c < s.cores.length := by
  by_contra hc
  simp only [State.core, List.getD_eq_getElem?_getD, List.getElem?_eq_none (by omega : s.cores.length ≤ c)] at h
  simp [Core.warp?] at h

theorem Core.warp?_updWarp (k : Core) (wix j : Nat) (f : Warp → Warp) (hf : ∀ w, (f w).wix = w.wix) :
    (k.updWarp wix f).warp? j = (k.warp? j).map (fun w => if w.wix == wix then f w else w) := by
  simp only [Core.warp?, Core.updWarp, List.find?_map]
  congr 1
  congr 1
  funext w
  simp only [Function.comp]
  split <;> simp_all

/-- The warp after a change of it. -/
theorem State.warp_updWarp (s : State) (c wix : Nat) (f : Warp → Warp) (hf : ∀ w, (f w).wix = w.wix)
    (h : ((s.core c).warp? wix).isSome = true) :
    (s.updWarp c wix f).warp c wix = f (s.warp c wix) := by
  have hc := State.core_lt_of_warp h
  obtain ⟨w, hw⟩ := Option.isSome_iff_exists.mp h
  have hx : w.wix = wix := by
    have := List.find?_some hw
    simpa using this
  simp [State.warp, State.updWarp, State.core_updCore, hc, Core.warp?_updWarp _ _ _ _ hf, hw, hx]

theorem State.warp?_updWarp_isSome (s : State) (c wix d j : Nat) (f : Warp → Warp) (hf : ∀ w, (f w).wix = w.wix) :
    (((s.updWarp c wix f).core d).warp? j).isSome = ((s.core d).warp? j).isSome := by
  simp only [State.updWarp, State.core_updCore]
  split
  · simp [Core.warp?_updWarp _ _ _ _ hf]
  · rfl

/-- Another warp is not changed. -/
theorem State.warp?_updWarp_ne (s : State) (c wix d j : Nat) (f : Warp → Warp) (hf : ∀ w, (f w).wix = w.wix) (h : d ≠ c ∨ j ≠ wix) :
    ((s.updWarp c wix f).core d).warp? j = (s.core d).warp? j := by
  simp only [State.updWarp, State.core_updCore]
  split
  · next hc =>
    have hj : j ≠ wix := by
      rcases h with h | h
      · exact absurd hc.1.symm h
      · exact h
    rw [Core.warp?_updWarp _ _ _ _ hf]
    cases hw : (s.core d).warp? j with
    | none => rfl
    | some w =>
      have hx : w.wix = j := by
        have := List.find?_some hw
        simpa using this
      simp [hx, hj]
  · rfl

/-- Two changes of one warp are one. -/
theorem State.updWarp_updWarp (s : State) (c wix : Nat) (f g : Warp → Warp) (hf : ∀ w, (f w).wix = w.wix) :
    (s.updWarp c wix f).updWarp c wix g = s.updWarp c wix (fun w => g (f w)) := by
  simp only [State.updWarp, State.updCore]
  congr 1
  apply List.ext_getElem?
  intro j
  simp only [modNth_getElem?]
  split
  · cases s.cores[j]? with
    | none => rfl
    | some k =>
      simp only [Option.map_some, Core.updWarp, List.map_map]
      congr 2
      apply List.map_congr_left
      intro w _
      simp only [Function.comp]
      by_cases h : (w.wix == wix) = true
      · simp [h, hf]
      · simp [h]
  · rfl

/-- A change of a core leaves everything else of the package alone. -/
theorem State.updCore_eq (s : State) (c : Nat) (f : Core → Core) : s.updCore c f = { s with cores := (s.updCore c f).cores } := rfl

theorem State.group_updWarp (s : State) (c wix d gid : Nat) (f : Warp → Warp) :
    (s.updWarp c wix f).group d gid = s.group d gid := by
  simp only [State.group, State.updWarp, State.core_updCore]
  split <;> rfl

theorem State.group_updSlice (s : State) (c sl d gid : Nat) (f : Slice → Slice) :
    (s.updSlice c sl f).group d gid = s.group d gid := by
  simp only [State.group, State.updSlice, State.core_updCore]
  split <;> rfl

theorem State.sp_updWarp (s : State) (c wix d : Nat) (f : Warp → Warp) :
    ((s.updWarp c wix f).core d).sp = (s.core d).sp := by
  simp only [State.updWarp, State.core_updCore]
  split <;> rfl

theorem State.sp_updSlice (s : State) (c sl d : Nat) (f : Slice → Slice) :
    ((s.updSlice c sl f).core d).sp = (s.core d).sp := by
  simp only [State.updSlice, State.core_updCore]
  split <;> rfl

theorem State.warp?_updSlice (s : State) (c sl d j : Nat) (f : Slice → Slice) :
    ((s.updSlice c sl f).core d).warp? j = (s.core d).warp? j := by
  simp only [State.updSlice, State.core_updCore]
  split <;> rfl

theorem State.warp_updSlice (s : State) (c sl d j : Nat) (f : Slice → Slice) :
    (s.updSlice c sl f).warp d j = s.warp d j := by
  simp [State.warp, State.warp?_updSlice]

end Sys2Proof.Machine
end

