-- ==== Sys2Proof/Laws/Sparse.lean ====
section
/-! SUPPORT. What reading and writing a sparse map do, and that every write keeps the canonical form. -/

namespace Sys2Proof.Machine

variable {w : Nat}

theorem SMap.get_ins (k : Nat) (v : BitVec w) (m : SMap w) (h : ∀ p ∈ m, p.1 ≠ k) (j : Nat) :
    SMap.get (SMap.ins k v m) j = if k = j then v else SMap.get m j := by
  induction m with
  | nil => simp [SMap.ins, SMap.get]
  | cons p t ih =>
    obtain ⟨a, x⟩ := p
    have hp : a ≠ k := h (a, x) (by simp)
    have ht : ∀ p ∈ t, p.1 ≠ k := fun p hp => h p (by simp [hp])
    simp only [SMap.ins]
    split
    · simp [SMap.get]
    · simp only [SMap.get, ih ht]
      split <;> split <;> simp_all

theorem SMap.get_erase (m : SMap w) (k j : Nat) :
    SMap.get (SMap.erase m k) j = if k = j then 0 else SMap.get m j := by
  induction m with
  | nil => simp [SMap.erase, SMap.get]
  | cons p t ih =>
    obtain ⟨a, x⟩ := p
    simp only [SMap.erase] at ih
    simp only [SMap.erase, List.filter_cons, bne_iff_ne, ne_eq]
    by_cases hak : a = k
    · subst hak
      simp only [not_true_eq_false, if_false, ih, SMap.get]
      split <;> rfl
    · simp only [hak, not_false_eq_true, if_true, SMap.get, ih]
      split <;> split <;> simp_all

/-- Reading a key after a write. -/
theorem SMap.get_set (m : SMap w) (k : Nat) (v : BitVec w) (j : Nat) :
    SMap.get (SMap.set m k v) j = if k = j then v else SMap.get m j := by
  unfold SMap.set
  split
  · next h => simp [SMap.get_erase, h]
  · rw [SMap.get_ins _ _ _ (by simp [SMap.erase]), SMap.get_erase]
    split <;> rfl

/-- Every entry is non-zero and its key is smaller than those after it. -/
theorem SMap.wf_iff (m : SMap w) :
    m.wf = true ↔ m.Pairwise (fun p q => p.1 < q.1) ∧ ∀ p ∈ m, p.2 ≠ 0 := by
  induction m with
  | nil => simp [SMap.wf]
  | cons p t ih =>
    obtain ⟨a, x⟩ := p
    cases t with
    | nil => simp [SMap.wf]
    | cons q u =>
      obtain ⟨b, y⟩ := q
      simp only [SMap.wf, Bool.and_eq_true, bne_iff_ne, decide_eq_true_eq, ih, List.pairwise_cons, List.mem_cons,
        forall_eq_or_imp]
      constructor
      · rintro ⟨⟨h1, h2⟩, ⟨h3, h4⟩, h5, h6⟩
        exact ⟨⟨⟨h2, fun p hp => Nat.lt_trans h2 (h3 p hp)⟩, h3, h4⟩, h1, h5, h6⟩
      · rintro ⟨⟨⟨h1, _⟩, h2, h3⟩, h4, h5, h6⟩
        exact ⟨⟨h4, h1⟩, ⟨h2, h3⟩, h5, h6⟩

theorem SMap.erase_wf (m : SMap w) (k : Nat) (h : m.wf = true) : (SMap.erase m k).wf = true := by
  rw [SMap.wf_iff] at *
  exact ⟨h.1.filter _, fun p hp => h.2 p (List.mem_filter.mp hp).1⟩

theorem SMap.mem_ins (k : Nat) (v : BitVec w) (m : SMap w) (p : Nat × BitVec w) :
    p ∈ SMap.ins k v m ↔ p = (k, v) ∨ p ∈ m := by
  induction m with
  | nil => simp [SMap.ins]
  | cons q t ih =>
    obtain ⟨a, x⟩ := q
    simp only [SMap.ins]
    split
    · simp
    · simp only [List.mem_cons, ih]; tauto

theorem SMap.ins_wf (k : Nat) (v : BitVec w) (m : SMap w) (hv : v ≠ 0) (hk : ∀ p ∈ m, p.1 ≠ k) (h : m.wf = true) :
    (SMap.ins k v m).wf = true := by
  rw [SMap.wf_iff] at *
  refine ⟨?_, fun p hp => ?_⟩
  · have h1 := h.1
    clear h
    induction m with
    | nil => simp [SMap.ins]
    | cons q t ih =>
      obtain ⟨a, x⟩ := q
      have ha : a ≠ k := hk (a, x) (by simp)
      rw [List.pairwise_cons] at h1
      simp only [SMap.ins]
      split
      · next hlt =>
        rw [List.pairwise_cons]
        refine ⟨fun p hp => ?_, List.pairwise_cons.mpr h1⟩
        rcases List.mem_cons.mp hp with rfl | hp
        · exact hlt
        · exact Nat.lt_trans hlt (h1.1 p hp)
      · rw [List.pairwise_cons]
        refine ⟨fun p hp => ?_, ih (fun p hp => hk p (by simp [hp])) h1.2⟩
        rcases (SMap.mem_ins k v t p).mp hp with rfl | hp
        · simp only; omega
        · exact h1.1 p hp
  · rcases (SMap.mem_ins k v m p).mp hp with rfl | hp
    · exact hv
    · exact h.2 p hp

/-- A write keeps the canonical form. -/
theorem SMap.set_wf (m : SMap w) (k : Nat) (v : BitVec w) (h : m.wf = true) : (SMap.set m k v).wf = true := by
  unfold SMap.set
  split
  · exact SMap.erase_wf m k h
  · next hv => exact SMap.ins_wf k v _ hv (by simp [SMap.erase]) (SMap.erase_wf m k h)

theorem SMap.setN_wf (vs : List (BitVec w)) : ∀ (m : SMap w) (k : Nat), m.wf = true → (SMap.setN m k vs).wf = true := by
  induction vs with
  | nil => intro m k h; exact h
  | cons v t ih => intro m k h; exact ih _ _ (SMap.set_wf m k v h)

theorem SMap.setIf_wf (vs : List (Option (BitVec w))) :
    ∀ (m : SMap w) (k : Nat), m.wf = true → (SMap.setIf m k vs).wf = true := by
  induction vs with
  | nil => intro m k h; exact h
  | cons v t ih =>
    intro m k h
    cases v with
    | none => exact ih _ _ h
    | some x => exact ih _ _ (SMap.set_wf m k x h)

/-- Reading a key after a run of writes. -/
theorem SMap.get_setN (vs : List (BitVec w)) :
    ∀ (m : SMap w) (k j : Nat), SMap.get (SMap.setN m k vs) j = if k ≤ j then (vs[j - k]?).getD (SMap.get m j) else SMap.get m j := by
  induction vs with
  | nil => intro m k j; simp [SMap.setN]
  | cons v t ih =>
    intro m k j
    simp only [SMap.setN, ih, SMap.get_set]
    by_cases h1 : k + 1 ≤ j
    · have h2 : k ≤ j := by omega
      have h3 : ¬ k = j := by omega
      have h4 : j - k = (j - (k + 1)) + 1 := by omega
      simp [h1, h2, h3, h4]
    · by_cases h2 : k = j
      · subst h2; simp
      · have h3 : ¬ k ≤ j := by omega
        simp [h1, h2, h3]

theorem SMap.getN_length (m : SMap w) (n : Nat) : ∀ k, (SMap.getN m n k).length = n := by
  induction n with
  | zero => intro k; rfl
  | succ n ih => intro k; simp [SMap.getN, ih]

theorem SMap.getN_eq (m : SMap w) (n : Nat) : ∀ k, SMap.getN m n k = (List.range n).map (fun i => SMap.get m (k + i)) := by
  induction n with
  | zero => intro k; rfl
  | succ n ih =>
    intro k
    simp only [SMap.getN, ih, List.range_succ_eq_map, List.map_cons, List.map_map]
    congr 1
    apply List.map_congr_left
    intro i _
    simp only [Function.comp]
    congr 1
    omega

end Sys2Proof.Machine
end

