-- ==== Sys2Proof/Laws/Registers.lean ====
section
/-! SUPPORT. What the writes of lane registers, scalar registers and predicates do to each register, lane by lane. -/

namespace Sys2Proof.Machine

/-! ### Masks -/

theorem mem_maskLanes (m : Mask) (l : Nat) : l ∈ maskLanes m ↔ l < 32 ∧ m.getLsbD l = true := by
  simp [maskLanes, lanes, List.mem_filter]

theorem maskLanes_nodup (m : Mask) : (maskLanes m).Nodup := List.Nodup.filter _ List.nodup_range

theorem maskOf_bit (p : Nat → Bool) (l : Nat) (h : l < 32) : (maskOf p).getLsbD l = p l := by
  have key : ∀ n, (List.range n).foldl (fun a l => if p l then a + 2 ^ l else a) 0 < 2 ^ n
      ∧ ∀ k, k < n → ((List.range n).foldl (fun a l => if p l then a + 2 ^ l else a) 0).testBit k = p k := by
    intro n
    induction n with
    | zero => simp
    | succ n ih =>
      obtain ⟨hlt, hb⟩ := ih
      rw [List.range_succ, List.foldl_append]
      simp only [List.foldl_cons, List.foldl_nil]
      refine ⟨?_, fun k hk => ?_⟩
      · rw [Nat.pow_succ]; split <;> omega
      · by_cases hkn : k = n
        · subst hkn
          split
          · next hp =>
            rw [Nat.add_comm, Nat.testBit_two_pow_add_eq, Nat.testBit_lt_two_pow hlt, hp]
            rfl
          · next hp =>
            rw [Nat.testBit_lt_two_pow hlt]
            simpa using hp
        · have hk' : k < n := by omega
          split
          · rw [Nat.add_comm, Nat.testBit_two_pow_add_gt hk', hb k hk']
          · exact hb k hk'
  simp only [maskOf, lanes, BitVec.getLsbD_ofNat, h, decide_true, Bool.true_and]
  exact (key 32).2 l h

/-! ### v registers -/

theorem Warp.vGet_vSet (w : Warp) (r l v q m : Nat) (hl : l < 32) (hm : m < 32) :
    (w.vSet r l v).vGet q m = if r = q ∧ l = m then v % 2 ^ 32 else w.vGet q m := by
  simp only [Warp.vGet, Warp.vSet, SMap.get_set]
  by_cases h : r = q ∧ l = m
  · simp [h.1, h.2]
  · have : ¬ 32 * r + l = 32 * q + m := by omega
    simp [h, this]

theorem Warp.vEmpty_vSet (w : Warp) (r l v q : Nat) (h : l < 32 → (w.vEmpty r).getLsbD l = false) :
    (w.vSet r l v).vEmpty q = w.vEmpty q := by
  simp only [Warp.vEmpty, Warp.vSet, SMap.get_set]
  split
  · next hq =>
    subst hq
    apply BitVec.eq_of_getLsbD_eq
    intro i hi
    simp only [BitVec.getLsbD_and, BitVec.getLsbD_not, hi, decide_true, Bool.true_and, BitVec.getLsbD_ofNat, Nat.testBit_two_pow]
    by_cases hli : l = i
    · have := h (by omega)
      simp only [Warp.vEmpty] at this
      simp [hli] at this ⊢
      exact this
    · simp [hli]
  · rfl

/-- What a write of a v register leaves alone. -/
theorem Warp.vSet_frame (w : Warp) (r l v : Nat) : w.vSet r l v = { w with v := (w.vSet r l v).v, vE := (w.vSet r l v).vE } := rfl
theorem Warp.wSet_frame (w : Warp) (r v : Nat) : w.wSet r v = { w with w := (w.wSet r v).w, wE := (w.wSet r v).wE } := rfl

theorem Warp.vSetN_frame (n : Nat) : ∀ (w : Warp) (r l v : Nat),
    w.vSetN r l n v = { w with v := (w.vSetN r l n v).v, vE := (w.vSetN r l n v).vE } := by
  induction n with
  | zero => intro w r l v; rfl
  | succ n ih => intro w r l v; rw [Warp.vSetN, ih]; rfl

theorem Warp.wSetN_frame (n : Nat) : ∀ (w : Warp) (r v : Nat),
    w.wSetN r n v = { w with w := (w.wSetN r n v).w, wE := (w.wSetN r n v).wE } := by
  induction n with
  | zero => intro w r v; rfl
  | succ n ih => intro w r v; rw [Warp.wSetN, ih]; rfl

/-- n consecutive v registers of a lane after a write. -/
theorem Warp.vGet_vSetN (n : Nat) : ∀ (w : Warp) (r l v q m : Nat), l < 32 → m < 32 →
    (w.vSetN r l n v).vGet q m = if l = m ∧ r ≤ q ∧ q < r + n then v / 2 ^ (32 * (q - r)) % 2 ^ 32 else w.vGet q m := by
  induction n with
  | zero =>
    intro w r l v q m _ _
    rw [if_neg (by omega), Warp.vSetN]
  | succ n ih =>
    intro w r l v q m hl hm
    rw [Warp.vSetN, ih _ _ _ _ _ _ hl hm, Warp.vGet_vSet _ _ _ _ _ _ hl hm]
    by_cases hlm : l = m
    · by_cases hr : r = q
      · have h1 : ¬ (l = m ∧ r + 1 ≤ q ∧ q < r + 1 + n) := by omega
        simp [hr, hlm]
      · by_cases h2 : r + 1 ≤ q ∧ q < r + 1 + n
        · have h3 : r ≤ q ∧ q < r + (n + 1) := by omega
          have h4 : q - r = (q - (r + 1)) + 1 := by omega
          simp only [hlm, h2, h3, and_self, if_true, h4, Nat.mul_add, Nat.mul_one, Nat.pow_add, ← Nat.div_div_eq_div_mul]
          congr 1
          rw [Nat.div_right_comm]
        · rw [if_neg (by omega), if_neg (by omega), if_neg (by omega)]
    · simp [hlm]

theorem Warp.vEmpty_vSetN (n : Nat) : ∀ (w : Warp) (r l v q : Nat),
    (∀ k, k < n → l < 32 → (w.vEmpty (r + k)).getLsbD l = false) → (w.vSetN r l n v).vEmpty q = w.vEmpty q := by
  induction n with
  | zero => intro w r l v q _; rfl
  | succ n ih =>
    intro w r l v q h
    have h0 : l < 32 → (w.vEmpty r).getLsbD l = false := fun hl => by simpa using h 0 (by omega) hl
    rw [Warp.vSetN, ih, Warp.vEmpty_vSet _ _ _ _ _ h0]
    intro k hk hl
    rw [Warp.vEmpty_vSet _ _ _ _ _ h0]
    have := h (k + 1) (by omega) hl
    rw [show r + 1 + k = r + (k + 1) by omega]
    exact this

/-! ### w registers -/

theorem Warp.wGet_wSet (w : Warp) (r v q : Nat) : (w.wSet r v).wGet q = if r = q then v % 2 ^ 32 else w.wGet q := by
  simp only [Warp.wGet, Warp.wSet, SMap.get_set]
  split <;> simp

theorem Warp.wE_wSet (w : Warp) (r v : Nat) (h : w.wE.getLsbD r = false) : (w.wSet r v).wE = w.wE := by
  simp only [Warp.wSet]
  apply BitVec.eq_of_getLsbD_eq
  intro i hi
  simp only [BitVec.getLsbD_and, BitVec.getLsbD_not, hi, decide_true, Bool.true_and, BitVec.getLsbD_ofNat, Nat.testBit_two_pow]
  by_cases hri : r = i
  · subst hri; simp [h]
  · simp [hri]

theorem Warp.wGet_wSetN (n : Nat) : ∀ (w : Warp) (r v q : Nat),
    (w.wSetN r n v).wGet q = if r ≤ q ∧ q < r + n then v / 2 ^ (32 * (q - r)) % 2 ^ 32 else w.wGet q := by
  induction n with
  | zero =>
    intro w r v q
    rw [if_neg (by omega), Warp.wSetN]
  | succ n ih =>
    intro w r v q
    rw [Warp.wSetN, ih, Warp.wGet_wSet]
    by_cases hr : r = q
    · simp [hr]
    · by_cases h2 : r + 1 ≤ q ∧ q < r + 1 + n
      · have h3 : r ≤ q ∧ q < r + (n + 1) := by omega
        have h4 : q - r = (q - (r + 1)) + 1 := by omega
        simp only [h2, h3, and_self, if_true, h4, Nat.mul_add, Nat.mul_one, Nat.pow_add, ← Nat.div_div_eq_div_mul]
        congr 1
        rw [Nat.div_right_comm]
      · rw [if_neg (by omega), if_neg (by omega), if_neg (by omega)]

theorem Warp.wE_wSetN (n : Nat) : ∀ (w : Warp) (r v : Nat),
    (∀ k, k < n → w.wE.getLsbD (r + k) = false) → (w.wSetN r n v).wE = w.wE := by
  induction n with
  | zero => intro w r v _; rfl
  | succ n ih =>
    intro w r v h
    have h0 := h 0 (by omega)
    simp only [Nat.add_zero] at h0
    rw [Warp.wSetN, ih, Warp.wE_wSet _ _ _ h0]
    intro k hk
    rw [Warp.wE_wSet _ _ _ h0, show r + 1 + k = r + (k + 1) by omega]
    exact h (k + 1) (by omega)

/-! ### A write of the lanes of a mask -/

/-- Lanes of a list written in turn. -/
theorem Warp.foldl_vSetN (r n : Nat) (val : Nat → Nat) (ls : List Nat) : ∀ (w : Warp), (∀ l ∈ ls, l < 32) → ls.Nodup →
    let w' := ls.foldl (fun (w : Warp) l => w.vSetN r l n (val l)) w
    w' = { w with v := w'.v, vE := w'.vE }
    ∧ (∀ q m, m < 32 → w'.vGet q m = if m ∈ ls ∧ r ≤ q ∧ q < r + n then val m / 2 ^ (32 * (q - r)) % 2 ^ 32 else w.vGet q m)
    ∧ ((∀ k, k < n → ∀ l ∈ ls, (w.vEmpty (r + k)).getLsbD l = false) → ∀ q, w'.vEmpty q = w.vEmpty q) := by
  induction ls with
  | nil => intro w _ _; simp
  | cons l t ih =>
    intro w hls hnd
    have hl : l < 32 := hls l (by simp)
    obtain ⟨hnot, hnd'⟩ := List.nodup_cons.mp hnd
    obtain ⟨h1, h2, h3⟩ := ih (w.vSetN r l n (val l)) (fun m hm => hls m (by simp [hm])) hnd'
    simp only [List.foldl_cons]
    refine ⟨?_, fun q m hm => ?_, fun he q => ?_⟩
    · rw [h1, Warp.vSetN_frame]
    · rw [h2 q m hm, Warp.vGet_vSetN _ _ _ _ _ _ _ hl hm]
      by_cases hlm : l = m
      · subst hlm
        simp [hnot]
      · have : ¬ m = l := fun h => hlm h.symm
        simp [hlm, this]
    · have hv : ∀ q, (w.vSetN r l n (val l)).vEmpty q = w.vEmpty q :=
        fun q => Warp.vEmpty_vSetN n w r l (val l) q (fun k hk _ => he k hk l (by simp))
      rw [h3 (fun k hk m hm => by rw [hv]; exact he k hk m (by simp [hm])) q, hv]

end Sys2Proof.Machine
end

