-- ==== Sys2Proof/Laws/Issue.lean ====
section
/-! SUPPORT. What an issue does with an instruction that is ready: the effect acts on the state that has begun, and the answer is the
next state unless the effect stops the model. -/

namespace Sys2Proof.Machine

theorem State.stop_updCore (s : State) (c : Nat) (f : Core → Core) : (s.updCore c f).stop = s.stop := rfl
theorem State.stop_updWarp (s : State) (c wix : Nat) (f : Warp → Warp) : (s.updWarp c wix f).stop = s.stop := rfl

/-- Claiming the entries that were read, and waiting for them, changes cores only. -/
theorem popAll_eq (c : Ctx) (i : Instr) (s t : State) : c.popAll i s t = { t with cores := (c.popAll i s t).cores } := by
  have hf : ∀ (l : List (Nat × Nat)) (u : State),
      l.foldl (fun (u : State) e => u.updRing c.core c.w.gid e.1 Ring.claim) u =
        { u with cores := (l.foldl (fun (u : State) e => u.updRing c.core c.w.gid e.1 Ring.claim) u).cores } := by
    intro l
    induction l with
    | nil => intro u; rfl
    | cons p r ih =>
      intro u
      simp only [List.foldl_cons]
      rw [ih]
      rfl
  unfold Ctx.popAll
  simp only
  split
  · rfl
  · rw [hf]
    rfl

/-- It is the same whether the issue is over or not. -/
theorem popAll_finished (c : Ctx) (i : Instr) (s t : State) : c.popAll i s (finished t) = finished (c.popAll i s t) := by
  have hf : ∀ (l : List (Nat × Nat)) (u : State),
      l.foldl (fun (u : State) e => u.updRing c.core c.w.gid e.1 Ring.claim) (finished u) =
        finished (l.foldl (fun (u : State) e => u.updRing c.core c.w.gid e.1 Ring.claim) u) := by
    intro l
    induction l with
    | nil => intro u; rfl
    | cons p r ih => intro u; exact ih (u.updRing c.core c.w.gid p.1 Ring.claim)
  unfold Ctx.popAll
  simp only
  split
  · rfl
  · exact hf _ (c.upd t (c.awaitPops (destRunsOf i c.f (s.group c.core c.w.gid)) (c.pops i s) s.ptb))

/-- An instruction that reads no queue register claims nothing. -/
theorem popAll_none (c : Ctx) (i : Instr) (s t : State) (h : c.pops i s = []) : c.popAll i s t = t := by
  simp only [Ctx.popAll, h, List.isEmpty_nil, if_true]

theorem pops_none (c : Ctx) (i : Instr) (s : State) (h : queueUses i c.f = []) : c.pops i s = [] := by
  simp only [Ctx.pops, h, List.filterMap_nil]

theorem run_ready {i : Instr} {f : Fmt} {occ : Ctx → State → Nat} {body : Ctx → State → Res} {cu : Cur} {s : State}
    (h : ready i f cu s = true) :
    run i f occ body cu s =
      match body (mkCtx s cu i f) (begun i f occ cu s) with
      | .ok t => .ok ((mkCtx s cu i f).popAll i s t)
      | .hold t => .hold ((mkCtx s cu i f).heldElse t)
      | r => r := by
  simp only [ready, Bool.and_eq_true, beq_iff_eq, bne_iff_ne, Bool.not_eq_true'] at h
  obtain ⟨⟨⟨⟨⟨⟨⟨⟨⟨-, -⟩, -⟩, hb⟩, hq⟩, hu⟩, ha⟩, hbl⟩, ht⟩, hp⟩ := h
  have hb' : (mkCtx s cu i f).w.overBudget (runsOf i f (s.group (mkCtx s cu i f).core (mkCtx s cu i f).w.gid)) = none := hb
  have ha' : ((mkCtx s cu i f).active = 0 && !i.isCopy) = false := by rw [decide_eq_false ha]; rfl
  simp only [run, hb', hq, hu, ha', hbl, ht, Ctx.closedPush, hp, begun, Bool.not_true, Bool.false_eq_true, if_false]
  rfl

/-- An instruction that is ready, and whose effect leaves t without stopping the model, completes. -/
theorem issueOcc_ready {i : Instr} {f : Fmt} {occ : Ctx → State → Nat} {body : Ctx → State → Res} {cu : Cur} {s t : State}
    (h : ready i f cu s = true) (hb : body (mkCtx s cu i f) (begun i f occ cu s) = .ok t) (ht : t.stop = none) :
    issueOcc i f occ body s = .next (popped i f cu s (finished t)) := by
  have hr : s.cur = some cu := by
    simp only [ready, Bool.and_eq_true, beq_iff_eq] at h
    exact h.1.1.1.1.1.1.1.1.1
  have hs : ((mkCtx s cu i f).popAll i s t).stop = none := by rw [popAll_eq]; exact ht
  rw [popped, popAll_finished]
  generalize hz : (mkCtx s cu i f).popAll i s t = z at hs
  simp only [issueOcc, hr, run_ready h, hb, hz, settleRes, hs, finished]

theorem begun_eq (i : Instr) (f : Fmt) (occ : Ctx → State → Nat) (cu : Cur) (s : State) :
    begun i f occ cu s = { s with cores := (begun i f occ cu s).cores } := rfl

theorem ready_stop {i : Instr} {f : Fmt} {cu : Cur} {s : State} (h : ready i f cu s = true) : s.stop = none := by
  simp only [ready, Bool.and_eq_true, beq_iff_eq] at h
  exact h.1.1.1.1.1.1.1.1.2

theorem ready_warp {i : Instr} {f : Fmt} {cu : Cur} {s : State} (h : ready i f cu s = true) :
    ((s.core cu.core).warp? cu.wix).isSome = true := by
  simp only [ready, Bool.and_eq_true, beq_iff_eq] at h
  exact h.1.1.1.1.1.1.1.2

theorem ready_blocked {i : Instr} {f : Fmt} {cu : Cur} {s : State} (h : ready i f cu s = true) :
    (mkCtx s cu i f).blocked s i = false := by
  simp only [ready, Bool.and_eq_true, Bool.not_eq_true'] at h
  exact h.1.1.2

end Sys2Proof.Machine
end

