-- ==== Sys2Proof/Laws/Write.lean ====
section
/-! SUPPORT. What writing a destination changes: an instruction that only computes does what DataDone says. -/

namespace Sys2Proof.Machine

/-- Only core c differs, in its warps, slice clocks, groups and scratchpad, and of its warps only wix. -/
structure Local (c wix : Nat) (s t : State) : Prop where
  rest  : t = { s with cores := t.cores }
  len   : t.cores.length = s.cores.length
  other : ∀ k, k ≠ c → t.core k = s.core k
  core  : t.core c = { s.core c with
    warps := (t.core c).warps, slices := (t.core c).slices, groups := (t.core c).groups, sp := (t.core c).sp }
  warps : ∀ k, k ≠ wix → (t.core c).warp? k = (s.core c).warp? k

theorem Local.refl (c wix : Nat) (s : State) : Local c wix s s := ⟨rfl, rfl, fun _ _ => rfl, rfl, fun _ _ => rfl⟩

theorem Local.trans {c wix : Nat} {s t u : State} (h : Local c wix s t) (g : Local c wix t u) : Local c wix s u where
  rest := by rw [g.rest, h.rest]
  len := g.len.trans h.len
  other k hk := (g.other k hk).trans (h.other k hk)
  core := by rw [g.core, h.core]
  warps k hk := (g.warps k hk).trans (h.warps k hk)

/-- The groups and the scratchpad of a core are the same. -/
def SameQueues (c : Nat) (s t : State) : Prop := (t.core c).groups = (s.core c).groups ∧ (t.core c).sp = (s.core c).sp

theorem SameQueues.trans {c : Nat} {s t u : State} (h : SameQueues c s t) (g : SameQueues c t u) : SameQueues c s u :=
  ⟨g.1.trans h.1, g.2.trans h.2⟩

theorem local_updCore (c wix : Nat) (s : State) (f : Core → Core)
    (hf : ∀ k, f k = { k with warps := (f k).warps, slices := (f k).slices, groups := (f k).groups, sp := (f k).sp })
    (hw : ∀ k j, j ≠ wix → (f k).warp? j = k.warp? j) : Local c wix s (s.updCore c f) where
  rest := rfl
  len := State.cores_length_updCore s c f
  other k hk := by rw [State.core_updCore]; simp [Ne.symm hk]
  core := by
    rw [State.core_updCore]
    split
    · exact hf _
    · rfl
  warps k hk := by
    rw [State.core_updCore]
    split
    · exact hw _ _ hk
    · rfl

theorem local_updWarp (c wix : Nat) (s : State) (f : Warp → Warp) (hf : ∀ w, (f w).wix = w.wix) :
    Local c wix s (s.updWarp c wix f) :=
  local_updCore c wix s _ (fun _ => rfl) (fun k j hj => by
    rw [Core.warp?_updWarp k wix j f hf]
    cases h : k.warp? j with
    | none => rfl
    | some w =>
      have : w.wix = j := by simpa using List.find?_some h
      simp [this, hj])

theorem same_updWarp (c wix : Nat) (s : State) (f : Warp → Warp) : SameQueues c s (s.updWarp c wix f) := by
  constructor <;> · simp only [State.updWarp, State.core_updCore]; split <;> rfl

theorem local_updSlice (c wix sl : Nat) (s : State) (f : Slice → Slice) : Local c wix s (s.updSlice c sl f) :=
  local_updCore c wix s _ (fun _ => rfl) (fun _ _ _ => rfl)

theorem same_updSlice (c sl : Nat) (s : State) (f : Slice → Slice) : SameQueues c s (s.updSlice c sl f) := by
  constructor <;> · simp only [State.updSlice, State.core_updCore]; split <;> rfl

theorem local_updRing (c wix gid k : Nat) (s : State) (f : Ring → Ring) : Local c wix s (s.updRing c gid k f) :=
  local_updCore c wix s _ (fun _ => rfl) (fun _ _ _ => rfl)

theorem warp?_updRing (c gid k d j : Nat) (s : State) (f : Ring → Ring) :
    ((s.updRing c gid k f).core d).warp? j = (s.core d).warp? j := by
  simp only [State.updRing, State.updGroup, State.core_updCore]
  split <;> rfl

theorem push_spec (c : Ctx) (s : State) (q : Nat) (vals : Nat → Nat) :
    Local c.core c.wix s (c.push s q vals) ∧ (∀ d j, ((c.push s q vals).core d).warp? j = (s.core d).warp? j) := by
  unfold Ctx.push
  constructor
  · refine Local.trans ?_ (local_updRing _ _ _ _ _ _)
    exact local_updCore _ _ _ _ (fun _ => rfl) (fun _ _ _ => rfl)
  · intro d j
    rw [warp?_updRing]
    simp only [State.core_updCore]
    split <;> rfl

theorem pushes_spec (c : Ctx) (r : Nat) (vals : Nat → Nat → Nat) (l : List Nat) : ∀ s : State,
    let t := l.foldl (fun s k => c.push s (r + k) (vals k)) s
    Local c.core c.wix s t ∧ (∀ d j, (t.core d).warp? j = (s.core d).warp? j) := by
  induction l with
  | nil => intro s; exact ⟨Local.refl _ _ _, fun _ _ => rfl⟩
  | cons k t ih =>
    intro s
    obtain ⟨h1, h2⟩ := ih (c.push s (r + k) (vals k))
    obtain ⟨g1, g2⟩ := push_spec c s (r + k) (vals k)
    exact ⟨g1.trans h1, fun d j => (h2 d j).trans (g2 d j)⟩

/-- What writing D does to the warp itself. -/
def Ctx.wrW (c : Ctx) (n : Nat) (vals : Nat → Nat) (w : Warp) : Warp :=
  match c.f.d with
  | .v r => (maskLanes c.active).foldl (fun (w : Warp) l => w.vSetN r l n (vals (if c.unif then c.low else l))) w
  | .w r => w.wSetN r n (vals c.low)
  | _ => w

theorem foldl_vSetN_frame (r n : Nat) (val : Nat → Nat) (ls : List Nat) (w : Warp) :
    ls.foldl (fun (w : Warp) l => w.vSetN r l n (val l)) w =
      { w with v := (ls.foldl (fun (w : Warp) l => w.vSetN r l n (val l)) w).v
               vE := (ls.foldl (fun (w : Warp) l => w.vSetN r l n (val l)) w).vE } := by
  induction ls generalizing w with
  | nil => rfl
  | cons l t ih =>
    simp only [List.foldl_cons]
    rw [ih]
    generalize (List.foldl _ _ t) = z
    rw [Warp.vSetN_frame]

theorem wrW_frame (c : Ctx) (n : Nat) (vals : Nat → Nat) (w : Warp) :
    c.wrW n vals w = { w with v := (c.wrW n vals w).v, vE := (c.wrW n vals w).vE, w := (c.wrW n vals w).w, wE := (c.wrW n vals w).wE } := by
  unfold Ctx.wrW
  cases c.f.d <;> try rfl
  · simp only
    rw [foldl_vSetN_frame]
  · simp only
    rw [Warp.wSetN_frame]

theorem wrW_wix (c : Ctx) (n : Nat) (vals : Nat → Nat) (w : Warp) : (c.wrW n vals w).wix = w.wix := by
  rw [wrW_frame]

theorem updWarp_id (s : State) (c wix : Nat) : s.updWarp c wix (fun w => w) = s := by
  have h : ∀ k : Core, k.updWarp wix (fun w => w) = k := by
    intro k
    simp [Core.updWarp]
  simp only [State.updWarp, State.updCore]
  have : modNth s.cores c (fun k => k.updWarp wix fun w => w) = s.cores := by
    apply List.ext_getElem?
    intro j
    rw [modNth_getElem?]
    split
    · simp [h]
    · rfl
  rw [this]

/-- Writing D changes the issuing warp by wrW, and pushes to queues where D is one. -/
theorem wr_spec (c : Ctx) (s : State) (n : Nat) (vals : Nat → Nat) (h : ((s.core c.core).warp? c.wix).isSome = true) :
    Local c.core c.wix s (c.wr s n vals) ∧ (c.wr s n vals).warp c.core c.wix = c.wrW n vals (s.warp c.core c.wix)
    ∧ (((c.wr s n vals).core c.core).warp? c.wix).isSome = true
    ∧ ((∀ q, c.f.d ≠ .q q) → SameQueues c.core s (c.wr s n vals)) := by
  have key : ∀ f : Warp → Warp, (∀ w, (f w).wix = w.wix) →
      Local c.core c.wix s (c.upd s f) ∧ (c.upd s f).warp c.core c.wix = f (s.warp c.core c.wix)
      ∧ (((c.upd s f).core c.core).warp? c.wix).isSome = true ∧ SameQueues c.core s (c.upd s f) := fun f hf =>
    ⟨local_updWarp _ _ _ _ hf, State.warp_updWarp _ _ _ _ hf h, by rw [Ctx.upd, State.warp?_updWarp_isSome _ _ _ _ _ _ hf]; exact h,
      same_updWarp _ _ _ _⟩
  unfold Ctx.wr Ctx.wrW
  cases hd : c.f.d with
  | v r =>
    obtain ⟨h1, h2, h3, h4⟩ := key (fun w => (maskLanes c.active).foldl (fun (w : Warp) l => w.vSetN r l n (vals (if c.unif then c.low else l))) w)
      (fun w => by rw [foldl_vSetN_frame])
    exact ⟨h1, h2, h3, fun _ => h4⟩
  | w r =>
    obtain ⟨h1, h2, h3, h4⟩ := key (fun w => w.wSetN r n (vals c.low)) (fun w => by rw [Warp.wSetN_frame])
    exact ⟨h1, h2, h3, fun _ => h4⟩
  | q r =>
    obtain ⟨h1, h2⟩ := pushes_spec c r (fun k l => vals l / 2 ^ (32 * k)) (List.range n) s
    exact ⟨h1, by simp only [State.warp, h2], by rw [h2]; exact h, fun hq => absurd rfl (hq r)⟩
  | _ => exact ⟨Local.refl _ _ _, rfl, h, fun _ => ⟨rfl, rfl⟩⟩

/-- The state that has begun: the warp has advanced, and the masked-out lanes of D are zero. -/
theorem begun_spec (i : Instr) (f : Fmt) (occ : Ctx → State → Nat) (cu : Cur) (s : State)
    (h : ((s.core cu.core).warp? cu.wix).isSome = true) :
    Local cu.core cu.wix s (begun i f occ cu s) ∧ SameQueues cu.core s (begun i f occ cu s)
    ∧ (begun i f occ cu s).warp cu.core cu.wix =
      (mkCtx s cu i f).zeroWrites i (s.group cu.core (mkCtx s cu i f).w.gid) ((mkCtx s cu i f).w.advance cu.lanes (mkCtx s cu i f).next)
    ∧ (((begun i f occ cu s).core cu.core).warp? cu.wix).isSome = true := by
  have hadv : ∀ w : Warp, (w.advance (mkCtx s cu i f).lanes (mkCtx s cu i f).next).wix = w.wix := fun _ => rfl
  have fr : ∀ (ls : List Nat) (r : Nat) (w : Warp), (ls.foldl (fun (w : Warp) l => w.vSet r l 0) w).wix = w.wix := by
    intro ls r
    induction ls with
    | nil => intro w; rfl
    | cons l t ih => intro w; rw [List.foldl_cons, ih]; rfl
  have fr2 : ∀ (ks : List Nat) (ls : List Nat) (r : Nat) (w : Warp),
      (ks.foldl (fun (w : Warp) k => ls.foldl (fun (w : Warp) l => w.vSet (r + k) l 0) w) w).wix = w.wix := by
    intro ks ls r
    induction ks with
    | nil => intro w; rfl
    | cons k t ih => intro w; rw [List.foldl_cons, ih, fr]
  have hz : ∀ w : Warp, ((mkCtx s cu i f).zeroWrites i (s.group cu.core (mkCtx s cu i f).w.gid) w).wix = w.wix := by
    intro w
    unfold Ctx.zeroWrites
    split
    · rfl
    · generalize destRunsOf i _ _ = rs
      induction rs generalizing w with
      | nil => rfl
      | cons r t ih =>
        rw [List.foldl_cons, ih]
        split
        · exact fr2 _ _ _ _
        · rfl
  unfold begun
  simp only [Ctx.upd, Ctx.occupy]
  have e1 : (mkCtx s cu i f).core = cu.core := rfl
  have e2 : (mkCtx s cu i f).wix = cu.wix := rfl
  have e3 : (mkCtx s cu i f).lanes = cu.lanes := rfl
  rw [e1, e2]
  have h1 : (((s.updWarp cu.core cu.wix (fun w => w.advance (mkCtx s cu i f).lanes (mkCtx s cu i f).next)).core cu.core).warp? cu.wix).isSome = true := by
    rw [State.warp?_updWarp_isSome _ _ _ _ _ _ hadv]; exact h
  refine ⟨?_, ?_, ?_, ?_⟩
  · exact ((local_updWarp _ _ _ _ hadv).trans (local_updSlice _ _ _ _ _)).trans (local_updWarp _ _ _ _ hz)
  · exact ((same_updWarp _ _ _ _).trans (same_updSlice _ _ _ _)).trans (same_updWarp _ _ _ _)
  · rw [State.warp_updWarp _ _ _ _ hz (by rw [State.warp?_updSlice]; exact h1), State.warp_updSlice, State.warp_updWarp _ _ _ _ hadv h]
    rfl
  · rw [State.warp?_updWarp_isSome _ _ _ _ _ _ hz, State.warp?_updSlice]; exact h1

/-- Sources read the same in the state that has begun. -/
theorem src_begun (i : Instr) (f : Fmt) (occ : Ctx → State → Nat) (cu : Cur) (s : State) :
    (mkCtx s cu i f).src (begun i f occ cu s) = (mkCtx s cu i f).src s := by
  have hg : ∀ gid, (begun i f occ cu s).group cu.core gid = s.group cu.core gid := by
    intro gid
    simp only [begun, Ctx.upd, Ctx.occupy, State.group_updWarp, State.group_updSlice]
  have hs : ((begun i f occ cu s).core cu.core).sp = (s.core cu.core).sp := by
    simp only [begun, Ctx.upd, Ctx.occupy, State.sp_updWarp, State.sp_updSlice]
  have hc : (mkCtx s cu i f).core = cu.core := rfl
  funext o n l
  cases o <;> try rfl
  simp only [Ctx.src, State.popWord, hc, hg, hs]

theorem a_begun (i : Instr) (f : Fmt) (occ : Ctx → State → Nat) (cu : Cur) (s : State) :
    (mkCtx s cu i f).a (begun i f occ cu s) = (mkCtx s cu i f).a s := by funext n l; simp only [Ctx.a, src_begun]
theorem b_begun (i : Instr) (f : Fmt) (occ : Ctx → State → Nat) (cu : Cur) (s : State) :
    (mkCtx s cu i f).b (begun i f occ cu s) = (mkCtx s cu i f).b s := by funext n l; simp only [Ctx.b, src_begun]
theorem c_begun (i : Instr) (f : Fmt) (occ : Ctx → State → Nat) (cu : Cur) (s : State) :
    (mkCtx s cu i f).c (begun i f occ cu s) = (mkCtx s cu i f).c s := by funext n l; simp only [Ctx.c, src_begun]

end Sys2Proof.Machine
end

