-- ==== Sys2Proof/Laws/Data.lean ====
section
/-! SUPPORT. An instruction whose effect is to write D, predicates and flags completes as DataDone says. -/

namespace Sys2Proof.Machine

theorem foldl_or_zero (g : Nat → Mask) (l : List Nat) : ∀ m : Mask, l.foldl (fun (m : Mask) k => m ||| g k) m = 0 →
    m = 0 ∧ ∀ k ∈ l, g k = 0 := by
  induction l with
  | nil => intro m h; exact ⟨h, by simp⟩
  | cons k t ih =>
    intro m h
    obtain ⟨h1, h2⟩ := ih _ h
    have hb : ∀ i, m.getLsbD i = false ∧ (g k).getLsbD i = false := by
      intro i
      have := congrArg (fun b => BitVec.getLsbD b i) h1
      simpa [BitVec.getLsbD_or] using this
    have hm : m = 0 := BitVec.eq_of_getLsbD_eq (fun i _ => by simp [(hb i).1])
    have hg : g k = 0 := BitVec.eq_of_getLsbD_eq (fun i _ => by simp [(hb i).2])
    exact ⟨hm, by simpa [hg] using h2⟩

/-- Nothing of a run of v registers is empty in the lanes. -/
theorem emptyIn_v {w : Warp} {act : Mask} {r n : Nat} (h : w.emptyIn act (0, r, n) = 0) (k : Nat) (hk : k < n) (l : Nat)
    (hl : act.getLsbD l = true) : (w.vEmpty (r + k)).getLsbD l = false := by
  have := (foldl_or_zero (fun k => w.vEmpty (r + k) &&& act) (List.range n) 0 h).2 k (List.mem_range.mpr hk)
  have := congrArg (fun b => BitVec.getLsbD b l) this
  simpa [BitVec.getLsbD_and, hl] using this

theorem emptyIn_w {w : Warp} {act : Mask} {r n : Nat} (h : w.emptyIn act (1, r, n) = 0) (ha : act ≠ 0) (k : Nat) (hk : k < n) :
    w.wE.getLsbD (r + k) = false := by
  simp only [Warp.emptyIn] at h
  split at h
  · exact absurd h ha
  · rename_i hn
    simp only [List.any_eq_true, List.mem_range, not_exists, not_and, Bool.not_eq_true] at hn
    exact hn k hk

/-- No destination register of an instruction that is ready is empty (R56). -/
theorem ready_dest {i : Instr} {f : Fmt} {cu : Cur} {s : State} (h : ready i f cu s = true) (r : Nat × Nat × Nat)
    (hr : r ∈ destRunsOf i f (s.group cu.core (mkCtx s cu i f).w.gid)) :
    (mkCtx s cu i f).w.emptyIn ((mkCtx s cu i f).active ||| (mkCtx s cu i f).zeroed i) r = 0 := by
  have hb := ready_blocked h
  simp only [Ctx.blocked, Bool.or_eq_false_iff] at hb
  have := hb.1.1.1.2
  rw [List.any_eq_false] at this
  have := this r hr
  simpa using this

theorem ready_active {i : Instr} {f : Fmt} {cu : Cur} {s : State} (h : ready i f cu s = true) : (mkCtx s cu i f).active ≠ 0 := by
  simp only [ready, Bool.and_eq_true, bne_iff_ne] at h
  exact h.1.1.1.2

/-- Zeroing the lanes of a mask in n registers. -/
theorem zero_spec (ls : List Nat) (hl : ∀ l ∈ ls, l < 32) (r : Nat) : ∀ (ks : List Nat) (w : Warp),
    (∀ k ∈ ks, ∀ l ∈ ls, (w.vEmpty (r + k)).getLsbD l = false) →
    let w' := ks.foldl (fun (w : Warp) k => ls.foldl (fun (w : Warp) l => w.vSet (r + k) l 0) w) w
    w' = { w with v := w'.v, vE := w'.vE }
    ∧ (∀ q m, m < 32 → w'.vGet q m = if m ∈ ls ∧ ∃ k ∈ ks, q = r + k then 0 else w.vGet q m)
    ∧ (∀ q, w'.vEmpty q = w.vEmpty q) := by
  have one : ∀ (ls : List Nat), (∀ l ∈ ls, l < 32) → ∀ (p : Nat) (w : Warp), (∀ l ∈ ls, (w.vEmpty p).getLsbD l = false) →
      let w' := ls.foldl (fun (w : Warp) l => w.vSet p l 0) w
      w' = { w with v := w'.v, vE := w'.vE }
      ∧ (∀ q m, m < 32 → w'.vGet q m = if m ∈ ls ∧ q = p then 0 else w.vGet q m)
      ∧ (∀ q, w'.vEmpty q = w.vEmpty q) := by
    intro ls
    induction ls with
    | nil => intro _ p w _; exact ⟨rfl, by simp, fun _ => rfl⟩
    | cons l t ih =>
      intro hl p w he
      have hv : ∀ q, (w.vSet p l 0).vEmpty q = w.vEmpty q := fun q =>
        Warp.vEmpty_vSet w p l 0 q (fun _ => he l (by simp))
      obtain ⟨h1, h2, h3⟩ := ih (fun x hx => hl x (by simp [hx])) p (w.vSet p l 0) (fun x hx => by rw [hv]; exact he x (by simp [hx]))
      refine ⟨?_, ?_, fun q => (h3 q).trans (hv q)⟩
      · simp only [List.foldl_cons]
        rw [h1]
        rfl
      · intro q m hm
        simp only [List.foldl_cons]
        rw [h2 q m hm, Warp.vGet_vSet w p l 0 q m (hl l (by simp)) hm]
        by_cases hq : q = p
        · subst hq
          by_cases hml : m = l
          · simp [hml]
          · simp [hml, Ne.symm hml]
        · simp [hq, Ne.symm hq]
  intro ks
  induction ks with
  | nil => intro w _; exact ⟨rfl, by simp, fun _ => rfl⟩
  | cons k t ih =>
    intro w he
    obtain ⟨g1, g2, g3⟩ := one ls hl (r + k) w (fun l hx => he k (by simp) l hx)
    obtain ⟨h1, h2, h3⟩ := ih (ls.foldl (fun (w : Warp) l => w.vSet (r + k) l 0) w)
      (fun x hx l hlx => by rw [g3]; exact he x (by simp [hx]) l hlx)
    refine ⟨?_, ?_, fun q => (h3 q).trans (g3 q)⟩
    · simp only [List.foldl_cons]
      rw [h1, g1]
    · intro q m hm
      simp only [List.foldl_cons]
      rw [h2 q m hm, g2 q m hm]
      by_cases hml : m ∈ ls
      · by_cases hq : q = r + k <;> simp [hml, hq]
      · simp [hml]

/-- What an instruction that is ready leaves of D when its effect is to write n registers of it. -/
theorem wrote {i : Instr} {f : Fmt} {cu : Cur} {s : State} (h : ready i f cu s = true) (n : Nat) (val : Nat → Nat)
    (hd : destRunsOf i f (s.group cu.core (mkCtx s cu i f).w.gid) = runOf f.d n) :
    let c := mkCtx s cu i f
    let w' := c.wrW n val (c.zeroWrites i (s.group cu.core c.w.gid) (c.w.advance cu.lanes c.next))
    w' = { c.w with pcs := w'.pcs, since := 0, needs := [], v := w'.v, vE := w'.vE, w := w'.w, wE := w'.wE }
    ∧ w'.pcs = (c.w.advance cu.lanes c.next).pcs
    ∧ (∀ r l, l < 32 → w'.vGet r l = vAfter c i n val r l)
    ∧ (∀ r, w'.wGet r = wAfter c n val r)
    ∧ (∀ r, w'.vEmpty r = c.w.vEmpty r) ∧ w'.wE = c.w.wE := by
  intro c
  have ha := ready_active h
  have hde := ready_dest h
  rw [hd] at hde
  have hfd : c.f.d = f.d := rfl
  have hzw : ∀ w, c.zeroWrites i (s.group cu.core c.w.gid) w =
      if c.zeroed i = 0 then w else (runOf f.d n).foldl (fun (w : Warp) r =>
        if r.1 = 0 then (List.range r.2.2).foldl (fun (w : Warp) k => (maskLanes (c.zeroed i)).foldl (fun (w : Warp) l => w.vSet (r.2.1 + k) l 0) w) w
        else w) w := by
    intro w
    rw [← hd]
    rfl
  cases hD : f.d with
  | v r =>
    rw [hD] at hde
    have he := hde (0, r, n) (by simp [runOf])
    have z0 := zero_spec (maskLanes (c.zeroed i)) (fun l hl => ((mem_maskLanes _ _).1 hl).1) r (List.range n) (c.w.advance cu.lanes c.next)
      (fun k hk l hl => emptyIn_v he k (List.mem_range.1 hk) l (by
        rw [BitVec.getLsbD_or]
        have := ((mem_maskLanes _ _).1 hl).2
        simp [c] at this
        simp [this]))
    have z : let w' := c.zeroWrites i (s.group cu.core c.w.gid) (c.w.advance cu.lanes c.next)
        w' = { c.w.advance cu.lanes c.next with v := w'.v, vE := w'.vE }
        ∧ (∀ q m, m < 32 → w'.vGet q m = if (c.zeroed i).getLsbD m = true ∧ r ≤ q ∧ q < r + n then 0 else c.w.vGet q m)
        ∧ (∀ q, w'.vEmpty q = c.w.vEmpty q) := by
      simp only
      rw [hzw, hD]
      by_cases hz : c.zeroed i = 0
      · rw [if_pos hz]
        refine ⟨rfl, ?_, fun _ => rfl⟩
        intro q m _
        rw [hz]
        simp
        rfl
      · rw [if_neg hz]
        simp only [runOf, List.foldl_cons, List.foldl_nil, if_true]
        refine ⟨z0.1, ?_, z0.2.2⟩
        intro q m hm
        rw [z0.2.1 q m hm]
        have hiff : (m ∈ maskLanes (c.zeroed i) ∧ ∃ k ∈ List.range n, q = r + k) ↔
            ((c.zeroed i).getLsbD m = true ∧ r ≤ q ∧ q < r + n) := by
          rw [mem_maskLanes]
          constructor
          · rintro ⟨⟨-, h1⟩, k, hk, rfl⟩
            rw [List.mem_range] at hk
            exact ⟨h1, by omega, by omega⟩
          · rintro ⟨h1, h2, h3⟩
            exact ⟨⟨hm, h1⟩, q - r, List.mem_range.2 (by omega), by omega⟩
        rw [if_congr hiff rfl rfl]
        rfl
    obtain ⟨z1, z2, z3⟩ := z
    generalize c.zeroWrites i (s.group cu.core c.w.gid) (c.w.advance cu.lanes c.next) = wz at z1 z2 z3 ⊢
    have hact : ∀ k, k < n → ∀ l ∈ maskLanes c.active, (wz.vEmpty (r + k)).getLsbD l = false := by
      intro k hk l hl
      rw [z3]
      exact emptyIn_v he k hk l (by
        rw [BitVec.getLsbD_or]
        have := ((mem_maskLanes _ _).1 hl).2
        simp [c] at this
        simp [this])
    have hw : c.wrW n val wz = (maskLanes c.active).foldl (fun (w : Warp) l => w.vSetN r l n (val (c.laneOf l))) wz := by
      simp only [Ctx.wrW, hfd, hD, Ctx.laneOf]
    simp only [hw]
    obtain ⟨g1, g2, g3⟩ := Warp.foldl_vSetN r n (fun l => val (c.laneOf l)) (maskLanes c.active) wz
      (fun l hl => ((mem_maskLanes _ _).1 hl).1) (maskLanes_nodup _)
    have g3' := g3 hact
    generalize (maskLanes c.active).foldl (fun (w : Warp) l => w.vSetN r l n (val (c.laneOf l))) wz = wf at g1 g2 g3' ⊢
    refine ⟨?_, ?_, ?_, ?_, ?_, ?_⟩
    · rw [g1, z1]; rfl
    · rw [g1, z1]
    · intro q m hm
      rw [g2 q m hm, z2 q m hm]
      simp only [vAfter, hfd, hD, mem_maskLanes, hm, true_and]
      by_cases hq : r ≤ q ∧ q < r + n
      · by_cases hl : c.active.getLsbD m = true <;> simp [hq, hl]
      · have : ¬ (c.active.getLsbD m = true ∧ r ≤ q ∧ q < r + n) := fun hh => hq hh.2
        have h2 : ¬ ((c.zeroed i).getLsbD m = true ∧ r ≤ q ∧ q < r + n) := fun hh => hq hh.2
        simp only [if_neg this, if_neg h2, if_neg hq]
    · intro q
      simp only [wAfter, hfd, hD]
      rw [g1, z1]; rfl
    · intro q
      rw [g3', z3]
    · rw [g1, z1]; rfl
  | w r =>
    rw [hD] at hde
    have he := hde (1, r, n) (by simp [runOf])
    have hz : c.zeroWrites i (s.group cu.core c.w.gid) (c.w.advance cu.lanes c.next) = c.w.advance cu.lanes c.next := by
      rw [hzw, hD]; split <;> simp [runOf]
    have hor : (c.active ||| c.zeroed i) ≠ 0 := by
      intro h0
      apply ha
      apply BitVec.eq_of_getLsbD_eq
      intro j _
      have := congrArg (fun b => BitVec.getLsbD b j) h0
      simp [BitVec.getLsbD_or] at this
      simpa using this.1
    have hE := fun k hk => emptyIn_w he hor k hk
    simp only [hz]
    have hw : c.wrW n val (c.w.advance cu.lanes c.next) = (c.w.advance cu.lanes c.next).wSetN r n (val c.low) := by
      simp only [Ctx.wrW, hfd, hD]
    simp only [hw]
    have fr := Warp.wSetN_frame n (c.w.advance cu.lanes c.next) r (val c.low)
    refine ⟨?_, ?_, ?_, ?_, ?_, ?_⟩
    · rw [fr]; rfl
    · rw [fr]
    · intro q m hm
      simp only [vAfter, hfd, hD]
      rw [fr]; rfl
    · intro q
      rw [Warp.wGet_wSetN]
      simp only [wAfter, hfd, hD]
      rfl
    · intro q; rw [fr]; rfl
    · exact Warp.wE_wSetN n _ _ _ hE
  | _ =>
    have hz : c.zeroWrites i (s.group cu.core c.w.gid) (c.w.advance cu.lanes c.next) = c.w.advance cu.lanes c.next := by
      rw [hzw, hD]; split <;> simp [runOf]
    have hw : c.wrW n val (c.w.advance cu.lanes c.next) = c.w.advance cu.lanes c.next := by
      simp only [Ctx.wrW, hfd, hD]
    simp only [hz, hw]
    refine ⟨by trivial, by trivial, ?_, ?_, fun _ => rfl, by trivial⟩
    · intro q m _; simp only [vAfter, hfd, hD]; rfl
    · intro q; simp only [wAfter, hfd, hD]; rfl

/-- Advancing moves the lanes of the path, and no other (R37). -/
theorem pcs_advance (w : Warp) (ls : Mask) (pc : DWord) (l : Nat) (hl : l < 32) :
    (w.advance ls pc).pcs[l]? = (w.pcs[l]?).map (fun p => if ls.getLsbD l then pc else p) := by
  have hr : lanes[l]? = some l := by simp [lanes, hl]
  simp only [Warp.advance, List.getElem?_map, List.zip, List.getElem?_zipWith, hr]
  cases w.pcs[l]? <;> simp

/-- The effect of an instruction that only computes: n registers of D, then a change of the warp's predicates and flags. -/
theorem data_issue {i : Instr} {f : Fmt} {cu : Cur} {s : State} {e : DataEff} {eff : Ctx → State → State}
    (h : ready i f cu s = true) (g : Warp → Warp)
    (hd : destRunsOf i f (s.group cu.core (mkCtx s cu i f).w.gid) = runOf f.d e.n)
    (hq : (∃ q, f.d = .q q) → queueUses i f ≠ [])
    (hg : ∀ w, g w = { w with preds := (g w).preds, fpstat := (g w).fpstat })
    (hp : ∀ w p l, l < 32 → w.preds = (mkCtx s cu i f).w.preds → (g w).pGet p l = pAfter (mkCtx s cu i f) s e.prd p l)
    (hf : ∀ w, w.fpstat = (mkCtx s cu i f).w.fpstat → (g w).fpstat = ((mkCtx s cu i f).w.orFlags (e.flg (mkCtx s cu i f) s)).fpstat)
    (he : ∀ occ, eff (mkCtx s cu i f) (begun i f occ cu s) =
      (mkCtx s cu i f).upd ((mkCtx s cu i f).wr (begun i f occ cu s) e.n (e.val (mkCtx s cu i f) s)) g) :
    ∃ t, issueOk i f eff s = .next (popped i f cu s t) ∧ DataDone i f e cu s t := by
  have hw := ready_warp h
  obtain ⟨b1, b2, b3, b4⟩ := begun_spec i f (fun c t => c.occOf t i) cu s hw
  have he' := he (fun c t => c.occOf t i)
  obtain ⟨w1, w2, w3, w4⟩ := wr_spec (mkCtx s cu i f) (begun i f (fun c t => c.occOf t i) cu s) e.n (e.val (mkCtx s cu i f) s) b4
  have hgw : ∀ w, (g w).wix = w.wix := fun w => by rw [hg]
  have u1 : Local cu.core cu.wix ((mkCtx s cu i f).wr (begun i f (fun c t => c.occOf t i) cu s) e.n (e.val (mkCtx s cu i f) s)) _ :=
    local_updWarp cu.core cu.wix _ g hgw
  have u2 := State.warp_updWarp _ cu.core cu.wix g hgw w3
  have u3 := same_updWarp cu.core cu.wix ((mkCtx s cu i f).wr (begun i f (fun c t => c.occOf t i) cu s) e.n (e.val (mkCtx s cu i f) s)) g
  have u4 : (((State.updWarp ((mkCtx s cu i f).wr (begun i f (fun c t => c.occOf t i) cu s) e.n (e.val (mkCtx s cu i f) s))
      cu.core cu.wix g).core cu.core).warp? cu.wix).isSome = true :=
    (State.warp?_updWarp_isSome _ cu.core cu.wix cu.core cu.wix g hgw).trans w3
  have he2 : eff (mkCtx s cu i f) (begun i f (fun c t => c.occOf t i) cu s) =
    State.updWarp ((mkCtx s cu i f).wr (begun i f (fun c t => c.occOf t i) cu s) e.n (e.val (mkCtx s cu i f) s)) cu.core cu.wix g := he'
  generalize hu : State.updWarp ((mkCtx s cu i f).wr (begun i f (fun c t => c.occOf t i) cu s) e.n (e.val (mkCtx s cu i f) s)) cu.core cu.wix g = u
    at u1 u2 u3 u4 he2
  have loc : Local cu.core cu.wix s u := (b1.trans w1).trans u1
  have hstop : u.stop = none := by
    have hr : u.stop = s.stop := by rw [loc.rest]
    rw [hr, ready_stop h]
  obtain ⟨d1, d2, d3, d4, d5, d6⟩ := wrote h e.n (e.val (mkCtx s cu i f) s) hd
  have hwarp : (finished u).warp cu.core cu.wix =
      g ((mkCtx s cu i f).wrW e.n (e.val (mkCtx s cu i f) s) ((mkCtx s cu i f).zeroWrites i (s.group cu.core (mkCtx s cu i f).w.gid)
        ((mkCtx s cu i f).w.advance cu.lanes (mkCtx s cu i f).next))) := by
    have : (finished u).warp cu.core cu.wix = u.warp cu.core cu.wix := rfl
    rw [this, u2]
    congr 1
    exact w2.trans (congrArg _ b3)
  generalize (mkCtx s cu i f).wrW e.n (e.val (mkCtx s cu i f) s) ((mkCtx s cu i f).zeroWrites i (s.group cu.core (mkCtx s cu i f).w.gid)
    ((mkCtx s cu i f).w.advance cu.lanes (mkCtx s cu i f).next)) = w' at d1 d2 d3 d4 d5 d6 hwarp
  refine ⟨finished u, issueOcc_ready h (by simp only [he2]) hstop, ?_⟩
  have hgp : w'.preds = (mkCtx s cu i f).w.preds := by rw [d1]
  have hgf : w'.fpstat = (mkCtx s cu i f).w.fpstat := by rw [d1]
  refine { away := ?_, only := ?_, warp := ?_, frame := ?_, pcs := ?_, v := ?_, w := ?_, full := ?_, preds := ?_, flags := ?_ }
  · refine ⟨?_, loc.len, loc.other⟩
    show { u with cur := none, issued := true } = _
    rw [loc.rest]
    rfl
  · refine ⟨loc.core, fun hq0 => ?_, loc.warps⟩
    exact (b2.trans (w4 (fun q hqq => hq ⟨q, hqq⟩ hq0))).trans u3
  · exact u4
  · rw [hwarp, hg, d1]
  · rw [hwarp, hg]
    intro l hl
    show w'.pcs[l]? = _
    rw [d2]
    exact pcs_advance _ _ _ l hl
  · intro r l hl
    rw [hwarp, hg]
    exact d3 r l hl
  · intro r
    rw [hwarp, hg]
    exact d4 r
  · rw [hwarp, hg]
    exact ⟨d5, d6⟩
  · intro p l hl
    rw [hwarp]
    exact hp w' p l hl hgp
  · rw [hwarp]
    exact hf w' hgf

/-- A destination operand that is a queue register is a use of it. -/
theorem uses_ne {i : Instr} {f : Fmt} (h : 0 < i.shape.d.words) : (∃ q, f.d = .q q) → queueUses i f ≠ [] := by
  rintro ⟨q, hq⟩ h0
  obtain ⟨n, hn⟩ : ∃ n, i.shape.d.words = n + 1 := ⟨i.shape.d.words - 1, by omega⟩
  have := congrArg List.length h0
  simp [queueUses, hq, hn] at this

theorem words_pos (t : Ty) : 0 < t.words := by cases t <;> decide

/-- Writing no register of D leaves the state as it is. -/
theorem wr_zero (c : Ctx) (s : State) (vals : Nat → Nat) : c.wr s 0 vals = s := by
  have h : ∀ (r : Nat) (ls : List Nat) (w : Warp), ls.foldl (fun (w : Warp) l => w.vSetN r l 0 (vals (if c.unif then c.low else l))) w = w := by
    intro r ls
    induction ls with
    | nil => intro w; rfl
    | cons a t ih => intro w; simp only [List.foldl_cons]; exact ih w
  unfold Ctx.wr
  split
  · simp only [h]; exact updWarp_id _ _ _
  · exact updWarp_id _ _ _
  · rfl
  · rfl

theorem flags_zero (c : Ctx) (s : State) : c.flags s 0 = s := by
  have : (fun w : Warp => w.orFlags 0) = fun w => w := by
    funext w; simp [Warp.orFlags]
  simp only [Ctx.flags, Ctx.upd, this]
  exact updWarp_id _ _ _

/-- An effect that writes D alone. -/
theorem data_d {i : Instr} {f : Fmt} {cu : Cur} {s : State} {n : Nat} {val : Ctx → State → Nat → Nat} {eff : Ctx → State → State}
    (h : ready i f cu s = true)
    (hd : destRunsOf i f (s.group cu.core (mkCtx s cu i f).w.gid) = runOf f.d n)
    (hq : (∃ q, f.d = .q q) → queueUses i f ≠ [])
    (he : ∀ occ, eff (mkCtx s cu i f) (begun i f occ cu s) = (mkCtx s cu i f).wr (begun i f occ cu s) n (val (mkCtx s cu i f) s)) :
    ∃ t, issueOk i f eff s = .next (popped i f cu s t) ∧ DataDone i f (.d n val) cu s t := by
  refine data_issue h (fun w => w) hd hq (fun _ => rfl) (fun w p l _ hw => ?_) (fun w hw => ?_) (fun occ => ?_)
  · simp only [DataEff.d, pAfter, Warp.pGet, hw]
  · simp [DataEff.d, Warp.orFlags, hw]
  · rw [he occ]; exact (updWarp_id _ _ _).symm

/-- An effect that writes D and raises flags. -/
theorem data_f {i : Instr} {f : Fmt} {cu : Cur} {s : State} {n : Nat} {val : Ctx → State → Nat → Nat} {fl : Ctx → State → Flags}
    {eff : Ctx → State → State}
    (h : ready i f cu s = true)
    (hd : destRunsOf i f (s.group cu.core (mkCtx s cu i f).w.gid) = runOf f.d n)
    (hq : (∃ q, f.d = .q q) → queueUses i f ≠ [])
    (he : ∀ occ, eff (mkCtx s cu i f) (begun i f occ cu s) =
      (mkCtx s cu i f).flags ((mkCtx s cu i f).wr (begun i f occ cu s) n (val (mkCtx s cu i f) s)) (fl (mkCtx s cu i f) s)) :
    ∃ t, issueOk i f eff s = .next (popped i f cu s t) ∧ DataDone i f { n := n, val := val, flg := fl } cu s t := by
  refine data_issue h (fun w => w.orFlags (fl (mkCtx s cu i f) s)) hd hq (fun _ => rfl)
    (fun w p l _ hw => ?_) (fun w hw => ?_) (fun occ => ?_)
  · simp only [pAfter, Warp.pGet, Warp.orFlags, hw]
  · simp [Warp.orFlags, hw]
  · rw [he occ]; rfl

/-- Putting a predicate in the ACTIVE lanes. -/
theorem pPut_spec (c : Ctx) (q : Nat) (b : Nat → Bool) (w : Warp) (p l : Nat) (hl : l < 32) (hw : w.preds = c.w.preds) :
    (w.pPut q c.active (maskOf (fun l => b (if c.unif then c.low else l)))).pGet p l =
      if p = q then (if p < c.w.preds.length ∧ c.active.getLsbD l then b (c.laneOf l) else c.w.pGet p l) else c.w.pGet p l := by
  simp only [Warp.pPut, Warp.pGet, modNth_getD, hw, Ctx.laneOf]
  by_cases hp : p = q
  · subst hp
    by_cases hlen : p < c.w.preds.length
    · simp only [hlen, and_self, if_true, BitVec.getLsbD_or, BitVec.getLsbD_and, BitVec.getLsbD_not, maskOf_bit _ l hl, true_and,
        hl, decide_true]
      cases ha : c.active.getLsbD l <;> simp
    · simp [hlen]
  · simp [hp, Ne.symm hp]

/-- An effect that writes D, a predicate and flags. -/
theorem data_p {i : Instr} {f : Fmt} {cu : Cur} {s : State} {q n : Nat} {val : Ctx → State → Nat → Nat} {b : Ctx → State → Nat → Bool}
    {fl : Ctx → State → Flags} {eff : Ctx → State → State}
    (h : ready i f cu s = true)
    (hd : destRunsOf i f (s.group cu.core (mkCtx s cu i f).w.gid) = runOf f.d n)
    (hq : (∃ q, f.d = .q q) → queueUses i f ≠ [])
    (he : ∀ occ, eff (mkCtx s cu i f) (begun i f occ cu s) = (mkCtx s cu i f).flags ((mkCtx s cu i f).wrP
      ((mkCtx s cu i f).wr (begun i f occ cu s) n (val (mkCtx s cu i f) s)) q (b (mkCtx s cu i f) s)) (fl (mkCtx s cu i f) s)) :
    ∃ t, issueOk i f eff s = .next (popped i f cu s t) ∧ DataDone i f { DataEff.p q b with n := n, val := val, flg := fl } cu s t := by
  refine data_issue h (fun w => (w.pPut q (mkCtx s cu i f).active (maskOf (fun l =>
      b (mkCtx s cu i f) s (if (mkCtx s cu i f).unif then (mkCtx s cu i f).low else l)))).orFlags (fl (mkCtx s cu i f) s)) hd hq (fun _ => rfl)
    (fun w p l hl hw => ?_) (fun w hw => ?_) (fun occ => ?_)
  · have := pPut_spec (mkCtx s cu i f) q (b (mkCtx s cu i f) s) w p l hl hw
    simp only [DataEff.p, pAfter]
    refine Eq.trans (show _ = (w.pPut q (mkCtx s cu i f).active (maskOf (fun l =>
      b (mkCtx s cu i f) s (if (mkCtx s cu i f).unif then (mkCtx s cu i f).low else l)))).pGet p l from rfl) (this.trans ?_)
    by_cases hp : p = q <;> simp [hp]
  · simp [Warp.orFlags, Warp.pPut, hw]
  · rw [he occ]
    simp only [Ctx.flags, Ctx.wrP, Ctx.upd]
    rw [State.updWarp_updWarp]
    intro w; rfl

end Sys2Proof.Machine
end

