-- ==== Sys2Proof/Laws/Dispatch.lean ====
section
/-! SUPPORT. The form of every warp instruction's meaning. -/

namespace Sys2Proof.Machine

/-- exec of an instruction with a format is an issue of it with some occupancy and some effect. -/
theorem exec_issue (i : Instr) (f : Fmt) (s : State) (h : i.fmt = some f) :
    ∃ occ body, exec i s = issueOcc i f occ body s := by
  cases i <;> simp only [Instr.fmt, Option.some.injEq, reduceCtorEq] at h <;> subst h <;> exact ⟨_, _, rfl⟩

/-- An instruction with a format issues only on a path that is issuing. -/
theorem exec_no_path (i : Instr) (f : Fmt) (s : State) (h : i.fmt = some f) (hc : s.cur = none) : exec i s = .next s := by
  obtain ⟨occ, body, e⟩ := exec_issue i f s h
  rw [e]; simp [issueOcc, hc]

end Sys2Proof.Machine
end

