-- ==== Sys2Proof/Laws/Memory.lean ====
section
/-! SUPPORT. Every operation on memory keeps the maps of the package in canonical form. -/

namespace Sys2Proof.Machine

/-- The canonical form, map by map. -/
theorem canonical_iff (s : State) :
    s.canonical = true ↔ Memory.wf s.mem = true ∧ Memory.wf s.hostMem = true ∧ SMap.wf s.cp = true ∧ SMap.wf s.keyTag = true := by
  simp [State.canonical, and_assoc]

/-- It depends on four fields. -/
theorem canonical_congr {s t : State} (hm : t.mem = s.mem) (hh : t.hostMem = s.hostMem) (hc : t.cp = s.cp) (hk : t.keyTag = s.keyTag) :
    t.canonical = s.canonical := by
  simp [State.canonical, hm, hh, hc, hk]

theorem reset_canonical : State.reset.mem = [] := rfl

theorem setCpw_canonical {s : State} (h : s.canonical = true) (off v : Nat) : (s.setCpw off v).canonical = true := by
  rw [canonical_iff] at *
  exact ⟨h.1, h.2.1, SMap.set_wf _ _ _ h.2.2.1, h.2.2.2⟩

theorem pokeRaw_canonical {s : State} (h : s.canonical = true) (d loc : Nat) (bs : List (Option Byte)) : (s.pokeRaw d loc bs).canonical = true := by
  rw [canonical_iff] at *
  refine ⟨SMap.setIf_wf bs _ _ ?_, h.2.1, h.2.2.1, SMap.set_wf _ _ _ h.2.2.2⟩
  show SMap.wf (if _ then s.mem else _) = true
  split
  · exact h.1
  · exact SMap.setN_wf _ _ _ h.1

theorem touch_canonical {s : State} (h : s.canonical = true) (pa : Nat) : (s.touch pa).canonical = true := by
  unfold State.touch; split <;> exact h

/-- A fold of steps that keep it keeps it. -/
theorem foldl_canonical {α : Type} (f : State → α → State) (hf : ∀ s a, s.canonical = true → (f s a).canonical = true) (l : List α) :
    ∀ s : State, s.canonical = true → (l.foldl f s).canonical = true := by
  induction l with
  | nil => exact fun _ h => h
  | cons a t ih => exact fun s h => ih _ (hf s a h)

theorem pokeKey0_canonical {s : State} (h : s.canonical = true) (loc : Nat) (bs : List Byte) : (s.pokeKey0 loc bs).canonical = true := by
  unfold State.pokeKey0
  generalize List.range _ = l
  split
  · exact h
  · simp only
    apply foldl_canonical _ _ _ _ h
    intro t k ht
    apply pokeRaw_canonical
    apply touch_canonical
    exact ht

theorem hb_canonical {s : State} (h : s.canonical = true) (x : HB) : ({ s with hb := x }).canonical = true := h

theorem cpRelease_canonical {s : State} (h : s.canonical = true) (off v : Nat) : (s.cpRelease off v).canonical = true :=
  hb_canonical (setCpw_canonical h _ _) _

theorem outs_canonical {s : State} (h : s.canonical = true) (o : List Out) : ({ s with outs := o }).canonical = true := h

theorem ringPut_canonical {s : State} (h : s.canonical = true) (r : FRec) : (s.ringPut r).1.canonical = true := by
  unfold State.ringPut
  extract_lets _ cfg pos size tail headc at_ s1 s2 w c n
  split
  · exact outs_canonical (cpRelease_canonical (hb_canonical (pokeKey0_canonical h _ _) _) _ _) _
  · exact setCpw_canonical h _ _

/-! ### Sends, wakes and monitors touch none of the maps but the CP's -/

theorem updDest_canonical {s : State} (h : s.canonical = true) (d : Nat) (f : Dest → Dest) : (s.updDest d f).canonical = true := by
  unfold State.updDest; split <;> exact h

theorem updSrc_canonical {s : State} (h : s.canonical = true) (d : Nat) (f : Source → Source) : (s.updSrc d f).canonical = true := by
  unfold State.updSrc; split <;> exact h

theorem freeBytes_canonical {s : State} (h : s.canonical = true) (n : Nat) : (s.freeBytes n).2.canonical = true := h

theorem raceRead_canonical {s : State} (h : s.canonical = true) (ac : Acc) (lo : Nat) (bs : List Byte) :
    (s.raceRead ac lo bs).2.canonical = true := by
  unfold State.raceRead; simp only; split <;> exact h

theorem raceWrite_canonical {s : State} (h : s.canonical = true) (ac : Acc) (lo : Nat) (old : List Byte) (new : List (Option Byte)) :
    (s.raceWrite ac lo old new).2.canonical = true := by
  unfold State.raceWrite; simp only; split <;> exact h

theorem updWarp_canonical {s : State} (h : s.canonical = true) (c wix : Nat) (f : Warp → Warp) : (s.updWarp c wix f).canonical = true := h

theorem wakeWarp_canonical {s t : State} (h : s.canonical = true) {c wix gen : Nat} {held : Bool} (ht : s.wakeWarp c wix gen held = some t) :
    t.canonical = true := by
  unfold State.wakeWarp at ht
  simp only at ht
  split at ht
  · cases ht
  · split at ht
    · split at ht
      · cases ht; exact h
      · cases ht; exact h
      · cases ht
    · cases ht

theorem updPort_canonical {s : State} (h : s.canonical = true) (i : Nat) (f : Port → Port) : (s.updPort i f).canonical = true := h

theorem setPort_canonical {s : State} (h : s.canonical = true) (i st : Nat) : (s.setPort i st).canonical = true :=
  updPort_canonical (setCpw_canonical (setCpw_canonical h _ _) _ _) _ _

theorem darkIf_canonical {s : State} (h : s.canonical = true) (i : Nat) : (s.darkIf i).canonical = true := by
  unfold State.darkIf
  extract_lets p
  split
  · exact updPort_canonical (setPort_canonical h _ _) _ _
  · exact h

theorem putFlit_canonical {s : State} (h : s.canonical = true) (i : Nat) (f : Flit) : (s.putFlit i f).canonical = true := h

theorem sendFlit_canonical {s : State} (h : s.canonical = true) (i : Nat) (x : Nat × Flit × Option (Nat × Nat)) :
    (s.sendFlit i x).canonical = true := by
  unfold State.sendFlit
  extract_lets s1
  split
  · exact putFlit_canonical (updPort_canonical h _ _) _ _
  · extract_lets s2
    split
    · exact updPort_canonical (putFlit_canonical (updPort_canonical h _ _) _ _) _ _
    · exact darkIf_canonical (updPort_canonical (putFlit_canonical (updPort_canonical h _ _) _ _) _ _) _

theorem drainPort_canonical (i n : Nat) : ∀ {s : State}, s.canonical = true → (s.drainPort i n).canonical = true := by
  induction n with
  | zero => exact fun h => h
  | succ n ih =>
    intro s h
    unfold State.drainPort
    split
    · exact h
    · split
      · exact h
      · exact ih (sendFlit_canonical h _ _)

theorem onPort_canonical {s : State} (h : s.canonical = true) (i hop : Nat) (p : Packet) (by_ : Option (Nat × Nat)) :
    (s.onPort i hop p by_).canonical = true :=
  drainPort_canonical i _ (s := s.updPort i _) h

theorem idleLinks_canonical {s : State} (h : s.canonical = true) : s.idleLinks.canonical = true := by
  unfold State.idleLinks
  apply foldl_canonical _ _ _ _ h
  intro t i ht
  split
  · exact putFlit_canonical ht _ _
  · exact ht

theorem sourceRoute_canonical {s : State} (h : s.canonical = true) (d : Nat) : (s.sourceRoute d).2.canonical = true := by
  unfold State.sourceRoute; extract_lets; split <;> exact h

theorem transmit_canonical {s : State} (h : s.canonical = true) (p : Packet) : (s.transmit p).canonical = true := by
  have k := sourceRoute_canonical h p.dst.toNat
  unfold State.transmit
  extract_lets d out
  split
  · exact h
  · generalize s.sourceRoute d = r at *
    obtain ⟨c, s1⟩ := r
    cases c with
    | none =>
      show (if noPsn p.opc.toNat then s1 else _).canonical = true
      split
      · exact k
      · exact updDest_canonical k _ _
    | some c =>
      apply onPort_canonical
      apply updDest_canonical
      exact k

theorem flush_canonical (d n : Nat) : ∀ {s : State}, s.canonical = true → (s.flush d n).canonical = true := by
  induction n with
  | zero => exact fun h => h
  | succ n ih =>
    intro s h
    unfold State.flush
    extract_lets x
    split
    · exact h
    · split
      · exact h
      · split
        · exact updDest_canonical h _ _
        · exact ih (transmit_canonical (updDest_canonical h _ _) _)

theorem sendPacket_canonical {s : State} (h : s.canonical = true) (p : Packet) : (s.sendPacket p).canonical = true := by
  unfold State.sendPacket
  extract_lets d s1
  split
  · exact transmit_canonical h p
  · split
    · exact h
    · exact flush_canonical _ _ (updDest_canonical h _ _)

theorem sendSack_canonical {s : State} (h : s.canonical = true) (src block : Nat) : (s.sendSack src block).canonical = true :=
  sendPacket_canonical (updSrc_canonical h _ _) _

theorem performed_canonical {s : State} (h : s.canonical = true) (src psn : Nat) : (s.performed src psn).canonical = true := by
  unfold State.performed
  extract_lets block s1 n
  split
  · exact sendSack_canonical (updSrc_canonical h _ _) _ _
  · exact updSrc_canonical h _ _

theorem ackMon_canonical {s : State} (h : s.canonical = true) (m : Mon) : (s.ackMon m).canonical = true := by
  unfold State.ackMon
  split
  · exact performed_canonical h _ _
  · exact h

theorem mons_canonical {s : State} (h : s.canonical = true) (ms : List Mon) : ({ s with mons := ms }).canonical = true := h

theorem fireMon_canonical {s : State} (h : s.canonical = true) (m : Mon) (held : Bool) : (s.fireMon m held).canonical = true := by
  unfold State.fireMon
  split
  · exact ackMon_canonical (sendPacket_canonical (mons_canonical h _) _) _
  · split
    · rename_i s1 hs; exact mons_canonical (wakeWarp_canonical h hs) _
    · exact h

/-- Whatever makes the records keeps the form. -/
def KeepsForm (rec_ : Recorder) : Prop := ∀ s r, s.canonical = true → (rec_ s r).canonical = true

theorem rateRecBy_canonical {rec_ : Recorder} (hr : KeepsForm rec_) {s : State} (h : s.canonical = true) (key : Nat) (r : FRec) :
    (s.rateRecBy rec_ key r).canonical = true := by
  unfold State.rateRecBy
  split
  · split
    · exact h
    · exact hr _ _ h
  · exact hr _ _ h

theorem keyRecBy_canonical {rec_ : Recorder} (hr : KeepsForm rec_) {s : State} (h : s.canonical = true) (pa : Nat) :
    (s.keyRecBy rec_ pa).canonical = true := rateRecBy_canonical hr h _ _

theorem mixCheckBy_canonical {rec_ : Recorder} (hr : KeepsForm rec_) {s : State} (h : s.canonical = true) (ac : Acc) (pa n : Nat) :
    (s.mixCheckBy rec_ ac pa n).canonical = true := by
  unfold State.mixCheckBy
  extract_lets k loc mine s1
  have h1 : s1.canonical = true := h
  split
  · split
    · split
      · exact hr _ _ h1
      · exact h1
    · exact h1
  · exact h

theorem monReadBy_canonical {rec_ : Recorder} (hr : KeepsForm rec_) {s : State} (h : s.canonical = true) (m : Mon) :
    (s.monReadBy rec_ m).2.canonical = true := by
  unfold State.monReadBy
  extract_lets ac s1
  apply raceRead_canonical
  apply mixCheckBy_canonical hr
  show (if _ then s.keyRecBy rec_ m.pa else s).canonical = true
  split
  · exact keyRecBy_canonical hr h _
  · exact h

theorem fireHits_canonical {rec_ : Recorder} (hr : KeepsForm rec_) {s : State} (h : s.canonical = true) (pa n : Nat) :
    (s.fireHits rec_ pa n).canonical = true := by
  unfold State.fireHits
  apply foldl_canonical _ _ _ _ h
  intro t m ht
  split
  · exact hr _ _ (fireMon_canonical ht _ _)
  · dsimp only
    split
    · exact fireMon_canonical (monReadBy_canonical hr ht m) _ _
    · exact monReadBy_canonical hr ht m

theorem layMons_canonical {rec_ : Recorder} (hr : KeepsForm rec_) {s : State} (h : s.canonical = true) (slice : Nat) :
    (s.layMons rec_ slice).canonical = true :=
  fireHits_canonical hr (pokeKey0_canonical h _ _) _ _

theorem monRefillBy_canonical {rec_ : Recorder} (hr : KeepsForm rec_) (slice n : Nat) :
    ∀ {s : State}, s.canonical = true → (State.monRefillBy rec_ slice n s).canonical = true := by
  induction n with
  | zero => exact fun h => h
  | succ n ih =>
    intro s h
    unfold State.monRefillBy
    extract_lets mine go
    have k := monReadBy_canonical hr h
    split
    · split
      · exact ih (layMons_canonical hr (mons_canonical h _) _)
      · split
        · split
          · exact ih (fireMon_canonical h _ _)
          · split
            · exact ih (fireMon_canonical (hr _ _ h) _ _)
            · dsimp only
              split
              · exact ih (fireMon_canonical (k _) _ _)
              · exact ih (ackMon_canonical (mons_canonical (k _) _) _)
        · exact h
    · exact h

theorem monRefillAllBy_canonical {rec_ : Recorder} (hr : KeepsForm rec_) {s : State} (h : s.canonical = true) :
    (s.monRefillAllBy rec_).canonical = true := by
  unfold State.monRefillAllBy
  exact foldl_canonical _ (fun t sl ht => monRefillBy_canonical hr sl _ ht) _ _ h

theorem evalMonsBy_canonical {rec_ : Recorder} (hr : KeepsForm rec_) {s : State} (h : s.canonical = true) (pa n : Nat) :
    (s.evalMonsBy rec_ pa n).canonical = true := by
  unfold State.evalMonsBy
  split
  · exact h
  · exact monRefillAllBy_canonical hr (fireHits_canonical hr h _ _)

theorem ringRecN_canonical : ∀ n, KeepsForm (State.ringRecN n)
  | 0 => fun _ _ h => ringPut_canonical h _
  | n + 1 => fun s r h => by
    have k := ringPut_canonical h r
    unfold State.ringRecN
    generalize s.ringPut r = x at *
    obtain ⟨t, p⟩ := x
    cases p with
    | none => exact k
    | some pa => exact evalMonsBy_canonical (ringRecN_canonical n) k _ _

theorem ringRec_canonical {s : State} (h : s.canonical = true) (r : FRec) : (s.ringRec r).canonical = true := ringRecN_canonical _ _ _ h

theorem keepsForm_ringRec : KeepsForm State.ringRec := fun _ _ h => ringRec_canonical h _

theorem monRefillAll_canonical {s : State} (h : s.canonical = true) : s.monRefillAll.canonical = true :=
  monRefillAllBy_canonical keepsForm_ringRec h

theorem evalMons_canonical {s : State} (h : s.canonical = true) (pa n : Nat) : (s.evalMons pa n).canonical = true :=
  evalMonsBy_canonical keepsForm_ringRec h _ _

theorem rateRec_canonical {s : State} (h : s.canonical = true) (key : Nat) (r : FRec) : (s.rateRec key r).canonical = true :=
  rateRecBy_canonical keepsForm_ringRec h key r

theorem keyRec_canonical {s : State} (h : s.canonical = true) (pa : Nat) : (s.keyRec pa).canonical = true := rateRec_canonical h _ _

theorem pokePA_canonical {s : State} (h : s.canonical = true) (pa : Nat) (bs : List Byte) : (s.pokePA pa bs).canonical = true := by
  unfold State.pokePA
  split
  · exact keyRec_canonical h _
  · extract_lets loc
    apply evalMons_canonical
    apply foldl_canonical _ _ _ _ h
    intro t k ht
    exact pokeRaw_canonical (touch_canonical ht _) _ _ _

theorem mixCheck_canonical {s : State} (h : s.canonical = true) (ac : Acc) (pa n : Nat) : (s.mixCheck ac pa n).canonical = true :=
  mixCheckBy_canonical keepsForm_ringRec h ac pa n

/-! ### Local HBM -/

theorem loadPA_canonical {s : State} (h : s.canonical = true) (ac : Acc) (pa n : Nat) : (s.loadPA ac pa n).2.canonical = true := by
  unfold State.loadPA
  extract_lets s1
  refine raceRead_canonical (touch_canonical (mixCheck_canonical ?_ _ _ _) _) _ _ _
  show State.canonical (if _ then _ else _) = true
  split
  · exact keyRec_canonical h _
  · exact h

theorem storeNote_canonical {s : State} (h : s.canonical = true) (ac : Acc) (pa : Nat) (bs : List (Option Byte)) (note : HB → HB) :
    (s.storeNote ac pa bs note).canonical = true := by
  unfold State.storeNote
  split
  · exact keyRec_canonical h _
  · extract_lets loc
    have k := raceWrite_canonical (touch_canonical (mixCheck_canonical h ac pa bs.length) pa) ac loc (s.peek pa bs.length) bs
    generalize State.raceWrite _ ac loc (s.peek pa bs.length) bs = r at *
    exact evalMons_canonical (hb_canonical (pokeRaw_canonical k _ _ _) _) _ _

/-- A store to local HBM. -/
theorem storePA_canonical {s : State} (h : s.canonical = true) (ac : Acc) (pa : Nat) (bs : List (Option Byte)) (rmw : Bool) :
    (s.storePA ac pa bs rmw).canonical = true := storeNote_canonical h _ _ _ _

/-! ### Host memory and the scratchpad -/

theorem hostNote_canonical {s : State} (h : s.canonical = true) (ac : Acc) (a : Nat) (bs : List (Option Byte)) (note : HB → HB) :
    (s.hostNote ac a bs note).canonical = true := by
  have k := raceWrite_canonical (s := s.onBus a) h ac.hostSc (hbHost (locOf a)) (SMap.getN s.hostMem bs.length (locOf a)) bs
  unfold State.hostNote
  simp only
  rw [canonical_iff] at *
  exact ⟨k.1, SMap.setIf_wf _ _ _ k.2.1, k.2.2⟩

theorem storeHost_canonical {s : State} (h : s.canonical = true) (ac : Acc) (a : Nat) (bs : List (Option Byte)) (rmw : Bool) :
    (s.storeHost ac a bs rmw).canonical = true := hostNote_canonical h _ _ _ _

theorem storeSpBy_canonical {s : State} (h : s.canonical = true) (ac : Acc) (c a : Nat) (bs : List (Option Byte)) (rmw : Bool) :
    (s.storeSpBy ac c a bs rmw).canonical = true :=
  raceWrite_canonical h ac (hbSp c a) (SMap.getN (s.core c).sp bs.length a) bs

/-- The scratchpad that is written keeps its form. -/
theorem storeSpBy_wf {s : State} (ac : Acc) (c a : Nat) (bs : List (Option Byte)) (rmw : Bool) (d : Nat) (h : SMap.wf (s.core d).sp = true) :
    SMap.wf ((s.storeSpBy ac c a bs rmw).core d).sp = true := by
  have k : ∀ old, ((s.raceWrite ac (hbSp c a) old bs).2.core d) = s.core d := by
    intro old; unfold State.raceWrite; simp only; split <;> rfl
  have kc : ∀ old, ((s.raceWrite ac (hbSp c a) old bs).2.cores) = s.cores := by
    intro old; unfold State.raceWrite; simp only; split <;> rfl
  unfold State.storeSpBy
  simp only [State.core_updCore]
  split
  · simp only [State.core, kc] at *
    exact SMap.setIf_wf _ _ _ h
  · simp only [State.core, kc] at *
    exact h

theorem storeSp_canonical {s : State} (h : s.canonical = true) (ac : Acc) (c a : Nat) (bs : List (Option Byte)) (rmw : Bool) :
    (s.storeSp ac c a bs rmw).canonical = true := storeSpBy_canonical h _ _ _ _ _

theorem storeSp_wf {s : State} (ac : Acc) (c a : Nat) (bs : List (Option Byte)) (rmw : Bool) (d : Nat) (h : SMap.wf (s.core d).sp = true) :
    SMap.wf ((s.storeSp ac c a bs rmw).core d).sp = true := storeSpBy_wf _ _ _ _ _ _ h

end Sys2Proof.Machine
end

