-- ==== Sys2Proof/Laws/PerInstr.lean ====
section
/-! SUPPORT. Facts about every instruction as syntax, one lemma for each constructor. -/

namespace Sys2Proof.Laws.Encoded

/-- R301, R308: a row has a format exactly when it has an opcode, and its opcode is one of the map. -/
def Statement (i : Instr) : Prop := i.fmt.isSome = i.sig.isSome ∧ ∀ s, i.sig = some s → opListed s.op = true

theorem packageReset : Statement .packageReset := ⟨rfl, nofun⟩
theorem dpst (rd rs1 rs2 : BitVec 5) : Statement (.dpst rd rs1 rs2) := ⟨rfl, nofun⟩
theorem clret : Statement .clret := ⟨rfl, nofun⟩
theorem deposit (page : Nat) (orig : Origin) (data : List Byte) : Statement (.deposit page orig data) := ⟨rfl, nofun⟩
theorem depositToRecords : Statement .depositToRecords := ⟨rfl, nofun⟩
theorem dpcfgWrite (i : Nat) (val : DWord) : Statement (.dpcfgWrite i val) := ⟨rfl, nofun⟩
theorem uitcfgWrite (i : Nat) (val : DWord) : Statement (.uitcfgWrite i val) := ⟨rfl, nofun⟩
theorem dequeEntryWrite (i k : Nat) (val : DWord) : Statement (.dequeEntryWrite i k val) := ⟨rfl, nofun⟩
theorem gpctlWrite (i : Nat) (val : DWord) : Statement (.gpctlWrite i val) := ⟨rfl, nofun⟩
theorem grtselWrite (val : DWord) : Statement (.grtselWrite val) := ⟨rfl, nofun⟩
theorem ptpcfgWrite (val : DWord) : Statement (.ptpcfgWrite val) := ⟨rfl, nofun⟩
theorem erlostWrite (val : DWord) : Statement (.erlostWrite val) := ⟨rfl, nofun⟩
theorem registerWrite (off size : Nat) (val : DWord) : Statement (.registerWrite off size val) := ⟨rfl, nofun⟩
theorem nreg (c : Cmd) : Statement (.nreg c) := ⟨rfl, nofun⟩
theorem nunreg (c : Cmd) : Statement (.nunreg c) := ⟨rfl, nofun⟩
theorem nodeUnregisterEffect (gen nid : Nat) : Statement (.nodeUnregisterEffect gen nid) := ⟨rfl, nofun⟩
theorem keygen (c : Cmd) : Statement (.keygen c) := ⟨rfl, nofun⟩
theorem keykill (c : Cmd) : Statement (.keykill c) := ⟨rfl, nofun⟩
theorem partset (c : Cmd) : Statement (.partset c) := ⟨rfl, nofun⟩
theorem attest (c : Cmd) : Statement (.attest c) := ⟨rfl, nofun⟩
theorem cmdUndefined (c : Cmd) : Statement (.cmdUndefined c) := ⟨rfl, nofun⟩
theorem tillSpillReturn (die : Nat) : Statement (.tillSpillReturn die) := ⟨rfl, nofun⟩
theorem tillTimerExpiry (gen nid die : Nat) : Statement (.tillTimerExpiry gen nid die) := ⟨rfl, nofun⟩
theorem bgPromotion (gen nid die : Nat) : Statement (.bgPromotion gen nid die) := ⟨rfl, nofun⟩
theorem groupAdmission (die : Nat) : Statement (.groupAdmission die) := ⟨rfl, nofun⟩
theorem stagingComplete (core group : Nat) : Statement (.stagingComplete core group) := ⟨rfl, nofun⟩
theorem warpParkTimeout (core warp : Nat) : Statement (.warpParkTimeout core warp) := ⟨rfl, nofun⟩
theorem warpUnpark (core slice : Nat) : Statement (.warpUnpark core slice) := ⟨rfl, nofun⟩
theorem yieldIntervalEnd (core warp : Nat) : Statement (.yieldIntervalEnd core warp) := ⟨rfl, nofun⟩
theorem loadDataReturn (core warp op : Nat) : Statement (.loadDataReturn core warp op) := ⟨rfl, nofun⟩
theorem warpComplete (core warp : Nat) : Statement (.warpComplete core warp) := ⟨rfl, nofun⟩
theorem queueCommitNotice (core group ring : Nat) (count : Word) : Statement (.queueCommitNotice core group ring count) := ⟨rfl, nofun⟩
theorem matrixResultWritten (core warp : Nat) : Statement (.matrixResultWritten core warp) := ⟨rfl, nofun⟩
theorem redPerformed (core warp : Nat) : Statement (.redPerformed core warp) := ⟨rfl, nofun⟩
theorem copyPosting (core copy count : Nat) : Statement (.copyPosting core copy count) := ⟨rfl, nofun⟩
theorem copyComplete (core copy : Nat) : Statement (.copyComplete core copy) := ⟨rfl, nofun⟩
theorem monitorDeadline (k : Nat) : Statement (.monitorDeadline k) := ⟨rfl, nofun⟩
theorem switchPrepare (core : Nat) : Statement (.switchPrepare core) := ⟨rfl, nofun⟩
theorem switchSignal : Statement .switchSignal := ⟨rfl, nofun⟩
theorem switchHaltEnd (core : Nat) : Statement (.switchHaltEnd core) := ⟨rfl, nofun⟩
theorem switchDrainEnd (core : Nat) : Statement (.switchDrainEnd core) := ⟨rfl, nofun⟩
theorem switchDrainLimit (core : Nat) : Statement (.switchDrainLimit core) := ⟨rfl, nofun⟩
theorem switchSaveEnd (core : Nat) : Statement (.switchSaveEnd core) := ⟨rfl, nofun⟩
theorem clockChangeEnd (core : Nat) : Statement (.clockChangeEnd core) := ⟨rfl, nofun⟩
theorem switchRestoreEnd (core : Nat) : Statement (.switchRestoreEnd core) := ⟨rfl, nofun⟩
theorem flitReceive (port : Nat) (flit : Flit) : Statement (.flitReceive port flit) := ⟨rfl, nofun⟩
theorem resyncTimer (port : Nat) : Statement (.resyncTimer port) := ⟨rfl, nofun⟩
theorem resyncReceive (port : Nat) (flit : Flit) : Statement (.resyncReceive port flit) := ⟨rfl, nofun⟩
theorem drainMarkerSend (port : Nat) : Statement (.drainMarkerSend port) := ⟨rfl, nofun⟩
theorem drainMarkerReceive (port : Nat) : Statement (.drainMarkerReceive port) := ⟨rfl, nofun⟩
theorem drainMarkerTimeout (port : Nat) : Statement (.drainMarkerTimeout port) := ⟨rfl, nofun⟩
theorem portLightLoss (port : Nat) : Statement (.portLightLoss port) := ⟨rfl, nofun⟩
theorem sackTimer (src block : Nat) : Statement (.sackTimer src block) := ⟨rfl, nofun⟩
theorem packetRetransmit (dst psn : Nat) : Statement (.packetRetransmit dst psn) := ⟨rfl, nofun⟩
theorem epochSend (dst : Nat) : Statement (.epochSend dst) := ⟨rfl, nofun⟩
theorem rd (p : Packet) : Statement (.rd p) := ⟨rfl, nofun⟩
theorem wr (p : Packet) : Statement (.wr p) := ⟨rfl, nofun⟩
theorem atomPacket (p : Packet) : Statement (.atomPacket p) := ⟨rfl, nofun⟩
theorem redPacket (p : Packet) : Statement (.redPacket p) := ⟨rfl, nofun⟩
theorem taskDecrementPacket (p : Packet) : Statement (.taskDecrementPacket p) := ⟨rfl, nofun⟩
theorem mon (p : Packet) : Statement (.mon p) := ⟨rfl, nofun⟩
theorem recPacket (p : Packet) : Statement (.recPacket p) := ⟨rfl, nofun⟩
theorem claim (p : Packet) : Statement (.claim p) := ⟨rfl, nofun⟩
theorem esct (p : Packet) : Statement (.esct p) := ⟨rfl, nofun⟩
theorem escd (p : Packet) : Statement (.escd p) := ⟨rfl, nofun⟩
theorem rdr (p : Packet) : Statement (.rdr p) := ⟨rfl, nofun⟩
theorem atomr (p : Packet) : Statement (.atomr p) := ⟨rfl, nofun⟩
theorem claimr (p : Packet) : Statement (.claimr p) := ⟨rfl, nofun⟩
theorem errr (p : Packet) : Statement (.errr p) := ⟨rfl, nofun⟩
theorem sack (p : Packet) : Statement (.sack p) := ⟨rfl, nofun⟩
theorem wake (p : Packet) : Statement (.wake p) := ⟨rfl, nofun⟩
theorem fbar (p : Packet) : Statement (.fbar p) := ⟨rfl, nofun⟩
theorem frel (p : Packet) : Statement (.frel p) := ⟨rfl, nofun⟩
theorem sdec (p : Packet) : Statement (.sdec p) := ⟨rfl, nofun⟩
theorem snot (p : Packet) : Statement (.snot p) := ⟨rfl, nofun⟩
theorem tte (p : Packet) : Statement (.tte p) := ⟨rfl, nofun⟩
theorem ptpm (p : Packet) : Statement (.ptpm p) := ⟨rfl, nofun⟩
theorem pren (p : Packet) : Statement (.pren p) := ⟨rfl, nofun⟩
theorem ttr (p : Packet) : Statement (.ttr p) := ⟨rfl, nofun⟩
theorem abrt (p : Packet) : Statement (.abrt p) := ⟨rfl, nofun⟩
theorem fwdr (p : Packet) : Statement (.fwdr p) := ⟨rfl, nofun⟩
theorem epoch (p : Packet) : Statement (.epoch p) := ⟨rfl, nofun⟩
theorem nop (f : Fmt) : Statement (.nop f) := ⟨rfl, by rintro s ⟨⟩; rfl⟩
theorem bra (f : Fmt) : Statement (.bra f) := ⟨rfl, by rintro s ⟨⟩; rfl⟩
theorem brx (f : Fmt) : Statement (.brx f) := ⟨rfl, by rintro s ⟨⟩; rfl⟩
theorem call (f : Fmt) : Statement (.call f) := ⟨rfl, by rintro s ⟨⟩; rfl⟩
theorem ret (f : Fmt) : Statement (.ret f) := ⟨rfl, by rintro s ⟨⟩; rfl⟩
theorem exit (f : Fmt) : Statement (.exit f) := ⟨rfl, by rintro s ⟨⟩; rfl⟩
theorem cvset (f : Fmt) : Statement (.cvset f) := ⟨rfl, by rintro s ⟨⟩; rfl⟩
theorem cvwait (f : Fmt) : Statement (.cvwait f) := ⟨rfl, by rintro s ⟨⟩; rfl⟩
theorem yield (f : Fmt) : Statement (.yield f) := ⟨rfl, by rintro s ⟨⟩; rfl⟩
theorem trap (f : Fmt) : Statement (.trap f) := ⟨rfl, by rintro s ⟨⟩; rfl⟩
theorem svc (f : Fmt) : Statement (.svc f) := ⟨rfl, by rintro s ⟨⟩; rfl⟩
theorem brk (f : Fmt) : Statement (.brk f) := ⟨rfl, by rintro s ⟨⟩; rfl⟩
theorem sget (f : Fmt) (sidx : BitVec 4) : Statement (.sget f sidx) := ⟨rfl, by rintro s ⟨⟩; rfl⟩
theorem sset (f : Fmt) (sidx : BitVec 4) : Statement (.sset f sidx) := ⟨rfl, by rintro s ⟨⟩; rfl⟩
theorem mxhint (f : Fmt) : Statement (.mxhint f) := ⟨rfl, by rintro s ⟨⟩; rfl⟩
theorem pset (f : Fmt) (cmp : ICmp) (t : Ty) : Statement (.pset f cmp t) := ⟨rfl, by rintro s ⟨⟩; rfl⟩
theorem psetf (f : Fmt) (cmp : FCmp) (t : Ty) : Statement (.psetf f cmp t) := ⟨rfl, by rintro s ⟨⟩; rfl⟩
theorem plog (f : Fmt) (lut : Byte) : Statement (.plog f lut) := ⟨rfl, by rintro s ⟨⟩; rfl⟩
theorem pmovGet (f : Fmt) : Statement (.pmovGet f) := ⟨rfl, by rintro s ⟨⟩; rfl⟩
theorem pmovPut (f : Fmt) : Statement (.pmovPut f) := ⟨rfl, by rintro s ⟨⟩; rfl⟩
theorem vote (f : Fmt) (op : VOp) : Statement (.vote f op) := ⟨rfl, by rintro s ⟨⟩; rfl⟩
theorem add (f : Fmt) (t : Ty) (sat : Bool) : Statement (.add f t sat) := ⟨rfl, by rintro s ⟨⟩; rfl⟩
theorem sub (f : Fmt) (t : Ty) (sat : Bool) : Statement (.sub f t sat) := ⟨rfl, by rintro s ⟨⟩; rfl⟩
theorem addc (f : Fmt) (t : Ty) (cp : BitVec 4) : Statement (.addc f t cp) := ⟨rfl, by rintro s ⟨⟩; rfl⟩
theorem subb (f : Fmt) (t : Ty) (cp : BitVec 4) : Statement (.subb f t cp) := ⟨rfl, by rintro s ⟨⟩; rfl⟩
theorem mul (f : Fmt) (t : Ty) : Statement (.mul f t) := ⟨rfl, by rintro s ⟨⟩; rfl⟩
theorem mulhi (f : Fmt) (t : Ty) : Statement (.mulhi f t) := ⟨rfl, by rintro s ⟨⟩; rfl⟩
theorem mad (f : Fmt) (t : Ty) : Statement (.mad f t) := ⟨rfl, by rintro s ⟨⟩; rfl⟩
theorem madhi (f : Fmt) (t : Ty) : Statement (.madhi f t) := ⟨rfl, by rintro s ⟨⟩; rfl⟩
theorem div (f : Fmt) (t : Ty) : Statement (.div f t) := ⟨rfl, by rintro s ⟨⟩; rfl⟩
theorem rem (f : Fmt) (t : Ty) : Statement (.rem f t) := ⟨rfl, by rintro s ⟨⟩; rfl⟩
theorem min (f : Fmt) (t : Ty) : Statement (.min f t) := ⟨rfl, by rintro s ⟨⟩; rfl⟩
theorem max (f : Fmt) (t : Ty) : Statement (.max f t) := ⟨rfl, by rintro s ⟨⟩; rfl⟩
theorem abs (f : Fmt) (t : Ty) (sat : Bool) : Statement (.abs f t sat) := ⟨rfl, by rintro s ⟨⟩; rfl⟩
theorem neg (f : Fmt) (t : Ty) (sat : Bool) : Statement (.neg f t sat) := ⟨rfl, by rintro s ⟨⟩; rfl⟩
theorem lea (f : Fmt) (t : Ty) (sh : BitVec 3) : Statement (.lea f t sh) := ⟨rfl, by rintro s ⟨⟩; rfl⟩
theorem and (f : Fmt) (t : Ty) : Statement (.and f t) := ⟨rfl, by rintro s ⟨⟩; rfl⟩
theorem or (f : Fmt) (t : Ty) : Statement (.or f t) := ⟨rfl, by rintro s ⟨⟩; rfl⟩
theorem xor (f : Fmt) (t : Ty) : Statement (.xor f t) := ⟨rfl, by rintro s ⟨⟩; rfl⟩
theorem not (f : Fmt) (t : Ty) : Statement (.not f t) := ⟨rfl, by rintro s ⟨⟩; rfl⟩
theorem andn (f : Fmt) (t : Ty) : Statement (.andn f t) := ⟨rfl, by rintro s ⟨⟩; rfl⟩
theorem shl (f : Fmt) (t : Ty) : Statement (.shl f t) := ⟨rfl, by rintro s ⟨⟩; rfl⟩
theorem shr (f : Fmt) (t : Ty) : Statement (.shr f t) := ⟨rfl, by rintro s ⟨⟩; rfl⟩
theorem sar (f : Fmt) (t : Ty) : Statement (.sar f t) := ⟨rfl, by rintro s ⟨⟩; rfl⟩
theorem rot (f : Fmt) (t : Ty) : Statement (.rot f t) := ⟨rfl, by rintro s ⟨⟩; rfl⟩
theorem bfx (f : Fmt) (t : Ty) : Statement (.bfx f t) := ⟨rfl, by rintro s ⟨⟩; rfl⟩
theorem bfi (f : Fmt) (t : Ty) : Statement (.bfi f t) := ⟨rfl, by rintro s ⟨⟩; rfl⟩
theorem popc (f : Fmt) (t : Ty) : Statement (.popc f t) := ⟨rfl, by rintro s ⟨⟩; rfl⟩
theorem clz (f : Fmt) (t : Ty) : Statement (.clz f t) := ⟨rfl, by rintro s ⟨⟩; rfl⟩
theorem ctz (f : Fmt) (t : Ty) : Statement (.ctz f t) := ⟨rfl, by rintro s ⟨⟩; rfl⟩
theorem brev (f : Fmt) (t : Ty) : Statement (.brev f t) := ⟨rfl, by rintro s ⟨⟩; rfl⟩
theorem sel (f : Fmt) (t : Ty) (ps : BitVec 4) : Statement (.sel f t ps) := ⟨rfl, by rintro s ⟨⟩; rfl⟩
theorem mov (f : Fmt) (t : Ty) : Statement (.mov f t) := ⟨rfl, by rintro s ⟨⟩; rfl⟩
theorem movi (f : Fmt) (t : Ty) : Statement (.movi f t) := ⟨rfl, by rintro s ⟨⟩; rfl⟩
theorem movd (f : Fmt) (t : Ty) (lo : Word) : Statement (.movd f t lo) := ⟨rfl, by rintro s ⟨⟩; rfl⟩
theorem prmt (f : Fmt) : Statement (.prmt f) := ⟨rfl, by rintro s ⟨⟩; rfl⟩
theorem fadd (f : Fmt) (t : Ty) : Statement (.fadd f t) := ⟨rfl, by rintro s ⟨⟩; rfl⟩
theorem fsub (f : Fmt) (t : Ty) : Statement (.fsub f t) := ⟨rfl, by rintro s ⟨⟩; rfl⟩
theorem fmul (f : Fmt) (t : Ty) : Statement (.fmul f t) := ⟨rfl, by rintro s ⟨⟩; rfl⟩
theorem ffma (f : Fmt) (t : Ty) : Statement (.ffma f t) := ⟨rfl, by rintro s ⟨⟩; rfl⟩
theorem fmin (f : Fmt) (t : Ty) : Statement (.fmin f t) := ⟨rfl, by rintro s ⟨⟩; rfl⟩
theorem fmax (f : Fmt) (t : Ty) : Statement (.fmax f t) := ⟨rfl, by rintro s ⟨⟩; rfl⟩
theorem fneg (f : Fmt) (t : Ty) : Statement (.fneg f t) := ⟨rfl, by rintro s ⟨⟩; rfl⟩
theorem fabs (f : Fmt) (t : Ty) : Statement (.fabs f t) := ⟨rfl, by rintro s ⟨⟩; rfl⟩
theorem fcsign (f : Fmt) (t : Ty) : Statement (.fcsign f t) := ⟨rfl, by rintro s ⟨⟩; rfl⟩
theorem fdiv (f : Fmt) (t : Ty) : Statement (.fdiv f t) := ⟨rfl, by rintro s ⟨⟩; rfl⟩
theorem fsqrt (f : Fmt) (t : Ty) : Statement (.fsqrt f t) := ⟨rfl, by rintro s ⟨⟩; rfl⟩
theorem fscale (f : Fmt) (t : Ty) : Statement (.fscale f t) := ⟨rfl, by rintro s ⟨⟩; rfl⟩
theorem fgexp (f : Fmt) (t : Ty) : Statement (.fgexp f t) := ⟨rfl, by rintro s ⟨⟩; rfl⟩
theorem frnd (f : Fmt) (t : Ty) : Statement (.frnd f t) := ⟨rfl, by rintro s ⟨⟩; rfl⟩
theorem fcls (f : Fmt) (t : Ty) : Statement (.fcls f t) := ⟨rfl, by rintro s ⟨⟩; rfl⟩
theorem fcvt (f : Fmt) (dt st : Ty) (inf : Bool) : Statement (.fcvt f dt st inf) := ⟨rfl, by rintro s ⟨⟩; rfl⟩
theorem icvt (f : Fmt) (dt st : Ty) (inf : Bool) : Statement (.icvt f dt st inf) := ⟨rfl, by rintro s ⟨⟩; rfl⟩
theorem vsin (f : Fmt) : Statement (.vsin f) := ⟨rfl, by rintro s ⟨⟩; rfl⟩
theorem vcos (f : Fmt) : Statement (.vcos f) := ⟨rfl, by rintro s ⟨⟩; rfl⟩
theorem vscs (f : Fmt) : Statement (.vscs f) := ⟨rfl, by rintro s ⟨⟩; rfl⟩
theorem vex2 (f : Fmt) : Statement (.vex2 f) := ⟨rfl, by rintro s ⟨⟩; rfl⟩
theorem vlg2 (f : Fmt) : Statement (.vlg2 f) := ⟨rfl, by rintro s ⟨⟩; rfl⟩
theorem vrcp (f : Fmt) : Statement (.vrcp f) := ⟨rfl, by rintro s ⟨⟩; rfl⟩
theorem vrsq (f : Fmt) : Statement (.vrsq f) := ⟨rfl, by rintro s ⟨⟩; rfl⟩
theorem vtanh (f : Fmt) : Statement (.vtanh f) := ⟨rfl, by rintro s ⟨⟩; rfl⟩
theorem padd (f : Fmt) (t : Ty) (inf : Bool) : Statement (.padd f t inf) := ⟨rfl, by rintro s ⟨⟩; rfl⟩
theorem psub (f : Fmt) (t : Ty) (inf : Bool) : Statement (.psub f t inf) := ⟨rfl, by rintro s ⟨⟩; rfl⟩
theorem pmul (f : Fmt) (t : Ty) (inf : Bool) : Statement (.pmul f t inf) := ⟨rfl, by rintro s ⟨⟩; rfl⟩
theorem pfma (f : Fmt) (t : Ty) (inf : Bool) : Statement (.pfma f t inf) := ⟨rfl, by rintro s ⟨⟩; rfl⟩
theorem pmin (f : Fmt) (t : Ty) : Statement (.pmin f t) := ⟨rfl, by rintro s ⟨⟩; rfl⟩
theorem pmax (f : Fmt) (t : Ty) : Statement (.pmax f t) := ⟨rfl, by rintro s ⟨⟩; rfl⟩
theorem pdot (f : Fmt) (t : Ty) (inf : Bool) : Statement (.pdot f t inf) := ⟨rfl, by rintro s ⟨⟩; rfl⟩
theorem pcvt (f : Fmt) (dt st : Ty) (inf : Bool) : Statement (.pcvt f dt st inf) := ⟨rfl, by rintro s ⟨⟩; rfl⟩
theorem ppack (f : Fmt) (t : Ty) (pos : BitVec 3) (inf : Bool) : Statement (.ppack f t pos inf) := ⟨rfl, by rintro s ⟨⟩; rfl⟩
theorem punpk (f : Fmt) (t : Ty) (pos : BitVec 3) : Statement (.punpk f t pos) := ⟨rfl, by rintro s ⟨⟩; rfl⟩
theorem pabs (f : Fmt) (t : Ty) (inf : Bool) : Statement (.pabs f t inf) := ⟨rfl, by rintro s ⟨⟩; rfl⟩
theorem lshf (f : Fmt) (t : Ty) (m : SMode) (seg : BitVec 3) : Statement (.lshf f t m seg) := ⟨rfl, by rintro s ⟨⟩; rfl⟩
theorem lred (f : Fmt) (t : Ty) (op : ROp) (seg : BitVec 3) : Statement (.lred f t op seg) := ⟨rfl, by rintro s ⟨⟩; rfl⟩
theorem lscan (f : Fmt) (t : Ty) (op : ROp) (seg : BitVec 3) (exc : Bool) : Statement (.lscan f t op seg exc) := ⟨rfl, by rintro s ⟨⟩; rfl⟩
theorem lbc (f : Fmt) (t : Ty) : Statement (.lbc f t) := ⟨rfl, by rintro s ⟨⟩; rfl⟩
theorem vhash (f : Fmt) : Statement (.vhash f) := ⟨rfl, by rintro s ⟨⟩; rfl⟩
theorem vdrop (f : Fmt) : Statement (.vdrop f) := ⟨rfl, by rintro s ⟨⟩; rfl⟩
theorem ld (f : Fmt) (sp : Space) (sz : Sz) (ord : Ord) (sco : Scope) (pr : Bool) (sh : BitVec 3) : Statement (.ld f sp sz ord sco pr sh) := ⟨rfl, by rintro s ⟨⟩; rfl⟩
theorem ldro (f : Fmt) (sz : Sz) (sh : BitVec 3) : Statement (.ldro f sz sh) := ⟨rfl, by rintro s ⟨⟩; rfl⟩
theorem ldk (f : Fmt) (cnt : BitVec 3) : Statement (.ldk f cnt) := ⟨rfl, by rintro s ⟨⟩; rfl⟩
theorem st (f : Fmt) (sp : Space) (sz : Sz) (ord : Ord) (sco : Scope) (sh : BitVec 3) : Statement (.st f sp sz ord sco sh) := ⟨rfl, by rintro s ⟨⟩; rfl⟩
theorem atom (f : Fmt) (op : AOp) (t : Ty) (ord : Ord) (sco : Scope) (pr sp : Bool) (sh : BitVec 3) : Statement (.atom f op t ord sco pr sp sh) := ⟨rfl, by rintro s ⟨⟩; rfl⟩
theorem red (f : Fmt) (op : AOp) (t : Ty) (ord : Ord) (sco : Scope) (sh : BitVec 3) : Statement (.red f op t ord sco sh) := ⟨rfl, by rintro s ⟨⟩; rfl⟩
theorem fence (f : Fmt) (ord : Ord) (sco : Scope) : Statement (.fence f ord sco) := ⟨rfl, by rintro s ⟨⟩; rfl⟩
theorem fro (f : Fmt) : Statement (.fro f) := ⟨rfl, by rintro s ⟨⟩; rfl⟩
theorem rcfence (f : Fmt) : Statement (.rcfence f) := ⟨rfl, by rintro s ⟨⟩; rfl⟩
theorem awaitCnt (f : Fmt) : Statement (.awaitCnt f) := ⟨rfl, by rintro s ⟨⟩; rfl⟩
theorem awaitPh (f : Fmt) (sco : Scope) : Statement (.awaitPh f sco) := ⟨rfl, by rintro s ⟨⟩; rfl⟩
theorem awaitPhG (f : Fmt) (sco : Scope) : Statement (.awaitPhG f sco) := ⟨rfl, by rintro s ⟨⟩; rfl⟩
theorem awaitMem (f : Fmt) (cmp : MCmp) (dw : Bool) (sco : Scope) : Statement (.awaitMem f cmp dw sco) := ⟨rfl, by rintro s ⟨⟩; rfl⟩
theorem bini (f : Fmt) : Statement (.bini f) := ⟨rfl, by rintro s ⟨⟩; rfl⟩
theorem barv (f : Fmt) (sco : Scope) : Statement (.barv f sco) := ⟨rfl, by rintro s ⟨⟩; rfl⟩
theorem bexp (f : Fmt) : Statement (.bexp f) := ⟨rfl, by rintro s ⟨⟩; rfl⟩
theorem gbarGrid (f : Fmt) : Statement (.gbarGrid f) := ⟨rfl, by rintro s ⟨⟩; rfl⟩
theorem gbarFab (f : Fmt) : Statement (.gbarFab f) := ⟨rfl, by rintro s ⟨⟩; rfl⟩
theorem qcls (f : Fmt) (qn : BitVec 3) : Statement (.qcls f qn) := ⟨rfl, by rintro s ⟨⟩; rfl⟩
theorem qstat (f : Fmt) (qn : BitVec 3) : Statement (.qstat f qn) := ⟨rfl, by rintro s ⟨⟩; rfl⟩
theorem mma (f : Fmt) (m : MmaMods) : Statement (.mma f m) := ⟨rfl, by rintro s ⟨⟩; rfl⟩
theorem mmaz (f : Fmt) (m : MmaMods) : Statement (.mmaz f m) := ⟨rfl, by rintro s ⟨⟩; rfl⟩
theorem accld (f : Fmt) (nqm : BitVec 4) (ssp : Bool) : Statement (.accld f nqm ssp) := ⟨rfl, by rintro s ⟨⟩; rfl⟩
theorem accst (f : Fmt) (nqm : BitVec 4) (ssp : Bool) : Statement (.accst f nqm ssp) := ⟨rfl, by rintro s ⟨⟩; rfl⟩
theorem accz (f : Fmt) (nqm : BitVec 4) : Statement (.accz f nqm) := ⟨rfl, by rintro s ⟨⟩; rfl⟩
theorem rqnt (f : Fmt) (inf : Bool) (sl sls : BitVec 3) : Statement (.rqnt f inf sl sls) := ⟨rfl, by rintro s ⟨⟩; rfl⟩
theorem qpack (f : Fmt) (inf : Bool) (sl : BitVec 3) : Statement (.qpack f inf sl) := ⟨rfl, by rintro s ⟨⟩; rfl⟩
theorem qunpk (f : Fmt) (inf : Bool) (sl : BitVec 3) : Statement (.qunpk f inf sl) := ⟨rfl, by rintro s ⟨⟩; rfl⟩
theorem plsplit (f : Fmt) : Statement (.plsplit f) := ⟨rfl, by rintro s ⟨⟩; rfl⟩
theorem plmrg (f : Fmt) (sl : BitVec 3) : Statement (.plmrg f sl) := ⟨rfl, by rintro s ⟨⟩; rfl⟩
theorem topk (f : Fmt) (t : Ty) (pp : Option (BitVec 4)) : Statement (.topk f t pp) := by cases pp <;> exact ⟨rfl, by rintro s ⟨⟩; rfl⟩
theorem cpy (f : Fmt) (cpl : Cpl) (ds ss : Bool) (ctw : BitVec 7) : Statement (.cpy f cpl ds ss ctw) := ⟨rfl, by rintro s ⟨⟩; rfl⟩
theorem cpyt (f : Fmt) (cpl : Cpl) (dir : Bool) (ctw : BitVec 7) : Statement (.cpyt f cpl dir ctw) := ⟨rfl, by rintro s ⟨⟩; rfl⟩
theorem cpyw (f : Fmt) (cpl : Cpl) (ctw : BitVec 7) : Statement (.cpyw f cpl ctw) := ⟨rfl, by rintro s ⟨⟩; rfl⟩
theorem cpyg (f : Fmt) (cpl : Cpl) (ctw : BitVec 7) : Statement (.cpyg f cpl ctw) := ⟨rfl, by rintro s ⟨⟩; rfl⟩
theorem cpys (f : Fmt) (cpl : Cpl) (ctw : BitVec 7) : Statement (.cpys f cpl ctw) := ⟨rfl, by rintro s ⟨⟩; rfl⟩
theorem emit (f : Fmt) : Statement (.emit f) := ⟨rfl, by rintro s ⟨⟩; rfl⟩
theorem emitRem (f : Fmt) : Statement (.emitRem f) := ⟨rfl, by rintro s ⟨⟩; rfl⟩
theorem emitTask (f : Fmt) : Statement (.emitTask f) := ⟨rfl, by rintro s ⟨⟩; rfl⟩
theorem spawn (f : Fmt) : Statement (.spawn f) := ⟨rfl, by rintro s ⟨⟩; rfl⟩
theorem tkget (f : Fmt) : Statement (.tkget f) := ⟨rfl, by rintro s ⟨⟩; rfl⟩
theorem tkgetClaim (f : Fmt) : Statement (.tkgetClaim f) := ⟨rfl, by rintro s ⟨⟩; rfl⟩
theorem tkput (f : Fmt) : Statement (.tkput f) := ⟨rfl, by rintro s ⟨⟩; rfl⟩
theorem tdec (f : Fmt) : Statement (.tdec f) := ⟨rfl, by rintro s ⟨⟩; rfl⟩
theorem tdecRem (f : Fmt) : Statement (.tdecRem f) := ⟨rfl, by rintro s ⟨⟩; rfl⟩
theorem sret (f : Fmt) (skip : Bool) : Statement (.sret f skip) := ⟨rfl, by rintro s ⟨⟩; rfl⟩
theorem mbrecv (f : Fmt) (pe pf : BitVec 4) : Statement (.mbrecv f pe pf) := ⟨rfl, by rintro s ⟨⟩; rfl⟩
theorem mbpost (f : Fmt) : Statement (.mbpost f) := ⟨rfl, by rintro s ⟨⟩; rfl⟩
theorem frep (f : Fmt) : Statement (.frep f) := ⟨rfl, by rintro s ⟨⟩; rfl⟩
theorem fdrop (f : Fmt) : Statement (.fdrop f) := ⟨rfl, by rintro s ⟨⟩; rfl⟩
theorem tlbi (f : Fmt) (scp : Bool) : Statement (.tlbi f scp) := ⟨rfl, by rintro s ⟨⟩; rfl⟩
theorem wpark (f : Fmt) : Statement (.wpark f) := ⟨rfl, by rintro s ⟨⟩; rfl⟩
theorem wwake (f : Fmt) : Statement (.wwake f) := ⟨rfl, by rintro s ⟨⟩; rfl⟩
theorem sctxRd (f : Fmt) (vlt : Bool) : Statement (.sctxRd f vlt) := ⟨rfl, by rintro s ⟨⟩; rfl⟩
theorem sctxWr (f : Fmt) (vlt : Bool) : Statement (.sctxWr f vlt) := ⟨rfl, by rintro s ⟨⟩; rfl⟩
theorem slotWindowEnd (core : Nat) : Statement (.slotWindowEnd core) := ⟨rfl, nofun⟩
theorem matrixRampTimer (core slice : Nat) : Statement (.matrixRampTimer core slice) := ⟨rfl, nofun⟩
theorem copyAccessFault (core copy : Nat) : Statement (.copyAccessFault core copy) := ⟨rfl, nofun⟩
theorem userInterruptWaitEnd (target : Nat) : Statement (.userInterruptWaitEnd target) := ⟨rfl, nofun⟩
theorem lockLossTimeout : Statement .lockLossTimeout := ⟨rfl, nofun⟩
theorem holdoverTimeout : Statement .holdoverTimeout := ⟨rfl, nofun⟩
theorem hotPageEpochEnd : Statement .hotPageEpochEnd := ⟨rfl, nofun⟩
theorem measurementExtend (i : Nat) (data : List Byte) : Statement (.measurementExtend i data) := ⟨rfl, nofun⟩
theorem cluitxWrite (hart : Nat) (val : DWord) : Statement (.cluitxWrite hart val) := ⟨rfl, nofun⟩
theorem userInterruptTake (hart : Nat) : Statement (.userInterruptTake hart) := ⟨rfl, nofun⟩
theorem vfReset (vf : Nat) : Statement (.vfReset vf) := ⟨rfl, nofun⟩
theorem coreRestart (core : Nat) : Statement (.coreRestart core) := ⟨rfl, nofun⟩
theorem ptpExchange (parent : Nat) (offset : Int) (hops : Nat) (root : Bool) (rate : Int) : Statement (.ptpExchange parent offset hops root rate) := ⟨rfl, nofun⟩
theorem patrolRead (slice : Nat) : Statement (.patrolRead slice) := ⟨rfl, nofun⟩
theorem arrayCorrectedError (pa : Nat) : Statement (.arrayCorrectedError pa) := ⟨rfl, nofun⟩
theorem arrayUncorrectableError (at_ : ArrayAt) : Statement (.arrayUncorrectableError at_) := ⟨rfl, nofun⟩
theorem hdieUncorrectableError (hcore key pa : Nat) : Statement (.hdieUncorrectableError hcore key pa) := ⟨rfl, nofun⟩
theorem portLightReturn (port : Nat) (far : BitVec 15) (fport : BitVec 6) : Statement (.portLightReturn port far fport) := ⟨rfl, nofun⟩
theorem portRelockComplete (port : Nat) : Statement (.portRelockComplete port) := ⟨rfl, nofun⟩
theorem relockTimeout (port : Nat) : Statement (.relockTimeout port) := ⟨rfl, nofun⟩
theorem darkTimeout (port : Nat) : Statement (.darkTimeout port) := ⟨rfl, nofun⟩
theorem portDownRetrain (port : Nat) (trained : Option (BitVec 15 × BitVec 6)) : Statement (.portDownRetrain port trained) := ⟨rfl, nofun⟩
theorem laneLoss (port lane : Nat) : Statement (.laneLoss port lane) := ⟨rfl, nofun⟩
theorem laneRetrain (port lane : Nat) : Statement (.laneRetrain port lane) := ⟨rfl, nofun⟩
theorem unreachableDeclare (dst : Nat) : Statement (.unreachableDeclare dst) := ⟨rfl, nofun⟩
theorem preemptionSlotEnd (gen : Nat) : Statement (.preemptionSlotEnd gen) := ⟨rfl, nofun⟩

end Sys2Proof.Laws.Encoded
end

