-- ==== Sys2Proof/Laws/State.lean ====
section
/-! SUPPORT. For each update of the state, of a core and of a warp, what it leaves of every other field. -/

namespace Sys2Proof.Machine

/-! ### `State.updCore` -/

@[simp] theorem State.updCore_part (s : State) (c : Nat) (f : Core → Core) : (s.updCore c f).part = s.part := rfl
@[simp] theorem State.updCore_dev (s : State) (c : Nat) (f : Core → Core) : (s.updCore c f).dev = s.dev := rfl
@[simp] theorem State.updCore_ptb (s : State) (c : Nat) (f : Core → Core) : (s.updCore c f).ptb = s.ptb := rfl
@[simp] theorem State.updCore_ptbFrac (s : State) (c : Nat) (f : Core → Core) : (s.updCore c f).ptbFrac = s.ptbFrac := rfl
@[simp] theorem State.updCore_booted (s : State) (c : Nat) (f : Core → Core) : (s.updCore c f).booted = s.booted := rfl
@[simp] theorem State.updCore_noCp (s : State) (c : Nat) (f : Core → Core) : (s.updCore c f).noCp = s.noCp := rfl
@[simp] theorem State.updCore_noShatus (s : State) (c : Nat) (f : Core → Core) : (s.updCore c f).noShatus = s.noShatus := rfl
@[simp] theorem State.updCore_supRoot (s : State) (c : Nat) (f : Core → Core) : (s.updCore c f).supRoot = s.supRoot := rfl
@[simp] theorem State.updCore_supEntry (s : State) (c : Nat) (f : Core → Core) : (s.updCore c f).supEntry = s.supEntry := rfl
@[simp] theorem State.updCore_cp (s : State) (c : Nat) (f : Core → Core) : (s.updCore c f).cp = s.cp := rfl
@[simp] theorem State.updCore_mem (s : State) (c : Nat) (f : Core → Core) : (s.updCore c f).mem = s.mem := rfl
@[simp] theorem State.updCore_keyTag (s : State) (c : Nat) (f : Core → Core) : (s.updCore c f).keyTag = s.keyTag := rfl
@[simp] theorem State.updCore_poison (s : State) (c : Nat) (f : Core → Core) : (s.updCore c f).poison = s.poison := rfl
@[simp] theorem State.updCore_badSl (s : State) (c : Nat) (f : Core → Core) : (s.updCore c f).badSl = s.badSl := rfl
@[simp] theorem State.updCore_strong (s : State) (c : Nat) (f : Core → Core) : (s.updCore c f).strong = s.strong := rfl
@[simp] theorem State.updCore_undo (s : State) (c : Nat) (f : Core → Core) : (s.updCore c f).undo = s.undo := rfl
@[simp] theorem State.updCore_hostMem (s : State) (c : Nat) (f : Core → Core) : (s.updCore c f).hostMem = s.hostMem := rfl
@[simp] theorem State.updCore_keys (s : State) (c : Nat) (f : Core → Core) : (s.updCore c f).keys = s.keys := rfl
@[simp] theorem State.updCore_draws (s : State) (c : Nat) (f : Core → Core) : (s.updCore c f).draws = s.draws := rfl
@[simp] theorem State.updCore_mons (s : State) (c : Nat) (f : Core → Core) : (s.updCore c f).mons = s.mons := rfl
@[simp] theorem State.updCore_harts (s : State) (c : Nat) (f : Core → Core) : (s.updCore c f).harts = s.harts := rfl
@[simp] theorem State.updCore_rate (s : State) (c : Nat) (f : Core → Core) : (s.updCore c f).rate = s.rate := rfl
@[simp] theorem State.updCore_outs (s : State) (c : Nat) (f : Core → Core) : (s.updCore c f).outs = s.outs := rfl
@[simp] theorem State.updCore_nodes (s : State) (c : Nat) (f : Core → Core) : (s.updCore c f).nodes = s.nodes := rfl
@[simp] theorem State.updCore_tills (s : State) (c : Nat) (f : Core → Core) : (s.updCore c f).tills = s.tills := rfl
@[simp] theorem State.updCore_grids (s : State) (c : Nat) (f : Core → Core) : (s.updCore c f).grids = s.grids := rfl
@[simp] theorem State.updCore_inst (s : State) (c : Nat) (f : Core → Core) : (s.updCore c f).inst = s.inst := rfl
@[simp] theorem State.updCore_gridNo (s : State) (c : Nat) (f : Core → Core) : (s.updCore c f).gridNo = s.gridNo := rfl
@[simp] theorem State.updCore_depQ (s : State) (c : Nat) (f : Core → Core) : (s.updCore c f).depQ = s.depQ := rfl
@[simp] theorem State.updCore_table (s : State) (c : Nat) (f : Core → Core) : (s.updCore c f).table = s.table := rfl
@[simp] theorem State.updCore_preempt (s : State) (c : Nat) (f : Core → Core) : (s.updCore c f).preempt = s.preempt := rfl
@[simp] theorem State.updCore_held (s : State) (c : Nat) (f : Core → Core) : (s.updCore c f).held = s.held := rfl
@[simp] theorem State.updCore_gbCount (s : State) (c : Nat) (f : Core → Core) : (s.updCore c f).gbCount = s.gbCount := rfl
@[simp] theorem State.updCore_fbars (s : State) (c : Nat) (f : Core → Core) : (s.updCore c f).fbars = s.fbars := rfl
@[simp] theorem State.updCore_uirqs (s : State) (c : Nat) (f : Core → Core) : (s.updCore c f).uirqs = s.uirqs := rfl
@[simp] theorem State.updCore_esc (s : State) (c : Nat) (f : Core → Core) : (s.updCore c f).esc = s.esc := rfl
@[simp] theorem State.updCore_aborted (s : State) (c : Nat) (f : Core → Core) : (s.updCore c f).aborted = s.aborted := rfl
@[simp] theorem State.updCore_spillSaid (s : State) (c : Nat) (f : Core → Core) : (s.updCore c f).spillSaid = s.spillSaid := rfl
@[simp] theorem State.updCore_dests (s : State) (c : Nat) (f : Core → Core) : (s.updCore c f).dests = s.dests := rfl
@[simp] theorem State.updCore_srcs (s : State) (c : Nat) (f : Core → Core) : (s.updCore c f).srcs = s.srcs := rfl
@[simp] theorem State.updCore_ports (s : State) (c : Nat) (f : Core → Core) : (s.updCore c f).ports = s.ports := rfl
@[simp] theorem State.updCore_tag (s : State) (c : Nat) (f : Core → Core) : (s.updCore c f).tag = s.tag := rfl
@[simp] theorem State.updCore_cpReads (s : State) (c : Nat) (f : Core → Core) : (s.updCore c f).cpReads = s.cpReads := rfl
@[simp] theorem State.updCore_bells (s : State) (c : Nat) (f : Core → Core) : (s.updCore c f).bells = s.bells := rfl
@[simp] theorem State.updCore_after (s : State) (c : Nat) (f : Core → Core) : (s.updCore c f).after = s.after := rfl
@[simp] theorem State.updCore_cmdReads (s : State) (c : Nat) (f : Core → Core) : (s.updCore c f).cmdReads = s.cmdReads := rfl
@[simp] theorem State.updCore_vaults (s : State) (c : Nat) (f : Core → Core) : (s.updCore c f).vaults = s.vaults := rfl
@[simp] theorem State.updCore_meas (s : State) (c : Nat) (f : Core → Core) : (s.updCore c f).meas = s.meas := rfl
@[simp] theorem State.updCore_cert (s : State) (c : Nat) (f : Core → Core) : (s.updCore c f).cert = s.cert := rfl
@[simp] theorem State.updCore_hist (s : State) (c : Nat) (f : Core → Core) : (s.updCore c f).hist = s.hist := rfl
@[simp] theorem State.updCore_hot (s : State) (c : Nat) (f : Core → Core) : (s.updCore c f).hot = s.hot := rfl
@[simp] theorem State.updCore_ptp (s : State) (c : Nat) (f : Core → Core) : (s.updCore c f).ptp = s.ptp := rfl
@[simp] theorem State.updCore_nbrs (s : State) (c : Nat) (f : Core → Core) : (s.updCore c f).nbrs = s.nbrs := rfl
@[simp] theorem State.updCore_peer (s : State) (c : Nat) (f : Core → Core) : (s.updCore c f).peer = s.peer := rfl
@[simp] theorem State.updCore_hotAt (s : State) (c : Nat) (f : Core → Core) : (s.updCore c f).hotAt = s.hotAt := rfl
@[simp] theorem State.updCore_patrol (s : State) (c : Nat) (f : Core → Core) : (s.updCore c f).patrol = s.patrol := rfl
@[simp] theorem State.updCore_agenda (s : State) (c : Nat) (f : Core → Core) : (s.updCore c f).agenda = s.agenda := rfl
@[simp] theorem State.updCore_cur (s : State) (c : Nat) (f : Core → Core) : (s.updCore c f).cur = s.cur := rfl
@[simp] theorem State.updCore_issued (s : State) (c : Nat) (f : Core → Core) : (s.updCore c f).issued = s.issued := rfl
@[simp] theorem State.updCore_stop (s : State) (c : Nat) (f : Core → Core) : (s.updCore c f).stop = s.stop := rfl
@[simp] theorem State.updCore_rr (s : State) (c : Nat) (f : Core → Core) : (s.updCore c f).rr = s.rr := rfl
@[simp] theorem State.updCore_fresh (s : State) (c : Nat) (f : Core → Core) : (s.updCore c f).fresh = s.fresh := rfl
@[simp] theorem State.updCore_hb (s : State) (c : Nat) (f : Core → Core) : (s.updCore c f).hb = s.hb := rfl

/-! ### `State.updWarp` -/

@[simp] theorem State.updWarp_part (s : State) (c wix : Nat) (f : Warp → Warp) : (s.updWarp c wix f).part = s.part := rfl
@[simp] theorem State.updWarp_dev (s : State) (c wix : Nat) (f : Warp → Warp) : (s.updWarp c wix f).dev = s.dev := rfl
@[simp] theorem State.updWarp_ptb (s : State) (c wix : Nat) (f : Warp → Warp) : (s.updWarp c wix f).ptb = s.ptb := rfl
@[simp] theorem State.updWarp_ptbFrac (s : State) (c wix : Nat) (f : Warp → Warp) : (s.updWarp c wix f).ptbFrac = s.ptbFrac := rfl
@[simp] theorem State.updWarp_booted (s : State) (c wix : Nat) (f : Warp → Warp) : (s.updWarp c wix f).booted = s.booted := rfl
@[simp] theorem State.updWarp_noCp (s : State) (c wix : Nat) (f : Warp → Warp) : (s.updWarp c wix f).noCp = s.noCp := rfl
@[simp] theorem State.updWarp_noShatus (s : State) (c wix : Nat) (f : Warp → Warp) : (s.updWarp c wix f).noShatus = s.noShatus := rfl
@[simp] theorem State.updWarp_supRoot (s : State) (c wix : Nat) (f : Warp → Warp) : (s.updWarp c wix f).supRoot = s.supRoot := rfl
@[simp] theorem State.updWarp_supEntry (s : State) (c wix : Nat) (f : Warp → Warp) : (s.updWarp c wix f).supEntry = s.supEntry := rfl
@[simp] theorem State.updWarp_cp (s : State) (c wix : Nat) (f : Warp → Warp) : (s.updWarp c wix f).cp = s.cp := rfl
@[simp] theorem State.updWarp_mem (s : State) (c wix : Nat) (f : Warp → Warp) : (s.updWarp c wix f).mem = s.mem := rfl
@[simp] theorem State.updWarp_keyTag (s : State) (c wix : Nat) (f : Warp → Warp) : (s.updWarp c wix f).keyTag = s.keyTag := rfl
@[simp] theorem State.updWarp_poison (s : State) (c wix : Nat) (f : Warp → Warp) : (s.updWarp c wix f).poison = s.poison := rfl
@[simp] theorem State.updWarp_badSl (s : State) (c wix : Nat) (f : Warp → Warp) : (s.updWarp c wix f).badSl = s.badSl := rfl
@[simp] theorem State.updWarp_strong (s : State) (c wix : Nat) (f : Warp → Warp) : (s.updWarp c wix f).strong = s.strong := rfl
@[simp] theorem State.updWarp_undo (s : State) (c wix : Nat) (f : Warp → Warp) : (s.updWarp c wix f).undo = s.undo := rfl
@[simp] theorem State.updWarp_hostMem (s : State) (c wix : Nat) (f : Warp → Warp) : (s.updWarp c wix f).hostMem = s.hostMem := rfl
@[simp] theorem State.updWarp_keys (s : State) (c wix : Nat) (f : Warp → Warp) : (s.updWarp c wix f).keys = s.keys := rfl
@[simp] theorem State.updWarp_draws (s : State) (c wix : Nat) (f : Warp → Warp) : (s.updWarp c wix f).draws = s.draws := rfl
@[simp] theorem State.updWarp_mons (s : State) (c wix : Nat) (f : Warp → Warp) : (s.updWarp c wix f).mons = s.mons := rfl
@[simp] theorem State.updWarp_harts (s : State) (c wix : Nat) (f : Warp → Warp) : (s.updWarp c wix f).harts = s.harts := rfl
@[simp] theorem State.updWarp_rate (s : State) (c wix : Nat) (f : Warp → Warp) : (s.updWarp c wix f).rate = s.rate := rfl
@[simp] theorem State.updWarp_outs (s : State) (c wix : Nat) (f : Warp → Warp) : (s.updWarp c wix f).outs = s.outs := rfl
@[simp] theorem State.updWarp_nodes (s : State) (c wix : Nat) (f : Warp → Warp) : (s.updWarp c wix f).nodes = s.nodes := rfl
@[simp] theorem State.updWarp_tills (s : State) (c wix : Nat) (f : Warp → Warp) : (s.updWarp c wix f).tills = s.tills := rfl
@[simp] theorem State.updWarp_grids (s : State) (c wix : Nat) (f : Warp → Warp) : (s.updWarp c wix f).grids = s.grids := rfl
@[simp] theorem State.updWarp_inst (s : State) (c wix : Nat) (f : Warp → Warp) : (s.updWarp c wix f).inst = s.inst := rfl
@[simp] theorem State.updWarp_gridNo (s : State) (c wix : Nat) (f : Warp → Warp) : (s.updWarp c wix f).gridNo = s.gridNo := rfl
@[simp] theorem State.updWarp_depQ (s : State) (c wix : Nat) (f : Warp → Warp) : (s.updWarp c wix f).depQ = s.depQ := rfl
@[simp] theorem State.updWarp_table (s : State) (c wix : Nat) (f : Warp → Warp) : (s.updWarp c wix f).table = s.table := rfl
@[simp] theorem State.updWarp_preempt (s : State) (c wix : Nat) (f : Warp → Warp) : (s.updWarp c wix f).preempt = s.preempt := rfl
@[simp] theorem State.updWarp_held (s : State) (c wix : Nat) (f : Warp → Warp) : (s.updWarp c wix f).held = s.held := rfl
@[simp] theorem State.updWarp_gbCount (s : State) (c wix : Nat) (f : Warp → Warp) : (s.updWarp c wix f).gbCount = s.gbCount := rfl
@[simp] theorem State.updWarp_fbars (s : State) (c wix : Nat) (f : Warp → Warp) : (s.updWarp c wix f).fbars = s.fbars := rfl
@[simp] theorem State.updWarp_uirqs (s : State) (c wix : Nat) (f : Warp → Warp) : (s.updWarp c wix f).uirqs = s.uirqs := rfl
@[simp] theorem State.updWarp_esc (s : State) (c wix : Nat) (f : Warp → Warp) : (s.updWarp c wix f).esc = s.esc := rfl
@[simp] theorem State.updWarp_aborted (s : State) (c wix : Nat) (f : Warp → Warp) : (s.updWarp c wix f).aborted = s.aborted := rfl
@[simp] theorem State.updWarp_spillSaid (s : State) (c wix : Nat) (f : Warp → Warp) : (s.updWarp c wix f).spillSaid = s.spillSaid := rfl
@[simp] theorem State.updWarp_dests (s : State) (c wix : Nat) (f : Warp → Warp) : (s.updWarp c wix f).dests = s.dests := rfl
@[simp] theorem State.updWarp_srcs (s : State) (c wix : Nat) (f : Warp → Warp) : (s.updWarp c wix f).srcs = s.srcs := rfl
@[simp] theorem State.updWarp_ports (s : State) (c wix : Nat) (f : Warp → Warp) : (s.updWarp c wix f).ports = s.ports := rfl
@[simp] theorem State.updWarp_tag (s : State) (c wix : Nat) (f : Warp → Warp) : (s.updWarp c wix f).tag = s.tag := rfl
@[simp] theorem State.updWarp_cpReads (s : State) (c wix : Nat) (f : Warp → Warp) : (s.updWarp c wix f).cpReads = s.cpReads := rfl
@[simp] theorem State.updWarp_bells (s : State) (c wix : Nat) (f : Warp → Warp) : (s.updWarp c wix f).bells = s.bells := rfl
@[simp] theorem State.updWarp_after (s : State) (c wix : Nat) (f : Warp → Warp) : (s.updWarp c wix f).after = s.after := rfl
@[simp] theorem State.updWarp_cmdReads (s : State) (c wix : Nat) (f : Warp → Warp) : (s.updWarp c wix f).cmdReads = s.cmdReads := rfl
@[simp] theorem State.updWarp_vaults (s : State) (c wix : Nat) (f : Warp → Warp) : (s.updWarp c wix f).vaults = s.vaults := rfl
@[simp] theorem State.updWarp_meas (s : State) (c wix : Nat) (f : Warp → Warp) : (s.updWarp c wix f).meas = s.meas := rfl
@[simp] theorem State.updWarp_cert (s : State) (c wix : Nat) (f : Warp → Warp) : (s.updWarp c wix f).cert = s.cert := rfl
@[simp] theorem State.updWarp_hist (s : State) (c wix : Nat) (f : Warp → Warp) : (s.updWarp c wix f).hist = s.hist := rfl
@[simp] theorem State.updWarp_hot (s : State) (c wix : Nat) (f : Warp → Warp) : (s.updWarp c wix f).hot = s.hot := rfl
@[simp] theorem State.updWarp_ptp (s : State) (c wix : Nat) (f : Warp → Warp) : (s.updWarp c wix f).ptp = s.ptp := rfl
@[simp] theorem State.updWarp_nbrs (s : State) (c wix : Nat) (f : Warp → Warp) : (s.updWarp c wix f).nbrs = s.nbrs := rfl
@[simp] theorem State.updWarp_peer (s : State) (c wix : Nat) (f : Warp → Warp) : (s.updWarp c wix f).peer = s.peer := rfl
@[simp] theorem State.updWarp_hotAt (s : State) (c wix : Nat) (f : Warp → Warp) : (s.updWarp c wix f).hotAt = s.hotAt := rfl
@[simp] theorem State.updWarp_patrol (s : State) (c wix : Nat) (f : Warp → Warp) : (s.updWarp c wix f).patrol = s.patrol := rfl
@[simp] theorem State.updWarp_agenda (s : State) (c wix : Nat) (f : Warp → Warp) : (s.updWarp c wix f).agenda = s.agenda := rfl
@[simp] theorem State.updWarp_cur (s : State) (c wix : Nat) (f : Warp → Warp) : (s.updWarp c wix f).cur = s.cur := rfl
@[simp] theorem State.updWarp_issued (s : State) (c wix : Nat) (f : Warp → Warp) : (s.updWarp c wix f).issued = s.issued := rfl
@[simp] theorem State.updWarp_stop (s : State) (c wix : Nat) (f : Warp → Warp) : (s.updWarp c wix f).stop = s.stop := rfl
@[simp] theorem State.updWarp_rr (s : State) (c wix : Nat) (f : Warp → Warp) : (s.updWarp c wix f).rr = s.rr := rfl
@[simp] theorem State.updWarp_fresh (s : State) (c wix : Nat) (f : Warp → Warp) : (s.updWarp c wix f).fresh = s.fresh := rfl
@[simp] theorem State.updWarp_hb (s : State) (c wix : Nat) (f : Warp → Warp) : (s.updWarp c wix f).hb = s.hb := rfl

/-! ### `State.updGroup` -/

@[simp] theorem State.updGroup_part (s : State) (c gid : Nat) (f : Group → Group) : (s.updGroup c gid f).part = s.part := rfl
@[simp] theorem State.updGroup_dev (s : State) (c gid : Nat) (f : Group → Group) : (s.updGroup c gid f).dev = s.dev := rfl
@[simp] theorem State.updGroup_ptb (s : State) (c gid : Nat) (f : Group → Group) : (s.updGroup c gid f).ptb = s.ptb := rfl
@[simp] theorem State.updGroup_ptbFrac (s : State) (c gid : Nat) (f : Group → Group) : (s.updGroup c gid f).ptbFrac = s.ptbFrac := rfl
@[simp] theorem State.updGroup_booted (s : State) (c gid : Nat) (f : Group → Group) : (s.updGroup c gid f).booted = s.booted := rfl
@[simp] theorem State.updGroup_noCp (s : State) (c gid : Nat) (f : Group → Group) : (s.updGroup c gid f).noCp = s.noCp := rfl
@[simp] theorem State.updGroup_noShatus (s : State) (c gid : Nat) (f : Group → Group) : (s.updGroup c gid f).noShatus = s.noShatus := rfl
@[simp] theorem State.updGroup_supRoot (s : State) (c gid : Nat) (f : Group → Group) : (s.updGroup c gid f).supRoot = s.supRoot := rfl
@[simp] theorem State.updGroup_supEntry (s : State) (c gid : Nat) (f : Group → Group) : (s.updGroup c gid f).supEntry = s.supEntry := rfl
@[simp] theorem State.updGroup_cp (s : State) (c gid : Nat) (f : Group → Group) : (s.updGroup c gid f).cp = s.cp := rfl
@[simp] theorem State.updGroup_mem (s : State) (c gid : Nat) (f : Group → Group) : (s.updGroup c gid f).mem = s.mem := rfl
@[simp] theorem State.updGroup_keyTag (s : State) (c gid : Nat) (f : Group → Group) : (s.updGroup c gid f).keyTag = s.keyTag := rfl
@[simp] theorem State.updGroup_poison (s : State) (c gid : Nat) (f : Group → Group) : (s.updGroup c gid f).poison = s.poison := rfl
@[simp] theorem State.updGroup_badSl (s : State) (c gid : Nat) (f : Group → Group) : (s.updGroup c gid f).badSl = s.badSl := rfl
@[simp] theorem State.updGroup_strong (s : State) (c gid : Nat) (f : Group → Group) : (s.updGroup c gid f).strong = s.strong := rfl
@[simp] theorem State.updGroup_undo (s : State) (c gid : Nat) (f : Group → Group) : (s.updGroup c gid f).undo = s.undo := rfl
@[simp] theorem State.updGroup_hostMem (s : State) (c gid : Nat) (f : Group → Group) : (s.updGroup c gid f).hostMem = s.hostMem := rfl
@[simp] theorem State.updGroup_keys (s : State) (c gid : Nat) (f : Group → Group) : (s.updGroup c gid f).keys = s.keys := rfl
@[simp] theorem State.updGroup_draws (s : State) (c gid : Nat) (f : Group → Group) : (s.updGroup c gid f).draws = s.draws := rfl
@[simp] theorem State.updGroup_mons (s : State) (c gid : Nat) (f : Group → Group) : (s.updGroup c gid f).mons = s.mons := rfl
@[simp] theorem State.updGroup_harts (s : State) (c gid : Nat) (f : Group → Group) : (s.updGroup c gid f).harts = s.harts := rfl
@[simp] theorem State.updGroup_rate (s : State) (c gid : Nat) (f : Group → Group) : (s.updGroup c gid f).rate = s.rate := rfl
@[simp] theorem State.updGroup_outs (s : State) (c gid : Nat) (f : Group → Group) : (s.updGroup c gid f).outs = s.outs := rfl
@[simp] theorem State.updGroup_nodes (s : State) (c gid : Nat) (f : Group → Group) : (s.updGroup c gid f).nodes = s.nodes := rfl
@[simp] theorem State.updGroup_tills (s : State) (c gid : Nat) (f : Group → Group) : (s.updGroup c gid f).tills = s.tills := rfl
@[simp] theorem State.updGroup_grids (s : State) (c gid : Nat) (f : Group → Group) : (s.updGroup c gid f).grids = s.grids := rfl
@[simp] theorem State.updGroup_inst (s : State) (c gid : Nat) (f : Group → Group) : (s.updGroup c gid f).inst = s.inst := rfl
@[simp] theorem State.updGroup_gridNo (s : State) (c gid : Nat) (f : Group → Group) : (s.updGroup c gid f).gridNo = s.gridNo := rfl
@[simp] theorem State.updGroup_depQ (s : State) (c gid : Nat) (f : Group → Group) : (s.updGroup c gid f).depQ = s.depQ := rfl
@[simp] theorem State.updGroup_table (s : State) (c gid : Nat) (f : Group → Group) : (s.updGroup c gid f).table = s.table := rfl
@[simp] theorem State.updGroup_preempt (s : State) (c gid : Nat) (f : Group → Group) : (s.updGroup c gid f).preempt = s.preempt := rfl
@[simp] theorem State.updGroup_held (s : State) (c gid : Nat) (f : Group → Group) : (s.updGroup c gid f).held = s.held := rfl
@[simp] theorem State.updGroup_gbCount (s : State) (c gid : Nat) (f : Group → Group) : (s.updGroup c gid f).gbCount = s.gbCount := rfl
@[simp] theorem State.updGroup_fbars (s : State) (c gid : Nat) (f : Group → Group) : (s.updGroup c gid f).fbars = s.fbars := rfl
@[simp] theorem State.updGroup_uirqs (s : State) (c gid : Nat) (f : Group → Group) : (s.updGroup c gid f).uirqs = s.uirqs := rfl
@[simp] theorem State.updGroup_esc (s : State) (c gid : Nat) (f : Group → Group) : (s.updGroup c gid f).esc = s.esc := rfl
@[simp] theorem State.updGroup_aborted (s : State) (c gid : Nat) (f : Group → Group) : (s.updGroup c gid f).aborted = s.aborted := rfl
@[simp] theorem State.updGroup_spillSaid (s : State) (c gid : Nat) (f : Group → Group) : (s.updGroup c gid f).spillSaid = s.spillSaid := rfl
@[simp] theorem State.updGroup_dests (s : State) (c gid : Nat) (f : Group → Group) : (s.updGroup c gid f).dests = s.dests := rfl
@[simp] theorem State.updGroup_srcs (s : State) (c gid : Nat) (f : Group → Group) : (s.updGroup c gid f).srcs = s.srcs := rfl
@[simp] theorem State.updGroup_ports (s : State) (c gid : Nat) (f : Group → Group) : (s.updGroup c gid f).ports = s.ports := rfl
@[simp] theorem State.updGroup_tag (s : State) (c gid : Nat) (f : Group → Group) : (s.updGroup c gid f).tag = s.tag := rfl
@[simp] theorem State.updGroup_cpReads (s : State) (c gid : Nat) (f : Group → Group) : (s.updGroup c gid f).cpReads = s.cpReads := rfl
@[simp] theorem State.updGroup_bells (s : State) (c gid : Nat) (f : Group → Group) : (s.updGroup c gid f).bells = s.bells := rfl
@[simp] theorem State.updGroup_after (s : State) (c gid : Nat) (f : Group → Group) : (s.updGroup c gid f).after = s.after := rfl
@[simp] theorem State.updGroup_cmdReads (s : State) (c gid : Nat) (f : Group → Group) : (s.updGroup c gid f).cmdReads = s.cmdReads := rfl
@[simp] theorem State.updGroup_vaults (s : State) (c gid : Nat) (f : Group → Group) : (s.updGroup c gid f).vaults = s.vaults := rfl
@[simp] theorem State.updGroup_meas (s : State) (c gid : Nat) (f : Group → Group) : (s.updGroup c gid f).meas = s.meas := rfl
@[simp] theorem State.updGroup_cert (s : State) (c gid : Nat) (f : Group → Group) : (s.updGroup c gid f).cert = s.cert := rfl
@[simp] theorem State.updGroup_hist (s : State) (c gid : Nat) (f : Group → Group) : (s.updGroup c gid f).hist = s.hist := rfl
@[simp] theorem State.updGroup_hot (s : State) (c gid : Nat) (f : Group → Group) : (s.updGroup c gid f).hot = s.hot := rfl
@[simp] theorem State.updGroup_ptp (s : State) (c gid : Nat) (f : Group → Group) : (s.updGroup c gid f).ptp = s.ptp := rfl
@[simp] theorem State.updGroup_nbrs (s : State) (c gid : Nat) (f : Group → Group) : (s.updGroup c gid f).nbrs = s.nbrs := rfl
@[simp] theorem State.updGroup_peer (s : State) (c gid : Nat) (f : Group → Group) : (s.updGroup c gid f).peer = s.peer := rfl
@[simp] theorem State.updGroup_hotAt (s : State) (c gid : Nat) (f : Group → Group) : (s.updGroup c gid f).hotAt = s.hotAt := rfl
@[simp] theorem State.updGroup_patrol (s : State) (c gid : Nat) (f : Group → Group) : (s.updGroup c gid f).patrol = s.patrol := rfl
@[simp] theorem State.updGroup_agenda (s : State) (c gid : Nat) (f : Group → Group) : (s.updGroup c gid f).agenda = s.agenda := rfl
@[simp] theorem State.updGroup_cur (s : State) (c gid : Nat) (f : Group → Group) : (s.updGroup c gid f).cur = s.cur := rfl
@[simp] theorem State.updGroup_issued (s : State) (c gid : Nat) (f : Group → Group) : (s.updGroup c gid f).issued = s.issued := rfl
@[simp] theorem State.updGroup_stop (s : State) (c gid : Nat) (f : Group → Group) : (s.updGroup c gid f).stop = s.stop := rfl
@[simp] theorem State.updGroup_rr (s : State) (c gid : Nat) (f : Group → Group) : (s.updGroup c gid f).rr = s.rr := rfl
@[simp] theorem State.updGroup_fresh (s : State) (c gid : Nat) (f : Group → Group) : (s.updGroup c gid f).fresh = s.fresh := rfl
@[simp] theorem State.updGroup_hb (s : State) (c gid : Nat) (f : Group → Group) : (s.updGroup c gid f).hb = s.hb := rfl

/-! ### `State.updSlice` -/

@[simp] theorem State.updSlice_part (s : State) (c sl : Nat) (f : Slice → Slice) : (s.updSlice c sl f).part = s.part := rfl
@[simp] theorem State.updSlice_dev (s : State) (c sl : Nat) (f : Slice → Slice) : (s.updSlice c sl f).dev = s.dev := rfl
@[simp] theorem State.updSlice_ptb (s : State) (c sl : Nat) (f : Slice → Slice) : (s.updSlice c sl f).ptb = s.ptb := rfl
@[simp] theorem State.updSlice_ptbFrac (s : State) (c sl : Nat) (f : Slice → Slice) : (s.updSlice c sl f).ptbFrac = s.ptbFrac := rfl
@[simp] theorem State.updSlice_booted (s : State) (c sl : Nat) (f : Slice → Slice) : (s.updSlice c sl f).booted = s.booted := rfl
@[simp] theorem State.updSlice_noCp (s : State) (c sl : Nat) (f : Slice → Slice) : (s.updSlice c sl f).noCp = s.noCp := rfl
@[simp] theorem State.updSlice_noShatus (s : State) (c sl : Nat) (f : Slice → Slice) : (s.updSlice c sl f).noShatus = s.noShatus := rfl
@[simp] theorem State.updSlice_supRoot (s : State) (c sl : Nat) (f : Slice → Slice) : (s.updSlice c sl f).supRoot = s.supRoot := rfl
@[simp] theorem State.updSlice_supEntry (s : State) (c sl : Nat) (f : Slice → Slice) : (s.updSlice c sl f).supEntry = s.supEntry := rfl
@[simp] theorem State.updSlice_cp (s : State) (c sl : Nat) (f : Slice → Slice) : (s.updSlice c sl f).cp = s.cp := rfl
@[simp] theorem State.updSlice_mem (s : State) (c sl : Nat) (f : Slice → Slice) : (s.updSlice c sl f).mem = s.mem := rfl
@[simp] theorem State.updSlice_keyTag (s : State) (c sl : Nat) (f : Slice → Slice) : (s.updSlice c sl f).keyTag = s.keyTag := rfl
@[simp] theorem State.updSlice_poison (s : State) (c sl : Nat) (f : Slice → Slice) : (s.updSlice c sl f).poison = s.poison := rfl
@[simp] theorem State.updSlice_badSl (s : State) (c sl : Nat) (f : Slice → Slice) : (s.updSlice c sl f).badSl = s.badSl := rfl
@[simp] theorem State.updSlice_strong (s : State) (c sl : Nat) (f : Slice → Slice) : (s.updSlice c sl f).strong = s.strong := rfl
@[simp] theorem State.updSlice_undo (s : State) (c sl : Nat) (f : Slice → Slice) : (s.updSlice c sl f).undo = s.undo := rfl
@[simp] theorem State.updSlice_hostMem (s : State) (c sl : Nat) (f : Slice → Slice) : (s.updSlice c sl f).hostMem = s.hostMem := rfl
@[simp] theorem State.updSlice_keys (s : State) (c sl : Nat) (f : Slice → Slice) : (s.updSlice c sl f).keys = s.keys := rfl
@[simp] theorem State.updSlice_draws (s : State) (c sl : Nat) (f : Slice → Slice) : (s.updSlice c sl f).draws = s.draws := rfl
@[simp] theorem State.updSlice_mons (s : State) (c sl : Nat) (f : Slice → Slice) : (s.updSlice c sl f).mons = s.mons := rfl
@[simp] theorem State.updSlice_harts (s : State) (c sl : Nat) (f : Slice → Slice) : (s.updSlice c sl f).harts = s.harts := rfl
@[simp] theorem State.updSlice_rate (s : State) (c sl : Nat) (f : Slice → Slice) : (s.updSlice c sl f).rate = s.rate := rfl
@[simp] theorem State.updSlice_outs (s : State) (c sl : Nat) (f : Slice → Slice) : (s.updSlice c sl f).outs = s.outs := rfl
@[simp] theorem State.updSlice_nodes (s : State) (c sl : Nat) (f : Slice → Slice) : (s.updSlice c sl f).nodes = s.nodes := rfl
@[simp] theorem State.updSlice_tills (s : State) (c sl : Nat) (f : Slice → Slice) : (s.updSlice c sl f).tills = s.tills := rfl
@[simp] theorem State.updSlice_grids (s : State) (c sl : Nat) (f : Slice → Slice) : (s.updSlice c sl f).grids = s.grids := rfl
@[simp] theorem State.updSlice_inst (s : State) (c sl : Nat) (f : Slice → Slice) : (s.updSlice c sl f).inst = s.inst := rfl
@[simp] theorem State.updSlice_gridNo (s : State) (c sl : Nat) (f : Slice → Slice) : (s.updSlice c sl f).gridNo = s.gridNo := rfl
@[simp] theorem State.updSlice_depQ (s : State) (c sl : Nat) (f : Slice → Slice) : (s.updSlice c sl f).depQ = s.depQ := rfl
@[simp] theorem State.updSlice_table (s : State) (c sl : Nat) (f : Slice → Slice) : (s.updSlice c sl f).table = s.table := rfl
@[simp] theorem State.updSlice_preempt (s : State) (c sl : Nat) (f : Slice → Slice) : (s.updSlice c sl f).preempt = s.preempt := rfl
@[simp] theorem State.updSlice_held (s : State) (c sl : Nat) (f : Slice → Slice) : (s.updSlice c sl f).held = s.held := rfl
@[simp] theorem State.updSlice_gbCount (s : State) (c sl : Nat) (f : Slice → Slice) : (s.updSlice c sl f).gbCount = s.gbCount := rfl
@[simp] theorem State.updSlice_fbars (s : State) (c sl : Nat) (f : Slice → Slice) : (s.updSlice c sl f).fbars = s.fbars := rfl
@[simp] theorem State.updSlice_uirqs (s : State) (c sl : Nat) (f : Slice → Slice) : (s.updSlice c sl f).uirqs = s.uirqs := rfl
@[simp] theorem State.updSlice_esc (s : State) (c sl : Nat) (f : Slice → Slice) : (s.updSlice c sl f).esc = s.esc := rfl
@[simp] theorem State.updSlice_aborted (s : State) (c sl : Nat) (f : Slice → Slice) : (s.updSlice c sl f).aborted = s.aborted := rfl
@[simp] theorem State.updSlice_spillSaid (s : State) (c sl : Nat) (f : Slice → Slice) : (s.updSlice c sl f).spillSaid = s.spillSaid := rfl
@[simp] theorem State.updSlice_dests (s : State) (c sl : Nat) (f : Slice → Slice) : (s.updSlice c sl f).dests = s.dests := rfl
@[simp] theorem State.updSlice_srcs (s : State) (c sl : Nat) (f : Slice → Slice) : (s.updSlice c sl f).srcs = s.srcs := rfl
@[simp] theorem State.updSlice_ports (s : State) (c sl : Nat) (f : Slice → Slice) : (s.updSlice c sl f).ports = s.ports := rfl
@[simp] theorem State.updSlice_tag (s : State) (c sl : Nat) (f : Slice → Slice) : (s.updSlice c sl f).tag = s.tag := rfl
@[simp] theorem State.updSlice_cpReads (s : State) (c sl : Nat) (f : Slice → Slice) : (s.updSlice c sl f).cpReads = s.cpReads := rfl
@[simp] theorem State.updSlice_bells (s : State) (c sl : Nat) (f : Slice → Slice) : (s.updSlice c sl f).bells = s.bells := rfl
@[simp] theorem State.updSlice_after (s : State) (c sl : Nat) (f : Slice → Slice) : (s.updSlice c sl f).after = s.after := rfl
@[simp] theorem State.updSlice_cmdReads (s : State) (c sl : Nat) (f : Slice → Slice) : (s.updSlice c sl f).cmdReads = s.cmdReads := rfl
@[simp] theorem State.updSlice_vaults (s : State) (c sl : Nat) (f : Slice → Slice) : (s.updSlice c sl f).vaults = s.vaults := rfl
@[simp] theorem State.updSlice_meas (s : State) (c sl : Nat) (f : Slice → Slice) : (s.updSlice c sl f).meas = s.meas := rfl
@[simp] theorem State.updSlice_cert (s : State) (c sl : Nat) (f : Slice → Slice) : (s.updSlice c sl f).cert = s.cert := rfl
@[simp] theorem State.updSlice_hist (s : State) (c sl : Nat) (f : Slice → Slice) : (s.updSlice c sl f).hist = s.hist := rfl
@[simp] theorem State.updSlice_hot (s : State) (c sl : Nat) (f : Slice → Slice) : (s.updSlice c sl f).hot = s.hot := rfl
@[simp] theorem State.updSlice_ptp (s : State) (c sl : Nat) (f : Slice → Slice) : (s.updSlice c sl f).ptp = s.ptp := rfl
@[simp] theorem State.updSlice_nbrs (s : State) (c sl : Nat) (f : Slice → Slice) : (s.updSlice c sl f).nbrs = s.nbrs := rfl
@[simp] theorem State.updSlice_peer (s : State) (c sl : Nat) (f : Slice → Slice) : (s.updSlice c sl f).peer = s.peer := rfl
@[simp] theorem State.updSlice_hotAt (s : State) (c sl : Nat) (f : Slice → Slice) : (s.updSlice c sl f).hotAt = s.hotAt := rfl
@[simp] theorem State.updSlice_patrol (s : State) (c sl : Nat) (f : Slice → Slice) : (s.updSlice c sl f).patrol = s.patrol := rfl
@[simp] theorem State.updSlice_agenda (s : State) (c sl : Nat) (f : Slice → Slice) : (s.updSlice c sl f).agenda = s.agenda := rfl
@[simp] theorem State.updSlice_cur (s : State) (c sl : Nat) (f : Slice → Slice) : (s.updSlice c sl f).cur = s.cur := rfl
@[simp] theorem State.updSlice_issued (s : State) (c sl : Nat) (f : Slice → Slice) : (s.updSlice c sl f).issued = s.issued := rfl
@[simp] theorem State.updSlice_stop (s : State) (c sl : Nat) (f : Slice → Slice) : (s.updSlice c sl f).stop = s.stop := rfl
@[simp] theorem State.updSlice_rr (s : State) (c sl : Nat) (f : Slice → Slice) : (s.updSlice c sl f).rr = s.rr := rfl
@[simp] theorem State.updSlice_fresh (s : State) (c sl : Nat) (f : Slice → Slice) : (s.updSlice c sl f).fresh = s.fresh := rfl
@[simp] theorem State.updSlice_hb (s : State) (c sl : Nat) (f : Slice → Slice) : (s.updSlice c sl f).hb = s.hb := rfl

/-! ### `State.updRing` -/

@[simp] theorem State.updRing_part (s : State) (c gid k : Nat) (f : Ring → Ring) : (s.updRing c gid k f).part = s.part := rfl
@[simp] theorem State.updRing_dev (s : State) (c gid k : Nat) (f : Ring → Ring) : (s.updRing c gid k f).dev = s.dev := rfl
@[simp] theorem State.updRing_ptb (s : State) (c gid k : Nat) (f : Ring → Ring) : (s.updRing c gid k f).ptb = s.ptb := rfl
@[simp] theorem State.updRing_ptbFrac (s : State) (c gid k : Nat) (f : Ring → Ring) : (s.updRing c gid k f).ptbFrac = s.ptbFrac := rfl
@[simp] theorem State.updRing_booted (s : State) (c gid k : Nat) (f : Ring → Ring) : (s.updRing c gid k f).booted = s.booted := rfl
@[simp] theorem State.updRing_noCp (s : State) (c gid k : Nat) (f : Ring → Ring) : (s.updRing c gid k f).noCp = s.noCp := rfl
@[simp] theorem State.updRing_noShatus (s : State) (c gid k : Nat) (f : Ring → Ring) : (s.updRing c gid k f).noShatus = s.noShatus := rfl
@[simp] theorem State.updRing_supRoot (s : State) (c gid k : Nat) (f : Ring → Ring) : (s.updRing c gid k f).supRoot = s.supRoot := rfl
@[simp] theorem State.updRing_supEntry (s : State) (c gid k : Nat) (f : Ring → Ring) : (s.updRing c gid k f).supEntry = s.supEntry := rfl
@[simp] theorem State.updRing_cp (s : State) (c gid k : Nat) (f : Ring → Ring) : (s.updRing c gid k f).cp = s.cp := rfl
@[simp] theorem State.updRing_mem (s : State) (c gid k : Nat) (f : Ring → Ring) : (s.updRing c gid k f).mem = s.mem := rfl
@[simp] theorem State.updRing_keyTag (s : State) (c gid k : Nat) (f : Ring → Ring) : (s.updRing c gid k f).keyTag = s.keyTag := rfl
@[simp] theorem State.updRing_poison (s : State) (c gid k : Nat) (f : Ring → Ring) : (s.updRing c gid k f).poison = s.poison := rfl
@[simp] theorem State.updRing_badSl (s : State) (c gid k : Nat) (f : Ring → Ring) : (s.updRing c gid k f).badSl = s.badSl := rfl
@[simp] theorem State.updRing_strong (s : State) (c gid k : Nat) (f : Ring → Ring) : (s.updRing c gid k f).strong = s.strong := rfl
@[simp] theorem State.updRing_undo (s : State) (c gid k : Nat) (f : Ring → Ring) : (s.updRing c gid k f).undo = s.undo := rfl
@[simp] theorem State.updRing_hostMem (s : State) (c gid k : Nat) (f : Ring → Ring) : (s.updRing c gid k f).hostMem = s.hostMem := rfl
@[simp] theorem State.updRing_keys (s : State) (c gid k : Nat) (f : Ring → Ring) : (s.updRing c gid k f).keys = s.keys := rfl
@[simp] theorem State.updRing_draws (s : State) (c gid k : Nat) (f : Ring → Ring) : (s.updRing c gid k f).draws = s.draws := rfl
@[simp] theorem State.updRing_mons (s : State) (c gid k : Nat) (f : Ring → Ring) : (s.updRing c gid k f).mons = s.mons := rfl
@[simp] theorem State.updRing_harts (s : State) (c gid k : Nat) (f : Ring → Ring) : (s.updRing c gid k f).harts = s.harts := rfl
@[simp] theorem State.updRing_rate (s : State) (c gid k : Nat) (f : Ring → Ring) : (s.updRing c gid k f).rate = s.rate := rfl
@[simp] theorem State.updRing_outs (s : State) (c gid k : Nat) (f : Ring → Ring) : (s.updRing c gid k f).outs = s.outs := rfl
@[simp] theorem State.updRing_nodes (s : State) (c gid k : Nat) (f : Ring → Ring) : (s.updRing c gid k f).nodes = s.nodes := rfl
@[simp] theorem State.updRing_tills (s : State) (c gid k : Nat) (f : Ring → Ring) : (s.updRing c gid k f).tills = s.tills := rfl
@[simp] theorem State.updRing_grids (s : State) (c gid k : Nat) (f : Ring → Ring) : (s.updRing c gid k f).grids = s.grids := rfl
@[simp] theorem State.updRing_inst (s : State) (c gid k : Nat) (f : Ring → Ring) : (s.updRing c gid k f).inst = s.inst := rfl
@[simp] theorem State.updRing_gridNo (s : State) (c gid k : Nat) (f : Ring → Ring) : (s.updRing c gid k f).gridNo = s.gridNo := rfl
@[simp] theorem State.updRing_depQ (s : State) (c gid k : Nat) (f : Ring → Ring) : (s.updRing c gid k f).depQ = s.depQ := rfl
@[simp] theorem State.updRing_table (s : State) (c gid k : Nat) (f : Ring → Ring) : (s.updRing c gid k f).table = s.table := rfl
@[simp] theorem State.updRing_preempt (s : State) (c gid k : Nat) (f : Ring → Ring) : (s.updRing c gid k f).preempt = s.preempt := rfl
@[simp] theorem State.updRing_held (s : State) (c gid k : Nat) (f : Ring → Ring) : (s.updRing c gid k f).held = s.held := rfl
@[simp] theorem State.updRing_gbCount (s : State) (c gid k : Nat) (f : Ring → Ring) : (s.updRing c gid k f).gbCount = s.gbCount := rfl
@[simp] theorem State.updRing_fbars (s : State) (c gid k : Nat) (f : Ring → Ring) : (s.updRing c gid k f).fbars = s.fbars := rfl
@[simp] theorem State.updRing_uirqs (s : State) (c gid k : Nat) (f : Ring → Ring) : (s.updRing c gid k f).uirqs = s.uirqs := rfl
@[simp] theorem State.updRing_esc (s : State) (c gid k : Nat) (f : Ring → Ring) : (s.updRing c gid k f).esc = s.esc := rfl
@[simp] theorem State.updRing_aborted (s : State) (c gid k : Nat) (f : Ring → Ring) : (s.updRing c gid k f).aborted = s.aborted := rfl
@[simp] theorem State.updRing_spillSaid (s : State) (c gid k : Nat) (f : Ring → Ring) : (s.updRing c gid k f).spillSaid = s.spillSaid := rfl
@[simp] theorem State.updRing_dests (s : State) (c gid k : Nat) (f : Ring → Ring) : (s.updRing c gid k f).dests = s.dests := rfl
@[simp] theorem State.updRing_srcs (s : State) (c gid k : Nat) (f : Ring → Ring) : (s.updRing c gid k f).srcs = s.srcs := rfl
@[simp] theorem State.updRing_ports (s : State) (c gid k : Nat) (f : Ring → Ring) : (s.updRing c gid k f).ports = s.ports := rfl
@[simp] theorem State.updRing_tag (s : State) (c gid k : Nat) (f : Ring → Ring) : (s.updRing c gid k f).tag = s.tag := rfl
@[simp] theorem State.updRing_cpReads (s : State) (c gid k : Nat) (f : Ring → Ring) : (s.updRing c gid k f).cpReads = s.cpReads := rfl
@[simp] theorem State.updRing_bells (s : State) (c gid k : Nat) (f : Ring → Ring) : (s.updRing c gid k f).bells = s.bells := rfl
@[simp] theorem State.updRing_after (s : State) (c gid k : Nat) (f : Ring → Ring) : (s.updRing c gid k f).after = s.after := rfl
@[simp] theorem State.updRing_cmdReads (s : State) (c gid k : Nat) (f : Ring → Ring) : (s.updRing c gid k f).cmdReads = s.cmdReads := rfl
@[simp] theorem State.updRing_vaults (s : State) (c gid k : Nat) (f : Ring → Ring) : (s.updRing c gid k f).vaults = s.vaults := rfl
@[simp] theorem State.updRing_meas (s : State) (c gid k : Nat) (f : Ring → Ring) : (s.updRing c gid k f).meas = s.meas := rfl
@[simp] theorem State.updRing_cert (s : State) (c gid k : Nat) (f : Ring → Ring) : (s.updRing c gid k f).cert = s.cert := rfl
@[simp] theorem State.updRing_hist (s : State) (c gid k : Nat) (f : Ring → Ring) : (s.updRing c gid k f).hist = s.hist := rfl
@[simp] theorem State.updRing_hot (s : State) (c gid k : Nat) (f : Ring → Ring) : (s.updRing c gid k f).hot = s.hot := rfl
@[simp] theorem State.updRing_ptp (s : State) (c gid k : Nat) (f : Ring → Ring) : (s.updRing c gid k f).ptp = s.ptp := rfl
@[simp] theorem State.updRing_nbrs (s : State) (c gid k : Nat) (f : Ring → Ring) : (s.updRing c gid k f).nbrs = s.nbrs := rfl
@[simp] theorem State.updRing_peer (s : State) (c gid k : Nat) (f : Ring → Ring) : (s.updRing c gid k f).peer = s.peer := rfl
@[simp] theorem State.updRing_hotAt (s : State) (c gid k : Nat) (f : Ring → Ring) : (s.updRing c gid k f).hotAt = s.hotAt := rfl
@[simp] theorem State.updRing_patrol (s : State) (c gid k : Nat) (f : Ring → Ring) : (s.updRing c gid k f).patrol = s.patrol := rfl
@[simp] theorem State.updRing_agenda (s : State) (c gid k : Nat) (f : Ring → Ring) : (s.updRing c gid k f).agenda = s.agenda := rfl
@[simp] theorem State.updRing_cur (s : State) (c gid k : Nat) (f : Ring → Ring) : (s.updRing c gid k f).cur = s.cur := rfl
@[simp] theorem State.updRing_issued (s : State) (c gid k : Nat) (f : Ring → Ring) : (s.updRing c gid k f).issued = s.issued := rfl
@[simp] theorem State.updRing_stop (s : State) (c gid k : Nat) (f : Ring → Ring) : (s.updRing c gid k f).stop = s.stop := rfl
@[simp] theorem State.updRing_rr (s : State) (c gid k : Nat) (f : Ring → Ring) : (s.updRing c gid k f).rr = s.rr := rfl
@[simp] theorem State.updRing_fresh (s : State) (c gid k : Nat) (f : Ring → Ring) : (s.updRing c gid k f).fresh = s.fresh := rfl
@[simp] theorem State.updRing_hb (s : State) (c gid k : Nat) (f : Ring → Ring) : (s.updRing c gid k f).hb = s.hb := rfl

/-! ### `State.setCpw` -/

@[simp] theorem State.setCpw_part (s : State) (off v : Nat) : (s.setCpw off v).part = s.part := rfl
@[simp] theorem State.setCpw_dev (s : State) (off v : Nat) : (s.setCpw off v).dev = s.dev := rfl
@[simp] theorem State.setCpw_ptb (s : State) (off v : Nat) : (s.setCpw off v).ptb = s.ptb := rfl
@[simp] theorem State.setCpw_ptbFrac (s : State) (off v : Nat) : (s.setCpw off v).ptbFrac = s.ptbFrac := rfl
@[simp] theorem State.setCpw_booted (s : State) (off v : Nat) : (s.setCpw off v).booted = s.booted := rfl
@[simp] theorem State.setCpw_noCp (s : State) (off v : Nat) : (s.setCpw off v).noCp = s.noCp := rfl
@[simp] theorem State.setCpw_noShatus (s : State) (off v : Nat) : (s.setCpw off v).noShatus = s.noShatus := rfl
@[simp] theorem State.setCpw_supRoot (s : State) (off v : Nat) : (s.setCpw off v).supRoot = s.supRoot := rfl
@[simp] theorem State.setCpw_supEntry (s : State) (off v : Nat) : (s.setCpw off v).supEntry = s.supEntry := rfl
@[simp] theorem State.setCpw_mem (s : State) (off v : Nat) : (s.setCpw off v).mem = s.mem := rfl
@[simp] theorem State.setCpw_keyTag (s : State) (off v : Nat) : (s.setCpw off v).keyTag = s.keyTag := rfl
@[simp] theorem State.setCpw_poison (s : State) (off v : Nat) : (s.setCpw off v).poison = s.poison := rfl
@[simp] theorem State.setCpw_badSl (s : State) (off v : Nat) : (s.setCpw off v).badSl = s.badSl := rfl
@[simp] theorem State.setCpw_strong (s : State) (off v : Nat) : (s.setCpw off v).strong = s.strong := rfl
@[simp] theorem State.setCpw_undo (s : State) (off v : Nat) : (s.setCpw off v).undo = s.undo := rfl
@[simp] theorem State.setCpw_hostMem (s : State) (off v : Nat) : (s.setCpw off v).hostMem = s.hostMem := rfl
@[simp] theorem State.setCpw_keys (s : State) (off v : Nat) : (s.setCpw off v).keys = s.keys := rfl
@[simp] theorem State.setCpw_draws (s : State) (off v : Nat) : (s.setCpw off v).draws = s.draws := rfl
@[simp] theorem State.setCpw_mons (s : State) (off v : Nat) : (s.setCpw off v).mons = s.mons := rfl
@[simp] theorem State.setCpw_cores (s : State) (off v : Nat) : (s.setCpw off v).cores = s.cores := rfl
@[simp] theorem State.setCpw_harts (s : State) (off v : Nat) : (s.setCpw off v).harts = s.harts := rfl
@[simp] theorem State.setCpw_rate (s : State) (off v : Nat) : (s.setCpw off v).rate = s.rate := rfl
@[simp] theorem State.setCpw_outs (s : State) (off v : Nat) : (s.setCpw off v).outs = s.outs := rfl
@[simp] theorem State.setCpw_nodes (s : State) (off v : Nat) : (s.setCpw off v).nodes = s.nodes := rfl
@[simp] theorem State.setCpw_tills (s : State) (off v : Nat) : (s.setCpw off v).tills = s.tills := rfl
@[simp] theorem State.setCpw_grids (s : State) (off v : Nat) : (s.setCpw off v).grids = s.grids := rfl
@[simp] theorem State.setCpw_inst (s : State) (off v : Nat) : (s.setCpw off v).inst = s.inst := rfl
@[simp] theorem State.setCpw_gridNo (s : State) (off v : Nat) : (s.setCpw off v).gridNo = s.gridNo := rfl
@[simp] theorem State.setCpw_depQ (s : State) (off v : Nat) : (s.setCpw off v).depQ = s.depQ := rfl
@[simp] theorem State.setCpw_table (s : State) (off v : Nat) : (s.setCpw off v).table = s.table := rfl
@[simp] theorem State.setCpw_preempt (s : State) (off v : Nat) : (s.setCpw off v).preempt = s.preempt := rfl
@[simp] theorem State.setCpw_held (s : State) (off v : Nat) : (s.setCpw off v).held = s.held := rfl
@[simp] theorem State.setCpw_gbCount (s : State) (off v : Nat) : (s.setCpw off v).gbCount = s.gbCount := rfl
@[simp] theorem State.setCpw_fbars (s : State) (off v : Nat) : (s.setCpw off v).fbars = s.fbars := rfl
@[simp] theorem State.setCpw_uirqs (s : State) (off v : Nat) : (s.setCpw off v).uirqs = s.uirqs := rfl
@[simp] theorem State.setCpw_esc (s : State) (off v : Nat) : (s.setCpw off v).esc = s.esc := rfl
@[simp] theorem State.setCpw_aborted (s : State) (off v : Nat) : (s.setCpw off v).aborted = s.aborted := rfl
@[simp] theorem State.setCpw_spillSaid (s : State) (off v : Nat) : (s.setCpw off v).spillSaid = s.spillSaid := rfl
@[simp] theorem State.setCpw_dests (s : State) (off v : Nat) : (s.setCpw off v).dests = s.dests := rfl
@[simp] theorem State.setCpw_srcs (s : State) (off v : Nat) : (s.setCpw off v).srcs = s.srcs := rfl
@[simp] theorem State.setCpw_ports (s : State) (off v : Nat) : (s.setCpw off v).ports = s.ports := rfl
@[simp] theorem State.setCpw_tag (s : State) (off v : Nat) : (s.setCpw off v).tag = s.tag := rfl
@[simp] theorem State.setCpw_cpReads (s : State) (off v : Nat) : (s.setCpw off v).cpReads = s.cpReads := rfl
@[simp] theorem State.setCpw_bells (s : State) (off v : Nat) : (s.setCpw off v).bells = s.bells := rfl
@[simp] theorem State.setCpw_after (s : State) (off v : Nat) : (s.setCpw off v).after = s.after := rfl
@[simp] theorem State.setCpw_cmdReads (s : State) (off v : Nat) : (s.setCpw off v).cmdReads = s.cmdReads := rfl
@[simp] theorem State.setCpw_vaults (s : State) (off v : Nat) : (s.setCpw off v).vaults = s.vaults := rfl
@[simp] theorem State.setCpw_meas (s : State) (off v : Nat) : (s.setCpw off v).meas = s.meas := rfl
@[simp] theorem State.setCpw_cert (s : State) (off v : Nat) : (s.setCpw off v).cert = s.cert := rfl
@[simp] theorem State.setCpw_hist (s : State) (off v : Nat) : (s.setCpw off v).hist = s.hist := rfl
@[simp] theorem State.setCpw_hot (s : State) (off v : Nat) : (s.setCpw off v).hot = s.hot := rfl
@[simp] theorem State.setCpw_ptp (s : State) (off v : Nat) : (s.setCpw off v).ptp = s.ptp := rfl
@[simp] theorem State.setCpw_nbrs (s : State) (off v : Nat) : (s.setCpw off v).nbrs = s.nbrs := rfl
@[simp] theorem State.setCpw_peer (s : State) (off v : Nat) : (s.setCpw off v).peer = s.peer := rfl
@[simp] theorem State.setCpw_hotAt (s : State) (off v : Nat) : (s.setCpw off v).hotAt = s.hotAt := rfl
@[simp] theorem State.setCpw_patrol (s : State) (off v : Nat) : (s.setCpw off v).patrol = s.patrol := rfl
@[simp] theorem State.setCpw_agenda (s : State) (off v : Nat) : (s.setCpw off v).agenda = s.agenda := rfl
@[simp] theorem State.setCpw_cur (s : State) (off v : Nat) : (s.setCpw off v).cur = s.cur := rfl
@[simp] theorem State.setCpw_issued (s : State) (off v : Nat) : (s.setCpw off v).issued = s.issued := rfl
@[simp] theorem State.setCpw_stop (s : State) (off v : Nat) : (s.setCpw off v).stop = s.stop := rfl
@[simp] theorem State.setCpw_rr (s : State) (off v : Nat) : (s.setCpw off v).rr = s.rr := rfl
@[simp] theorem State.setCpw_fresh (s : State) (off v : Nat) : (s.setCpw off v).fresh = s.fresh := rfl
@[simp] theorem State.setCpw_hb (s : State) (off v : Nat) : (s.setCpw off v).hb = s.hb := rfl

/-! ### `State.updPort` -/

@[simp] theorem State.updPort_part (s : State) (i : Nat) (f : Port → Port) : (s.updPort i f).part = s.part := rfl
@[simp] theorem State.updPort_dev (s : State) (i : Nat) (f : Port → Port) : (s.updPort i f).dev = s.dev := rfl
@[simp] theorem State.updPort_ptb (s : State) (i : Nat) (f : Port → Port) : (s.updPort i f).ptb = s.ptb := rfl
@[simp] theorem State.updPort_ptbFrac (s : State) (i : Nat) (f : Port → Port) : (s.updPort i f).ptbFrac = s.ptbFrac := rfl
@[simp] theorem State.updPort_booted (s : State) (i : Nat) (f : Port → Port) : (s.updPort i f).booted = s.booted := rfl
@[simp] theorem State.updPort_noCp (s : State) (i : Nat) (f : Port → Port) : (s.updPort i f).noCp = s.noCp := rfl
@[simp] theorem State.updPort_noShatus (s : State) (i : Nat) (f : Port → Port) : (s.updPort i f).noShatus = s.noShatus := rfl
@[simp] theorem State.updPort_supRoot (s : State) (i : Nat) (f : Port → Port) : (s.updPort i f).supRoot = s.supRoot := rfl
@[simp] theorem State.updPort_supEntry (s : State) (i : Nat) (f : Port → Port) : (s.updPort i f).supEntry = s.supEntry := rfl
@[simp] theorem State.updPort_cp (s : State) (i : Nat) (f : Port → Port) : (s.updPort i f).cp = s.cp := rfl
@[simp] theorem State.updPort_mem (s : State) (i : Nat) (f : Port → Port) : (s.updPort i f).mem = s.mem := rfl
@[simp] theorem State.updPort_keyTag (s : State) (i : Nat) (f : Port → Port) : (s.updPort i f).keyTag = s.keyTag := rfl
@[simp] theorem State.updPort_poison (s : State) (i : Nat) (f : Port → Port) : (s.updPort i f).poison = s.poison := rfl
@[simp] theorem State.updPort_badSl (s : State) (i : Nat) (f : Port → Port) : (s.updPort i f).badSl = s.badSl := rfl
@[simp] theorem State.updPort_strong (s : State) (i : Nat) (f : Port → Port) : (s.updPort i f).strong = s.strong := rfl
@[simp] theorem State.updPort_undo (s : State) (i : Nat) (f : Port → Port) : (s.updPort i f).undo = s.undo := rfl
@[simp] theorem State.updPort_hostMem (s : State) (i : Nat) (f : Port → Port) : (s.updPort i f).hostMem = s.hostMem := rfl
@[simp] theorem State.updPort_keys (s : State) (i : Nat) (f : Port → Port) : (s.updPort i f).keys = s.keys := rfl
@[simp] theorem State.updPort_draws (s : State) (i : Nat) (f : Port → Port) : (s.updPort i f).draws = s.draws := rfl
@[simp] theorem State.updPort_mons (s : State) (i : Nat) (f : Port → Port) : (s.updPort i f).mons = s.mons := rfl
@[simp] theorem State.updPort_cores (s : State) (i : Nat) (f : Port → Port) : (s.updPort i f).cores = s.cores := rfl
@[simp] theorem State.updPort_harts (s : State) (i : Nat) (f : Port → Port) : (s.updPort i f).harts = s.harts := rfl
@[simp] theorem State.updPort_rate (s : State) (i : Nat) (f : Port → Port) : (s.updPort i f).rate = s.rate := rfl
@[simp] theorem State.updPort_outs (s : State) (i : Nat) (f : Port → Port) : (s.updPort i f).outs = s.outs := rfl
@[simp] theorem State.updPort_nodes (s : State) (i : Nat) (f : Port → Port) : (s.updPort i f).nodes = s.nodes := rfl
@[simp] theorem State.updPort_tills (s : State) (i : Nat) (f : Port → Port) : (s.updPort i f).tills = s.tills := rfl
@[simp] theorem State.updPort_grids (s : State) (i : Nat) (f : Port → Port) : (s.updPort i f).grids = s.grids := rfl
@[simp] theorem State.updPort_inst (s : State) (i : Nat) (f : Port → Port) : (s.updPort i f).inst = s.inst := rfl
@[simp] theorem State.updPort_gridNo (s : State) (i : Nat) (f : Port → Port) : (s.updPort i f).gridNo = s.gridNo := rfl
@[simp] theorem State.updPort_depQ (s : State) (i : Nat) (f : Port → Port) : (s.updPort i f).depQ = s.depQ := rfl
@[simp] theorem State.updPort_table (s : State) (i : Nat) (f : Port → Port) : (s.updPort i f).table = s.table := rfl
@[simp] theorem State.updPort_preempt (s : State) (i : Nat) (f : Port → Port) : (s.updPort i f).preempt = s.preempt := rfl
@[simp] theorem State.updPort_held (s : State) (i : Nat) (f : Port → Port) : (s.updPort i f).held = s.held := rfl
@[simp] theorem State.updPort_gbCount (s : State) (i : Nat) (f : Port → Port) : (s.updPort i f).gbCount = s.gbCount := rfl
@[simp] theorem State.updPort_fbars (s : State) (i : Nat) (f : Port → Port) : (s.updPort i f).fbars = s.fbars := rfl
@[simp] theorem State.updPort_uirqs (s : State) (i : Nat) (f : Port → Port) : (s.updPort i f).uirqs = s.uirqs := rfl
@[simp] theorem State.updPort_esc (s : State) (i : Nat) (f : Port → Port) : (s.updPort i f).esc = s.esc := rfl
@[simp] theorem State.updPort_aborted (s : State) (i : Nat) (f : Port → Port) : (s.updPort i f).aborted = s.aborted := rfl
@[simp] theorem State.updPort_spillSaid (s : State) (i : Nat) (f : Port → Port) : (s.updPort i f).spillSaid = s.spillSaid := rfl
@[simp] theorem State.updPort_dests (s : State) (i : Nat) (f : Port → Port) : (s.updPort i f).dests = s.dests := rfl
@[simp] theorem State.updPort_srcs (s : State) (i : Nat) (f : Port → Port) : (s.updPort i f).srcs = s.srcs := rfl
@[simp] theorem State.updPort_tag (s : State) (i : Nat) (f : Port → Port) : (s.updPort i f).tag = s.tag := rfl
@[simp] theorem State.updPort_cpReads (s : State) (i : Nat) (f : Port → Port) : (s.updPort i f).cpReads = s.cpReads := rfl
@[simp] theorem State.updPort_bells (s : State) (i : Nat) (f : Port → Port) : (s.updPort i f).bells = s.bells := rfl
@[simp] theorem State.updPort_after (s : State) (i : Nat) (f : Port → Port) : (s.updPort i f).after = s.after := rfl
@[simp] theorem State.updPort_cmdReads (s : State) (i : Nat) (f : Port → Port) : (s.updPort i f).cmdReads = s.cmdReads := rfl
@[simp] theorem State.updPort_vaults (s : State) (i : Nat) (f : Port → Port) : (s.updPort i f).vaults = s.vaults := rfl
@[simp] theorem State.updPort_meas (s : State) (i : Nat) (f : Port → Port) : (s.updPort i f).meas = s.meas := rfl
@[simp] theorem State.updPort_cert (s : State) (i : Nat) (f : Port → Port) : (s.updPort i f).cert = s.cert := rfl
@[simp] theorem State.updPort_hist (s : State) (i : Nat) (f : Port → Port) : (s.updPort i f).hist = s.hist := rfl
@[simp] theorem State.updPort_hot (s : State) (i : Nat) (f : Port → Port) : (s.updPort i f).hot = s.hot := rfl
@[simp] theorem State.updPort_ptp (s : State) (i : Nat) (f : Port → Port) : (s.updPort i f).ptp = s.ptp := rfl
@[simp] theorem State.updPort_nbrs (s : State) (i : Nat) (f : Port → Port) : (s.updPort i f).nbrs = s.nbrs := rfl
@[simp] theorem State.updPort_peer (s : State) (i : Nat) (f : Port → Port) : (s.updPort i f).peer = s.peer := rfl
@[simp] theorem State.updPort_hotAt (s : State) (i : Nat) (f : Port → Port) : (s.updPort i f).hotAt = s.hotAt := rfl
@[simp] theorem State.updPort_patrol (s : State) (i : Nat) (f : Port → Port) : (s.updPort i f).patrol = s.patrol := rfl
@[simp] theorem State.updPort_agenda (s : State) (i : Nat) (f : Port → Port) : (s.updPort i f).agenda = s.agenda := rfl
@[simp] theorem State.updPort_cur (s : State) (i : Nat) (f : Port → Port) : (s.updPort i f).cur = s.cur := rfl
@[simp] theorem State.updPort_issued (s : State) (i : Nat) (f : Port → Port) : (s.updPort i f).issued = s.issued := rfl
@[simp] theorem State.updPort_stop (s : State) (i : Nat) (f : Port → Port) : (s.updPort i f).stop = s.stop := rfl
@[simp] theorem State.updPort_rr (s : State) (i : Nat) (f : Port → Port) : (s.updPort i f).rr = s.rr := rfl
@[simp] theorem State.updPort_fresh (s : State) (i : Nat) (f : Port → Port) : (s.updPort i f).fresh = s.fresh := rfl
@[simp] theorem State.updPort_hb (s : State) (i : Nat) (f : Port → Port) : (s.updPort i f).hb = s.hb := rfl

/-! ### `State.halt` -/

@[simp] theorem State.halt_part (s : State) (f : Fault) : (s.halt f).part = s.part := rfl
@[simp] theorem State.halt_dev (s : State) (f : Fault) : (s.halt f).dev = s.dev := rfl
@[simp] theorem State.halt_ptb (s : State) (f : Fault) : (s.halt f).ptb = s.ptb := rfl
@[simp] theorem State.halt_ptbFrac (s : State) (f : Fault) : (s.halt f).ptbFrac = s.ptbFrac := rfl
@[simp] theorem State.halt_booted (s : State) (f : Fault) : (s.halt f).booted = s.booted := rfl
@[simp] theorem State.halt_noCp (s : State) (f : Fault) : (s.halt f).noCp = s.noCp := rfl
@[simp] theorem State.halt_noShatus (s : State) (f : Fault) : (s.halt f).noShatus = s.noShatus := rfl
@[simp] theorem State.halt_supRoot (s : State) (f : Fault) : (s.halt f).supRoot = s.supRoot := rfl
@[simp] theorem State.halt_supEntry (s : State) (f : Fault) : (s.halt f).supEntry = s.supEntry := rfl
@[simp] theorem State.halt_cp (s : State) (f : Fault) : (s.halt f).cp = s.cp := rfl
@[simp] theorem State.halt_mem (s : State) (f : Fault) : (s.halt f).mem = s.mem := rfl
@[simp] theorem State.halt_keyTag (s : State) (f : Fault) : (s.halt f).keyTag = s.keyTag := rfl
@[simp] theorem State.halt_poison (s : State) (f : Fault) : (s.halt f).poison = s.poison := rfl
@[simp] theorem State.halt_badSl (s : State) (f : Fault) : (s.halt f).badSl = s.badSl := rfl
@[simp] theorem State.halt_strong (s : State) (f : Fault) : (s.halt f).strong = s.strong := rfl
@[simp] theorem State.halt_undo (s : State) (f : Fault) : (s.halt f).undo = s.undo := rfl
@[simp] theorem State.halt_hostMem (s : State) (f : Fault) : (s.halt f).hostMem = s.hostMem := rfl
@[simp] theorem State.halt_keys (s : State) (f : Fault) : (s.halt f).keys = s.keys := rfl
@[simp] theorem State.halt_draws (s : State) (f : Fault) : (s.halt f).draws = s.draws := rfl
@[simp] theorem State.halt_mons (s : State) (f : Fault) : (s.halt f).mons = s.mons := rfl
@[simp] theorem State.halt_cores (s : State) (f : Fault) : (s.halt f).cores = s.cores := rfl
@[simp] theorem State.halt_harts (s : State) (f : Fault) : (s.halt f).harts = s.harts := rfl
@[simp] theorem State.halt_rate (s : State) (f : Fault) : (s.halt f).rate = s.rate := rfl
@[simp] theorem State.halt_outs (s : State) (f : Fault) : (s.halt f).outs = s.outs := rfl
@[simp] theorem State.halt_nodes (s : State) (f : Fault) : (s.halt f).nodes = s.nodes := rfl
@[simp] theorem State.halt_tills (s : State) (f : Fault) : (s.halt f).tills = s.tills := rfl
@[simp] theorem State.halt_grids (s : State) (f : Fault) : (s.halt f).grids = s.grids := rfl
@[simp] theorem State.halt_inst (s : State) (f : Fault) : (s.halt f).inst = s.inst := rfl
@[simp] theorem State.halt_gridNo (s : State) (f : Fault) : (s.halt f).gridNo = s.gridNo := rfl
@[simp] theorem State.halt_depQ (s : State) (f : Fault) : (s.halt f).depQ = s.depQ := rfl
@[simp] theorem State.halt_table (s : State) (f : Fault) : (s.halt f).table = s.table := rfl
@[simp] theorem State.halt_preempt (s : State) (f : Fault) : (s.halt f).preempt = s.preempt := rfl
@[simp] theorem State.halt_held (s : State) (f : Fault) : (s.halt f).held = s.held := rfl
@[simp] theorem State.halt_gbCount (s : State) (f : Fault) : (s.halt f).gbCount = s.gbCount := rfl
@[simp] theorem State.halt_fbars (s : State) (f : Fault) : (s.halt f).fbars = s.fbars := rfl
@[simp] theorem State.halt_uirqs (s : State) (f : Fault) : (s.halt f).uirqs = s.uirqs := rfl
@[simp] theorem State.halt_esc (s : State) (f : Fault) : (s.halt f).esc = s.esc := rfl
@[simp] theorem State.halt_aborted (s : State) (f : Fault) : (s.halt f).aborted = s.aborted := rfl
@[simp] theorem State.halt_spillSaid (s : State) (f : Fault) : (s.halt f).spillSaid = s.spillSaid := rfl
@[simp] theorem State.halt_dests (s : State) (f : Fault) : (s.halt f).dests = s.dests := rfl
@[simp] theorem State.halt_srcs (s : State) (f : Fault) : (s.halt f).srcs = s.srcs := rfl
@[simp] theorem State.halt_ports (s : State) (f : Fault) : (s.halt f).ports = s.ports := rfl
@[simp] theorem State.halt_tag (s : State) (f : Fault) : (s.halt f).tag = s.tag := rfl
@[simp] theorem State.halt_cpReads (s : State) (f : Fault) : (s.halt f).cpReads = s.cpReads := rfl
@[simp] theorem State.halt_bells (s : State) (f : Fault) : (s.halt f).bells = s.bells := rfl
@[simp] theorem State.halt_after (s : State) (f : Fault) : (s.halt f).after = s.after := rfl
@[simp] theorem State.halt_cmdReads (s : State) (f : Fault) : (s.halt f).cmdReads = s.cmdReads := rfl
@[simp] theorem State.halt_vaults (s : State) (f : Fault) : (s.halt f).vaults = s.vaults := rfl
@[simp] theorem State.halt_meas (s : State) (f : Fault) : (s.halt f).meas = s.meas := rfl
@[simp] theorem State.halt_cert (s : State) (f : Fault) : (s.halt f).cert = s.cert := rfl
@[simp] theorem State.halt_hist (s : State) (f : Fault) : (s.halt f).hist = s.hist := rfl
@[simp] theorem State.halt_hot (s : State) (f : Fault) : (s.halt f).hot = s.hot := rfl
@[simp] theorem State.halt_ptp (s : State) (f : Fault) : (s.halt f).ptp = s.ptp := rfl
@[simp] theorem State.halt_nbrs (s : State) (f : Fault) : (s.halt f).nbrs = s.nbrs := rfl
@[simp] theorem State.halt_peer (s : State) (f : Fault) : (s.halt f).peer = s.peer := rfl
@[simp] theorem State.halt_hotAt (s : State) (f : Fault) : (s.halt f).hotAt = s.hotAt := rfl
@[simp] theorem State.halt_patrol (s : State) (f : Fault) : (s.halt f).patrol = s.patrol := rfl
@[simp] theorem State.halt_agenda (s : State) (f : Fault) : (s.halt f).agenda = s.agenda := rfl
@[simp] theorem State.halt_cur (s : State) (f : Fault) : (s.halt f).cur = s.cur := rfl
@[simp] theorem State.halt_issued (s : State) (f : Fault) : (s.halt f).issued = s.issued := rfl
@[simp] theorem State.halt_rr (s : State) (f : Fault) : (s.halt f).rr = s.rr := rfl
@[simp] theorem State.halt_fresh (s : State) (f : Fault) : (s.halt f).fresh = s.fresh := rfl
@[simp] theorem State.halt_hb (s : State) (f : Fault) : (s.halt f).hb = s.hb := rfl

/-! ### `State.tick` -/

@[simp] theorem State.tick_part (s : State) : (s.tick).part = s.part := rfl
@[simp] theorem State.tick_dev (s : State) : (s.tick).dev = s.dev := rfl
@[simp] theorem State.tick_ptb (s : State) : (s.tick).ptb = s.ptb := rfl
@[simp] theorem State.tick_ptbFrac (s : State) : (s.tick).ptbFrac = s.ptbFrac := rfl
@[simp] theorem State.tick_booted (s : State) : (s.tick).booted = s.booted := rfl
@[simp] theorem State.tick_noCp (s : State) : (s.tick).noCp = s.noCp := rfl
@[simp] theorem State.tick_noShatus (s : State) : (s.tick).noShatus = s.noShatus := rfl
@[simp] theorem State.tick_supRoot (s : State) : (s.tick).supRoot = s.supRoot := rfl
@[simp] theorem State.tick_supEntry (s : State) : (s.tick).supEntry = s.supEntry := rfl
@[simp] theorem State.tick_cp (s : State) : (s.tick).cp = s.cp := rfl
@[simp] theorem State.tick_mem (s : State) : (s.tick).mem = s.mem := rfl
@[simp] theorem State.tick_keyTag (s : State) : (s.tick).keyTag = s.keyTag := rfl
@[simp] theorem State.tick_poison (s : State) : (s.tick).poison = s.poison := rfl
@[simp] theorem State.tick_badSl (s : State) : (s.tick).badSl = s.badSl := rfl
@[simp] theorem State.tick_strong (s : State) : (s.tick).strong = s.strong := rfl
@[simp] theorem State.tick_undo (s : State) : (s.tick).undo = s.undo := rfl
@[simp] theorem State.tick_hostMem (s : State) : (s.tick).hostMem = s.hostMem := rfl
@[simp] theorem State.tick_keys (s : State) : (s.tick).keys = s.keys := rfl
@[simp] theorem State.tick_draws (s : State) : (s.tick).draws = s.draws := rfl
@[simp] theorem State.tick_mons (s : State) : (s.tick).mons = s.mons := rfl
@[simp] theorem State.tick_cores (s : State) : (s.tick).cores = s.cores := rfl
@[simp] theorem State.tick_harts (s : State) : (s.tick).harts = s.harts := rfl
@[simp] theorem State.tick_rate (s : State) : (s.tick).rate = s.rate := rfl
@[simp] theorem State.tick_outs (s : State) : (s.tick).outs = s.outs := rfl
@[simp] theorem State.tick_nodes (s : State) : (s.tick).nodes = s.nodes := rfl
@[simp] theorem State.tick_tills (s : State) : (s.tick).tills = s.tills := rfl
@[simp] theorem State.tick_grids (s : State) : (s.tick).grids = s.grids := rfl
@[simp] theorem State.tick_inst (s : State) : (s.tick).inst = s.inst := rfl
@[simp] theorem State.tick_gridNo (s : State) : (s.tick).gridNo = s.gridNo := rfl
@[simp] theorem State.tick_depQ (s : State) : (s.tick).depQ = s.depQ := rfl
@[simp] theorem State.tick_table (s : State) : (s.tick).table = s.table := rfl
@[simp] theorem State.tick_preempt (s : State) : (s.tick).preempt = s.preempt := rfl
@[simp] theorem State.tick_held (s : State) : (s.tick).held = s.held := rfl
@[simp] theorem State.tick_gbCount (s : State) : (s.tick).gbCount = s.gbCount := rfl
@[simp] theorem State.tick_fbars (s : State) : (s.tick).fbars = s.fbars := rfl
@[simp] theorem State.tick_uirqs (s : State) : (s.tick).uirqs = s.uirqs := rfl
@[simp] theorem State.tick_esc (s : State) : (s.tick).esc = s.esc := rfl
@[simp] theorem State.tick_aborted (s : State) : (s.tick).aborted = s.aborted := rfl
@[simp] theorem State.tick_spillSaid (s : State) : (s.tick).spillSaid = s.spillSaid := rfl
@[simp] theorem State.tick_dests (s : State) : (s.tick).dests = s.dests := rfl
@[simp] theorem State.tick_srcs (s : State) : (s.tick).srcs = s.srcs := rfl
@[simp] theorem State.tick_ports (s : State) : (s.tick).ports = s.ports := rfl
@[simp] theorem State.tick_tag (s : State) : (s.tick).tag = s.tag := rfl
@[simp] theorem State.tick_cpReads (s : State) : (s.tick).cpReads = s.cpReads := rfl
@[simp] theorem State.tick_bells (s : State) : (s.tick).bells = s.bells := rfl
@[simp] theorem State.tick_after (s : State) : (s.tick).after = s.after := rfl
@[simp] theorem State.tick_cmdReads (s : State) : (s.tick).cmdReads = s.cmdReads := rfl
@[simp] theorem State.tick_vaults (s : State) : (s.tick).vaults = s.vaults := rfl
@[simp] theorem State.tick_meas (s : State) : (s.tick).meas = s.meas := rfl
@[simp] theorem State.tick_cert (s : State) : (s.tick).cert = s.cert := rfl
@[simp] theorem State.tick_hist (s : State) : (s.tick).hist = s.hist := rfl
@[simp] theorem State.tick_hot (s : State) : (s.tick).hot = s.hot := rfl
@[simp] theorem State.tick_ptp (s : State) : (s.tick).ptp = s.ptp := rfl
@[simp] theorem State.tick_nbrs (s : State) : (s.tick).nbrs = s.nbrs := rfl
@[simp] theorem State.tick_peer (s : State) : (s.tick).peer = s.peer := rfl
@[simp] theorem State.tick_hotAt (s : State) : (s.tick).hotAt = s.hotAt := rfl
@[simp] theorem State.tick_patrol (s : State) : (s.tick).patrol = s.patrol := rfl
@[simp] theorem State.tick_agenda (s : State) : (s.tick).agenda = s.agenda := rfl
@[simp] theorem State.tick_cur (s : State) : (s.tick).cur = s.cur := rfl
@[simp] theorem State.tick_issued (s : State) : (s.tick).issued = s.issued := rfl
@[simp] theorem State.tick_stop (s : State) : (s.tick).stop = s.stop := rfl
@[simp] theorem State.tick_rr (s : State) : (s.tick).rr = s.rr := rfl
@[simp] theorem State.tick_hb (s : State) : (s.tick).hb = s.hb := rfl

/-! ### `Core.updWarp` -/

@[simp] theorem Core.updWarp_gen (k : Core) (wix : Nat) (f : Warp → Warp) : (k.updWarp wix f).gen = k.gen := rfl
@[simp] theorem Core.updWarp_job (k : Core) (wix : Nat) (f : Warp → Warp) : (k.updWarp wix f).job = k.job := rfl
@[simp] theorem Core.updWarp_phase (k : Core) (wix : Nat) (f : Warp → Warp) : (k.updWarp wix f).phase = k.phase := rfl
@[simp] theorem Core.updWarp_slot (k : Core) (wix : Nat) (f : Warp → Warp) : (k.updWarp wix f).slot = k.slot := rfl
@[simp] theorem Core.updWarp_inc (k : Core) (wix : Nat) (f : Warp → Warp) : (k.updWarp wix f).inc = k.inc := rfl
@[simp] theorem Core.updWarp_swAt (k : Core) (wix : Nat) (f : Warp → Warp) : (k.updWarp wix f).swAt = k.swAt := rfl
@[simp] theorem Core.updWarp_phAt (k : Core) (wix : Nat) (f : Warp → Warp) : (k.updWarp wix f).phAt = k.phAt := rfl
@[simp] theorem Core.updWarp_restart (k : Core) (wix : Nat) (f : Warp → Warp) : (k.updWarp wix f).restart = k.restart := rfl
@[simp] theorem Core.updWarp_prep (k : Core) (wix : Nat) (f : Warp → Warp) : (k.updWarp wix f).prep = k.prep := rfl
@[simp] theorem Core.updWarp_aclk (k : Core) (wix : Nat) (f : Warp → Warp) : (k.updWarp wix f).aclk = k.aclk := rfl
@[simp] theorem Core.updWarp_groups (k : Core) (wix : Nat) (f : Warp → Warp) : (k.updWarp wix f).groups = k.groups := rfl
@[simp] theorem Core.updWarp_sp (k : Core) (wix : Nat) (f : Warp → Warp) : (k.updWarp wix f).sp = k.sp := rfl
@[simp] theorem Core.updWarp_bars (k : Core) (wix : Nat) (f : Warp → Warp) : (k.updWarp wix f).bars = k.bars := rfl
@[simp] theorem Core.updWarp_mbox (k : Core) (wix : Nat) (f : Warp → Warp) : (k.updWarp wix f).mbox = k.mbox := rfl
@[simp] theorem Core.updWarp_heldRecs (k : Core) (wix : Nat) (f : Warp → Warp) : (k.updWarp wix f).heldRecs = k.heldRecs := rfl
@[simp] theorem Core.updWarp_mbdb (k : Core) (wix : Nat) (f : Warp → Warp) : (k.updWarp wix f).mbdb = k.mbdb := rfl
@[simp] theorem Core.updWarp_fbuf (k : Core) (wix : Nat) (f : Warp → Warp) : (k.updWarp wix f).fbuf = k.fbuf := rfl
@[simp] theorem Core.updWarp_copies (k : Core) (wix : Nat) (f : Warp → Warp) : (k.updWarp wix f).copies = k.copies := rfl
@[simp] theorem Core.updWarp_nextId (k : Core) (wix : Nat) (f : Warp → Warp) : (k.updWarp wix f).nextId = k.nextId := rfl
@[simp] theorem Core.updWarp_rcache (k : Core) (wix : Nat) (f : Warp → Warp) : (k.updWarp wix f).rcache = k.rcache := rfl
@[simp] theorem Core.updWarp_tlb (k : Core) (wix : Nat) (f : Warp → Warp) : (k.updWarp wix f).tlb = k.tlb := rfl
@[simp] theorem Core.updWarp_tlbAt (k : Core) (wix : Nat) (f : Warp → Warp) : (k.updWarp wix f).tlbAt = k.tlbAt := rfl
@[simp] theorem Core.updWarp_flushes (k : Core) (wix : Nat) (f : Warp → Warp) : (k.updWarp wix f).flushes = k.flushes := rfl
@[simp] theorem Core.updWarp_roAt (k : Core) (wix : Nat) (f : Warp → Warp) : (k.updWarp wix f).roAt = k.roAt := rfl
@[simp] theorem Core.updWarp_slices (k : Core) (wix : Nat) (f : Warp → Warp) : (k.updWarp wix f).slices = k.slices := rfl

/-! ### `Warp.vSet` -/

@[simp] theorem Warp.vSet_wix (w : Warp) (r l v : Nat) : (w.vSet r l v).wix = w.wix := rfl
@[simp] theorem Warp.vSet_gid (w : Warp) (r l v : Nat) : (w.vSet r l v).gid = w.gid := rfl
@[simp] theorem Warp.vSet_warp (w : Warp) (r l v : Nat) : (w.vSet r l v).warp = w.warp := rfl
@[simp] theorem Warp.vSet_vBud (w : Warp) (r l v : Nat) : (w.vSet r l v).vBud = w.vBud := rfl
@[simp] theorem Warp.vSet_wBud (w : Warp) (r l v : Nat) : (w.vSet r l v).wBud = w.wBud := rfl
@[simp] theorem Warp.vSet_aBud (w : Warp) (r l v : Nat) : (w.vSet r l v).aBud = w.aBud := rfl
@[simp] theorem Warp.vSet_qb (w : Warp) (r l v : Nat) : (w.vSet r l v).qb = w.qb := rfl
@[simp] theorem Warp.vSet_pcs (w : Warp) (r l v : Nat) : (w.vSet r l v).pcs = w.pcs := rfl
@[simp] theorem Warp.vSet_fin (w : Warp) (r l v : Nat) : (w.vSet r l v).fin = w.fin := rfl
@[simp] theorem Warp.vSet_preds (w : Warp) (r l v : Nat) : (w.vSet r l v).preds = w.preds := rfl
@[simp] theorem Warp.vSet_w (w : Warp) (r l v : Nat) : (w.vSet r l v).w = w.w := rfl
@[simp] theorem Warp.vSet_wE (w : Warp) (r l v : Nat) : (w.vSet r l v).wE = w.wE := rfl
@[simp] theorem Warp.vSet_acc (w : Warp) (r l v : Nat) : (w.vSet r l v).acc = w.acc := rfl
@[simp] theorem Warp.vSet_conv (w : Warp) (r l v : Nat) : (w.vSet r l v).conv = w.conv := rfl
@[simp] theorem Warp.vSet_ops (w : Warp) (r l v : Nat) : (w.vSet r l v).ops = w.ops := rfl
@[simp] theorem Warp.vSet_unacked (w : Warp) (r l v : Nat) : (w.vSet r l v).unacked = w.unacked := rfl
@[simp] theorem Warp.vSet_fpstat (w : Warp) (r l v : Nat) : (w.vSet r l v).fpstat = w.fpstat := rfl
@[simp] theorem Warp.vSet_seed (w : Warp) (r l v : Nat) : (w.vSet r l v).seed = w.seed := rfl
@[simp] theorem Warp.vSet_qcls (w : Warp) (r l v : Nat) : (w.vSet r l v).qcls = w.qcls := rfl
@[simp] theorem Warp.vSet_wait (w : Warp) (r l v : Nat) : (w.vSet r l v).wait = w.wait := rfl
@[simp] theorem Warp.vSet_since (w : Warp) (r l v : Nat) : (w.vSet r l v).since = w.since := rfl
@[simp] theorem Warp.vSet_result (w : Warp) (r l v : Nat) : (w.vSet r l v).result = w.result := rfl
@[simp] theorem Warp.vSet_stopped (w : Warp) (r l v : Nat) : (w.vSet r l v).stopped = w.stopped := rfl
@[simp] theorem Warp.vSet_stopAt (w : Warp) (r l v : Nat) : (w.vSet r l v).stopAt = w.stopAt := rfl
@[simp] theorem Warp.vSet_asyncStop (w : Warp) (r l v : Nat) : (w.vSet r l v).asyncStop = w.asyncStop := rfl
@[simp] theorem Warp.vSet_replay (w : Warp) (r l v : Nat) : (w.vSet r l v).replay = w.replay := rfl
@[simp] theorem Warp.vSet_parkHeld (w : Warp) (r l v : Nat) : (w.vSet r l v).parkHeld = w.parkHeld := rfl
@[simp] theorem Warp.vSet_sup (w : Warp) (r l v : Nat) : (w.vSet r l v).sup = w.sup := rfl
@[simp] theorem Warp.vSet_place (w : Warp) (r l v : Nat) : (w.vSet r l v).place = w.place := rfl
@[simp] theorem Warp.vSet_vBase (w : Warp) (r l v : Nat) : (w.vSet r l v).vBase = w.vBase := rfl
@[simp] theorem Warp.vSet_aBase (w : Warp) (r l v : Nat) : (w.vSet r l v).aBase = w.aBase := rfl
@[simp] theorem Warp.vSet_waitDev (w : Warp) (r l v : Nat) : (w.vSet r l v).waitDev = w.waitDev := rfl
@[simp] theorem Warp.vSet_landed (w : Warp) (r l v : Nat) : (w.vSet r l v).landed = w.landed := rfl
@[simp] theorem Warp.vSet_pieces (w : Warp) (r l v : Nat) : (w.vSet r l v).pieces = w.pieces := rfl
@[simp] theorem Warp.vSet_parkAt (w : Warp) (r l v : Nat) : (w.vSet r l v).parkAt = w.parkAt := rfl
@[simp] theorem Warp.vSet_fetched (w : Warp) (r l v : Nat) : (w.vSet r l v).fetched = w.fetched := rfl
@[simp] theorem Warp.vSet_waitPA (w : Warp) (r l v : Nat) : (w.vSet r l v).waitPA = w.waitPA := rfl
@[simp] theorem Warp.vSet_age (w : Warp) (r l v : Nat) : (w.vSet r l v).age = w.age := rfl
@[simp] theorem Warp.vSet_ready (w : Warp) (r l v : Nat) : (w.vSet r l v).ready = w.ready := rfl
@[simp] theorem Warp.vSet_keen (w : Warp) (r l v : Nat) : (w.vSet r l v).keen = w.keen := rfl
@[simp] theorem Warp.vSet_skips (w : Warp) (r l v : Nat) : (w.vSet r l v).skips = w.skips := rfl
@[simp] theorem Warp.vSet_needs (w : Warp) (r l v : Nat) : (w.vSet r l v).needs = w.needs := rfl

/-! ### `Warp.wSet` -/

@[simp] theorem Warp.wSet_wix (w : Warp) (r v : Nat) : (w.wSet r v).wix = w.wix := rfl
@[simp] theorem Warp.wSet_gid (w : Warp) (r v : Nat) : (w.wSet r v).gid = w.gid := rfl
@[simp] theorem Warp.wSet_warp (w : Warp) (r v : Nat) : (w.wSet r v).warp = w.warp := rfl
@[simp] theorem Warp.wSet_vBud (w : Warp) (r v : Nat) : (w.wSet r v).vBud = w.vBud := rfl
@[simp] theorem Warp.wSet_wBud (w : Warp) (r v : Nat) : (w.wSet r v).wBud = w.wBud := rfl
@[simp] theorem Warp.wSet_aBud (w : Warp) (r v : Nat) : (w.wSet r v).aBud = w.aBud := rfl
@[simp] theorem Warp.wSet_qb (w : Warp) (r v : Nat) : (w.wSet r v).qb = w.qb := rfl
@[simp] theorem Warp.wSet_pcs (w : Warp) (r v : Nat) : (w.wSet r v).pcs = w.pcs := rfl
@[simp] theorem Warp.wSet_fin (w : Warp) (r v : Nat) : (w.wSet r v).fin = w.fin := rfl
@[simp] theorem Warp.wSet_preds (w : Warp) (r v : Nat) : (w.wSet r v).preds = w.preds := rfl
@[simp] theorem Warp.wSet_v (w : Warp) (r v : Nat) : (w.wSet r v).v = w.v := rfl
@[simp] theorem Warp.wSet_vE (w : Warp) (r v : Nat) : (w.wSet r v).vE = w.vE := rfl
@[simp] theorem Warp.wSet_acc (w : Warp) (r v : Nat) : (w.wSet r v).acc = w.acc := rfl
@[simp] theorem Warp.wSet_conv (w : Warp) (r v : Nat) : (w.wSet r v).conv = w.conv := rfl
@[simp] theorem Warp.wSet_ops (w : Warp) (r v : Nat) : (w.wSet r v).ops = w.ops := rfl
@[simp] theorem Warp.wSet_unacked (w : Warp) (r v : Nat) : (w.wSet r v).unacked = w.unacked := rfl
@[simp] theorem Warp.wSet_fpstat (w : Warp) (r v : Nat) : (w.wSet r v).fpstat = w.fpstat := rfl
@[simp] theorem Warp.wSet_seed (w : Warp) (r v : Nat) : (w.wSet r v).seed = w.seed := rfl
@[simp] theorem Warp.wSet_qcls (w : Warp) (r v : Nat) : (w.wSet r v).qcls = w.qcls := rfl
@[simp] theorem Warp.wSet_wait (w : Warp) (r v : Nat) : (w.wSet r v).wait = w.wait := rfl
@[simp] theorem Warp.wSet_since (w : Warp) (r v : Nat) : (w.wSet r v).since = w.since := rfl
@[simp] theorem Warp.wSet_result (w : Warp) (r v : Nat) : (w.wSet r v).result = w.result := rfl
@[simp] theorem Warp.wSet_stopped (w : Warp) (r v : Nat) : (w.wSet r v).stopped = w.stopped := rfl
@[simp] theorem Warp.wSet_stopAt (w : Warp) (r v : Nat) : (w.wSet r v).stopAt = w.stopAt := rfl
@[simp] theorem Warp.wSet_asyncStop (w : Warp) (r v : Nat) : (w.wSet r v).asyncStop = w.asyncStop := rfl
@[simp] theorem Warp.wSet_replay (w : Warp) (r v : Nat) : (w.wSet r v).replay = w.replay := rfl
@[simp] theorem Warp.wSet_parkHeld (w : Warp) (r v : Nat) : (w.wSet r v).parkHeld = w.parkHeld := rfl
@[simp] theorem Warp.wSet_sup (w : Warp) (r v : Nat) : (w.wSet r v).sup = w.sup := rfl
@[simp] theorem Warp.wSet_place (w : Warp) (r v : Nat) : (w.wSet r v).place = w.place := rfl
@[simp] theorem Warp.wSet_vBase (w : Warp) (r v : Nat) : (w.wSet r v).vBase = w.vBase := rfl
@[simp] theorem Warp.wSet_aBase (w : Warp) (r v : Nat) : (w.wSet r v).aBase = w.aBase := rfl
@[simp] theorem Warp.wSet_waitDev (w : Warp) (r v : Nat) : (w.wSet r v).waitDev = w.waitDev := rfl
@[simp] theorem Warp.wSet_landed (w : Warp) (r v : Nat) : (w.wSet r v).landed = w.landed := rfl
@[simp] theorem Warp.wSet_pieces (w : Warp) (r v : Nat) : (w.wSet r v).pieces = w.pieces := rfl
@[simp] theorem Warp.wSet_parkAt (w : Warp) (r v : Nat) : (w.wSet r v).parkAt = w.parkAt := rfl
@[simp] theorem Warp.wSet_fetched (w : Warp) (r v : Nat) : (w.wSet r v).fetched = w.fetched := rfl
@[simp] theorem Warp.wSet_waitPA (w : Warp) (r v : Nat) : (w.wSet r v).waitPA = w.waitPA := rfl
@[simp] theorem Warp.wSet_age (w : Warp) (r v : Nat) : (w.wSet r v).age = w.age := rfl
@[simp] theorem Warp.wSet_ready (w : Warp) (r v : Nat) : (w.wSet r v).ready = w.ready := rfl
@[simp] theorem Warp.wSet_keen (w : Warp) (r v : Nat) : (w.wSet r v).keen = w.keen := rfl
@[simp] theorem Warp.wSet_skips (w : Warp) (r v : Nat) : (w.wSet r v).skips = w.skips := rfl
@[simp] theorem Warp.wSet_needs (w : Warp) (r v : Nat) : (w.wSet r v).needs = w.needs := rfl

/-! ### `Warp.vClear` -/

@[simp] theorem Warp.vClear_wix (w : Warp) (r : Nat) (m : Mask) : (w.vClear r m).wix = w.wix := rfl
@[simp] theorem Warp.vClear_gid (w : Warp) (r : Nat) (m : Mask) : (w.vClear r m).gid = w.gid := rfl
@[simp] theorem Warp.vClear_warp (w : Warp) (r : Nat) (m : Mask) : (w.vClear r m).warp = w.warp := rfl
@[simp] theorem Warp.vClear_vBud (w : Warp) (r : Nat) (m : Mask) : (w.vClear r m).vBud = w.vBud := rfl
@[simp] theorem Warp.vClear_wBud (w : Warp) (r : Nat) (m : Mask) : (w.vClear r m).wBud = w.wBud := rfl
@[simp] theorem Warp.vClear_aBud (w : Warp) (r : Nat) (m : Mask) : (w.vClear r m).aBud = w.aBud := rfl
@[simp] theorem Warp.vClear_qb (w : Warp) (r : Nat) (m : Mask) : (w.vClear r m).qb = w.qb := rfl
@[simp] theorem Warp.vClear_pcs (w : Warp) (r : Nat) (m : Mask) : (w.vClear r m).pcs = w.pcs := rfl
@[simp] theorem Warp.vClear_fin (w : Warp) (r : Nat) (m : Mask) : (w.vClear r m).fin = w.fin := rfl
@[simp] theorem Warp.vClear_preds (w : Warp) (r : Nat) (m : Mask) : (w.vClear r m).preds = w.preds := rfl
@[simp] theorem Warp.vClear_v (w : Warp) (r : Nat) (m : Mask) : (w.vClear r m).v = w.v := rfl
@[simp] theorem Warp.vClear_w (w : Warp) (r : Nat) (m : Mask) : (w.vClear r m).w = w.w := rfl
@[simp] theorem Warp.vClear_wE (w : Warp) (r : Nat) (m : Mask) : (w.vClear r m).wE = w.wE := rfl
@[simp] theorem Warp.vClear_acc (w : Warp) (r : Nat) (m : Mask) : (w.vClear r m).acc = w.acc := rfl
@[simp] theorem Warp.vClear_conv (w : Warp) (r : Nat) (m : Mask) : (w.vClear r m).conv = w.conv := rfl
@[simp] theorem Warp.vClear_ops (w : Warp) (r : Nat) (m : Mask) : (w.vClear r m).ops = w.ops := rfl
@[simp] theorem Warp.vClear_unacked (w : Warp) (r : Nat) (m : Mask) : (w.vClear r m).unacked = w.unacked := rfl
@[simp] theorem Warp.vClear_fpstat (w : Warp) (r : Nat) (m : Mask) : (w.vClear r m).fpstat = w.fpstat := rfl
@[simp] theorem Warp.vClear_seed (w : Warp) (r : Nat) (m : Mask) : (w.vClear r m).seed = w.seed := rfl
@[simp] theorem Warp.vClear_qcls (w : Warp) (r : Nat) (m : Mask) : (w.vClear r m).qcls = w.qcls := rfl
@[simp] theorem Warp.vClear_wait (w : Warp) (r : Nat) (m : Mask) : (w.vClear r m).wait = w.wait := rfl
@[simp] theorem Warp.vClear_since (w : Warp) (r : Nat) (m : Mask) : (w.vClear r m).since = w.since := rfl
@[simp] theorem Warp.vClear_result (w : Warp) (r : Nat) (m : Mask) : (w.vClear r m).result = w.result := rfl
@[simp] theorem Warp.vClear_stopped (w : Warp) (r : Nat) (m : Mask) : (w.vClear r m).stopped = w.stopped := rfl
@[simp] theorem Warp.vClear_stopAt (w : Warp) (r : Nat) (m : Mask) : (w.vClear r m).stopAt = w.stopAt := rfl
@[simp] theorem Warp.vClear_asyncStop (w : Warp) (r : Nat) (m : Mask) : (w.vClear r m).asyncStop = w.asyncStop := rfl
@[simp] theorem Warp.vClear_replay (w : Warp) (r : Nat) (m : Mask) : (w.vClear r m).replay = w.replay := rfl
@[simp] theorem Warp.vClear_parkHeld (w : Warp) (r : Nat) (m : Mask) : (w.vClear r m).parkHeld = w.parkHeld := rfl
@[simp] theorem Warp.vClear_sup (w : Warp) (r : Nat) (m : Mask) : (w.vClear r m).sup = w.sup := rfl
@[simp] theorem Warp.vClear_place (w : Warp) (r : Nat) (m : Mask) : (w.vClear r m).place = w.place := rfl
@[simp] theorem Warp.vClear_vBase (w : Warp) (r : Nat) (m : Mask) : (w.vClear r m).vBase = w.vBase := rfl
@[simp] theorem Warp.vClear_aBase (w : Warp) (r : Nat) (m : Mask) : (w.vClear r m).aBase = w.aBase := rfl
@[simp] theorem Warp.vClear_waitDev (w : Warp) (r : Nat) (m : Mask) : (w.vClear r m).waitDev = w.waitDev := rfl
@[simp] theorem Warp.vClear_landed (w : Warp) (r : Nat) (m : Mask) : (w.vClear r m).landed = w.landed := rfl
@[simp] theorem Warp.vClear_pieces (w : Warp) (r : Nat) (m : Mask) : (w.vClear r m).pieces = w.pieces := rfl
@[simp] theorem Warp.vClear_parkAt (w : Warp) (r : Nat) (m : Mask) : (w.vClear r m).parkAt = w.parkAt := rfl
@[simp] theorem Warp.vClear_fetched (w : Warp) (r : Nat) (m : Mask) : (w.vClear r m).fetched = w.fetched := rfl
@[simp] theorem Warp.vClear_waitPA (w : Warp) (r : Nat) (m : Mask) : (w.vClear r m).waitPA = w.waitPA := rfl
@[simp] theorem Warp.vClear_age (w : Warp) (r : Nat) (m : Mask) : (w.vClear r m).age = w.age := rfl
@[simp] theorem Warp.vClear_ready (w : Warp) (r : Nat) (m : Mask) : (w.vClear r m).ready = w.ready := rfl
@[simp] theorem Warp.vClear_keen (w : Warp) (r : Nat) (m : Mask) : (w.vClear r m).keen = w.keen := rfl
@[simp] theorem Warp.vClear_skips (w : Warp) (r : Nat) (m : Mask) : (w.vClear r m).skips = w.skips := rfl
@[simp] theorem Warp.vClear_needs (w : Warp) (r : Nat) (m : Mask) : (w.vClear r m).needs = w.needs := rfl

/-! ### `Warp.wClear` -/

@[simp] theorem Warp.wClear_wix (w : Warp) (r : Nat) : (w.wClear r).wix = w.wix := rfl
@[simp] theorem Warp.wClear_gid (w : Warp) (r : Nat) : (w.wClear r).gid = w.gid := rfl
@[simp] theorem Warp.wClear_warp (w : Warp) (r : Nat) : (w.wClear r).warp = w.warp := rfl
@[simp] theorem Warp.wClear_vBud (w : Warp) (r : Nat) : (w.wClear r).vBud = w.vBud := rfl
@[simp] theorem Warp.wClear_wBud (w : Warp) (r : Nat) : (w.wClear r).wBud = w.wBud := rfl
@[simp] theorem Warp.wClear_aBud (w : Warp) (r : Nat) : (w.wClear r).aBud = w.aBud := rfl
@[simp] theorem Warp.wClear_qb (w : Warp) (r : Nat) : (w.wClear r).qb = w.qb := rfl
@[simp] theorem Warp.wClear_pcs (w : Warp) (r : Nat) : (w.wClear r).pcs = w.pcs := rfl
@[simp] theorem Warp.wClear_fin (w : Warp) (r : Nat) : (w.wClear r).fin = w.fin := rfl
@[simp] theorem Warp.wClear_preds (w : Warp) (r : Nat) : (w.wClear r).preds = w.preds := rfl
@[simp] theorem Warp.wClear_v (w : Warp) (r : Nat) : (w.wClear r).v = w.v := rfl
@[simp] theorem Warp.wClear_vE (w : Warp) (r : Nat) : (w.wClear r).vE = w.vE := rfl
@[simp] theorem Warp.wClear_w (w : Warp) (r : Nat) : (w.wClear r).w = w.w := rfl
@[simp] theorem Warp.wClear_acc (w : Warp) (r : Nat) : (w.wClear r).acc = w.acc := rfl
@[simp] theorem Warp.wClear_conv (w : Warp) (r : Nat) : (w.wClear r).conv = w.conv := rfl
@[simp] theorem Warp.wClear_ops (w : Warp) (r : Nat) : (w.wClear r).ops = w.ops := rfl
@[simp] theorem Warp.wClear_unacked (w : Warp) (r : Nat) : (w.wClear r).unacked = w.unacked := rfl
@[simp] theorem Warp.wClear_fpstat (w : Warp) (r : Nat) : (w.wClear r).fpstat = w.fpstat := rfl
@[simp] theorem Warp.wClear_seed (w : Warp) (r : Nat) : (w.wClear r).seed = w.seed := rfl
@[simp] theorem Warp.wClear_qcls (w : Warp) (r : Nat) : (w.wClear r).qcls = w.qcls := rfl
@[simp] theorem Warp.wClear_wait (w : Warp) (r : Nat) : (w.wClear r).wait = w.wait := rfl
@[simp] theorem Warp.wClear_since (w : Warp) (r : Nat) : (w.wClear r).since = w.since := rfl
@[simp] theorem Warp.wClear_result (w : Warp) (r : Nat) : (w.wClear r).result = w.result := rfl
@[simp] theorem Warp.wClear_stopped (w : Warp) (r : Nat) : (w.wClear r).stopped = w.stopped := rfl
@[simp] theorem Warp.wClear_stopAt (w : Warp) (r : Nat) : (w.wClear r).stopAt = w.stopAt := rfl
@[simp] theorem Warp.wClear_asyncStop (w : Warp) (r : Nat) : (w.wClear r).asyncStop = w.asyncStop := rfl
@[simp] theorem Warp.wClear_replay (w : Warp) (r : Nat) : (w.wClear r).replay = w.replay := rfl
@[simp] theorem Warp.wClear_parkHeld (w : Warp) (r : Nat) : (w.wClear r).parkHeld = w.parkHeld := rfl
@[simp] theorem Warp.wClear_sup (w : Warp) (r : Nat) : (w.wClear r).sup = w.sup := rfl
@[simp] theorem Warp.wClear_place (w : Warp) (r : Nat) : (w.wClear r).place = w.place := rfl
@[simp] theorem Warp.wClear_vBase (w : Warp) (r : Nat) : (w.wClear r).vBase = w.vBase := rfl
@[simp] theorem Warp.wClear_aBase (w : Warp) (r : Nat) : (w.wClear r).aBase = w.aBase := rfl
@[simp] theorem Warp.wClear_waitDev (w : Warp) (r : Nat) : (w.wClear r).waitDev = w.waitDev := rfl
@[simp] theorem Warp.wClear_landed (w : Warp) (r : Nat) : (w.wClear r).landed = w.landed := rfl
@[simp] theorem Warp.wClear_pieces (w : Warp) (r : Nat) : (w.wClear r).pieces = w.pieces := rfl
@[simp] theorem Warp.wClear_parkAt (w : Warp) (r : Nat) : (w.wClear r).parkAt = w.parkAt := rfl
@[simp] theorem Warp.wClear_fetched (w : Warp) (r : Nat) : (w.wClear r).fetched = w.fetched := rfl
@[simp] theorem Warp.wClear_waitPA (w : Warp) (r : Nat) : (w.wClear r).waitPA = w.waitPA := rfl
@[simp] theorem Warp.wClear_age (w : Warp) (r : Nat) : (w.wClear r).age = w.age := rfl
@[simp] theorem Warp.wClear_ready (w : Warp) (r : Nat) : (w.wClear r).ready = w.ready := rfl
@[simp] theorem Warp.wClear_keen (w : Warp) (r : Nat) : (w.wClear r).keen = w.keen := rfl
@[simp] theorem Warp.wClear_skips (w : Warp) (r : Nat) : (w.wClear r).skips = w.skips := rfl
@[simp] theorem Warp.wClear_needs (w : Warp) (r : Nat) : (w.wClear r).needs = w.needs := rfl

end Sys2Proof.Machine
end

