-- ==== Sys2Proof/Tests/Slice0.lean ====
section
/-! SUPPORT. Tests: words of the encoding tables, terms that the checks of well-formedness refuse, results that the spec works out, and, for
every statement of Certificates/Slice0, a state and operands that meet its premises. -/

namespace Sys2Proof.Tests

open Sys2Proof.Machine

set_option maxRecDepth 100000
set_option Elab.async false

/-! ### A small state -/

/-- A format of 64 bits with operands. -/
def fm (d : Opd := .none) (a : Opd := .none) (b : Opd := .none) (c : Opd := .none) (len : Len := .l64) (x : Word := 0) (pre : Option Pre := none) : Fmt :=
  ⟨len, pre, none, d, a, b, c, false, false, false, x⟩

/-- A prefix that names a fourth operand. -/
def four (o : Opd) : Option Pre := some ⟨none, .rne, some o⟩

/-- A user warp of the group of placeGroup, every lane at one place. -/
def wp : Warp := { placeWarp false with vBud := 64, wBud := 64, aBud := 16 }

/-- A core that runs generation 1, its park area at 1 GiB of the key's memory (R189). -/
def kc (w : Warp) : Core := { gen := 1, warps := [w], groups := [placeGroup], slot := { park := 2 ^ 48 + 2 ^ 30 } }

/-- The path of all 32 lanes of a warp of core 0. -/
def cu (w : Warp) : Cur := { core := 0, wix := w.wix, pc := BitVec.ofNat 64 placeVA, lanes := BitVec.allOnes 32, size := 8, ib := List.replicate 8 0 }

/-- One core that holds one warp, whose path is issuing; translation maps addresses to themselves. -/
def st (w : Warp) : State :=
  { booted := true, keys := [(0, 1), (1, 2)], draws := 2, supRoot := placeRoot
    cp := [(oGTAB / 8, BitVec.ofNat 64 (2 ^ 48 + 1)), (oGTAB / 8 + 1, BitVec.ofNat 64 placeRoot)]
    mem := layBytes [] placeTables, cores := [kc w], harts := [], ports := [], cur := some (cu w) }

/-- A core whose park area lies at 1 GiB, in memory that exists. -/
theorem parkOpen_at {c : Nat} {s : State} (hp : s.parkArea c = 2 ^ 48 + 2 ^ 30) (hc : s.part.chans = 512) (hk : (s.keyDraw 1).isSome = true)
    (hm : s.mons = []) : ParkOpen c s where
  key := by rw [hp]; exact hk
  base := by rw [hp]; decide
  here a ha := by
    rw [hp]
    have : locOf (2 ^ 48 + 2 ^ 30 + a) = 2 ^ 30 + a := by
      show (2 ^ 48 + 2 ^ 30 + a) % 2 ^ 48 = _
      omega
    rw [this]
    show decide ((2 ^ 30 + a) / 256 < s.part.chans * 5859375) = true
    rw [hc, decide_eq_true_eq]
    omega
  mons m h := by rw [hm] at h; cases h

/-- A packet from a package to this one. -/
def pk (opc : BitVec 8) (src : BitVec 15) (addr : DWord := 0) (pay : List Byte := []) (gen : BitVec 16 := 0) : Packet :=
  { gen := gen, psn := 0, src := src, dst := 0, cls := 0, vgrp := 0, val := false, opc := opc, tag := 0, addr := addr, pay := pay }
/-- The words decode to the instruction, in a mode in which its opcode is legal, and encode it. -/
def decodesTo (p : List Word × Instr) : Bool :=
  match decodeWords (p.2.modeOk true) p.1 with
  | .ok i => decide (i = p.2) && decide (encode p.2 = p.1)
  | .error _ => false

/-- Words of the control instructions (R327, R340, R413), one with the guard (!p3). -/
theorem test_decode_control : [
  ([0x00000001, 0x00000000], .nop ⟨.l64, none, none, .none, .none, .none, .none, false, false, false, 0⟩),
  ([0x00000102, 0x000FF000, 0xFFFFFFF8], .bra ⟨.l96, none, none, .none, .imm, .none, .none, false, false, false, 0xFFFFFFF8⟩),
  ([0x00000201, 0x00001800], .brx ⟨.l64, none, none, .none, (.v 6), .none, .none, false, false, false, 0⟩),
  ([0x00000302, 0x000FF284, 0x00000040], .call ⟨.l96, none, none, (.w 4), .imm, .none, .none, false, false, false, 0x40⟩),
  ([0x0000039D, 0x000A2808], .call ⟨.l64, none, (some ⟨3, true⟩), (.v 8), (.w 10), .none, .none, false, false, false, 0⟩),
  ([0x00000401, 0x400A3000], .ret ⟨.l64, none, none, .none, (.w 12), .none, .none, true, false, false, 0⟩),
  ([0x00000501, 0x00000000], .exit ⟨.l64, none, none, .none, .none, .none, .none, false, false, false, 0⟩),
  ([0x00000601, 0x00000289], .cvset ⟨.l64, none, none, (.w 9), .none, .none, .none, false, false, false, 0⟩),
  ([0x00000701, 0x400A2400], .cvwait ⟨.l64, none, none, .none, (.w 9), .none, .none, true, false, false, 0⟩),
  ([0x00000801, 0x00000000], .yield ⟨.l64, none, none, .none, .none, .none, .none, false, false, false, 0⟩),
  ([0x00000902, 0x000FF000, 0x0000BEEF], .trap ⟨.l96, none, none, .none, .imm, .none, .none, false, false, false, 0xBEEF⟩),
  ([0x00000A02, 0x000FF000, 0x00000012], .svc ⟨.l96, none, none, .none, .imm, .none, .none, false, false, false, 0x12⟩),
  ([0x00000B01, 0x00000000], .brk ⟨.l64, none, none, .none, .none, .none, .none, false, false, false, 0⟩),
  ([0x08000C01, 0x00000286], .sget ⟨.l64, none, none, (.w 6), .none, .none, .none, false, false, false, 0⟩ 8),
  ([0x0E000D02, 0x000FF000, 0x00000300], .sset ⟨.l96, none, none, .none, .imm, .none, .none, false, false, false, 0x300⟩ 14),
  ([0x0D000D01, 0x000A1000], .sset ⟨.l64, none, none, .none, (.w 4), .none, .none, false, false, false, 0⟩ 13),
  ([0x00000E01, 0x00000000], .mxhint ⟨.l64, none, none, .none, .none, .none, .none, false, false, false, 0⟩)].all decodesTo = true := by decide

/-- Words of the predicate instructions (R336 to R340); the first is the worked example of R340. -/
theorem test_decode_predicate : [
  ([0x02341002, 0x3FC01C02, 0x00000000], .pset ⟨.l96, none, none, (.pred 2), (.v 7), .imm, .none, false, false, false, 0x0⟩ .lt .i32),
  ([0x05481001, 0x28A0200F], .pset ⟨.l64, none, none, (.pred 15), (.v 8), (.w 10), .none, false, false, false, 0⟩ .ge .n64),
  ([0x070C1101, 0x80400C01], .psetf ⟨.l64, none, none, (.pred 1), (.v 3), (.v 4), .none, false, true, false, 0⟩ .num .bf16),
  ([0xE8001202, 0x00300801, 0x00000004], .plog ⟨.l96, none, none, (.pred 1), (.pred 2), (.pred 3), (.pred 4), false, false, false, 0⟩ 0xE8),
  ([0x00001301, 0x0000004D], .pmovGet ⟨.l64, none, none, (.v 77), .none, .none, .none, false, false, false, 0⟩),
  ([0x01001302, 0x3FCFFC00, 0x00000010], .pmovPut ⟨.l96, none, none, .none, .zero, .imm, .none, false, false, false, 0x10⟩),
  ([0x00001401, 0x00001683], .vote ⟨.l64, none, none, (.w 3), (.pred 5), .none, .none, false, false, false, 0⟩ .ballot),
  ([0x03001401, 0x00001403], .vote ⟨.l64, none, none, (.pred 3), (.pred 5), .none, .none, false, false, false, 0⟩ .eq)].all decodesTo = true := by decide

/-- Words of the integer and logic instructions (R341, R345, R347); the first is the worked example of chapter 9. -/
theorem test_decode_integer : [
  ([0x00342002, 0x3FC02C0A, 0x00000064], .add ⟨.l96, none, none, (.v 10), (.v 11), .imm, .none, false, false, false, 0x64⟩ .i32 false),
  ([0x01482101, 0x288A1A84], .sub ⟨.l64, none, none, (.w 4), (.w 6), (.w 8), .none, false, false, false, 0⟩ .n64 true),
  ([0x04382201, 0x00200004], .addc ⟨.l64, none, none, (.v 4), (.v 0), (.v 2), .none, false, false, false, 0⟩ .n32 4),
  ([0x0F482301, 0x00200004], .subb ⟨.l64, none, none, (.v 4), (.v 0), (.v 2), .none, false, false, false, 0⟩ .n64 15),
  ([0x00342401, 0x00300801], .mul ⟨.l64, none, none, (.v 1), (.v 2), (.v 3), .none, false, false, false, 0⟩ .i32),
  ([0x00382501, 0x3FDFF801], .mulhi ⟨.l64, none, none, (.v 1), .lane, .width, .none, false, false, false, 0⟩ .n32),
  ([0x00382602, 0x00300801, 0x00000404], .mad ⟨.l96, none, none, (.v 1), (.v 2), (.v 3), (.v 4), false, false, true, 0⟩ .n32),
  ([0x00442703, 0x3FC01002, 0x00000006, 0x00000007], .madhi ⟨.l128, none, none, (.v 2), (.v 4), .imm, (.v 6), false, false, false, 0x7⟩ .i64),
  ([0x00342801, 0x30300801], .div ⟨.l64, none, none, (.v 1), (.v 2), (.q 3), .none, false, false, false, 0⟩ .i32),
  ([0x00382901, 0x00300801], .rem ⟨.l64, none, none, (.v 1), (.v 2), (.v 3), .none, false, false, false, 0⟩ .n32),
  ([0x00442A01, 0x00601002], .min ⟨.l64, none, none, (.v 2), (.v 4), (.v 6), .none, false, false, false, 0⟩ .i64),
  ([0x00482B01, 0x00601002], .max ⟨.l64, none, none, (.v 2), (.v 4), (.v 6), .none, false, false, false, 0⟩ .n64),
  ([0x01342C01, 0x00001002], .abs ⟨.l64, none, none, (.v 2), (.v 4), .none, .none, false, false, false, 0⟩ .i32 true),
  ([0x00442D01, 0x00001002], .neg ⟨.l64, none, none, (.v 2), (.v 4), .none, .none, false, false, false, 0⟩ .i64 false),
  ([0x04382E03, 0x008A1002, 0x00000000, 0xFFFFFFC0], .lea ⟨.l128, none, none, (.v 2), (.w 4), (.v 8), .none, false, false, false, 0xFFFFFFC0⟩ .n32 4),
  ([0x00383001, 0x00300801], .and ⟨.l64, none, none, (.v 1), (.v 2), (.v 3), .none, false, false, false, 0⟩ .n32),
  ([0x00383101, 0x00300801], .or ⟨.l64, none, none, (.v 1), (.v 2), (.v 3), .none, false, false, false, 0⟩ .n32),
  ([0x00343201, 0x00300801], .xor ⟨.l64, none, none, (.v 1), (.v 2), (.v 3), .none, false, false, false, 0⟩ .i32),
  ([0x00483301, 0x00001002], .not ⟨.l64, none, none, (.v 2), (.v 4), .none, .none, false, false, false, 0⟩ .n64),
  ([0x00383401, 0x00300801], .andn ⟨.l64, none, none, (.v 1), (.v 2), (.v 3), .none, false, false, false, 0⟩ .n32),
  ([0x00483502, 0x3FC01002, 0x00000005], .shl ⟨.l96, none, none, (.v 2), (.v 4), .imm, .none, false, false, false, 0x5⟩ .n64),
  ([0x00483601, 0x00701002], .shr ⟨.l64, none, none, (.v 2), (.v 4), (.v 7), .none, false, false, false, 0⟩ .n64),
  ([0x00343701, 0x00701002], .sar ⟨.l64, none, none, (.v 2), (.v 4), (.v 7), .none, false, false, false, 0⟩ .i32),
  ([0x00383801, 0x00701002], .rot ⟨.l64, none, none, (.v 2), (.v 4), (.v 7), .none, false, false, false, 0⟩ .n32),
  ([0x00343901, 0x00701002], .bfx ⟨.l64, none, none, (.v 2), (.v 4), (.v 7), .none, false, false, false, 0⟩ .i32),
  ([0x00383A03, 0x3FC01002, 0x00000009, 0x00000804], .bfi ⟨.l128, none, none, (.v 2), (.v 4), .imm, (.v 9), false, false, false, 0x804⟩ .n32),
  ([0x00483B01, 0x00001003], .popc ⟨.l64, none, none, (.v 3), (.v 4), .none, .none, false, false, false, 0⟩ .n64),
  ([0x00443C01, 0x00001003], .clz ⟨.l64, none, none, (.v 3), (.v 4), .none, .none, false, false, false, 0⟩ .i64),
  ([0x00343D01, 0x00001003], .ctz ⟨.l64, none, none, (.v 3), (.v 4), .none, .none, false, false, false, 0⟩ .i32),
  ([0x00383E01, 0x00001003], .brev ⟨.l64, none, none, (.v 3), (.v 4), .none, .none, false, false, false, 0⟩ .n32),
  ([0x09043F01, 0x3FF01002], .sel ⟨.l64, none, none, (.v 2), (.v 4), .zero, .none, false, false, false, 0⟩ .f64 9),
  ([0x00384001, 0x00000F01], .mov ⟨.l64, none, none, (.q 1), (.v 3), .none, .none, false, false, false, 0⟩ .n32),
  ([0x00004102, 0x000FF282, 0x3F800000], .movi ⟨.l96, none, none, (.w 2), .imm, .none, .none, false, false, false, 0x3F800000⟩ .f32),
  ([0x00044203, 0x000FF282, 0x12345678, 0x3FF00000], .movd ⟨.l128, none, none, (.w 2), .imm, .none, .none, false, false, false, 0x3FF00000⟩ .f64 0x12345678),
  ([0x00384303, 0x00300801, 0x000003FC, 0x18000704], .prmt ⟨.l128, none, none, (.v 1), (.v 2), (.v 3), .imm, false, false, false, 0x18000704⟩)].all decodesTo = true := by decide

/-- Words of the floating-point instructions and special functions (R348, R354); the first is the worked example of chapter 9. -/
theorem test_decode_floating : [
  ([0x00000564, 0x0000609D, 0x00601404], .fadd ⟨.l64, (some ⟨some ⟨5, true⟩, .rtz, none⟩), (some ⟨3, true⟩), (.v 4), (.v 5), (.v 6), .none, false, false, false, 0⟩ .f32),
  ([0x00086101, 0x00300801], .fsub ⟨.l64, none, none, (.v 1), (.v 2), (.v 3), .none, false, false, false, 0⟩ .f16),
  ([0x000C6201, 0x00300801], .fmul ⟨.l64, none, none, (.v 1), (.v 2), (.v 3), .none, false, false, false, 0⟩ .bf16),
  ([0x00006401, 0x00300801], .fmin ⟨.l64, none, none, (.v 1), (.v 2), (.v 3), .none, false, false, false, 0⟩ .f32),
  ([0x00086501, 0x00300801], .fmax ⟨.l64, none, none, (.v 1), (.v 2), (.v 3), .none, false, false, false, 0⟩ .f16),
  ([0x00006801, 0x00300801], .fcsign ⟨.l64, none, none, (.v 1), (.v 2), (.v 3), .none, false, false, false, 0⟩ .f32),
  ([0x00006901, 0x00300801], .fdiv ⟨.l64, none, none, (.v 1), (.v 2), (.v 3), .none, false, false, false, 0⟩ .f32),
  ([0x00000014, 0x00046302, 0x00601002, 0x00000008], .ffma ⟨.l96, (some ⟨none, .sr, none⟩), none, (.v 2), (.v 4), (.v 6), (.v 8), false, false, false, 0⟩ .f64),
  ([0x00046601, 0x00001002], .fneg ⟨.l64, none, none, (.v 2), (.v 4), .none, .none, false, false, false, 0⟩ .f64),
  ([0x00046701, 0x00001002], .fabs ⟨.l64, none, none, (.v 2), (.v 4), .none, .none, false, false, false, 0⟩ .f64),
  ([0x00046A01, 0x00001002], .fsqrt ⟨.l64, none, none, (.v 2), (.v 4), .none, .none, false, false, false, 0⟩ .f64),
  ([0x00046D01, 0x00001002], .frnd ⟨.l64, none, none, (.v 2), (.v 4), .none, .none, false, false, false, 0⟩ .f64),
  ([0x0000001C, 0x00046B01, 0x00501002], .fscale ⟨.l64, (some ⟨none, .dyn, none⟩), none, (.v 2), (.v 4), (.v 5), .none, false, false, false, 0⟩ .f64),
  ([0x00046C01, 0x00001001], .fgexp ⟨.l64, none, none, (.v 1), (.v 4), .none, .none, false, false, false, 0⟩ .f64),
  ([0x00046E01, 0x00001001], .fcls ⟨.l64, none, none, (.v 1), (.v 4), .none, .none, false, false, false, 0⟩ .f64),
  ([0x00106F01, 0x00000803], .fcvt ⟨.l64, none, none, (.v 3), (.v 2), .none, .none, false, false, false, 0⟩ .e4m3 .f32 false),
  ([0x50446F01, 0x00000804], .fcvt ⟨.l64, none, none, (.v 4), (.v 2), .none, .none, false, false, false, 0⟩ .i64 .e8m0 true),
  ([0x0000000C, 0x12087001, 0x00000804], .icvt ⟨.l64, (some ⟨none, .rup, none⟩), none, (.v 4), (.v 2), .none, .none, false, false, false, 0⟩ .f16 .n64 false),
  ([0x00008001, 0x00002406], .vsin ⟨.l64, none, none, (.v 6), (.v 9), .none, .none, false, false, false, 0⟩),
  ([0x00008101, 0x00002406], .vcos ⟨.l64, none, none, (.v 6), (.v 9), .none, .none, false, false, false, 0⟩),
  ([0x00008201, 0x00002406], .vscs ⟨.l64, none, none, (.v 6), (.v 9), .none, .none, false, false, false, 0⟩),
  ([0x00008301, 0x00002406], .vex2 ⟨.l64, none, none, (.v 6), (.v 9), .none, .none, false, false, false, 0⟩),
  ([0x00008401, 0x00002406], .vlg2 ⟨.l64, none, none, (.v 6), (.v 9), .none, .none, false, false, false, 0⟩),
  ([0x00008501, 0x00002406], .vrcp ⟨.l64, none, none, (.v 6), (.v 9), .none, .none, false, false, false, 0⟩),
  ([0x00008601, 0x00002406], .vrsq ⟨.l64, none, none, (.v 6), (.v 9), .none, .none, false, false, false, 0⟩),
  ([0x00008701, 0x00002406], .vtanh ⟨.l64, none, none, (.v 6), (.v 9), .none, .none, false, false, false, 0⟩)].all decodesTo = true := by decide

/-- Words of the packed instructions (R355). -/
theorem test_decode_packed : [
  ([0x40809001, 0x00300801], .padd ⟨.l64, none, none, (.v 1), (.v 2), (.v 3), .none, false, false, false, 0⟩ .x2f16 true),
  ([0x00909101, 0x00300801], .psub ⟨.l64, none, none, (.v 1), (.v 2), (.v 3), .none, false, false, false, 0⟩ .x4i8 false),
  ([0x40A09201, 0x00300801], .pmul ⟨.l64, none, none, (.v 1), (.v 2), (.v 3), .none, false, false, false, 0⟩ .x8i4 true),
  ([0x00849302, 0x00300801, 0x00000004], .pfma ⟨.l96, none, none, (.v 1), (.v 2), (.v 3), (.v 4), false, false, false, 0⟩ .x2bf16 false),
  ([0x00889401, 0x00300801], .pmin ⟨.l64, none, none, (.v 1), (.v 2), (.v 3), .none, false, false, false, 0⟩ .x4e4m3),
  ([0x00949501, 0x00300801], .pmax ⟨.l64, none, none, (.v 1), (.v 2), (.v 3), .none, false, false, false, 0⟩ .x5e3m2),
  ([0x00000008, 0x409C9602, 0x00300801, 0x00000004], .pdot ⟨.l96, (some ⟨none, .rdn, none⟩), none, (.v 1), (.v 2), (.v 3), (.v 4), false, false, false, 0⟩ .x8e2m1 true),
  ([0x23909701, 0x00000801], .pcvt ⟨.l64, none, none, (.v 1), (.v 2), .none, .none, false, false, false, 0⟩ .x4i8 .x4e5m2 false),
  ([0x02889801, 0x00800C08], .ppack ⟨.l64, none, none, (.v 8), (.v 3), (.v 8), .none, false, false, false, 0⟩ .x4e4m3 2 false),
  ([0x04989901, 0x00002009], .punpk ⟨.l64, none, none, (.v 9), (.v 8), .none, .none, false, false, false, 0⟩ .x5e2m3 4),
  ([0x40909A01, 0x00002009], .pabs ⟨.l64, none, none, (.v 9), (.v 8), .none, .none, false, false, false, 0⟩ .x4i8 true)].all decodesTo = true := by decide

/-- Words of the cross-lane and random instructions (R359, R364). -/
theorem test_decode_lane : [
  ([0x3238A002, 0x3FC01406, 0x00000001], .lshf ⟨.l96, none, none, (.v 6), (.v 5), .imm, .none, false, false, false, 0x1⟩ .n32 .down 3),
  ([0x3600A101, 0x00000402], .lred ⟨.l64, none, none, (.v 2), (.v 1), .none, .none, false, false, false, 0⟩ .f32 .fadd 3),
  ([0x0238A101, 0x00000682], .lred ⟨.l64, none, none, (.w 2), (.v 1), .none, .none, false, false, false, 0⟩ .n32 .max 0),
  ([0x9034A201, 0x00000402], .lscan ⟨.l64, none, none, (.v 2), (.v 1), .none, .none, false, false, false, 0⟩ .i32 .add 1 true),
  ([0x0004A301, 0x28701282], .lbc ⟨.l64, none, none, (.w 2), (.v 4), (.w 7), .none, false, false, false, 0⟩ .f64),
  ([0x0000B002, 0x000FF002, 0x80000000], .vhash ⟨.l96, none, none, (.v 2), .imm, .none, .none, false, false, false, 0x80000000⟩),
  ([0x0000B103, 0x00A0340C, 0x000003FC, 0x00004000], .vdrop ⟨.l128, none, none, (.v 12), (.v 13), (.v 10), .imm, false, false, false, 0x4000⟩)].all decodesTo = true := by decide

/-- Words of the memory instructions (R371, R374, R376, R379, R381); the first is the worked example of R375. -/
theorem test_decode_memory : [
  ([0x03610003, 0x008A1014, 0x00000000, 0x00000040], .ld ⟨.l128, none, none, (.v 20), (.w 4), (.v 8), .none, false, false, false, 0x40⟩ .g .b64 .weak .wp false 3),
  ([0x98710001, 0x3FFA128A], .ld ⟨.l64, none, none, (.w 10), (.w 4), .zero, .none, false, false, false, 0⟩ .g .b64 .acq .dv true 0),
  ([0x00A50001, 0x3FF00C09], .ld ⟨.l64, none, none, (.v 9), (.v 3), .zero, .none, false, false, false, 0⟩ .s .sb8 .weak .wp false 0),
  ([0x00490001, 0x3FFA0E89], .ld ⟨.l64, none, none, (.w 9), (.w 3), .zero, .none, false, false, false, 0⟩ .c .b16 .weak .wp false 0),
  ([0x04810101, 0x001A0808], .ldro ⟨.l64, none, none, (.v 8), (.w 2), (.v 1), .none, false, false, false, 0⟩ .b128 4),
  ([0x04010201, 0x000A0E90], .ldk ⟨.l64, none, none, (.w 16), (.w 3), .none, .none, false, false, false, 0⟩ 4),
  ([0x00010202, 0x000FF283, 0x00000140], .ldk ⟨.l96, none, none, (.w 3), .imm, .none, .none, false, false, false, 0x140⟩ 0),
  ([0x90210302, 0x002A1000, 0x00000405], .st ⟨.l96, none, none, .none, (.w 4), (.v 2), (.v 5), false, false, true, 0⟩ .g .b8 .rel .cl 0),
  ([0x00650303, 0x3FFA1400, 0x00000288, 0x00000010], .st ⟨.l128, none, none, .none, (.w 5), .zero, (.w 8), false, false, false, 0x10⟩ .s .b64 .weak .wp 0),
  ([0x00203000, 0x7C390402, 0x3FFA1002, 0x00001805], .atom ⟨.l96, (some ⟨none, .rne, some (.v 6)⟩), none, (.v 2), (.w 4), .zero, (.v 5), false, false, false, 0⟩ .cas .n32 .ar .dv false false 0),
  ([0x85010403, 0x00801C02, 0x00008805, 0x00000004], .atom ⟨.l128, none, none, (.v 2), (.v 7), (.v 8), (.v 5), false, false, false, 0x4⟩ .fadd .f32 .acq .co false true 2),
  ([0x16450402, 0x008A2004, 0x00001806], .atom ⟨.l96, none, none, (.v 4), (.w 8), (.v 8), (.v 6), false, false, false, 0⟩ .min .i64 .acq .dv true false 0),
  ([0x58490502, 0x008A1000, 0x0000E3FF], .red ⟨.l96, none, none, .none, (.w 4), (.v 8), .zero, false, false, false, 0⟩ .xor .n64 .rel .sy 3),
  ([0xE0010601, 0x00000000], .fence ⟨.l64, none, none, .none, .none, .none, .none, false, false, false, 0⟩ .ar .sy),
  ([0x48010601, 0x00000000], .fence ⟨.l64, none, none, .none, .none, .none, .none, false, false, false, 0⟩ .acq .co),
  ([0x00010701, 0x00000000], .fro ⟨.l64, none, none, .none, .none, .none, .none, false, false, false, 0⟩),
  ([0x00010801, 0x00000000], .rcfence ⟨.l64, none, none, .none, .none, .none, .none, false, false, false, 0⟩)].all decodesTo = true := by decide

/-- Words of the waits, barriers and queue control (R385, R391, R397, R398). -/
theorem test_decode_waiting : [
  ([0x00014002, 0x000FF000, 0x00FFFFC0], .awaitCnt ⟨.l96, none, none, .none, .imm, .none, .none, false, false, false, 0xFFFFC0⟩),
  ([0x04414001, 0x287A0800], .awaitPh ⟨.l64, none, none, .none, (.w 2), (.w 7), .none, false, false, false, 0⟩ .cl),
  ([0x06614001, 0x28AA1000], .awaitPhG ⟨.l64, none, none, .none, (.w 4), (.w 10), .none, false, false, false, 0⟩ .dv),
  ([0x00344000, 0x06814002, 0x286A1001, 0x000003FF], .awaitMem ⟨.l96, (some ⟨none, .rne, some (.w 8)⟩), none, (.pred 1), (.w 4), (.w 6), .zero, false, false, false, 0⟩ .eq false .dv),
  ([0x69814003, 0x286A1002, 0x00000288, 0xFFFFFFF8], .awaitMem ⟨.l128, none, none, (.pred 2), (.w 4), (.w 6), (.w 8), false, false, false, 0xFFFFFFF8⟩ .meq true .sy),
  ([0x00014102, 0x3FCA0800, 0x00000002], .bini ⟨.l96, none, none, .none, (.w 2), .imm, .none, false, false, false, 0x2⟩),
  ([0x08014202, 0x3FCA0A87, 0x00000001], .barv ⟨.l96, none, none, (.w 7), (.w 2), .imm, .none, false, false, false, 0x1⟩ .co),
  ([0x00014301, 0x283A0800], .bexp ⟨.l64, none, none, .none, (.w 2), (.w 3), .none, false, false, false, 0⟩),
  ([0x00014402, 0x3FC00000, 0x00000003], .gbarGrid ⟨.l96, none, none, .none, .none, .imm, .none, false, false, false, 0x3⟩),
  ([0x01014401, 0x28300000], .gbarFab ⟨.l64, none, none, .none, .none, (.w 3), .none, false, false, false, 0⟩),
  ([0x05014501, 0x00000000], .qcls ⟨.l64, none, none, .none, .none, .none, .none, false, false, false, 0⟩ 5),
  ([0x07014601, 0x00000003], .qstat ⟨.l64, none, none, (.v 3), .none, .none, .none, false, false, false, 0⟩ 7)].all decodesTo = true := by decide

/-- Words of the matrix unit (R403, R412, R414); the first is the worked example of R411. -/
theorem test_decode_matrix : [
  ([0x60258002, 0x28CA2800, 0x163403FF], .mma ⟨.l96, none, none, (.tile 0), (.w 10), (.w 12), .zero, false, false, false, 0⟩ ⟨false, true, true, false, 0, 1, 1, 11, 13⟩),
  ([0x9ADD8102, 0x01402A85, 0x0000001E], .mmaz ⟨.l96, none, none, (.w 5), (.v 10), (.v 20), (.v 30), false, false, false, 0⟩ ⟨true, false, false, true, 10, 6, 7, 0, 0⟩),
  ([0x03018201, 0x00004009], .accld ⟨.l64, none, none, (.tile 9), (.v 16), .none, .none, false, false, false, 0⟩ 3 false),
  ([0x40018301, 0x00002686], .accst ⟨.l64, none, none, (.w 6), (.tile 9), .none, .none, false, false, false, 0⟩ 0 true),
  ([0x0E018401, 0x0000007F], .accz ⟨.l64, none, none, (.tile 127), .none, .none, .none, false, false, false, 0⟩ 14),
  ([0x83A18801, 0x3FF00801], .rqnt ⟨.l64, none, none, (.v 1), (.v 2), .zero, .none, false, false, false, 0⟩ true 3 5),
  ([0x00000014, 0x06018901, 0x00000801], .qpack ⟨.l64, (some ⟨none, .sr, none⟩), none, (.v 1), (.v 2), .none, .none, false, false, false, 0⟩ false 6),
  ([0x82018A01, 0x00000801], .qunpk ⟨.l64, none, none, (.v 1), (.v 2), .none, .none, false, false, false, 0⟩ true 2),
  ([0x00018B01, 0x00000028], .plsplit ⟨.l64, none, none, (.v 40), (.v 0), .none, .none, false, false, false, 0⟩),
  ([0x04018C01, 0x0000A008], .plmrg ⟨.l64, none, none, (.v 8), (.v 40), .none, .none, false, false, false, 0⟩ 4),
  ([0x16018D02, 0x3FC01008, 0x00000002], .topk ⟨.l96, none, none, (.v 8), (.v 4), .imm, .none, false, false, false, 0x2⟩ .f32 (some 6)),
  ([0x00358D01, 0x28301008], .topk ⟨.l64, none, none, (.v 8), (.v 4), (.w 3), .none, false, false, false, 0⟩ .i32 none)].all decodesTo = true := by decide

/-- Words of the copies (R421, R422). -/
theorem test_decode_copy : [
  ([0x2001C003, 0x284A0800, 0x000003FC, 0x00001000], .cpy ⟨.l128, none, none, .none, (.w 2), (.w 4), .imm, false, false, false, 0x1000⟩ .cnt true false 0),
  ([0x5001C002, 0x285A0800, 0x12000287], .cpy ⟨.l96, none, none, .none, (.w 2), (.w 5), (.w 7), false, false, false, 0⟩ .bar false true 9),
  ([0xA001C102, 0x28AA0800, 0xFE000287], .cpyt ⟨.l96, none, none, .none, (.w 2), (.w 10), (.w 7), false, false, false, 0⟩ .task true 127),
  ([0x0001C202, 0x28AA0800, 0x00000287], .cpyw ⟨.l96, none, none, .none, (.w 2), (.w 10), (.w 7), false, false, false, 0⟩ .cnt 0),
  ([0x4001C303, 0x3FC01000, 0x06000283, 0x00000040], .cpyg ⟨.l128, none, none, .none, (.v 4), .imm, (.w 3), false, false, false, 0x40⟩ .bar 3),
  ([0x0001C402, 0x28601000, 0x00000283], .cpys ⟨.l96, none, none, .none, (.v 4), (.w 6), (.w 3), false, false, false, 0⟩ .cnt 0)].all decodesTo = true := by decide

/-- Words of the task instructions (R431). -/
theorem test_decode_task : [
  ([0x00020002, 0x3FC00C00, 0x00000012], .emit ⟨.l96, none, none, .none, (.v 3), .imm, .none, false, false, false, 0x12⟩),
  ([0x40020002, 0x284A0C00, 0x00000285], .emitRem ⟨.l96, none, none, .none, (.w 3), (.w 4), (.w 5), false, false, false, 0⟩),
  ([0x80020003, 0x3FCA0C00, 0x00000285, 0x00000007], .emitTask ⟨.l128, none, none, .none, (.w 3), .imm, (.w 5), false, false, false, 0x7⟩),
  ([0x00020102, 0x284A0C00, 0x00000285], .spawn ⟨.l96, none, none, .none, (.w 3), (.w 4), (.w 5), false, false, false, 0⟩),
  ([0x00020201, 0x28400281], .tkget ⟨.l64, none, none, (.w 1), .none, (.w 4), .none, false, false, false, 0⟩),
  ([0x80020203, 0x3FC00281, 0x00000285, 0x00000003], .tkgetClaim ⟨.l128, none, none, (.w 1), .none, .imm, (.w 5), false, false, false, 0x3⟩),
  ([0x00020302, 0x3FCA0E81, 0x00000002], .tkput ⟨.l96, none, none, (.w 1), (.w 3), .imm, .none, false, false, false, 0x2⟩),
  ([0x00020401, 0x28400000], .tdec ⟨.l64, none, none, .none, .none, (.w 4), .none, false, false, false, 0⟩),
  ([0x80020402, 0x28400000, 0x00000285], .tdecRem ⟨.l96, none, none, .none, .none, (.w 4), (.w 5), false, false, false, 0⟩)].all decodesTo = true := by decide

/-- Words of the supervisor instructions (R437). -/
theorem test_decode_supervisor : [
  ([0x0103C001, 0x000A0C00], .sret ⟨.l64, none, none, .none, (.w 3), .none, .none, false, false, false, 0⟩ true),
  ([0x2103C101, 0x000002A0], .mbrecv ⟨.l64, none, none, (.w 32), .none, .none, .none, false, false, false, 0⟩ 1 2),
  ([0x0003C201, 0x2F8A0C00], .mbpost ⟨.l64, none, none, .none, (.w 3), (.w 120), .none, false, false, false, 0⟩),
  ([0x0003C301, 0x000A0C00], .frep ⟨.l64, none, none, .none, (.w 3), .none, .none, false, false, false, 0⟩),
  ([0x0003C401, 0x000A0C00], .fdrop ⟨.l64, none, none, .none, (.w 3), .none, .none, false, false, false, 0⟩),
  ([0x0103C503, 0x3FCA1000, 0x00000286, 0x00000003], .tlbi ⟨.l128, none, none, .none, (.w 4), .imm, (.w 6), false, false, false, 0x3⟩ true),
  ([0x0003C601, 0x000A0C00], .wpark ⟨.l64, none, none, .none, (.w 3), .none, .none, false, false, false, 0⟩),
  ([0x0003C701, 0x000A0C00], .wwake ⟨.l64, none, none, .none, (.w 3), .none, .none, false, false, false, 0⟩),
  ([0x0203C901, 0x284A0E81], .sctxRd ⟨.l64, none, none, (.w 1), (.w 3), (.w 4), .none, false, false, false, 0⟩ true),
  ([0x0103C902, 0x3FFA0C00, 0x00000287], .sctxWr ⟨.l96, none, none, .none, (.w 3), .zero, (.w 7), false, false, false, 0⟩ false)].all decodesTo = true := by decide

/-! ### Terms that no encoding exists for: one for each check of well-formedness, beside a term that it lets pass -/

def refused (l : List Instr) : Bool := l.all (fun i => !i.wf)

/-- The terms that the ones below spoil. -/
theorem test_wf_good : [
  Instr.add (fm (.v 1) (.v 2) (.v 3)) .i32 false, .mad (fm (.v 1) (.v 2) (.v 3) (.v 4) .l96) .n32, .accz (fm (.tile 127)) 0,
  .plog (fm (.pred 15) (.pred 2) (.pred 3) (.pred 4) .l96) 1, .lred (fm (.w 1) (.v 2)) .i32 .add 0,
  .ldk (fm (.w 16) (.w 2)) 4, .sset (fm (a := .w 2)) 13, .mbpost (fm (a := .w 3) (b := .w 120)),
  .redPacket (pk 0x04 0), .taskDecrementPacket (pk 0x04 0 0 [0, 0, 0, 1]), .rd (pk 0x01 0)].all Instr.wf = true := by decide

/-- Operands outside their file, or of a class that the field does not admit (R290, R293, R305, R320). -/
theorem test_wf_operand : refused [
  .add (fm (.v 640) (.v 2) (.v 3)) .i32 false, .add (fm (.v 1) (.w 128) (.v 3)) .i32 false, .add (fm (.v 1) (.v 2) (.q 8)) .i32 false,
  .add (fm .imm (.v 2) (.v 3)) .i32 false, .add (fm (.v 1) (.v 2) .none) .i32 false, .add (fm (.v 1) (.v 2) (.v 3) (.v 4)) .i32 false,
  .mad (fm (.v 1) (.v 2) (.v 3) (.tile 4) .l96) .n32, .accz (fm (.tile 128)) 0, .plog (fm (.pred 16) (.pred 2) (.pred 3) (.pred 4) .l96) 1,
  .lshf (fm (.v 1) (.w 2) (.v 3)) .n32 .up 0, .cvset (fm (.v 1)), .nop (fm (.v 0)), .sget (fm (.w 4)) 1] = true := by decide

/-- Pairs and quads that are not aligned (R291), in each field. -/
theorem test_wf_alignment : refused [
  .add (fm (.v 1) (.v 2) (.v 4)) .i64 false, .add (fm (.v 2) (.v 3) (.v 4)) .i64 false, .add (fm (.v 2) (.v 4) (.v 5)) .i64 false,
  .mad (fm (.v 2) (.v 4) (.v 6) (.v 7) .l96) .n64, .ld (fm (.v 2) (.w 4) .zero) .g .b128 .weak .wp false 0,
  .atom (fm (.v 2) (.w 4) .zero (.v 6) .l96 0 (four (.v 7))) .cas .n64 .rlx .dv false false 0] = true := by decide

/-- Lengths that the operands do not give (R321), and an immediate where the form holds none (R303), or more than a code of 16 bits (R327). -/
theorem test_wf_length : refused [
  .add (fm (.v 1) (.v 2) (.v 3) .none .l96) .i32 false, .add (fm (.v 1) (.v 2) .imm) .i32 false, .add (fm (.v 1) (.v 2) (.v 3) .none .l64 5) .i32 false,
  .mad (fm (.v 1) (.v 2) (.v 3) (.v 4)) .n32, .exit (fm (len := .l96)), .mov (fm (.v 1) .imm .none .none .l96) .n32,
  .trap (fm (a := .imm) (len := .l96) (x := 0x10000))] = true := by decide

/-- Trap bits on what is not a register (R295). -/
theorem test_wf_trap : refused [
  .add { fm (.v 1) .lane (.v 3) with ta := true } .i32 false, .add { fm (.v 1) (.v 2) .zero with tb := true } .i32 false,
  .mad { fm (.v 1) (.v 2) (.v 3) .zero .l96 with tc := true } .n32, .exit { fm with ta := true }] = true := by decide

/-- A per-lane or queue source beside a w destination (R545), and the rules of single instructions (R296, R371, R374, R376, R437). -/
theorem test_wf_rules : refused [
  .add (fm (.w 1) (.v 2) (.w 3)) .i32 false, .add (fm (.w 1) (.w 2) (.q 3)) .i32 false, .mad (fm (.w 1) (.w 2) (.w 3) (.v 3) .l96) .n32,
  .atom (fm (.w 2) (.w 4) .zero (.w 6) .l96 0 (four (.v 7))) .cas .n32 .rlx .dv false false 0,
  .ldk (fm (.w 17) (.w 2)) 4, .ldk (fm (.w 126) (.w 2)) 2, .mbrecv (fm (.w 8)) 1 2, .sset (fm (a := .w 2)) 12,
  .st (fm .none (.v 2) .zero (.w 3) .l96) .s .b32 .weak .wp 0, .st (fm .none (.w 2) (.v 4) (.w 3) .l96) .s .b32 .weak .wp 0,
  .mbpost (fm (a := .w 3) (b := .w 121)), .atom (fm (.v 2) (.w 4) .zero (.v 6) .l96) .cas .n32 .rlx .dv false false 0] = true := by decide

/-- Modifiers that are reserved, or that the types do not admit (R302, R304). -/
theorem test_wf_modifiers : refused [
  .add (fm (.v 1) (.v 2) (.v 3)) .f32 false, .fadd (fm (.v 1) (.v 2) (.v 3)) .i32, .lea (fm (.v 2) (.w 4) (.v 8)) .n32 5,
  .ld (fm (.v 2) (.w 4) .zero) .g .b32 .weak .dv false 0, .ld (fm (.v 2) (.w 4) .zero) .g .b32 .rlx .dv true 0, .ldk (fm (.w 16) (.w 2)) 5,
  .lshf (fm (.v 1) (.v 2) (.v 3)) .n32 .up 5, .lred (fm (.v 1) (.v 2)) .f32 .add 0, .pcvt (fm (.v 1) (.v 2)) .x2f16 .x4i8 false,
  .punpk (fm (.v 1) (.v 2)) .x2f16 2, .accz (fm (.tile 0)) 15, .fence (fm) .weak .dv, .cpyw (fm .none (.w 2) (.w 10) (.w 7) .l96) .cnt 1] = true := by decide

/-- Prefixes that are a pad, round what does not round, or give a fourth operand to what takes none (R299, R306). -/
theorem test_wf_prefix : refused [
  .add (fm (.v 1) (.v 2) (.v 3) (pre := some ⟨none, .rne, none⟩)) .i32 false, .add (fm (.v 1) (.v 2) (.v 3) (pre := some ⟨none, .rtz, none⟩)) .i32 false,
  .add (fm (.v 1) (.v 2) (.v 3) (pre := four (.v 4))) .i32 false] = true := by decide

/-- Packets whose code, length or TDEC bit is not their row's (R221, R222, R223). -/
theorem test_wf_packet : refused [
  .rd (pk 0x02 0), .wr (pk 0x02 0 0 (List.replicate 257 0)), .redPacket (pk 0x04 0 0 [0, 0, 0, 1]), .taskDecrementPacket (pk 0x04 0)] = true := by decide

/-- The first fault of R310 for words that are no instruction: reserved opcode, privileged opcode, length, reserved field, operand code of each
field, alignment; and R300's crossing and R299's prefix. -/
theorem test_decode_faults :
    ([(false, [0x00000F01, 0]), (false, [0x0003C601, 0x00080C00]), (false, [0x00342002, 0x00300801, 0]), (false, [0x01344001, 0]), (false, [0x00342009, 0]),
      (false, [0x00342001, 0x003009FF + 0x10A]), (false, [0x00342001, 0x003C2000]), (false, [0x00342001, 0x31800000]), (false, [0x00442001, 0x00000001])] :
        List (Bool × List Word)).map (fun p => match decodeWords p.1 p.2 with | .error e => some e | .ok _ => none)
      = [some (.illegal 3 0), some .privileged, some (.illegal 4 0), some (.illegal 5 0), some (.illegal 5 0),
         some (.illegal 6 0), some (.illegal 6 1), some (.illegal 6 2), some (.illegal 7 0)] := by decide

/-! ### Results that the spec works out -/

/-- The warp of st with values in registers: (register, lane, value). -/
def holding (vs : List (Nat × Nat × Nat)) (w : Warp := wp) : Warp := vs.foldl (fun w p => w.vSet p.1 p.2.1 p.2.2) w

/-- The warp after an instruction, and none when the step gives no next state. -/
def ran (i : Instr) (w : Warp) : Option Warp :=
  match exec i (st w) with
  | .next t => some (t.warp 0 0)
  | _ => none

/-- v registers of lane 0 after an instruction on registers of lane 0. -/
def outs (i : Instr) (vs : List (Nat × Nat)) (rs : List Nat) : Option (List Nat) :=
  (ran i (holding (vs.map (fun p => (p.1, 0, p.2))))).map (fun w => rs.map (fun r => w.vGet r 0))

/-- The example of R345. -/
theorem test_prmt : outs (.prmt (fm (.v 3) (.v 0) (.v 1) (.v 2) .l96)) [(0, 0x44332211), (1, 0x88776655), (2, 0x18000704)] [3] = some [0xFF118855]
    ∧ outs (.prmt (fm (.v 3) (.v 0) (.v 1) (.v 2) .l96)) [(0, 0x44332211), (1, 0x88776655), (2, 0x20)] [3] = some [0x11111188] := by decide +kernel

/-- The carry chain of chapter 10: the low half carries out. -/
theorem test_addc : (ran (.addc (fm (.v 4) (.v 0) (.v 2)) .n32 4) (holding [(0, 0, 0xFFFFFFFF), (2, 0, 1)])).map (fun w => (w.vGet 4 0, w.pGet 4 0, w.pGet 4 1))
    = some (0, true, false) := by decide +kernel

/-- The example of R335: 1.0 + 2^-24 under RUP, and NX. -/
theorem test_fadd_dyn : (ran (.fadd (fm (.v 1) (.v 2) (.v 3) (pre := some ⟨none, .dyn, none⟩)) .f32)
      (holding [(2, 0, 0x3F800000), (3, 0, 0x33800000)] { wp with fpstat := 0x300 })).map (fun w => (w.vGet 1 0, w.fpstat)) = some (0x3F800001, 0x301) := by
  decide +kernel

/-- The examples of R353: 300.0 to E4M3, saturating, and 500.0 to its NaN. -/
theorem test_fcvt : outs (.fcvt (fm (.v 3) (.v 2)) .e4m3 .f32 false) [(2, 0x43960000)] [3] = some [0x79]
    ∧ outs (.fcvt (fm (.v 3) (.v 2)) .e4m3 .f32 true) [(2, 0x43FA0000)] [3] = some [0x7F] := by decide +kernel

/-- The third line of the example of R358, and its last. -/
theorem test_ppack : outs (.ppack (fm (.v 8) (.v 3) (.v 8)) .x4e4m3 2 false) [(3, 0x43960000), (8, 0xC238)] [8] = some [0x79C238]
    ∧ outs (.punpk (fm (.v 9) (.v 8)) .x4e4m3 2) [(8, 0x79C238)] [9] = some [0x43900000] := by decide +kernel

/-- The example of R363: four lanes reduced in the order of the butterfly. -/
theorem test_lred : (ran (.lred (fm (.v 2) (.v 1)) .f32 .fadd 3) (holding [(1, 0, 0x4B800000), (1, 1, 0x3F800000), (1, 2, 0x3F800000), (1, 3, 0xCB800000)])).map
    (fun w => ((List.range 4).map (w.vGet 2), w.fpstat)) = some ([0x3F800000, 0x3F800000, 0x3F800000, 0x3F800000], 1) := by decide +kernel

/-- The example of R360: the next lane of the segment, and its last lane's own value. -/
theorem test_lshf : (ran (.lshf (fm (.v 6) (.v 5) .imm .none .l96 1) .n32 .down 3) (holding [(5, 0, 10), (5, 1, 11), (5, 2, 12), (5, 3, 13), (5, 4, 14)])).map
    (fun w => (List.range 4).map (w.vGet 6)) = some [11, 12, 13, 13] := by decide +kernel

/-- Majority, from the table of R338. -/
theorem test_plog : (ran (.plog (fm (.pred 1) (.pred 2) (.pred 3) (.pred 4) .l96) 0xE8) { wp with preds := [0, 0, 0xF0, 0xCC, 0xAA] }).map
    (fun w => (w.pMask 1).toNat) = some 0xE8 := by decide +kernel

/-- The example of R419 with k = 2: lanes 1 and 2 are kept, lane 5 is residual. -/
theorem test_topk : (ran (.topk (fm (.v 8) (.v 4) .imm .none .l96 2) .f32 (some 6)) (holding [(4, 1, 0xC0400000), (4, 2, 0x40400000), (4, 5, 0x40000000)])).map
    (fun w => (w.vGet 8 1, w.vGet 8 2, w.vGet 8 5, w.vGet 9 5, w.pGet 6 1, w.pGet 6 5)) = some (0xC0400000, 0x40400000, 0, 0x40000000, true, false) := by
  decide +kernel


/-! ### Premises: decoding, the step and the issue -/

/-- DecodeEncode: the least and the greatest operands of an instruction. -/
theorem witness_DecodeEncode :
    let i : Instr := .add (fm (.v 639) (.v 0) .imm .none .l96 0xFFFFFFFF) .i32 true
    let j : Instr := .sret (fm .none (.w 127)) true
    (i.fmt.isSome = true ∧ i.wf = true ∧ i.modeOk false = true) ∧ j.fmt.isSome = true ∧ j.wf = true ∧ j.modeOk true = true := by decide +kernel

/-- The words of exit where the path stands. -/
def sExit : State :=
  let s := st { wp with place := some (0, 0) }
  { s with
    mem := layBytes s.mem [(placeVA, leBytes 8 0x501)], agenda := [(0, .slice 0 0)], cur := none
    cores := [{ kc { wp with place := some (0, 0) } with gen := 1 }] }

/-- StepRunsDecoded: a path alone, whose block is read from memory. -/
theorem witness_StepRunsDecoded :
    let s0 := ({ sExit with agenda := [] } : State).elapse 0 |>.tickSlice 0 0
    let p : DWord × Mask := (BitVec.ofNat 64 placeVA, BitVec.allOnes 32)
    sExit.agenda = [(0, .slice 0 0)] ∧ s0.booted = true ∧ s0.candidates 0 0 = [0] ∧ (s0.warp 0 0).ranked = [p]
    ∧ s0.kept 0 0 = none ∧ p.1.toNat % 32 = 0
    ∧ (match ((s0.updWarp 0 0 (fun w => { w with needs := [] })).fetchBlock 0 0 (p.1.toNat / 32 * 32)).1 with
       | .ok (some bs) => (match decodeBlock false bs 0 0 with | .unit 8 _ (.ok i) => i == .exit fm | _ => false)
       | _ => false) = true := by decide +kernel

/-- StepRunsOthers: a hart, a command, a packet and an event. -/
theorem witness_StepRunsOthers :
    let s := State.reset.withFetchWord 32 0x100B
    let c : State := { st wp with
      cp := (((st wp).cp.set (oCMDCFG / 8) 1).set (oCMDPOS / 8) (BitVec.ofNat 64 (2 ^ 32))) }
    decodeHost (({ s with agenda := [] } : State).elapse 0 |>.hartWord 0) = some .clret
    ∧ (c.elapse 0).nextCommand = some (.cmdUndefined ⟨0, 0, 0, 0, 0⟩)
    ∧ (pk 0x18 1).instr.isSome = true := by decide +kernel

def iAdd : Instr := .add (fm (.v 2) (.v 0) (.v 1)) .i32 false
def fAdd : Fmt := fm (.v 2) (.v 0) (.v 1)

/-- IssueOrder: a budget broken by one register; a queue register without a binding; ACTIVE empty; a source that is empty; and one with its trap bit. -/
theorem witness_IssueOrder :
    let small : Warp := { wp with vBud := 2 }
    let held : Warp := { wp with vE := [(1, 1)] }
    let q : Instr := .mov (fm (.v 2) (.q 0)) .i32
    let e : Cur := { cu wp with lanes := 0 }
    let trap : Fmt := { fAdd with tb := true }
    ((mkCtx (st small) (cu small) iAdd fAdd).w.overBudget (runsOf iAdd fAdd placeGroup) = some 2
      ∧ takes (cu small) (st small) { cls := 1, code := 4, info := 2 } = true)
    ∧ ((mkCtx (st wp) (cu wp) q (fm (.v 2) (.q 0))).w.queueFault [] (queueUses q (fm (.v 2) (.q 0))) = some (1, 0)
      ∧ takes (cu wp) (st wp) { cls := 1, code := 0xD, info := 1 } = true)
    ∧ ((mkCtx { st wp with cur := some e } e iAdd fAdd).active = 0 ∧ (mkCtx { st wp with cur := some e } e iAdd fAdd).zeroed iAdd = 0
      ∧ (mkCtx { st wp with cur := some e } e iAdd fAdd).unitFree { st wp with cur := some e } iAdd.unit = true)
    ∧ ((mkCtx (st held) (cu held) iAdd fAdd).active ≠ 0 ∧ (mkCtx (st held) (cu held) iAdd fAdd).blocked (st held) iAdd = true)
    ∧ (mkCtx (st held) (cu held) (.add trap .i32 false) trap).blocked (st held) (.add trap .i32 false) = false
    ∧ (mkCtx (st held) (cu held) (.add trap .i32 false) trap).trapEmpty (st held) (.add trap .i32 false)
        = some { cls := 1, code := 3, lane := some 0, info := 2 } := by decide +kernel

/-! ### Premises: instructions that only compute, and control -/

theorem witness_IntegerInstructions : iAdd.wf = true ∧ (intEff iAdd).isSome = true ∧ ready iAdd fAdd (cu wp) (st wp) = true := by decide +kernel

theorem witness_PredicateInstructions :
    let f := fm (.pred 15) (.pred 0) (.pred 1) (.pred 2) .l96
    let i : Instr := .plog f 0xE8
    i.wf = true ∧ (predEff i).isSome = true ∧ ready i f (cu wp) (st wp) = true := by decide +kernel

theorem witness_FloatInstructions :
    let f := fm (.v 2) (.v 0) (.v 1)
    let g := fm (.v 2) (.v 0)
    ((Instr.fadd f .f32).wf = true ∧ (floatEff (.fadd f .f32)).isSome = true ∧ ready (.fadd f .f32) f (cu wp) (st wp) = true)
    ∧ (Instr.vrsq g).wf = true ∧ (specEff (.vrsq g)).isSome = true ∧ ready (.vrsq g) g (cu wp) (st wp) = true := by decide +kernel

theorem witness_PackedInstructions :
    let f := fm (.v 2) (.v 0) (.v 1)
    let i : Instr := .padd f .x4i8 false
    i.wf = true ∧ (packEff i).isSome = true ∧ ready i f (cu wp) (st wp) = true := by decide +kernel

/-- lbc from a lane that runs, and from one that has finished. -/
theorem witness_LaneInstructions :
    let f := fm (.v 2) (.v 0)
    let i : Instr := .lred f .i32 .add 4
    let g := fm (.v 2) (.v 0) .imm .none .l96 31
    let j : Instr := .lbc g .i32
    let w : Warp := { wp with fin := 0x80000000 }
    let e : Cur := { cu w with lanes := 0x7FFFFFFF }
    let s : State := { st w with cur := some e }
    (i.wf = true ∧ (laneEff i).isSome = true ∧ ready i f (cu wp) (st wp) = true)
    ∧ (j.wf = true ∧ ready j g (cu wp) (st wp) = true
      ∧ (mkCtx (st wp) (cu wp) j g).w.emptyIn (BitVec.ofNat 32 (2 ^ 31)) (0, g.a.vN, 1) = 0 ∧ wp.fin.getLsbD 31 = false)
    ∧ ready j g e s = true ∧ (mkCtx s e j g).b s 1 0 % 32 = 31 ∧ w.fin.getLsbD 31 = true := by decide +kernel

theorem witness_ControlAndStatus :
    let f := fm
    let g := fm (.v 2)
    ((Instr.exit f).wf = true ∧ (ctlEff (.exit f)).isSome = true ∧ ready (.exit f) f (cu wp) (st wp) = true
      ∧ (mkCtx (st wp) (cu wp) (.exit f) f).slice < ((st wp).core 0).slices.length)
    ∧ (Instr.sget g 0).wf = true ∧ (statEff (.sget g 0)).isSome = true ∧ ready (.sget g 0) g (cu wp) (st wp) = true := by decide +kernel

/-- brx to 0 in every lane; to 2, no address. -/
theorem witness_Branches :
    let f := fm .none (.v 0)
    let i : Instr := .brx f
    let w : Warp := { wp with v := [(31, 2)] }
    (i.wf = true ∧ branchOf i = some (f, 0) ∧ ready i f (cu wp) (st wp) = true
      ∧ ∀ l ∈ maskLanes (mkCtx (st wp) (cu wp) i f).active, badTarget ((mkCtx (st wp) (cu wp) i f).target (st wp) l) = false)
    ∧ ready i f (cu w) (st w) = true ∧ takes (cu w) (st w) { cls := 1, code := 8, lane := some 31, va := 2 } = true
    ∧ (maskLanes (mkCtx (st w) (cu w) i f).active).find? (fun l => badTarget ((mkCtx (st w) (cu w) i f).target (st w) l)) = some 31
    ∧ (mkCtx (st w) (cu w) i f).target (st w) 31 = 2 := by decide +kernel

theorem witness_TrapsAndCalls :
    let f := fm .none .none .none .none .l96 0xFFFF
    let b := fm
    let c := fm .none .imm .none .none .l96 7
    (ready (.trap f) f (cu wp) (st wp) = true ∧ takes (cu wp) (st wp) { cls := 1, code := 9, info := 0xFFFF } = true)
    ∧ (ready (.brk b) b (cu wp) (st wp) = true ∧ takes (cu wp) (st wp) { cls := 1, code := 0xA } = true)
    ∧ (Instr.svc c).wf = true ∧ ready (.svc c) c (cu wp) (st wp) = true ∧ ((st wp).core 0).mbox.length < 64 ∧ noBell 0 (st wp) = true := by decide +kernel

/-! ### Premises: queue registers and memory -/

/-- A descriptor whose rings 0 and 1 are defined, with two entries each, at scratchpad 0 and 0x100 (R92). -/
def ringDesc : List Byte := List.replicate 0x28 0 ++ [0, 0x80, 2, 0x80] ++ List.replicate 0xD4 0

/-- One entry waits in ring 0; q0 pops ring 0 and q1 pushes to ring 1 (R90). -/
def sRing : State :=
  let w : Warp := { wp with qb := 0xD8 }
  { st w with cores := [{ kc w with groups := [{ placeGroup with desc := ringDesc, rings := [{ tail := 1, commit := 1 }, {}, {}, {}] }], sp := [(4, 9)] }] }
def wRing : Warp := sRing.warp 0 0

theorem witness_QueueRegisters :
    let f := fm (.v 2) (.q 0)
    let g := fm (.q 1) (.v 0)
    (ready (.mov f .i32) f (cu wRing) sRing = true ∧ ((sRing.core 0).group? wRing.gid).isSome = true
      ∧ (wRing.binding 0).2.2 < (sRing.group 0 wRing.gid).rings.length ∧ queueUses (.mov f .i32) f = [(0, false)])
    ∧ ready (.mov g .i32) g (cu wRing) sRing = true ∧ (wRing.binding 1).2.2 < (sRing.group 0 wRing.gid).rings.length
    ∧ queueUses (.mov g .i32) g = [(1, true)] := by decide +kernel

/-- Tables whose second, third and fourth 256 GiB are host memory, the on-chip map and memory of package 7. -/
def tabs : List (Nat × List Byte) :=
  placeTables ++ [(placeRoot + 0x4008, leBytes 8 0x35), (placeRoot + 0x4010, leBytes 8 0x3D), (placeRoot + 0x4018, leBytes 8 (0xAD + 7 * 2 ^ 9))]
def sMem (w : Warp) : State := { st w with mem := layBytes [] (tabs ++ [(0x1000, leBytes 8 0x8081828384858687)]) }

/-- w0 and w1 hold an address, register 0 of lane l holds n l, and register 4 holds l. -/
def wAt (a n : Nat) : Warp :=
  { wp with
    w := [(0, BitVec.ofNat 32 a), (1, BitVec.ofNat 32 (a / 2 ^ 32))]
    v := (List.range 32).map (fun l => (l, BitVec.ofNat 32 (n * l))) ++ (List.range 32).map (fun l => (128 + l, BitVec.ofNat 32 l)) }

def okAll (r : Chk) : List LAcc × State := match r with | .ok ls s => (ls, s) | _ => ([], {})

/-- ld of the first word of the fourth 256 GiB is a request to a peer; ld of 32 words of local HBM is not. -/
theorem witness_Loads :
    let f := fm (.v 2) (.w 0) (.v 0)
    let i : Instr := .ld f .g .b32 .weak .wp false 0
    let k := fm (.w 2) .imm .none .none .l96 0x1FFC
    let at_ (w : Warp) : Chk := (mkCtx (sMem w) (cu w) i f).locateAll .g .read 4 ((mkCtx (sMem w) (cu w) i f).memAddr (starts i f (cu w) (sMem w)) .g 0)
      (mkCtx (sMem w) (cu w) i f).runs [] (starts i f (cu w) (sMem w))
    let hold (w : Warp) : Bool :=
      ready i f (cu w) (sMem w) && ringOff (sMem w) && (okAll (at_ w)).1.length == 32
      && (mkCtx (sMem w) (cu w) i f).opFault (okAll (at_ w)).2 (okAll (at_ w)).1 false none == none
      && (okAll (at_ w)).1.all (fun x => !wp.mustFollow x 4 && (sMem w).there x.loc)
    i.wf = true ∧ (loadForm i).isSome = true ∧ hold (wAt 0x1000 4) = true ∧ hold (wAt (3 * 2 ^ 38) 64) = true
    ∧ ready (.ldk k 0) k (cu wp) (st wp) = true ∧ (mkCtx (st wp) (cu wp) (.ldk k 0) k).a (st wp) 1 0 = 0x1FFC := by decide +kernel

def fSt : Fmt := fm .none (.w 0) (.v 0) (.v 4) .l96
def iSt : Instr := .st fSt .g .b32 .rel .sy 0
/-- The lanes of a memory instruction of word size after the checks of translation, and the state then. -/
def lanesOf (i : Instr) (f : Fmt) (k : AKind) (e : Cur) (s : State) : List LAcc × State :=
  okAll ((mkCtx s e i f).locateAll .g k 4 ((mkCtx s e i f).memAddr (starts i f e s) .g 0) (mkCtx s e i f).runs [] (starts i f e s))

/-- Stores to local HBM and to a peer, and by one lane into the on-chip map. -/
theorem witness_Stores :
    let hold (w : Warp) : Bool :=
      let x := lanesOf iSt fSt .write (cu w) (sMem w)
      ready iSt fSt (cu w) (sMem w) && ringOff (sMem w) && w.wait == .none && !(mkCtx (sMem w) (cu w) iSt fSt).mustWait (sMem w) (Acc.of (.warp 0 0) .rel .sy)
      && (sMem w).unspilled && x.1.length == 32
      && (mkCtx (sMem w) (cu w) iSt fSt).opFault x.2 x.1 false none == none && w.counter .f < 63
      && x.1.all (fun y => !w.mustFollow y 4 && (sMem w).there y.loc && (match y.loc with | .ocm _ => false | _ => true))
    let w := wAt (2 * 2 ^ 38) 4
    let e : Cur := { cu w with lanes := 1 }
    let s : State := { sMem w with cur := some e }
    let x := lanesOf iSt fSt .write e s
    iSt.wf = true ∧ hold (wAt 0x1000 4) = true ∧ hold (wAt (3 * 2 ^ 38) 4) = true
    ∧ ready iSt fSt e s = true ∧ (mkCtx s e iSt fSt).mustWait s (Acc.of (.warp 0 0) .rel .sy) = false ∧ x.1 = [⟨0, 2 * 2 ^ 38, .ocm 0⟩] ∧ (mkCtx s e iSt fSt).opFault x.2 x.1 false none = none := by decide +kernel

def fAt : Fmt := fm (.v 8) (.w 0) (.v 0) (.v 4) .l96
theorem witness_Atomics :
    let i : Instr := .atom fAt .add .i32 .ar .sy false false 0
    let w := wAt 0x1000 4
    let s := sMem w
    let x := lanesOf i fAt .atomic (cu w) s
    i.wf = true ∧ ready i fAt (cu w) s = true ∧ ringOff s = true ∧ w.wait = .none ∧ (mkCtx s (cu w) i fAt).mustWait s (Acc.of (.warp 0 0) .ar .sy) = false ∧ s.unspilled = true
    ∧ x.1.length = 32
    ∧ (mkCtx s (cu w) i fAt).opFault x.2 x.1 false (some .add) = none ∧ x.1.all (fun y => !w.mustFollow y 4 && s.there y.loc) = true := by decide +kernel

/-- Reductions at a peer, and in local HBM. -/
theorem witness_Reductions :
    let i : Instr := .red fSt .add .i32 .rel .sy 0
    let hold (w : Warp) : Bool :=
      let x := lanesOf i fSt .atomic (cu w) (sMem w)
      ready i fSt (cu w) (sMem w) && !(mkCtx (sMem w) (cu w) i fSt).mustWait (sMem w) (Acc.of (.warp 0 0) .rel .sy) && x.1.length == 32 && (mkCtx (sMem w) (cu w) i fSt).opFault x.2 x.1 true (some .add) == none
      && w.counter .f < 63 && w.counter .a < 63 && x.1.all (fun y => !w.mustFollow y 4)
    i.wf = true ∧ hold (wAt 0x1000 4) = true ∧ hold (wAt (3 * 2 ^ 38) 4) = true := by decide +kernel

theorem witness_Fences :
    ready (.fence fm .ar .sy) fm (cu wp) (st wp) = true ∧ wp.readsBack = true ∧ wp.mayRelease = true ∧ (Instr.fence fm .ar .sy).wf = true
    ∧ (Instr.fro fm).wf = true ∧ ready (.fro fm) fm (cu wp) (st wp) = true
    ∧ (Instr.rcfence fm).wf = true ∧ ready (.rcfence fm) fm (cu wp) (st wp) = true
    ∧ ∀ o ∈ (mkCtx (st wp) (cu wp) (.rcfence fm) fm).w.ops, o.kind = .store → o.done = true := by decide +kernel

/-! ### Premises: barrier objects, waits and queues -/

/-- Registers of the window with values. -/
def withCp (s : State) (rs : List (Nat × Nat)) : State :=
  { s with cp := rs.foldl (fun (m : SMap 64) r => m.set (r.1 / 8) (BitVec.ofNat 64 r.2)) s.cp }

/-- An object of 2 arrivals at scratchpad 0x40, listed or not; w2 holds its address. -/
def wBar : Warp := { wp with w := [(2, 0x40)] }
def sBar (bars : List Nat) (o : Bar) : State :=
  { st wBar with cores := [{ kc wBar with bars := bars, sp := SMap.setN [] 0x40 o.enc }] }
def fBar (d b : Opd) (x : Word) : Fmt := fm d (.w 2) b .none .l96 x

/-- bini of 1 and of 65,535 arrivals where nothing is listed, and at an object at rest; barv of as many arrivals as are left, and bexp to the
greatest count. -/
theorem witness_BarrierObjects :
    let hold (i : Instr) (f : Fmt) (s : State) : Bool :=
      i.wf && ready i f (cu wBar) s && (match (mkCtx s (cu wBar) i f).barAt s with | .ok (a, k, p) => a == 0x40 && k == 0 && p == 0x40 | _ => false)
      && s.unraced (barAcc (.warp 0 0) .cl false) (.sp 0 0x40) 16 && (s.core 0).bars.length < 256
    (let s := sBar [] ⟨0, 0, 0, false, 0⟩
     ([1#32, 65535#32].all (fun n => hold (.bini (fBar .none .imm n)) (fBar .none .imm n) s
        && (mkCtx s (cu wBar) (.bini (fBar .none .imm n)) (fBar .none .imm n)).b s 1 0 == n.toNat)) = true ∧ s.listed 0 0x40 = false)
    ∧ (hold (.bini (fBar .none .imm 1)) (fBar .none .imm 1) (sBar [0x40] ⟨2, 2, 0, true, 0⟩) = true ∧ (sBar [0x40] ⟨2, 2, 0, true, 0⟩).listed 0 0x40 = true
      ∧ (sBar [0x40] ⟨2, 2, 0, true, 0⟩).bar 0 0x40 = ⟨2, 2, 0, true, 0⟩)
    ∧ (hold (.barv (fBar (.w 7) .imm 2) .cl) (fBar (.w 7) .imm 2) (sBar [0x40] ⟨2, 2, 0, false, 0⟩) = true ∧ wBar.mayRelease = true)
    ∧ hold (.bexp (fBar .none .imm 0x7FFFFFFF)) (fBar .none .imm 0x7FFFFFFF) (sBar [0x40] ⟨2, 2, 0, false, 0⟩) = true
    ∧ (mkCtx (sBar [0x40] ⟨2, 2, 0, false, 0⟩) (cu wBar) (.bexp (fBar .none .imm 0x7FFFFFFF)) (fBar .none .imm 0x7FFFFFFF)).b
        (sBar [0x40] ⟨2, 2, 0, false, 0⟩) 1 0 = 0x7FFFFFFF := by decide +kernel

/-- Counters at their thresholds and above them; a phase that differs from the token, and one that does not. -/
theorem witness_CounterAndPhaseWaits :
    let f := fm .none .imm .none .none .l96 0
    let i : Instr := .awaitCnt f
    let w : Warp := { wp with ops := [{ id := 1, kind := .load, cls := some .f }] }
    let g := fBar .none .imm 1
    let s := sBar [0x40] ⟨2, 2, 0, false, 0⟩
    let u := sBar [0x40] ⟨2, 2, 0, true, 0⟩
    (i.wf = true ∧ ready i f (cu wp) (st wp) = true ∧ wp.atMost 0 = true ∧ ready i f (cu w) (st w) = true ∧ w.atMost 0 = false)
    ∧ (∀ x ∈ [s, u], (Instr.awaitPh g .cl).wf = true ∧ ready (.awaitPh g .cl) g (cu wBar) x = true ∧ x.listed 0 0x40 = true
      ∧ (mkCtx x (cu wBar) (.awaitPh g .cl) g).b x 1 0 = 1 ∧ x.unraced (barAcc (.warp 0 0) .cl false) (.sp 0 0x40) 16 = true
      ∧ ((mkCtx x (cu wBar) (.awaitPh g .cl) g).barAt x matches .ok (0x40, 0, 0x40)))
    ∧ (s.bar 0 0x40).phase = false ∧ (u.bar 0 0x40).phase = true := by decide +kernel

/-- await.mem of a word of local HBM that is 0x84858687, for a value of it and for another. -/
def fWait (c : Opd) : Fmt := fm (.pred 2) (.w 0) .zero c .l96
theorem witness_MemoryWaits :
    let i (c : Opd) : Instr := .awaitMem (fWait c) .meq false .sy
    let w : Warp := { wAt 0x1000 4 with w := [(0, 0x1000), (2, 0xFF)] }
    let s := sMem w
    let m (c : Opd) : Option (Nat × Nat × Mon × Wait) := watchOf (mkCtx s (cu w) (i c) (fWait c)) s (i c)
    let v (c : Opd) : Bool := (m c).any (fun x => monCond { x.2.2.1 with pa := 2 ^ 48 + 0x1000 } (leVal (s.peek (2 ^ 48 + 0x1000) 4)))
    let at_ (c : Opd) : List LAcc := (okAll ((mkCtx s (cu w) (i c) (fWait c)).locateAll .g .read 4 (fun _ => 0x1000) [0] [] (starts (i c) (fWait c) (cu w) s))).1
    (∀ c ∈ [Opd.zero, Opd.w 2], (i c).wf = true ∧ ready (i c) (fWait c) (cu w) s = true ∧ at_ c = [⟨0, 0x1000, .hbm (2 ^ 48 + 0x1000)⟩])
    ∧ (m .zero).isSome = true ∧ v .zero = true ∧ v (.w 2) = false ∧ (m (.w 2)).all (fun x => !x.2.2.1.late s.ptb) = true
    ∧ s.poisoned (2 ^ 48 + 0x1000) = false ∧ s.monTable (s.homeSlice 0x1000) < Config.monEntries
    ∧ w.stopped = false ∧ w.replay = none ∧ s.hb.wlog = [] ∧ s.hb.rlog = [] ∧ s.hb.colog = [] ∧ (m .zero).all (fun x => x.2.2.1.bytes == 4) = true
    ∧ s.parkArea 0 = 2 ^ 48 + 2 ^ 30 ∧ s.part.chans = 512 ∧ (s.keyDraw 1).isSome = true ∧ s.mons = [] := by decide +kernel

/-- Its park area is open (R59). -/
theorem witness_MemoryWaits_park : ParkOpen 0 (sMem { wAt 0x1000 4 with w := [(0, 0x1000), (2, 0xFF)] }) :=
  parkOpen_at (by decide +kernel) (by decide +kernel) (by decide +kernel) (by decide +kernel)

/-- Entry 255 of the grid barrier table: 2 arrivals of generation 1, phase word at 0x1000. -/
def sGrid (had : Nat) : State :=
  let s := withCp (st wp) [(oGTAB + 0x20, 0x50000)]
  { s with
    mem := layBytes [] (tabs ++ [(0x50FF0, leBytes 8 (2 ^ 48 + 2 * 2 + 1)), (0x50FF8, leBytes 8 0x1000)])
    gbCount := if had = 0 then [] else [(1, 255, had)] }
def fOne (x : Word) : Fmt := fm .none .none .imm .none .l96 x

/-- Fabric barrier 255: 2 local arrivals, root package 7; the links of the group are up. -/
def net (s : State) : State := { withCp s ((List.range 31).map (fun j => (oLLSTAT + 8 * j, 0xFF01))) with ports := List.replicate 95 {} }
def sFab (had : Nat) : State :=
  let s := withCp (net (st wp)) [(oFBAR + 64 * 255, 1), (oFBAR + 64 * 255 + 8, 7 * 2 ^ 16), (oFBAR + 64 * 255 + 24, 2)]
  { s with fbars := if had = 0 then [] else [{ idx := 255, gen := 1, count := had }] }

theorem witness_GridAndFabricBarriers :
    let f := fOne 255
    let g := fm .none .none .imm .none .l96 255
    (∀ h ∈ [0, 1], (Instr.gbarGrid f).wf = true ∧ ready (.gbarGrid f) f (cu wp) (sGrid h) = true ∧ ringOff (sGrid h) = true ∧ (sGrid h).gbValid 1 255 = true
      ∧ fld ((sGrid h).gbWord 1 255 0) 32 1 = 2) ∧ wp.mayRelease = true
    ∧ (match (sGrid 1).xlateCp 1 ((sGrid 1).gbWord 1 255 1) .write with | .ok pa l => pa == 2 ^ 48 + 0x1000 && aperOf l == 0 | _ => false) = true
    ∧ (sGrid 1).open_ (2 ^ 48 + 0x1000) = true ∧ (sGrid 1).calm = true ∧ (sGrid 1).unspilled = true
    ∧ (∀ h ∈ [0, 1], (Instr.gbarFab g).wf = true ∧ ready (.gbarFab g) g (cu wp) (sFab h) = true ∧ (sFab h).fbValid 255 = true
      ∧ ((sFab h).fb 255).noRoot = false ∧ ((sFab h).fb 255).count = h)
    ∧ ((sFab 1).dest 7).bad = false ∧ ((sFab 1).dest 7).waiting = [] ∧ ((sFab 1).dest 7).unacked = [] ∧ (sFab 1).pathTo 7 = true := by decide +kernel

/-- q1 pushes to ring 1, which another warp of the group may push to as well, or not. -/
theorem witness_QueueControl :
    let s : State := { sRing with cores := [{ (sRing.core 0) with warps := [wRing, { wRing with wix := 1, warp := 1 }] }] }
    let f := fm (.v 2)
    (Instr.qcls fm 1).wf = true ∧ ready (.qcls fm 1) fm (cu wRing) sRing = true ∧ ready (.qcls fm 1) fm (cu wRing) s = true
    ∧ wRing.binding 1 = (true, true, 1) ∧ (ringOf (mkCtx sRing (cu wRing) (.qcls fm 1) fm) 1 sRing).closeAt = none
    ∧ (Instr.qstat f 1).wf = true ∧ ready (.qstat f 1) f (cu wRing) sRing = true := by decide +kernel

/-! ### Results in memory and scratchpad that the spec works out -/

/-- The example of R378: of four compare-and-swaps of one word, lane 0's succeeds and the word holds its value. -/
theorem test_atom_cas :
    let i : Instr := .atom (fm (.v 2) (.w 0) .zero (.v 5) .l96 0 (four (.v 6))) .cas .n32 .ar .dv false false 0
    let w : Warp := (holding [(6, 0, 1), (6, 1, 2), (6, 2, 3), (6, 3, 4)]).wSetN 0 2 0x1040
    (match exec i (sMem w) with
      | .next t => (SMap.getN t.mem 4 0x1040).map BitVec.toNat
      | _ => []) = [1, 0, 0, 0] := by decide +kernel

/-- R390, R392: an object that `bini` has made expects two arrivals, and the first `barv` returns phase 0 and leaves one. -/
theorem test_barrier :
    (match exec (.bini (fBar .none .imm 2)) (sBar [] ⟨0, 0, 0, false, 0⟩) with
      | .next t => (SMap.getN (t.core 0).sp 16 0x40).map BitVec.toNat | _ => []) = [0, 0, 0, 0, 2, 0, 2, 0, 0, 0, 0, 0, 0, 0, 0, 0]
    ∧ (match exec (.barv (fBar (.w 7) .imm 1) .cl) (sBar [0x40] ⟨2, 2, 0, false, 0⟩) with
      | .next t => ((SMap.getN (t.core 0).sp 16 0x40).map BitVec.toNat, (t.warp 0 0).wGet 7) | _ => ([], 9)) = ([0, 0, 0, 0, 1, 0, 2, 0, 0, 0, 0, 0, 0, 0, 0, 0], 0) := by
  decide +kernel


/-! ### Premises: the matrix unit and copies -/

/-- Slot 0 holds f16 elements without a scale, slot 1 MX blocks of 32 E4M3 elements with an E8M0 scale (R152), and slot 2 a plane of 8 bits. -/
def slotDesc : List Byte :=
  List.replicate 0x40 0 ++ leBytes 8 2 ++ leBytes 8 (4 + 2 * 2 ^ 5 + 2 ^ 8) ++ leBytes 8 (15 + 4 * 2 ^ 5 + 8 * 2 ^ 11) ++ List.replicate 0xA8 0
def sMat : State :=
  { st wp with cores := [{ kc wp with groups := [{ placeGroup with desc := slotDesc }], slices := [{}, { mx := .warm }, {}, {}] }] }

def mods (dsp : Bool) : MmaMods := { inf := false, asp := false, bsp := false, dsp := dsp, nqm := 0, sla := 0, slb := 0, apw := 0, bpw := 0 }
def fMma (d : Opd) : Fmt := fm d (.v 8) (.v 16) .zero .l96

/-- A product into tiles, and one into scratchpad. -/
theorem witness_MatrixProducts :
    let i (d : Opd) (sp : Bool) : Instr := .mma (fMma d) (mods sp)
    let c (d : Opd) (sp : Bool) : Ctx := mkCtx sMat (cu wp) (i d sp) (fMma d)
    let got (d : Opd) (sp : Bool) : Option (List (Nat × Nat × Nat) × Nat) :=
      (mmaReadsAll (c d sp) (starts (i d sp) (fMma d) (cu wp) sMat) (mods sp) false).map (fun r => (r.1, r.2.1))
    (i (.tile 0) false).wf = true ∧ ready (i (.tile 0) false) (fMma (.tile 0)) (cu wp) sMat = true ∧ got (.tile 0) false = some ([], 16)
    ∧ (sMat.slice 0 (c (.tile 0) false).slice).mx = .warm
    ∧ (i (.w 2) true).wf = true ∧ ready (i (.w 2) true) (fMma (.w 2)) (cu wp) sMat = true
    ∧ got (.w 2) true = some ([(0, 0, 0), (1, 0, 512), (2, 0, 1024), (3, 0, 1536)], 16)
    ∧ ([(0, 0, 0), (1, 0, 512), (2, 0, 1024), (3, 0, 1536)] : List (Nat × Nat × Nat)).all (fun p =>
        sMat.unraced (tileAcc (c (.w 2) true) true) (.sp p.2.1 p.2.2) 512) = true := by decide +kernel

theorem witness_TileMoves :
    let z := fm (.tile 12)
    let f := fm (.tile 12) (.v 16)
    let g := fm (.tile 12) (.w 2)
    let h := fm (.v 16) (.tile 12)
    let k := fm (.w 2) (.tile 12)
    let four : List (Nat × Nat × Nat) := [(0, 0, 0), (1, 0, 512), (2, 0, 1024), (3, 0, 1536)]
    let at_ (r : Except Res (List (Nat × Nat × Nat))) : Bool := match r with | .ok ps => ps == four | _ => false
    ((Instr.accz z 0).wf = true ∧ ready (.accz z 0) z (cu wp) sMat = true)
    ∧ ((Instr.accld f 0 false).wf = true ∧ ready (.accld f 0 false) f (cu wp) sMat = true ∧ (mkCtx sMat (cu wp) (.accld f 0 false) f).lanesMissing 0 = false)
    ∧ ((Instr.accld g 0 true).wf = true ∧ ready (.accld g 0 true) g (cu wp) sMat = true ∧ at_ ((mkCtx sMat (cu wp) (.accld g 0 true) g).tilesAt sMat 0 (quarters 0)) = true)
    ∧ ((Instr.accst h 0 false).wf = true ∧ ready (.accst h 0 false) h (cu wp) sMat = true ∧ (mkCtx sMat (cu wp) (.accst h 0 false) h).lanesMissing 0 = false)
    ∧ ((Instr.accst k 0 true).wf = true ∧ ready (.accst k 0 true) k (cu wp) sMat = true ∧ at_ ((mkCtx sMat (cu wp) (.accst k 0 true) k).tilesAt sMat 0 (quarters 0)) = true)
    ∧ four.all (fun p => sMat.unraced (tileAcc (mkCtx sMat (cu wp) (.accst k 0 true) k) false) (.sp p.2.1 p.2.2) 512) = true := by decide +kernel

theorem witness_ConversionsAndSelection :
    let f := fm (.v 8) (.v 16)
    let i : Instr := .qpack f false 1
    let p : Instr := .plsplit f
    i.wf = true ∧ ready i f (cu wp) sMat = true ∧ (convOut (mkCtx sMat (cu wp) i f) (starts i f (cu wp) sMat) i).isSome = true
    ∧ p.wf = true ∧ ready p f (cu wp) sMat = true ∧ (planeEff (mkCtx sMat (cu wp) p f) sMat p).isSome = true := by decide +kernel

/-- w4 and w5 name scratchpad, w0 and w1 a place in local HBM; the copies are of 128 bytes. -/
def fCpy : Fmt := fm .none (.w 0) (.w 4) .imm .l128 128
def wCpy : Warp := wAt 0x1000 4
def iCpy : Instr := .cpy fCpy .cnt false true 0
/-- A warp alone in its group, and one that waits for the other's piece. -/
def sCpy (two : Bool) : State :=
  let ws := if two then [wCpy, { wCpy with wix := 1, warp := 1 }] else [wCpy]
  { sMem wCpy with cores := [{ kc wCpy with warps := ws, groups := [{ placeGroup with nWarps := ws.length }] }] }

/-- The piece starts a warp's copy, of which it is the only member, with its transfers. -/
def starter (i : Instr) (f : Fmt) (s : State) : Bool :=
  let c := mkCtx s (cu wCpy) i f
  i.wf && readyCopy i f (cu wCpy) s && ringOff s && (s.core 0).copies.isEmpty
  && ((s.group 0 c.w.gid).copySet c.w.warp).2 == (c.w.warp, 1) && !c.w.sup && c.w.wix == c.wix
  && (s.core 0).warps.find? (fun w => !w.sup && w.gid == c.w.gid && w.warp == c.w.warp) == some c.w
  && (match copyForm c s i, copyChecked c (starts i f (cu wCpy) s) i with
      | some (_, m), some b =>
        c.barUnlisted b m.cpl m.ctw == none && m.size
        && (match (copyBegun c b m).pieceMoves 0 (newCopy c b m) (pieceOf c m) with | (.ok xs, u) => !xs.isEmpty && u.stop == none | _ => false)
      | _, _ => false)

/-- The record of a tensor of two dimensions of 4 i8 elements each, with strides of 8 bytes, a box of 2 by 2 and windows (R424). -/
def shape22 : List Byte :=
  leBytes 8 0x2000 ++ leBytes 8 (2 + 9 * 2 ^ 3 + 2 ^ 8 + 2 ^ 16) ++ leBytes 4 4 ++ leBytes 4 4 ++ List.replicate 12 0 ++ leBytes 5 8 ++ List.replicate 15 0
    ++ [1, 1, 0, 0, 0, 0, 0, 0]

/-- A warp whose record lies at 0x1000 in the core's record cache, with origin 0 and 2 windows. -/
def wShape : Warp := { wCpy with w := [(0, 0x1000), (21, 2)] }
def sShape : State := { sCpy false with cores := [{ kc wShape with rcache := [(0x1000, shape22)] }] }

/-- The second piece of the set of two warps is still to come; each of the five forms begins a copy at once, the last two for 32 lanes. -/
theorem witness_CopyInstructions :
    let c : Ctx := mkCtx (sCpy true) (cu wCpy) iCpy fCpy
    let t := fm .none (.w 0) (.w 16) (.w 4) .l96
    let g := fm .none (.v 0) .imm (.w 4) .l128 8
    (iCpy.wf = true ∧ readyCopy iCpy fCpy (cu wCpy) (sCpy true) = true ∧ (copyChecked c (starts iCpy fCpy (cu wCpy) (sCpy true)) iCpy).isSome = true
      ∧ ((copyForm c (sCpy true) iCpy).any (fun m => m.2.size)) = true ∧ ((sCpy true).core 0).copies = [] ∧ nextCopy c (sCpy true) = none
      ∧ setWaits c (sCpy true) = true)
    ∧ (mkCtx (sCpy false) (cu wCpy) iCpy fCpy).active ≠ 0 ∧ starter iCpy fCpy (sCpy false) = true
    ∧ starter (.cpyt t .cnt false 0) t sShape = true ∧ starter (.cpyw t .cnt 0) t sShape = true
    ∧ starter (.cpyg g .cnt 0) g (sCpy false) = true ∧ starter (.cpys g .cnt 0) g (sCpy false) = true := by decide +kernel

/-! ### Premises: tasks -/

/-- A node of generation 1 whose till takes records one at a time. -/
def nodeOf (nid : Nat) : NodeReg := { gen := 1, nid := nid, desc := List.replicate 256 0 }
/-- w2 holds the greatest node ID, which is registered; w4 holds 7, w8 a count of 2^16 − 1, w10 a 1; the payload area lies at scratchpad 0. -/
def wTask : Warp := { wp with w := [(2, 0xFFFFFF), (4, 7), (8, 0xFFFF0000), (10, 1)] }
def sTask : State :=
  let s := withCp (net (st wTask)) [(oGTAB + 0x18, 0x800000)]
  { s with
    mem := layBytes [] (tabs ++ [(0x800000, leBytes 8 0)]), nodes := [nodeOf 0xFFFFFF]
    cores := [{ kc wTask with sp := SMap.setN [] 0 ((List.range 64).map (fun k => BitVec.ofNat 8 (k + 1))) }] }
def fEm (c : Opd := .none) (len : Len := .l64) (x : Word := 0) : Fmt := fm .none (.w 6) (.w 2) c len x
def isArea (r : Except Res (List (Nat × Nat))) : Bool := match r with | .ok as => as == [(0, 0)] | _ => false

theorem witness_Emissions :
    let i : Instr := .emit (fEm)
    let c := mkCtx sTask (cu wTask) i fEm
    i.wf = true ∧ ready i fEm (cu wTask) sTask = true ∧ wTask.mayRelease = true ∧ isArea (c.areas sTask c.recLanes) = true
    ∧ sTask.node (c.pktGen sTask) 0xFFFFFF = some (nodeOf 0xFFFFFF) ∧ (nodeOf 0xFFFFFF).kind ≠ 2 ∧ sTask.tillRoom (c.pktGen sTask) 0 1 = true
    ∧ sTask.unraced (Acc.weak (.warp 0 0)) (.sp 0 8) 56 = true := by decide +kernel

/-- Task 0 of count 0, created with a count of 2^16 − 1; its decrement; and a grid of one record by the leader. -/
theorem witness_TasksAndSpawns :
    let f := fEm (.w 8) .l96
    let i : Instr := .emitTask f
    let c := mkCtx sTask (cu wTask) i f
    let g := fm .none .none .imm .none .l96 0
    let e : Cur := { cu wTask with lanes := 1 }
    let s : State := { sTask with cur := some e }
    let h := fEm (.w 10) .l96
    let j : Instr := .spawn h
    let d := mkCtx s e j h
    (i.wf = true ∧ ready i f (cu wTask) sTask = true ∧ ringOff sTask = true ∧ isArea (c.areas sTask c.recLanes) = true
      ∧ c.c sTask 1 0 = 0xFFFF0000 ∧ sTask.taskEntry (c.pktGen sTask) 0 = some 0x800000 ∧ leVal (sTask.peek 0x800000 8) = 0
      ∧ sTask.open_ 0x800000 = true ∧ sTask.calm = true ∧ sTask.unspilled = true)
    ∧ ((Instr.tdec g).wf = true ∧ ready (.tdec g) g (cu wTask) sTask = true)
    ∧ j.wf = true ∧ ready j h e s = true ∧ isArea (d.areas s [0]) = true ∧ d.leaderOnly = true ∧ wTask.sup = false ∧ (s.group 0 1).depth < 10
    ∧ (s.node (d.pktGen s) 0xFFFFFF).isSome = true ∧ s.tillRoom (d.pktGen s) 0 1 = true ∧ s.unraced (Acc.weak (.warp 0 0)) (.sp 0 8) 48 = true := by decide +kernel

/-- Deque 63 of generation 1, two records at 0x10000. -/
def sDq (cfg pos : Nat) : State :=
  withCp { sTask with nodes := [nodeOf 0] } [(oDQ + 32 * 63, 0x10000 + 16 + cfg), (oDQ + 32 * 63 + 8, pos), (oDQ + 32 * 63 + 16, 1)]
def fDq : Fmt := fm (.w 8) (.w 6) .imm .none .l96 63

/-- A deque that does not accept, one that is full, and one with room; then an empty one and one of a record. -/
theorem witness_DequeMoves :
    let i : Instr := .tkput fDq
    let c (s : State) : Ctx := mkCtx s (cu wTask) i fDq
    let g := fm (.w 8) .none .imm .none .l96 63
    let j : Instr := .tkget g
    i.wf = true ∧ wTask.mayRelease = true ∧ j.wf = true
    ∧ (∀ s ∈ [sDq 1 0, sDq 3 (2 * 2 ^ 32), sDq 3 (2 ^ 32)], ready i fDq (cu wTask) s = true ∧ ringOff s = true ∧ isArea ((c s).areas s [0]) = true
        ∧ (s.dqCfg 63).testBit 0 = true ∧ s.dqGen 63 = (c s).pktGen s)
    ∧ (sDq 1 0 |>.dqCfg 63).testBit 1 = false ∧ (sDq 3 (2 * 2 ^ 32)).dqCount 63 = 2 ∧ (sDq 3 (2 ^ 32)).dqCount 63 = 1
    ∧ (match (sDq 3 (2 ^ 32)).dqPA 63 1 .write with | .ok pa => pa == 2 ^ 48 + 0x10040 | _ => false) = true
    ∧ (∀ s ∈ [sDq 3 0, sDq 3 (2 ^ 32)], ready j g (cu wTask) s = true)
    ∧ (match (sDq 3 (2 ^ 32)).dqPA 63 0 .write with
       | .ok pa => pa == 2 ^ 48 + 0x10000 && !(sDq 3 (2 ^ 32)).poisoned pa && ((sDq 3 (2 ^ 32)).node 1 (recNid ((sDq 3 (2 ^ 32)).peek pa 64))).isSome
       | _ => false) = true
    ∧ (sDq 3 (2 ^ 32)).open_ (2 ^ 48 + 0x10040) = true ∧ (sDq 3 (2 ^ 32)).open_ (2 ^ 48 + 0x10000) = true ∧ (sDq 3 (2 ^ 32)).calm = true
    ∧ (sDq 3 (2 ^ 32)).unspilled = true ∧ (sDq 3 (2 ^ 32)).tillRoom 1 0 1 = true ∧ (sDq 3 (2 ^ 32)).esc = [] := by decide +kernel

theorem witness_RemoteTaskRequests :
    let f := fEm (.w 4) .l96
    let i : Instr := .emitRem f
    let c := mkCtx sTask (cu wTask) i f
    let g := fm (.w 8) .none (.w 2) (.w 4) .l96
    let j : Instr := .tkgetClaim g
    let h := fm .none .none (.w 2) (.w 4) .l96
    let k : Instr := .tdecRem h
    (i.wf = true ∧ ready i f (cu wTask) sTask = true ∧ wTask.mayRelease = true ∧ wTask.counter .f < 63 ∧ isArea (c.areas sTask c.recLanes) = true
      ∧ (sTask.dest 7).bad = false ∧ sTask.unraced (Acc.weak (.warp 0 0)) (.sp 0 8) 56 = true)
    ∧ (j.wf = true ∧ ready j g (cu wTask) sTask = true ∧ (mkCtx sTask (cu wTask) j g).c sTask 1 0 = 7 ∧ sTask.dev = 0)
    ∧ k.wf = true ∧ ready k h (cu wTask) sTask = true := by decide +kernel

/-! ### Premises: the supervisor -/

/-- The supervisor warp, whose w2 names user warp 255, w4 generation 1, and w6 and w7 a place. -/
def wSup : Warp := { placeWarp true with w := [(2, 255), (4, 0x100FF), (6, 0x1000), (8, 2), (10, 1)] }
/-- The same core with user warp 255 beside, as x makes it, and what y makes of the core. -/
def svS (x : Warp → Warp := fun w => w) (y : Core → Core := fun k => k) : State :=
  let k := kc wSup
  { st wSup with cores := [y { k with warps := [wSup, x { wp with wix := 255 }] }] }
def fA2 : Fmt := fm .none (.w 2)

/-- sret of a stopped warp; frep and fdrop of entry 2, its load at 0x1000. -/
def fe : FEntry := { idx := 2, rec_ := { cls := 2, code := 2, gen := 1, wix := 255, va := 0x1000, pc := 0x2000 }, gen := 1, src := 0, who := 255 }
def fA8 : Fmt := fm .none (.w 8)
theorem witness_FaultHandling :
    let s := svS (fun w => { w with stopped := true, stopAt := some (0x2000, 0x2008) })
    let i : Instr := .sret fA2 true
    let r := svS (fun w => { w with replay := some 2 }) (fun k => { k with fbuf := [fe] })
    (i.wf = true ∧ ready i fA2 (cu wSup) s = true ∧ (mkCtx s (cu wSup) i fA2).a s 1 0 % 256 = 255
      ∧ ((s.core 0).userWarp 255).any (fun w => w.stopped && w.asyncStop.isNone) = true ∧ (cu wSup).wix ≠ 255
      ∧ ∀ u ∈ (s.core 0).warps, u.wix = 255 → u.sup = false)
    ∧ ((Instr.frep fA8).wf = true ∧ ready (.frep fA8) fA8 (cu wSup) r = true ∧ (r.core 0).entry ((mkCtx r (cu wSup) (.frep fA8) fA8).a r 1 0) = some fe
      ∧ fe.src ≤ 1 ∧ (r.core 0).gen = fe.gen ∧ fe.who ≠ (cu wSup).wix ∧ ((r.core 0).warp? fe.who).isSome = true ∧ (r.warp 0 fe.who).place.isSome = true)
    ∧ (Instr.fdrop fA8).wf = true ∧ ready (.fdrop fA8) fA8 (cu wSup) r = true ∧ fe.who ≠ supWix ∧ (r.core 0).mbox.length < 64 ∧ noBell 0 r = true := by
  decide +kernel

theorem witness_MailboxInstructions :
    let f := fm (.w 16)
    let i : Instr := .mbrecv f 0 15
    let e : MEntry := ⟨1, List.replicate 64 7, 255, 1⟩
    let s := svS (y := fun k => { k with mbox := [e] })
    let u := svS (fun w => { w with wait := .svc })
    let g := fm .none (.w 4) (.w 16)
    (i.wf = true ∧ ready i f (cu wSup) (svS) = true ∧ ((svS).core 0).mbox = [] ∧ wSup.preds.length = 16)
    ∧ (ready i f (cu wSup) s = true ∧ (s.core 0).mbox = [e] ∧ (s.core 0).heldRecs = [])
    ∧ (Instr.mbpost g).wf = true ∧ ready (.mbpost g) g (cu wSup) u = true
    ∧ (u.core 0).gen = fld ((mkCtx u (cu wSup) (.mbpost g) g).a u 1 0) 31 16 ∧ (mkCtx u (cu wSup) (.mbpost g) g).a u 1 0 % 256 = 255
    ∧ ((u.core 0).userWarp 255).any (fun w => w.wait == .svc) = true ∧ (u.warp 0 255).place.isSome = true ∧ (cu wSup).wix ≠ 255
    ∧ ∀ w ∈ (u.core 0).warps, w.wix = 255 → w.sup = false := by decide +kernel

/-- tlbi of size 0 and of the whole generation (size 2); a warp to park and to wake; its register 0 and its predicates; MBDB. -/
theorem witness_SupervisorAccess :
    let f := fm .none (.w 6) .imm (.w 10) .l128 2
    let i : Instr := .tlbi f true
    let s := svS (y := fun k => { k with tlb := [⟨1, 0, 16, 0⟩, ⟨2, 0, 38, 0⟩] })
    let h := svS (fun w => { w with parkHeld := true })
    let r := fm (.w 20) (.w 12)
    let g := fm .none (.w 12) .zero (.w 10) .l96
    let sel (n : BitVec 32) (x : Warp → Warp := fun w => w) : State :=
      { svS x with cores := [{ kc wSup with warps := [{ wSup with w := [(10, 1), (12, n)] }, x { wp with wix := 255 }] }] }
    let x (n : BitVec 32) : Sel := selOf ((mkCtx (sel n) (cu wSup) (.sctxRd r false) r).a (sel n) 1 0)
    (i.wf = true ∧ ready i f (cu wSup) s = true ∧ (mkCtx s (cu wSup) i f).b s 1 0 = 2 ∧ (mkCtx s (cu wSup) i f).w.ops = [])
    ∧ ((Instr.wpark fA2).wf = true ∧ ready (.wpark fA2) fA2 (cu wSup) (svS) = true ∧ (((svS).core 0).userWarp 255).isSome = true
      ∧ ((svS).core 0).userWarp 255 = ((svS).core 0).warp? 255 ∧ (svS).parkArea 0 = 2 ^ 48 + 2 ^ 30 ∧ (svS).parkFits 0 wp = true)
    ∧ ((Instr.wwake fA2).wf = true ∧ ready (.wwake fA2) fA2 (cu wSup) h = true)
    ∧ ((Instr.sctxRd r false).wf = true ∧ ready (.sctxRd r false) r (cu wSup) (sel 0x400000FF) = true ∧ (x 0x400000FF).wix = 255
      ∧ (((sel 0x400000FF).core 0).userWarp 255).any (fun w => (x 0x400000FF).ok w && (x 0x400000FF).cls != 12 && (x 0x400000FF).cls != 13) = true)
    ∧ (Instr.sctxWr g false).wf = true ∧ ready (.sctxWr g false) g (cu wSup) (sel 0x400000FF (fun w => { w with parkHeld := true })) = true
    ∧ (x 0x400000FF).writable 1 = true
    ∧ ready (.sctxWr g false) g (cu wSup) (sel 0xC0000000) = true ∧ (x 0xC0000000).cls = 12 := by decide +kernel

/-- Its park area is open (R59, R61). -/
theorem witness_SupervisorAccess_park : ParkOpen 0 (svS) ∧ Layable 0 255 (svS (fun w => { w with wait := .svc })) :=
  ⟨parkOpen_at (by decide +kernel) (by decide +kernel) (by decide +kernel) (by decide +kernel), .inl (by decide +kernel)⟩

/-! ### Premises: the command processor and the host die -/

/-- The last page, table, deque and port; a page that is off and one that is on; a port that is up; and the last register that a mask alone governs. -/
theorem witness_RegisterWrites :
    let s := withCp (st wp) [(oGPCTL + 8 * 63, 1), (oDPCFG + 8 * 4095, 1), (oDQ + 32 * 63, 1)]
    s.stop = none ∧ s.cpw (oDPCFG + 8 * 4095) % 2 = 1 ∧ (st wp).cpw (oDPCFG + 8 * 4095) % 2 = 0 ∧ (3#64).toNat % 2 = 1
    ∧ s.portState 63 = 1 ∧ (st wp).portState 63 ≠ 1 ∧ s.dqCfg 63 % 2 = 1 ∧ (st wp).dqCfg 63 % 2 = 0 ∧ plainReg oERCFG = true
    ∧ s.noDark = true ∧ (s.port 94).queue = [] ∧ s.peer = none ∧ (0x10000 : DWord).getLsbD 16 = true
    ∧ ({ s with peer := some s.dev } : State).peer = some s.dev := by decide +kernel

/-- A ring of 16 entries at 0x60000, one command at its HEAD. -/
def sCmd (bs : List Byte) (rs : List (Nat × Nat) := []) : State :=
  let s := withCp (st wp) ([(oCMDCFG, 0x60001), (oCMDPOS, 2 ^ 32)] ++ rs)
  { s with mem := layBytes [] (tabs ++ [(0x60000, bs)]) }
def cmdBytes (op k gen nid a b : Nat) : List Byte := leBytes 8 (op + k * 2 ^ 8 + gen * 2 ^ 16 + nid * 2 ^ 32) ++ leBytes 8 a ++ leBytes 8 b
def cmdIs (k gen nid a b : Nat) : Cmd := ⟨BitVec.ofNat 8 k, BitVec.ofNat 16 gen, BitVec.ofNat 24 nid, BitVec.ofNat 64 a, BitVec.ofNat 64 b⟩

/-- Generation 1's node table at 0x70000: a node it names, one it does not, and one that is registered. -/
theorem witness_Commands :
    let reg (s : State) : State := { s with nodes := [nodeOf 3] }
    let n : State := { (sCmd (cmdBytes 1 0 1 3 0 0) [(oGTAB + 0x10, 0x70002)]) with
      mem := layBytes [] (tabs ++ [(0x60000, cmdBytes 1 0 1 3 0 0), (0x70018, leBytes 8 0x80001)]) }
    (reg (sCmd (cmdBytes 1 0 1 3 0 0))).atHead (.nreg (cmdIs 0 1 3 0 0)) = true
    ∧ ((sCmd (cmdBytes 1 0 1 3 0 0)).atHead (.nreg (cmdIs 0 1 3 0 0)) = true ∧ (sCmd (cmdBytes 1 0 1 3 0 0)).node 1 3 = none
      ∧ (sCmd (cmdBytes 1 0 1 3 0 0)).nodeVA 1 3 = none)
    ∧ (n.atHead (.nreg (cmdIs 0 1 3 0 0)) = true ∧ n.node 1 3 = none ∧ n.nodeVA 1 3 = some 0x80000
      ∧ (match n.xlateCp 1 0x80000 .read with
         | .ok pa leaf => pa == 2 ^ 48 + 0x80000 && aperOf leaf == 0 && (List.range 4).all (fun j => n.open_ (pa + 64 * j) && !n.poisoned (pa + 64 * j))
         | _ => false) = true)
    ∧ (reg (sCmd (cmdBytes 2 0 1 3 0 0))).atHead (.nunreg (cmdIs 0 1 3 0 0)) = true
    ∧ ((sCmd (cmdBytes 3 255 0 0 0 0)).atHead (.keygen (cmdIs 255 0 0 0 0)) = true ∧ (sCmd (cmdBytes 3 255 0 0 0 0)).keyInUse 255 = false)
    ∧ (sCmd (cmdBytes 3 0 0 0 0 0)).atHead (.keygen (cmdIs 0 0 0 0 0)) = true
    ∧ ((sCmd (cmdBytes 4 255 0 0 0 0)).atHead (.keykill (cmdIs 255 0 0 0 0)) = true ∧ (sCmd (cmdBytes 4 255 0 0 0 0)).keyInUse 255 = false)
    ∧ (sCmd (cmdBytes 4 0 0 0 0 0)).atHead (.keykill (cmdIs 0 0 0 0 0)) = true
    ∧ (sCmd (cmdBytes 5 255 0 0 1 0)).atHead (.partset (cmdIs 255 0 0 1 0)) = true ∧ noBits 1 [(63, 16), (8, 2)] = true
    ∧ (sCmd (cmdBytes 5 0 0 0 0 0)).atHead (.partset (cmdIs 0 0 0 0 0)) = true
    ∧ (sCmd (cmdBytes 6 0 0 0 0x1000 0x100000)).atHead (.attest (cmdIs 0 0 0 0x1000 0x100000)) = true
    ∧ (sCmd (cmdBytes 6 0 0 0 (2 ^ 48) 0)).atHead (.attest (cmdIs 0 0 0 (2 ^ 48) 0)) = true
    ∧ (sCmd (cmdBytes 7 0 0 0 0 0)).atHead (.cmdUndefined (cmdIs 0 0 0 0 0)) = true := by decide +kernel

/-- Hart 0 runs a dpst of page 4095 from 0x2000 in the window; the page is on with room for one deposit of generation 1, class 0. -/
def sHart (cfg : Nat) : State :=
  let s := withCp (st wp) [(oDPCFG + 8 * 4095, cfg)]
  { s with
    harts := [{ x := (List.replicate 31 (0 : DWord)).set 10 0x7F0040FFF000 |>.set 11 0x2000 }, {}], cur := some (hartCur 0 0) }

theorem witness_HostDie :
    let on := sHart (2 ^ 48 + 1 + 1 * 2 ^ 4)
    let off := sHart 0
    let u : State := { on with harts := [{ user := true, clupend := 1, cluie := 1, cluitx := 0x80000005, clutvec := 0x40 }] }
    let q := withCp (st wp) [(oUITCFG + 8 * 5, 0x70001)]
    let w : State := { q with uirqs := [(5, 2 ^ 64 - 1, 9)], mem := layBytes [] tabs }
    let vf := sHart (2 ^ 48 + 2 * 2 ^ 38 + 63 * 2 ^ 32 + 1 + 1 * 2 ^ 4)
    let pf := sHart (2 ^ 48 + 1 * 2 ^ 38 + 1 + 1 * 2 ^ 4)
    (on.stop = none ∧ on.runsHart 0 = true ∧ on.source 0x2000 = true ∧ on.calm = true ∧ ringOff on = true
      ∧ (on.hart 0).pa ((on.hart 0).get 12).toNat = 0x2000 ∧ depPage ((on.hart 0).get 11).toNat = some 4095
      ∧ fld (on.cpw (oDPCFG + 8 * 4095)) 39 38 = 0 ∧ on.pageTakes 4095 = true ∧ on.reservation 1 = none)
    ∧ (off.runsHart 0 = true ∧ off.pageTakes 4095 = false)
    ∧ ((u.hart 0).user = true ∧ (u.hart 0).clupend.getLsbD 0 = true ∧ (u.hart 0).cluie.getLsbD 0 = true)
    ∧ (vf.stop = none ∧ vf.barPages (.vf 63) = [4095] ∧ vf.pageTakes 4095 = true ∧ vf.reservation 1 = none)
    ∧ (pf.stop = none ∧ pf.barPages .pf = [4095] ∧ pf.pageTakes 4095 = true ∧ pf.reservation 1 = none)
    ∧ (({ w with cp := [] } : State).still = true ∧ (({ w with cp := [] } : State).cpw (oUITCFG + 8 * 5)).testBit 0 = false)
    ∧ ((w.cpw (oUITCFG + 8 * 5)).testBit 0 = true ∧ w.still = true ∧ w.uitFull 5 = false ∧ w.uirqs.find? (fun q => q.1 == 5) = some (5, 2 ^ 64 - 1, 9)
      ∧ w.open_ (w.uitBase 5 + 16 * 2 ^ w.uitLog 5) = true
      ∧ (List.range (2 ^ w.uitLog 5)).all (fun j => w.open_ (w.uitBase 5 + 16 * j)) = true) := by decide +kernel

/-- A deposit of n records for node 5 of generation 1 (its descriptor lies at 0x80000), on page 4095. -/
def depData (n : Nat) : List Byte := leBytes 8 0x80000 ++ leBytes 8 n ++ leBytes 8 (if n = 0 then 1 else 0) ++ List.replicate 104 0
def sDep (n : Nat) : State :=
  let s := withCp (st wp) [(oGTAB + 0x10, 0x70003), (oDPCFG + 8 * 4095, 2 ^ 48 + 0x3FF000 + 1 + 2 ^ 4), (0x1000 * 4095 + 0x80, 1)]
  { s with
    nodes := [nodeOf 5], depQ := [{ page := 4095, data := depData n, at_ := 0 }], mem := layBytes [] (tabs ++ [(0x70028, leBytes 8 0x80001)]) }

/-- Two records, and none. -/
theorem witness_DepositsBecomeRecords :
    let d (n : Nat) : Dep := { page := 4095, data := depData n, at_ := 0 }
    (∀ n ∈ [0, 2], (sDep n).stop = none ∧ ringOff (sDep n) = true ∧ (sDep n).nextDep = some (d n) ∧ (sDep n).dpCount 4095 = 1)
    ∧ (sDep 2).depOk 1 (depData 2) = true ∧ (sDep 2).depNode 1 0x80000 = some (nodeOf 5) ∧ (sDep 2).servingDies 1 = [0] ∧ (sDep 2).tillRoom 1 0 2 = true
    ∧ (sDep 0).depOk 1 (depData 0) = false ∧ depWord (depData 0) 2 % 64 ≠ 0
    ∧ fld ((sDep 0).cpw (oDPCFG + 8 * 4095)) 21 12 = 0x3FF ∧ (sDep 0).reservation 1 = none := by decide +kernel

/-! ### Premises: the clock and the arrays -/

/-- An exchange before the first lock and after; lock about to be lost for want of one; holdover at 100 ms, said or not, and with a ring of 64
records at 0x90000, the last of which is free. -/
theorem witness_Clock :
    let s := st wp
    let l : State := { withCp (st wp) [(oPTBSTAT, 0x70003)] with ptb := 65000, ptp := { last := 1000 } }
    let h (said : Bool) : State := { st wp with ptb := 100000005, ptp := { hold := some 5, said := said } }
    let r := withCp (h false) [(oERCFG, 0x90001), (oERPOS, 0x3F00000000)]
    let n : State := net s
    (s.stop = none ∧ ringOff s = true ∧ s.dev < 2 ^ 15 ∧ s.noDark = true ∧ s.ptp.ever = false ∧ s.ptp.last = 0)
    ∧ (n.stop = none ∧ ringOff n = true ∧ n.noDark = true ∧ ({ n with nbrs := [(7, 3)] } : State).ptpPick = some (7, 3)
      ∧ ({ n with nbrs := [(9, 4), (7, 3)] } : State).ptpPick ≠ some (9, 4))
    ∧ (l.stop = none ∧ ringOff l = true ∧ l.locked = true ∧ l.ptp.last + 64000 ≤ l.ptb ∧ l.ptp.last ≠ 0)
    ∧ (∀ b ∈ [true, false], (h b).stop = none ∧ (h b).ptp.hold = some 5 ∧ 5 + 100000000 ≤ (h b).ptb ∧ (h b).ptp.said = b ∧ ringOff (h b) = true)
    ∧ (r.stop = none ∧ r.ptp.hold = some 5 ∧ r.ptp.said = false ∧ r.cpw oERCFG % 2 = 1 ∧ 2 ^ (fld (r.cpw oERCFG) 7 4 + 6) = 64
      ∧ fld (r.cpw oERPOS) 63 32 = 63 ∧ fld (r.cpw oERPOS) 31 0 = 0 ∧ fld (r.cpw oERCFG) 55 12 * 2 ^ 12 + 64 * 63 < 2 ^ 48
      ∧ (r.keyDraw 0).isSome = true ∧ r.locExists (0x90000 + 64 * 63) = true ∧ r.mons = []) := by decide +kernel

/-- One hot page, seen 4 times, for a ring of 64 entries at 0x90000 with one place left; the last slice; user warp 0; virtual function 63 with
key 255; a key of no job, and key 0 with no job at all. -/
def sHot : State :=
  let s := withCp (st wp) [(oHPCFG, 4 * 2 ^ 32 + 5), (oHPPCFG, 0x90001), (oHPPPOS, 0x3F00000000)]
  { s with hot := [(1, 2, 7, 4)], ptb := 5000 }
def sVf : State := withCp (st wp) [(oPARTCFG + 8 * 255, 0xFE01)]
theorem witness_Upkeep :
    ((st wp).stop = none ∧ fld ((st wp).cpw oHPCFG) 16 0 = 0)
    ∧ ((withCp sHot [(oHPPCFG, 0)]).stop = none ∧ fld ((withCp sHot [(oHPPCFG, 0)]).cpw oHPCFG) 16 0 = 5 ∧ ((withCp sHot [(oHPPCFG, 0)]).cpw oHPPCFG).testBit 0 = false
      ∧ ((withCp sHot [(oHPPCFG, 0)]).cpw oHPNCFG).testBit 0 = false)
    ∧ (sHot.still = true ∧ fld (sHot.cpw oHPCFG) 16 0 = 5 ∧ sHot.hotAt + 1000 * 5 ≤ sHot.ptb ∧ sHot.hot = [(1, 2, 7, 4)] ∧ fld (sHot.cpw oHPCFG) 63 32 = 4 ∧ (sHot.cpw oHPPCFG).testBit 0 = true
      ∧ (match sHot.xlateFresh false 1 (2 * 65536) with | .ok _ leaf => leaf.testBit 8 == false | _ => false) = true
      ∧ sHot.open_ (0x90000 + 32 * 63) = true ∧ fld (sHot.cpw oHPPPOS) 63 32 = 63 ∧ fld (sHot.cpw oHPPPOS) 31 0 = 0)
    ∧ (st wp).meas.length = 8
    ∧ (511 < (st wp).part.chans ∧ ringOff (st wp) = true ∧ (st wp).ckptCurrent (511 * 256) = false
      ∧ (withCp { st wp with ptb := 9 } [(oCKPT + 8, 2), (oCKPT + 16, 9), (oPATCFG, 1)]).ckptCurrent (511 * 256) = true)
    ∧ (((st wp).core 0).warp? 0 = some wp ∧ wp.stopped = false)
    ∧ (ringOff sVf = true ∧ sVf.mons = [] ∧ (List.range 256).find? (fun k => k != 0 && (sVf.cpw (oPARTCFG + 8 * k)).testBit 9
        && fld (sVf.cpw (oPARTCFG + 8 * k)) 15 10 == 63) = some 255
      ∧ ((List.range 1024).all (fun i => !((sVf.cpw (oGTAB + 64 * i)).testBit 0 && fld (sVf.cpw (oGTAB + 64 * i)) 47 40 == 255))) = true)
    ∧ ((List.range 1024).all (fun i => !((withCp (st wp) [(oGTAB, 0)]).cpw (oGTAB + 64 * i)).testBit 0)) = true
    ∧ ((List.range 1024).all (fun i => !(((st wp).cpw (oGTAB + 64 * i)).testBit 0 && fld ((st wp).cpw (oGTAB + 64 * i)) 47 40 == 255))) = true := by
  decide +kernel

/-! ### Premises: task engines -/

/-- A till of node 5 on die 0. -/
def rec5 : List Byte := mkRec 5 0 9 (List.replicate 56 0)
def till (rs : List TRec) (ready : Option Nat := none) : Till := { gen := 1, nid := 5, die := 0, recs := rs, ready := ready }
def sTills (ts : List Till) (n : NodeReg := nodeOf 5) : State := { st wp with nodes := [n], tills := ts, ptb := 1000000 }
/-- A descriptor with its word at an offset set. -/
def nodeWith (off w : Nat) (n : NodeReg := nodeOf 5) : NodeReg := { n with desc := n.desc.take off ++ leBytes 8 w ++ n.desc.drop (off + 8) }

/-- A record spilled after one that is not; a till that is due by its count, one that is not due, and one that is by its timer; and BG. -/
theorem witness_Tills :
    let a := sTills [till [{ bytes := rec5 }, { bytes := rec5, spilled := true }]]
    (a.onChip 0 = 1 ∧ a.tillsApart ∧ a.running 1 = true ∧ ∃ x ∈ a.tills, x.die = 0 ∧ x.recs.any TRec.spilled = true)
    ∧ (∀ n ∈ [nodeOf 5, nodeWith 0x18 (1 + 255 * 2 ^ 8), nodeWith 0x18 1],
        let s := sTills [till [{ bytes := rec5, age := 0 }]] n
        s.stop = none ∧ s.tillsApart ∧ s.till? 1 5 0 = some (till [{ bytes := rec5, age := 0 }]) ∧ s.node 1 5 = some n ∧ s.running 1 = true)
    ∧ ((sTills [till [{ bytes := rec5 }] (some 0)] (nodeWith 0 0xC0)).till? 1 5 0 = some (till [{ bytes := rec5 }] (some 0))
      ∧ (nodeWith 0 0xC0).prio = 3) := by decide +kernel

/-- 8192 records on chip. -/
theorem witness_Tills_full : 8192 ≤ (sTills [till (List.replicate 8192 { bytes := [] })]).onChip 0 := by decide +kernel

/-- A ready till of a node without regions, for which core 0 has room; one whose budgets no core can give; a group whose staging is done. -/
def sLaunch (n : NodeReg) : State := { sTills [till [{ bytes := rec5 }] (some 0)] n with inst := 7 }
def fits (s : State) : Option (Nat × Nat) :=
  match s.readyTills 0 with
  | (x, n) :: _ => (match s.spots 0 x.gen n with | some [(c, sp)] => some (c, sp.warps.length) | _ => none)
  | [] => none
def sStage : State :=
  let x : Copy := { id := 4, gid := 1, role := 0, index := 0, opc := opStage, mods := 0, target := 0, cpl := .cnt, pieces := [], xfers := [⟨.skip, .skip, 4, true, none, 0, false⟩] }
  { st wp with cores := [{ kc wp with copies := [x] }] }
theorem witness_Launches :
    ((sLaunch (nodeWith 0 0xF000)).stop = none ∧ fits (sLaunch (nodeWith 0 0xF000)) = some (0, 16) ∧ (nodeWith 0 0xF000).clp = false ∧ (nodeWith 0 0xF000).regions = 0
      ∧ freeGid (sLaunch (nodeOf 5)).liveGids (sLaunch (nodeOf 5)).liveGids.length 8 = 8 ∧ 8 ∉ (sLaunch (nodeOf 5)).liveGids)
    ∧ ((sLaunch (nodeWith 0x10 0x810000)).readyTills 0 = [(till [{ bytes := rec5 }] (some 0), nodeWith 0x10 0x810000)]
      ∧ (sLaunch (nodeWith 0x10 0x810000)).spots 0 1 (nodeWith 0x10 0x810000) = none)
    ∧ ((sStage.core 0).copies.length = 1 ∧ (sStage.core 0).phase = .run ∧ ((sStage.core 0).group? 1).isSome = true
      ∧ ∀ x ∈ (sStage.core 0).copies, x.opc = opStage ∧ x.gid = 1 ∧ ∀ f ∈ x.xfers, f.done = true) := by decide +kernel

/-! ### Premises: warps and copies -/

/-- Warp 0 beside warp 1 of the same group. -/
def two (w : Warp) : State := { st w with cores := [{ kc w with warps := [w, { wp with wix := 1, warp := 1 }] }], ptb := 5000 }
def ldOp : Op := { id := 3, kind := .load, fills := [⟨true, 7, [(0, 0xFFFFFFFF), (31, 5)]⟩], w := true, reg := 7 }
def popOp : Op := { id := 6, kind := .pop, fills := [⟨true, 7, [(0, 0xFFFFFFFF), (31, 5)]⟩], pops := [(3, 1)] }
def redOp : Op := { id := 5, kind := .red, cls := some .a, reds := [{ op := .add, ty := .i32, rel := true, sc := .sy, aper := 0, pa := 2 ^ 48 + 0x103C, val := 2 }] }
def parked : Warp := { wp with place := none, since := 1, vBud := 512 }
def wMon : Warp := { wp with wait := .mem 0x80000001 15 .sy, preds := List.replicate 16 0xFFFFFFFF }
def monE : Mon := { pa := 2 ^ 48 + 0x1000, opnd := 0, maskv := 0, dline := 4000, dev := 0, core := 0, wix := 0, gen := 1, cmp := .meq, dw := false, sc := .sy, st := .armed }

/-- A copy of core 0 with one transfer of 8 bytes left. -/
def cpy1 (f : Xfer) : Copy :=
  { id := 9, gid := 1, role := 0, index := 0, opc := 0x1C0, mods := 1, target := 0, cpl := .cnt, started := true, xfers := [⟨.skip, .skip, 4, true, none, 0, false⟩, f]
    pieces := [{ wix := 0, pc := 0x10000, op := 2, empty := false, args := [] }] }
def sCopy (x : Copy) : State :=
  let w : Warp := { wp with ops := [{ id := 2, kind := .copy 9, cls := some .c }, { id := 4, kind := .load }] }
  { st w with mem := layBytes [] (tabs ++ [(0x1000, leBytes 8 0x8081828384858687)]), cores := [{ kc w with copies := [x], sp := SMap.setN [] 8 (leBytes 8 77) }] }

/-- A warp that has waited 2 us for its counters; a parked one that is ready, for the last slice; a yield over and one not; a load for two lanes; the M and A counters; a warp that is
over; the last ring; the power states at their limits; and a monitor of lanes 0 and 31 whose deadline has passed. -/
theorem witness_WarpEvents :
    let a := two { wp with wait := .cnt 0, since := 3000 }
    let b := two parked
    let y := two { wp with wait := .yield 17 }
    let l := two { wp with ops := [ldOp], vE := [(7, 0x80000001)] }
    let m := two { wp with ops := [matOp 0, { matOp 0 with id := 1 }, redOp] }
    let r : State := { two { wp with ops := [{ id := 1, kind := .load }, redOp] } with mem := layBytes [] (tabs ++ [(0x1038, leBytes 8 0x4000000000)]) }
    let x := two { wp with fin := 0xFFFFFFFF }
    let d : State := { two wMon with mons := [monE, { monE with pa := 2 ^ 48 }] }
    (∀ s ∈ [a, b, y, l, m, r, x, d], s.stop = none ∧ s.cores.length = 1 ∧ ((s.core 0).warp? 0).isSome = true)
    ∧ ((a.warp 0 0).wait = .cnt 0 ∧ (a.warp 0 0).since + 2000 = a.ptb ∧ (a.warp 0 0).sup = false ∧ (a.warp 0 0).place ≠ none
      ∧ a.parkFits 0 (a.warp 0 0) = true)
    ∧ ((b.core 0).phase = .run ∧ (b.core 0).warps.filter Warp.parkReady = [parked] ∧ (((b.core 0).room 3).fit 3 parked.vBud parked.aBud).isSome = true)
    ∧ ((y.warp 0 0).wait = .yield 17 ∧ ¬ 17 ≤ y.cycOf 0 (y.warp 0 0))
    ∧ ((l.warp 0 0).ops.find? (fun o => o.id == ldOp.id) = some ldOp ∧ ldOp.kind = .load ∧ ldOp.reqs = [] ∧ ldOp.stopVA = none ∧ ldOp.cls = none ∧ ldOp.pops = []
      ∧ (l.warp 0 0).place.isSome = true
      ∧ ([(0, 0xFFFFFFFF), (31, 5)] : List (Nat × Word)).map Prod.fst = [0, 31])
    ∧ ((m.warp 0 0).ops.filter (fun o => o.cls == some .m) = [matOp 0, { matOp 0 with id := 1 }] ∧ (∀ o ∈ (m.warp 0 0).ops, o.done = false)
      ∧ ((m.warp 0 0).ops.map Op.id).Nodup)
    ∧ ((r.warp 0 0).ops.filter (fun o => o.cls == some .a) = [redOp] ∧ r.still = true ∧ r.open_ (2 ^ 48 + 0x103C) = true ∧ r.poisoned (2 ^ 48 + 0x103C) = false
      ∧ locOf (2 ^ 48 + 0x103C) % 64 + tyBytes .i32 = 64)
    ∧ ((x.warp 0 0).over (x.group 0 1) = true ∧ ((x.core 0).group? 1).isSome = true ∧ (x.core 0).copies = []
      ∧ ∃ u ∈ (x.core 0).warps, u.wix ≠ 0 ∧ u.gid = 1 ∧ u.sup = false)
    ∧ 3 < (a.group 0 1).rings.length ∧ 3 < (a.core 0).slices.length
    ∧ (d.mons[0]? = some monE ∧ monE.late d.ptb = true ∧ (d.warp 0 0).wait = .mem 0x80000001 15 .sy ∧ (∀ x ∈ d.mons, x.spilled = false ∧ x.st ≠ .deferred)
      ∧ d.mons.Nodup ∧ 15 < (d.warp 0 0).preds.length) := by decide +kernel

/-- A warp that has waited 2 us for a register; and one for an entry of the last ring that is committed, and not for the next. -/
theorem witness_WarpEvents_waits :
    let n := two { wp with needs := [[(0, 7, 1)]], vE := [(7, 1)], since := 3000 }
    let q : State := { two { wp with ops := [popOp], vE := [(7, 0x80000001)] } with
      cores := [{ kc wp with warps := [{ wp with ops := [popOp], vE := [(7, 0x80000001)] }], groups := [{ placeGroup with rings := [{}, {}, {}, { tail := 3, commit := 2, head := 3, claimed := [1, 2] }] }] }] }
    (∀ s ∈ [n, q], s.stop = none ∧ s.cores.length = 1 ∧ ((s.core 0).warp? 0).isSome = true)
    ∧ ((n.warp 0 0).wait = .none ∧ (n.warp 0 0).stopped = false ∧ (n.warp 0 0).replay = none ∧ (n.warp 0 0).parkHeld = false ∧ (n.warp 0 0).needs ≠ []
      ∧ (∀ p ∈ (n.warp 0 0).needs, (n.warp 0 0).met p = false) ∧ (n.warp 0 0).since + 2000 = n.ptb ∧ n.parkFits 0 (n.warp 0 0) = true)
    ∧ ((q.warp 0 0).ops.find? (fun o => o.id == popOp.id) = some popOp ∧ (q.warp 0 0).place.isSome = true ∧ ((q.core 0).group? 1).isSome = true
      ∧ 3 < (q.group 0 1).rings.length ∧ ((q.group 0 1).ring 3).arrived 1 = true ∧ ((q.group 0 1).ring 3).arrived 2 = false) := by decide +kernel

/-- Its park area is open (R59). -/
theorem witness_WarpEvents_park (w : Warp) : ParkOpen 0 (two w) := parkOpen_at rfl rfl rfl rfl

/-- A transfer from local HBM, from scratchpad and from a fill to scratchpad 8; a finished copy; and one whose source does not translate. -/
theorem witness_CopyEvents :
    let f (a : CLoc) : Xfer := ⟨a, .sp 0 8, 8, false, none, 0, false⟩
    (∀ a ∈ [CLoc.va 0x1000, .sp 0 16, .fill [1, 2, 3, 4]], let s := sCopy (cpy1 (f a))
        s.stop = none ∧ (s.core 0).copy? 9 = some (cpy1 (f a)) ∧ (s.core 0).copying = true ∧ (cpy1 (f a)).nextXfer = some (1, f a)
        ∧ (s.sourceBytes 0 a 8).isSome = true ∧ s.calm = true ∧ (cpy1 (f a)).faulted = none
        ∧ (cpy1 (f a)).cpl ≠ .bar ∧ (cpy1 (f a)).opc ≠ opStage)
    ∧ ((cpy1 { f .skip with done := true }).finished = true ∧ (cpy1 (f .skip)).cpl = .cnt
      ∧ ((sCopy (cpy1 (f .skip))).warp 0 0).ops.map (fun o => (o.id, o.cls)) = [(2, some .c), (4, none)])
    ∧ let s := sCopy (cpy1 (f (.va 0x10000000000)))
      (match (s.xlate 0 false (s.core 0).gen 0x10000000000 .read).1 with | .bad code _ => code != 1 | _ => false) = true ∧ (s.core 0).copying = true
      ∧ (cpy1 (f (.va 0x10000000000))).nextXfer = some (1, f (.va 0x10000000000))
      ∧ freeEntry (s.core 0) = some 0 ∧ (s.core 0).mbox.length < 64 ∧ noBell 0 s = true := by decide +kernel

/-! ### Premises: switches -/

/-- An entry of the timetable: generation 3, this package in package set 0, core set 0, vaults from 0x4000000. -/
def ent (swt window prep w5 : Nat) : List Byte :=
  leBytes 8 swt ++ leBytes 8 (3 + 9 * 2 ^ 16) ++ leBytes 8 0 ++ leBytes 8 0x4000000 ++ leBytes 8 0 ++ leBytes 8 w5 ++ leBytes 8 (prep + window * 2 ^ 32) ++ leBytes 8 0
/-- 320 cores, the first as y makes it; package set table at 0xA0000, core set 0 is core 0. -/
def sSw (table : List (List Byte)) (y : Core → Core := fun k => k) (n : Nat := 320) : State :=
  let s := withCp (st wp) [(oPSETB, 0xA0000), (oCSET, 1)]
  { s with mem := layBytes [] (tabs ++ [(0xA0000, [1])]), table := table, cores := y (kc wp) :: List.replicate (n - 1) {}, ptb := 10000 }
/-- Core 0 in a phase, on its way to a slot of generation 3. -/
def sPh (ph : SwPh) (y : Core → Core := fun k => k) : State := sSw [] (fun k => y { k with phase := ph, phAt := 4000, swAt := 4000, slot := { gen := 1, swt := 1, vault := 0x2000000 } }) 2

theorem witness_Switching :
    let a := sSw [ent 14000 1 4000 0]
    let b := sSw [ent 0 1000 4000 0]
    let r : State := { sSw [ent 0 1000 4000 1] with preempt := [{ gen := 3, job := 9, t := 0, u := some 10000, on := true }] }
    let o : Op := { id := 1, kind := .load, reqs := [⟨1, 7, 0, []⟩] }
    let d := sPh .drain (fun k => { k with warps := [{ wp with ops := [o] }] })
    let c := { b with cores := [{ kc wp with phase := .clock, phAt := 9000, inc := { b.target 0 with aclk := 1500 } }] }
    let c1 : State := { sSw [ent 0 1000 4000 (1500 * 2 ^ 48)] with cores := c.cores }
    let sup (ph : SwPh) : State := sPh ph (fun k => { k with warps := [wp, { placeWarp true with stopped := true }] })
    (∀ s ∈ [a, b, r, d, c1], s.stop = none ∧ 0 < s.cores.length)
    ∧ (∃ e ∈ a.table, entLcr e = false ∧ a.ptb < entSwt e ∧ entSwt e ≤ a.ptb + fld (entW e 6) 31 0 ∧ a.applies e 0 = true)
    ∧ (b.preempt = [] ∧ b.cores.length = 320 ∧ (b.core 0).phase = .run ∧ (b.core 0).slot.holds (b.target 0) = false
      ∧ (b.core 319).slot.holds (b.target 319) = true)
    ∧ (r.preempt = [{ gen := 3, job := 9, t := 0, u := some 10000, on := true }] ∧ r.cores.length = 320 ∧ r.ptb = 10000)
    ∧ (((sPh .halt).core 0).phase = .halt ∧ ∀ w ∈ ((sPh .halt).core 0).warps, w.ops = [])
    ∧ (((sPh .drain).core 0).phase = .drain ∧ ((sPh .drain).core 0).fabricOps = 0)
    ∧ ((d.core 0).phase = .drain ∧ (d.core 0).slot.direct = false ∧ (d.core 0).fabricOps ≠ 0 ∧ ringOff d = true ∧ (d.core 0).phAt + 6000 = d.ptb
      ∧ ({ d with ptb := 9999 } : State).ptb < (d.core 0).phAt + 6000)
    ∧ ((c1.core 0).phase = .clock ∧ (c1.core 0).phAt + 1000 = c1.ptb ∧ c1.target 0 = (c1.core 0).inc ∧ (c1.core 0).inc.aclk ≠ 0)
    ∧ ∀ ph ∈ [SwPh.run, .halt, .drain, .save, .restore, .clock], ((sup ph).core 0).warps.find? Warp.sup = some { placeWarp true with stopped := true }
        ∧ ((sup ph).core 0).restart = false ∧ ((sup ph).core 0).phase = ph := by decide +kernel

/-- Core 0 saves generation 1 to its vault at 2^25; an idle core; restores of nothing and of what the vault at 2^25 holds. -/
def sRest (job : Nat) : State :=
  let v : Vault := { pa := 0x2000000, core := 0, gen := 1, job := 9, warps := [wp], groups := [placeGroup], sp := [(4, 9)], bars := [0x40], mbox := [⟨1, [], 0, 1⟩], copies := [] }
  let s := sPh .restore (fun k => { k with gen := 0, warps := [placeWarp true], groups := [], inc := { gen := job, job := 9, swt := 5, vault := 0x2000000 } })
  { s with vaults := [v], mem := layBytes [] (tabs ++ [(0x2000000, leBytes 8 (1 + 9 * 2 ^ 16))]) }
theorem witness_SavesAndRestores :
    let a := sPh .save
    let k := a.core 0
    (a.stop = none ∧ k.phase = .save ∧ k.gen = 1 ∧ k.restart = false ∧ a.tills = [] ∧ ringOff a = true ∧ (a.keyDraw (keyOf k.slot.vault)).isSome = true
      ∧ k.slot.vault = 2 ^ 25 ∧ (∀ g ∈ k.groups, g.spBase + g.spBytes ≤ Config.spadBytes)
      ∧ (∀ w ∈ k.warps, w.vBase + w.vBud ≤ 1024 ∧ w.aBase + w.aBud ≤ 128 ∧ (w.place.map (fun p => decide (p.1 < 4 ∧ p.2 < 16))).getD true = true) ∧ a.mons = [])
    ∧ (let i := sPh .save (fun k => { k with gen := 0 })
      (i.core 0).phase = .save ∧ (i.core 0).gen = 0 ∧ (i.target 0).aclk = 0 ∧ (i.core 0).inc.gen = 0)
    ∧ (∀ g ∈ [0, 5, 1], ((sRest g).core 0).phase = .restore ∧ (sRest g).aborted.contains g = false ∧ (sRest g).ptb ≤ ((sRest g).core 0).swAt + 60000
        ∧ (sRest g).tills = [] ∧ (sRest g).held = [] ∧ (sRest g).mons = [])
    ∧ (sRest 5).saved 0 ((sRest 5).core 0).inc = none ∧ ((sRest 1).saved 0 ((sRest 1).core 0).inc).isSome = true
    ∧ (∀ v ∈ (sRest 1).vaults, v.copies = [] ∧ v.heldRecs = [] ∧ (∀ w ∈ v.warps, w.asyncStop = none ∧ w.result = none ∧ ∀ o ∈ w.ops, o.later = [])
      ∧ ∀ g ∈ v.groups, g.started = false ∨ g.children ≠ [] ∨ ∃ w ∈ v.warps, w.sup = false ∧ w.gid = g.gid)
    ∧ ((sRest 1).core 0).heldRecs = [] ∧ ∀ w ∈ ((sRest 1).core 0).warps, w.asyncStop = none ∧ ∀ o ∈ w.ops, o.later = [] := by decide +kernel

/-- Every location of the vault exists. -/
theorem witness_vault (s : State) (h : s.part.chans = 512) (a : Nat) (ha : a < 2 ^ 21) : s.locExists (locOf (2 ^ 25 + a)) = true := by
  have : locOf (2 ^ 25 + a) = 2 ^ 25 + a := Nat.mod_eq_of_lt (by omega)
  rw [this]
  show decide ((2 ^ 25 + a) / 256 < s.part.chans * 5859375) = true
  rw [h, decide_eq_true_eq]
  omega

/-! ### Premises: links -/

/-- A flit with its CRC. -/
def flit (h : Nat) (body : List Byte) : Flit :=
  { hdr := BitVec.ofNat 64 (h + (Flit.crc ⟨BitVec.ofNat 64 h, body⟩).toNat * 2 ^ 32), body := body }
def badCrc : Flit := { hdr := (flit 0 []).hdr ^^^ 0x100000000, body := [] }
/-- A packet of one flit for this package, and the flit that carries it: class 3, hop 4, SLOTRET for pair 19. -/
def pkt0 : Packet := pk 0x18 7 64 (leBytes 8 0x8000000000000001)
def fPkt : Flit := flit (4 + 4 * 2 ^ 6 + 3 * 2 ^ 9 + 19 * 2 ^ 11 + 77 * 2 ^ 16) (pkt0.bytes.take 56)
def fSync : Flit := flit 2 ([2, 2] ++ (List.range 20).flatMap (fun k => leBytes 2 (k + 1)) ++ List.replicate 14 0)
/-- Global port 63 in a state, light and counts as the words say; the links of the group are up. -/
def sPort (st_ : Nat) (y : Port → Port := fun q => q) (stat : Nat := 64) : State :=
  let s := withCp (net (st wp)) [(oGPCTL + 8 * 63, st_), (oGPSTAT + 8 * 63, stat)]
  { s with ports := modNth (List.replicate 95 {}) 94 y, ptb := 2000000000 }

theorem witness_Links :
    let s := net (st wp)
    s.stop = none ∧ s.ports.length = 95
    ∧ (s.portLive 0 = true ∧ (sPort 1).portLive 94 = true ∧ Flit.crcOk badCrc = false ∧ (s.port 0).crcs.length < 999)
    ∧ (Flit.crcOk fPkt = true ∧ fPkt.hdr.getLsbD 1 = false ∧ fld fPkt.hdr.toNat 5 3 = 0 ∧ fPkt.hdr.getLsbD 2 = true ∧ Flit.hop fPkt = 4
      ∧ (Packet.ofBytes fPkt.body).dst.toNat = s.dev ∧ (s.port 30).queue = [] ∧ (s.port 30).rcvd.length = 20 ∧ (s.port 30).freed.length = 20
      ∧ fld fPkt.hdr.toNat 15 11 = 19 ∧ (s.port 30).ret.length = 20)
    ∧ ((s.port 30).ridx < 20 ∧ ∀ v ∈ (s.port 30).freed, v < 2 ^ 16)
    ∧ (Flit.crcOk fSync = true ∧ fSync.hdr.getLsbD 1 = true ∧ fSync.body.headD 0 = 2
      ∧ ∀ j < 7, 7 * (fSync.body.getD 1 0).toNat + j < 20 → leVal ((fSync.body.drop (42 + 2 * j)).take 2) = (s.port 30).rcvd.getD (7 * (fSync.body.getD 1 0).toNat + j) 0)
    ∧ (∀ n < 5, (sPort n).stop = none ∧ (sPort n).ports.length = 95 ∧ (sPort n).portState 63 = n ∧ ringOff (sPort n) = true
        ∧ ((sPort n).port 94).queue = [] ∧ ((sPort n).port 94).marked = false ∧ (sPort n).ports.any (fun x => x.queue.any (cameBy 94)) = false
        ∧ (sPort n).noDark = true)
    ∧ (let q := (sPort 2 (fun q => { q with marked := true, at_ := 1999900000 })).port 94
      q.marked = true ∧ q.farMarked = false ∧ q.at_ + 100000 = 2000000000)
    ∧ ((sPort 3 (fun q => { q with at_ := 999999999 })).port 94).at_ + 1000000000 < (sPort 3).ptb
    ∧ ((sPort 4 (fun q => { q with at_ := 1999980000 })).port 94).at_ + 20000 = (sPort 4).ptb
    ∧ ((s.cpw (portStat 30)).testBit (8 + 7) = true ∧ ringOff s = true ∧ ((st wp).cpw (portStat 30)).testBit (8 + 7) = false
      ∧ (s.part.llanes.getD 30 0).getLsbD 7 = true ∧ s.part.gports.testBit 63 = true)
    ∧ fld ((sPort 1).cpw (oGPSTAT + 8 * 63)) 7 0 = 64 ∧ (sPort 1).part.wlmin = 128 ∧ (sPort 1).portLive (31 + 63) = true ∧ fld ((sPort 1 id 1).cpw (oGPSTAT + 8 * 63)) 7 0 = 1 := by decide +kernel

/-- A block that has been unreported for 500 ns; a packet unacknowledged for 20 us; the SACK of a PSN; an EPOCH; a declared destination; and one that is
to be declared. -/
def sEnd : State := { net (st wp) with ptb := 2000000, srcs := [{ src := 7, done := [65], fresh := [(64, 2, 1999500)], low := none }] }
def sent (p : Packet) (first : Nat) (last : Nat) : Sent := ⟨p.psn.toNat, p, first, last⟩
def sDst (d : Dest) : State := { sEnd with dests := [d] }
def p7 : Packet := { pk 0x01 0 64 with dst := 7, psn := 65 }
theorem witness_EndToEnd :
    let u := sent p7 1900000 1980000
    let a := sDst { dst := 7, unacked := [u] }
    let b := sDst { dst := 7, bad := true, epochAt := 1900000, next := 5 }
    let c := sDst { dst := 7, unacked := [sent p7 1000000 1980000] }
    (sEnd.stop = none ∧ (sEnd.srcOf 7).fresh.find? (fun b => b.1 == 64) = some (64, 2, 1999500))
    ∧ ((a.dest 7).unacked.find? (fun x => x.psn == u.psn) = some u ∧ u.last + 20000 = a.ptb ∧ u.pkt.dst.toNat = 7 ∧ a.dev = 0 ∧ a.pathTo 7 = true)
    ∧ (pkt0.dst.toNat = a.dev ∧ (a.dest pkt0.src.toNat).bad = false ∧ (a.dest 7).waiting = [] ∧ (∀ u ∈ (a.dest 7).unacked, u.pkt.opc.toNat ∉ [0x02, 0x04, 0x06]))
    ∧ (sEnd.srcOf 7).low = none
    ∧ (∀ s ∈ [sEnd, a, b, c], s.stop = none ∧ s.noDark = true ∧ s.dev ≠ 7) ∧ (a.after = [] ∧ a.cpReads = [] ∧ ∀ x ∈ a.places, ∀ w ∈ x.2.2.1, w.unacked = [])
    ∧ ((b.dest 7).bad = true ∧ (b.dest 7).epochAt + 100000 = b.ptb ∧ b.pathTo 7 = true ∧ ((List.range 256).all (fun i => b.escSt i == 0)) = true)
    ∧ ((c.dest 7).bad = false ∧ ringOff c = true ∧ (∃ u ∈ (c.dest 7).unacked, u.first + 1000000 = c.ptb)
      ∧ c.after = [] ∧ (∀ x ∈ c.places, (∀ w ∈ x.2.2.1, w.waitDev ≠ some 7 ∧ w.unacked = [] ∧ w.ops = []) ∧ x.2.2.2 = [])
      ∧ ((List.range 256).all (fun i => c.escSt i == 0 && !c.fbValid i)) = true)
    ∧ ((a.dest 7).noPath = none ∧ ∀ u ∈ (a.dest 7).unacked, a.ptb < u.first + 1000000) := by decide +kernel

/-! ### Premises: packets -/

/-- The machine with a word at 0x1000, and packets of package 7 for it. -/
def sPk : State := { net (sMem wp) with ptb := 3000 }
def mem7 (opc : BitVec 8) (pay : List Byte) : Packet := pk opc 7 (2 ^ 48 + 0x1000) pay 1
/-- ATOM: add.i32 at .sy, lanes at bytes 0 and 60; the whole sector, and bytes 0 and 63, for WR. -/
def ctlAdd : Nat := ctlWord .add .i32 .ar .sy false
def pAtom : Packet := mem7 0x03 (leBytes 8 ctlAdd ++ leBytes 8 0 ++ leBytes 4 1 ++ leBytes 8 60 ++ leBytes 4 5)
def pWr (m : Nat) : Packet := mem7 0x02 (leBytes 8 m ++ (List.range 64).map (fun k => BitVec.ofNat 8 (200 + k)))
def pDec : Packet := pk 0x04 7 0 (leBytes 8 (2 ^ 24 + 4 * 2 ^ 16)) 1
/-- MON for a value of the low word of 0x1000, with the deadline given. -/
def pMon (v dl : Nat) : Packet := mem7 0x05 (leBytes 8 v ++ leBytes 8 0xFFFFFFFF ++ leBytes 8 dl ++ leBytes 8 0 ++ leBytes 8 (2 ^ 32 + 7))

/-- Node 5 takes records of other packages. Barrier 255 allows stealing, and its handler is node 5; package sets 0 are packages 0 and 7. -/
def handler : NodeReg := nodeWith 0 2
def fbRegs (lexp : Nat) : List (Nat × Nat) :=
  [(oPSETB, 0xA0000), (oFBAR + 64 * 255, 3 + 5 * 2 ^ 40), (oFBAR + 64 * 255 + 16, 0x1000), (oFBAR + 64 * 255 + 24, lexp), (oFBAR + 64 * 255 + 48, 2 ^ 63), (oDQ + 32 * 63, 1)]
def sBarP : State :=
  { withCp sPk (fbRegs 1) with
    nodes := [handler], fbars := [{ idx := 255, gen := 1 }], mem := layBytes [] (tabs ++ [(0xA0000, [0x81]), (0x1000, leBytes 8 0)]) }
/-- Deque 63, open to claims, one record; entry 255 of the escrow table holds it for package 7, its completion word at 0x1000. -/
def sClaim (cfg : Nat) : State :=
  let s := withCp sPk [(oPSETB, 0xA0000), (oDQ + 32 * 63, 0x10000 + 16 + cfg), (oDQ + 32 * 63 + 8, 0x1FFFFFFFF + 2 ^ 32 * 0), (oDQ + 32 * 63 + 16, 1)]
  { s with mem := layBytes [] (tabs ++ [(0xA0000, [0x80]), (0x10040, rec5 ++ [])]) }
def sEsc (st_ : Nat) : State :=
  let s := withCp sPk [(escOff 255, 5 * 2 ^ 32 + 63 * 2 ^ 26 + st_ * 2 ^ 24 + 7), (oDQ + 32 * 63 + 16, 1)]
  { s with esc := [{ at_ := 255, gen := 1, rec_ := leBytes 8 5 ++ leBytes 8 0x1000 ++ List.replicate 48 0 }] }
def pEsc (opc : BitVec 8) : Packet := pk opc 7 (63 * 2 ^ 32 + 5) [] 1

/-- A packet that was performed, one beyond the window, one of an aborted generation, and one behind the last fence entry. -/
theorem witness_PacketsOnce :
    let p := mem7 0x01 []
    let a : State := { sPk with srcs := [{ src := 7, done := [0] }] }
    let b : State := { sPk with srcs := [{ src := 7, low := some 64512 }] }
    let c : State := { sPk with aborted := [1] }
    let d := withCp sPk [(oFNCE + 8 * 63, 2 ^ 48 + 7 * 2 ^ 32 + 1)]
    let e : State := { sPk with held := [(1, p)] }
    (∀ s ∈ [a, b, c, d, e], s.stop = none ∧ p.dst.toNat = s.dev ∧ ringOff s = true ∧ s.noDark = true) ∧ ({ p with dst := 1 } : Packet).dst.toNat ≠ sPk.dev
    ∧ (a.srcOf 7).done.contains 0 = true ∧ (b.srcOf 7).low = some 64512 ∧ 1024 ≤ (0 + 2 ^ 16 - 64512) % 2 ^ 16
    ∧ ((c.srcOf 7).done.contains 0 = false ∧ c.keeps 7 0 = false ∧ c.fenced 7 1 = none ∧ c.aborted.contains 1 = true)
    ∧ ((e.srcOf 7).done.contains 0 = false ∧ (e.srcOf 7).low = none ∧ e.keeps 7 0 = true)
    ∧ ((d.srcOf 7).done.contains 0 = false ∧ d.keeps 7 0 = false ∧ (d.fenced 7 1).isSome = true) := by decide +kernel

/-- WR of the first and the last byte; ATOM and RED; a decrement of task 0 to 1; MON at once, by its deadline, and with an entry. -/
theorem witness_MemoryRequests :
    let t := { withCp sPk [(oGTAB + 0x18, 0x800000)] with mem := layBytes [] (tabs ++ [(0x800000, leBytes 8 0x100000002)]) }
    (sPk.unraced { Packet.acc (mem7 0x01 []) with acq := true } (.hbm (2 ^ 48 + 0x1000)) 64 = true)
    ∧ (∀ p ∈ [mem7 0x01 [], pWr (2 ^ 63 + 1), pAtom, pMon 0x84858687 0, pMon 0 2999, pMon 0 0], sPk.accepts p = true ∧ Packet.sec p = 2 ^ 48 + 0x1000)
    ∧ ringOff sPk = true ∧ (sPk.dest 7).bad = false ∧ sPk.open_ (2 ^ 48 + 0x1000) = true ∧ sPk.poisoned (2 ^ 48 + 0x1000) = false ∧ sPk.still = true
    ∧ (pWr (2 ^ 63 + 1)).pay.length = 72
    ∧ (∀ red ∈ [true, false], ctlOf (Packet.word pAtom 0) red = some ⟨.add, .i32, .ar, .sy, false⟩)
    ∧ ((laneEnts pAtom ⟨.add, .i32, .ar, .sy, false⟩) = [⟨0, 1, 0⟩, ⟨60, 5, 0⟩])
    ∧ (t.accepts pDec = true ∧ pDec.pay.length = 8 ∧ Packet.word pDec 0 = 2 ^ 24 + 4 * 2 ^ 16 ∧ t.taskEntry 1 0 = some 0x800000 ∧ leVal (t.peek 0x800000 8) = 0x100000002
      ∧ t.open_ 0x800000 = true ∧ t.calm = true ∧ t.mons = [])
    ∧ (∀ q ∈ [(pMon 0x84858687 0, true, false), (pMon 0 2999, false, true), (pMon 0 0, false, false)],
        (match monOfPacket q.1 with
         | some m => monCond m (leVal (sPk.peek m.pa m.bytes)) == q.2.1 && m.late sPk.ptb == q.2.2 && m.dev == 7 && !sPk.poisoned m.pa && sPk.unraced (sPk.monAcc m) (.hbm m.pa) m.bytes
             && decide (sPk.monTable (sPk.homeSlice (locOf m.pa)) < Config.monEntries)
         | none => false) = true) := by decide +kernel

theorem witness_RecordsAndTiles :
    let r := pk 0x06 7 5 (List.replicate 64 1) 1
    let c := pk 0x07 7 63 [] 1
    let n : State := { sPk with nodes := [handler] }
    let valid (s : State) := (List.range 256).filter s.fbValid
    (n.accepts r = true ∧ ringOff n = true ∧ (n.dest 7).bad = false ∧ n.takesRec 1 5 = true ∧ n.tillRoom 1 (n.msgDie 1 5) 1 = true
      ∧ sPk.takesRec 1 5 = false)
    ∧ (((valid sBarP).find? (fun b => (sBarP.fb b).gen == 1)).or (valid sBarP).head? = some 255 ∧ sBarP.accepts (pk 0x1D 7 0 [] 1) = true
      ∧ fld (sBarP.fbDesc 255 0) 63 40 = 5 ∧ sBarP.takesRec 1 5 = true ∧ sBarP.tillRoom 1 (sBarP.msgDie 1 5) 1 = true)
    ∧ (valid sPk = [] ∧ sPk.accepts (pk 0x1D 7 0 [] 1) = true ∧ ringOff sPk = true)
    ∧ (∀ cfg ∈ [1, 5], (sClaim cfg).accepts c = true ∧ c.addr.toNat % 64 = 63)
    ∧ ((sClaim 1).dqCfg 63).testBit 2 = false
    ∧ (let s := sClaim 5
      (s.dqCfg 63).testBit 0 = true ∧ (s.dqCfg 63).testBit 2 = true ∧ s.inPset (s.cpw (oDQ + 32 * 63 + 24) % 2 ^ 10) 7 = true ∧ s.dqCount 63 ≠ 0
      ∧ (List.range 256).find? (fun i => s.escSt i == 0) = some 0
      ∧ (match s.dqPA 63 (s.dqHead 63) .read with | .ok pa => !s.poisoned pa && s.open_ pa | _ => false) = true ∧ s.calm = true ∧ s.esc = [] ∧ s.ptb < 2 ^ 64)
    ∧ ((sEsc 1).escOf (pEsc 0x08) = some 255 ∧ (sEsc 1).escSt 255 = 1 ∧ (sEsc 1).accepts (pEsc 0x08) = true)
    ∧ ((sEsc 2).escOf (pEsc 0x09) = some 255 ∧ (sEsc 2).escSt 255 ≠ 3 ∧ (sEsc 2).accepts (pEsc 0x09) = true ∧ (sEsc 2).still = true
      ∧ (match (sEsc 2).xlateCp ((sEsc 2).dqGen 63) 0x1000 .write with
         | .ok pa leaf => aperOf leaf == 0 && (sEsc 2).open_ pa && !(sEsc 2).poisoned pa && pa % 8 == 0
         | _ => false) = true) := by decide +kernel

/-- Warp 0 waits under tag 9 for lanes 0 and 31 of register 5 from package 7; warp 0 waits for a WAKE of it. -/
def rq : Req := { tag := 9, dst := 7, pa := 0x1000, lanes := [⟨0, 0, 4, false⟩, ⟨31, 60, 1, true⟩] }
def opOf (k : OpKind) : Op := { id := 4, kind := k, fills := [⟨true, 5, []⟩], reqs := [rq], w := true, reg := 5 }
def sWait (k : OpKind) : State := { net (two { wp with ops := [opOf k], vE := [(5, 0x80000001)] }) with nodes := [nodeOf 5] }
def pRep (opc : BitVec 8) (addr : DWord := 0) : Packet := { pk opc 7 addr (rec5) 1 with tag := 9 }
def sWake : State := two { wMon with waitDev := some 7 }
def pWake : Packet := pk 0x19 7 (2 ^ 32) (leBytes 8 1)
theorem witness_Replies :
    (∀ k ∈ [OpKind.load, .atom, .claim 63 7], let s := sWait k
        s.cores.length = 1 ∧ s.accepts (pRep 0x10) = true ∧ s.waiting 7 9 = some (0, (s.core 0).gen, 0, opOf k)
        ∧ (opOf k).reqs = [rq] ∧ (opOf k).pops = [] ∧ (opOf k).fills = [⟨true, 5, []⟩] ∧ (opOf k).stopVA = none ∧ (opOf k).acc = none
        ∧ (s.warp 0 0).place.isSome = true)
    ∧ ((rq.lanes.map ReqLane.lane).Nodup ∧ ∀ q ∈ rq.lanes, q.lane < 32)
    ∧ (pRep 0x12 (2 ^ 63)).addr.getLsbD 63 = true
    ∧ (let s := sWait (.claim 63 7)
      (pRep 0x12 77).addr.getLsbD 63 = false ∧ s.tillRoom 1 ((s.servingDies 1).getD (77 % (s.servingDies 1).length) 4) 1 = true
      ∧ (s.node 1 (recNid (pRep 0x12 77).pay)).isSome = true ∧ (s.dest 7).bad = false)
    ∧ (ringOff (sWait .load) = true ∧ ((sWait .load).core 0).warp? 0 = some { wp with ops := [opOf .load], vE := [(5, 0x80000001)] })
    ∧ (sWake.accepts pWake = true ∧ (sWake.warp 0 0).place.isSome = true ∧ fld pWake.addr.toNat 23 15 = 0 ∧ fld pWake.addr.toNat 47 32 = (sWake.core 0).gen ∧ fld pWake.addr.toNat 31 24 = 0
      ∧ (sWake.core 0).warp? 0 = some { wMon with waitDev := some 7 } ∧ 15 < wMon.preds.length) := by decide +kernel

/-- Held and applied traffic; an arrival of two members of which the other is missing; a release; a declaration; a withdrawal; an abort of generation 1. -/
theorem witness_BarrierPacketsAndAborts :
    let p (opc : BitVec 8) (v : Nat) (gen : BitVec 16 := 1) : Packet := pk opc 7 255 (leBytes 8 v) gen
    let runs (p : Packet) : Bool := p.gen == 0 || sBarP.running p.gen.toNat
    (∀ q ∈ [p 0x1A 9, p 0x1B 0x200, p 0x1C 1, p 0x1C 2, p 0x23 0, p 0x1A 9 5], sBarP.accepts q = true ∧ q.addr.toNat % 256 = 255)
    ∧ (∀ opc ∈ [0x1A, 0x1B, 0x1C, 0x23], sBarP.accepts (p opc 9 5) = true ∧ runs (p opc 9 5) = false) ∧ runs (p 0x1A 9) = true ∧ ringOff sBarP = true
    ∧ sBarP.fbValid 255 = true
    ∧ ((sBarP.fb 255).withdrawn = [] ∧ (sBarP.fb 255).lost = [] ∧ (sBarP.fb 255).arr = [])
    ∧ (match sBarP.xlateCp (sBarP.fb 255).gen (sBarP.fbDesc 255 2) .write with | .ok pa leaf => aperOf leaf == 0 && sBarP.open_ pa && pa % 8 == 0 | _ => false) = true
    ∧ sBarP.still = true
    ∧ (let q := pk 0x22 7 1
      sPk.accepts q = true ∧ fld q.addr.toNat 31 24 ≠ 2 ∧ q.addr.toNat % 2 ^ 16 = 1 ∧ sPk.grids = [] ∧ sPk.depQ = [] ∧ sPk.fbars = [] ∧ sPk.mons = [] ∧ ringOff sPk = true
      ∧ ((List.range 256).all (fun i => sPk.escSt i == 0)) = true) := by decide +kernel

/-- Packages 0 and 7 are members of package set 0. -/
theorem witness_members : ∀ d ∈ [0, 7], d ∈ sBarP.pset (fld (sBarP.fbDesc 255 1) 9 0) := by
  intro d h
  simp only [State.pset, List.mem_flatMap, List.mem_filterMap]
  refine ⟨0, by decide, d, ?_⟩
  revert d
  decide +kernel

/-- An entry that is accepted; a withdrawal of a reservation; an entry that comes too late; and notices for generation 3, which has a reservation: one
that is new, and one that ends the slot announced. -/
def pTte (e : List Byte) : Packet := pk 0x1E 7 0 e
def sTab (t : List (List Byte)) (pr : List Preempt := []) : State := { withCp (sSw t) [(oGTAB + 64, 3 * 2 ^ 48 + 1)] with preempt := pr }
def pPren (v : Nat) : Packet := pk 0x21 7 (BitVec.ofNat 64 (3 + 9 * 2 ^ 16)) (leBytes 8 v)
theorem witness_Timetable :
    let s := sTab []
    let w := sTab [ent 0 1000 4000 1]
    let q : Preempt := { gen := 3, job := 9, t := 5 }
    let s7 := withCp s [(oPTBSTAT, 7 * 2 ^ 32)]
    (fld (s.cpw oPTBSTAT) 47 32 = 0 ∧ fld (s7.cpw oPTBSTAT) 47 32 = 7 ∧ s7.accepts (pk 0x20 7) = true ∧ ringOff s7 = true)
    ∧ (∀ p ∈ [pTte (ent 14000 1 4000 0), pTte (ent 13999 1 4000 0), pPren 10001, pPren 0, pk 0x20 7], ∀ x ∈ [s, w], x.accepts p = true ∧ ringOff x = true)
    ∧ (s.pruneTable.entryReason (fitBytes 64 (ent 14000 1 4000 0)) = 0 ∧ entWdr (ent 14000 1 4000 0) = false)
    ∧ (w.pruneTable.entryReason (fitBytes 64 (ent 0 1000 4000 3)) = 0 ∧ entWdr (fitBytes 64 (ent 0 1000 4000 3)) = true
      ∧ w.pruneTable.table.find? (withdraws (fitBytes 64 (ent 0 1000 4000 3))) = some (ent 0 1000 4000 1) ∧ w.preempt = [])
    ∧ (s.pruneTable.entryReason (fitBytes 64 (ent 13999 1 4000 0)) = 1 ∧ (s.dest 7).bad = false)
    ∧ (s.reservation 3 = none ∧ (w.reservation 3).isSome = true ∧ (pPren 10001).addr.toNat % 2 ^ 16 = 3)
    ∧ (Packet.word (pPren 0) 0 = 0 ∧ w.ptb < Packet.word (pPren 10001) 0 ∧ (sTab [ent 0 1000 4000 1] [q]).preempt = [q] ∧ q.u = none) := by decide +kernel

/-! ### Premises of further clauses -/

/-- A completion record that is due. -/
theorem witness_StepRunsOthers_completion :
    let s : State := { st wp with agenda := [(3, .completion 5)] }
    s.agenda = [(3, .completion 5)] ∧ (({ s with agenda := [] } : State).elapse 3).noShatus = false := by decide +kernel

/-- A trap bit that an address meets, and one on an instruction that never waits. -/
theorem witness_IssueOrder_waits :
    let w : Warp := { wp with wE := 1 }
    let f : Fmt := { fm (.v 2) (.w 0) (.v 0) with ta := true }
    let i : Instr := .ld f .g .b32 .weak .wp false 0
    iAdd.mayWait = false ∧ i.addressed = true ∧ i.wf = true ∧ (mkCtx (st w) (cu w) i f).blocked (st w) i = false
    ∧ (mkCtx (st w) (cu w) i f).active ≠ 0 ∧ (mkCtx (st w) (cu w) i f).unitFree (st w) i.unit = true
    ∧ (mkCtx (st w) (cu w) i f).trapEmpty (st w) i = some { cls := 1, code := 3, lane := some 0, info := 1 } := by decide +kernel

/-- The root is this package; the phase word of the grid's barrier is not poisoned. -/
theorem witness_GridAndFabricBarriers_own :
    let s := withCp (sFab 1) [(oFBAR + 64 * 255 + 8, 0)]
    let g := fm .none .none .imm .none .l96 255
    ready (.gbarFab g) g (cu wp) s = true ∧ s.fbValid 255 = true ∧ (s.fb 255).noRoot = false ∧ fld (s.fbDesc 255 1) 30 16 = s.dev
    ∧ (s.dest 0).bad = false ∧ (s.dest 0).waiting = [] ∧ (s.dest 0).unacked = [] ∧ s.pathTo 0 = true
    ∧ (sGrid 1).poisoned (2 ^ 48 + 0x1000) = false := by decide +kernel

/-- frep by a warp with no operation outstanding; sctx.wr to a resident warp. -/
theorem witness_SupervisorAccess_held :
    let g := fm .none (.w 12) .zero (.w 10) .l96
    let s : State := { svS with cores := [{ kc wSup with warps := [{ wSup with w := [(10, 1), (12, 0x400000FF)] }, { wp with wix := 255, parkHeld := true }] }] }
    wSup.mayRelease = true ∧ ready (.sctxWr g false) g (cu wSup) s = true ∧ (s.warp 0 255).place.isSome = true := by decide +kernel

/-- The tiles lie where the operand says; nothing is empty in the core's record queue. -/
theorem witness_MatrixProducts_tiles :
    let i : Instr := .mma (fMma (.w 2)) (mods true)
    let c := mkCtx sMat (cu wp) i (fMma (.w 2))
    (match c.tilesAt sMat (c.src sMat (fMma (.w 2)).d 1 c.low) (quarters (mods true).nqm) with
     | .ok sp => sp == [(0, 0, 0), (1, 0, 512), (2, 0, 1024), (3, 0, 1536)]
     | _ => false) = true := by decide +kernel

/-- The count words of tasks are not poisoned; the warps of a matrix operation and of a reduction are resident. -/
theorem witness_counts :
    let t := { withCp sPk [(oGTAB + 0x18, 0x800000)] with mem := layBytes [] (tabs ++ [(0x800000, leBytes 8 0x100000002)]) }
    sTask.poisoned 0x800000 = false ∧ t.poisoned 0x800000 = false ∧ (sPk.dest 7).bad = false
    ∧ ((two { wp with ops := [matOp 0, { matOp 0 with id := 1 }, redOp] }).warp 0 0).place.isSome = true
    ∧ sEnd.esc = [] ∧ (sDst { dst := 7 }).esc = [] := by decide +kernel

/-- Without Shatus; without the CP's firmware, a packet that it would apply and one that it would not; below all that was reported. -/
theorem witness_images :
    let p := mem7 0x01 []
    let b : State := { sPk with srcs := [{ src := 7, low := some 64512 }] }
    let n : State := { sPk with noCp := true, noShatus := true }
    let d : State := { sPk with srcs := [{ src := 7, done := [0] }] }
    n.noShatus = true ∧ (st wp).noShatus = false ∧ n.noCp = true ∧ byCp 0x1B = true ∧ byCp p.opc.toNat = false ∧ sPk.noCp = false
    ∧ (b.srcOf 7).slid < (64512 + 2 ^ 16 - 0) % 2 ^ 16 ∧ (sPk.srcOf 7).bars 0 = false ∧ (d.srcOf 7).bars 0 = false := by decide +kernel

/-! Completion records -/

/-- A deposit that breaks R253, with a place for its completion record. -/
def depBad : List Byte := leBytes 8 0x80000 ++ leBytes 8 0 ++ leBytes 8 0x1000 ++ leBytes 8 3 ++ leBytes 8 4 ++ List.replicate 88 0
def sDepBad : State := { sDep 0 with depQ := [{ page := 4095, data := depBad, at_ := 0 }] }
/-- A grid of the page that retired 50 ns ago. -/
def gEnded : Grid := { id := 5, gen := 1, page := some 4095, dep := depBad, recs := 1, at_ := 0, retired := some 100, launched := 3 }
def sEnded : State := { sDep 0 with depQ := [], grids := [gEnded], ptb := 147, agenda := [(3, .completion 5)] }
/-- The translation of a place for a completion record: its address, where it is open in local HBM. -/
def recordPlace (s : State) : Option Nat :=
  match s.xlateCp 1 0x1000 .write with
  | .ok pa leaf => if aperOf leaf = 0 && s.open_ pa then some pa else none
  | _ => none

theorem witness_DepositsBecomeRecords_completion :
    let s0 := ({ sEnded with agenda := [] } : State).elapse 3
    (sDepBad.nextDep = some { page := 4095, data := depBad, at_ := 0 } ∧ sDepBad.depOk 1 depBad = false ∧ depWord depBad 2 = 0x1000 ∧ sDepBad.still = true
      ∧ recordPlace sDepBad = some (2 ^ 48 + 0x1000) ∧ sDepBad.reservation 1 = none)
    ∧ s0.still = true ∧ s0.grids.find? (fun x => x.id == 5) = some gEnded ∧ 100 + 50 = s0.ptb ∧ recordPlace s0 = some (2 ^ 48 + 0x1000)
    ∧ s0.reservation 1 = none ∧ fld (s0.cpw (oDPCFG + 8 * 4095)) 21 12 = 0x3FF := by decide +kernel

/-- Its bytes are none of the tables. -/
theorem witness_recordApart : sDepBad.recordApart 1 0x1000 3 4 0 0 0 ∧ (({ sEnded with agenda := [] } : State).elapse 3).recordApart 1 0x1000 3 4 0 100 3 :=
  ⟨by unfold State.recordApart; decide +kernel, by unfold State.recordApart; decide +kernel⟩

/-! Partitions -/

/-- A partition whose only generation is g is idle when nothing is left of g that its abort could lose. -/
theorem partIdle_one (s : State) (k g : Nat) (hm : s.mons = [])
    (he : ((List.range 256).all (fun i => s.escSt i == 0)) = true)
    (ht : ((List.range 1024).all (fun i => !((s.cpw (oGTAB + 64 * i)).testBit 0 && fld (s.cpw (oGTAB + 64 * i)) 47 40 == k)
      || fld (s.cpw (oGTAB + 64 * i)) 63 48 == g)) = true)
    (h0 : g ≠ 0) (hl : s.lossy g = []) (hg : s.grids = []) (hd : s.depQ = []) (hf : s.fbars = []) : s.partIdle k := by
  refine ⟨fun i hi => by simpa using List.all_eq_true.mp he i (List.mem_range.mpr hi), fun m h => by (rw [hm] at h; cases h), ?_⟩
  rintro _ ⟨i, hi, hv, hk, rfl⟩
  have hgi : fld (s.cpw (oGTAB + 64 * i)) 63 48 = g := by
    have := List.all_eq_true.mp ht i (List.mem_range.mpr hi)
    simpa [hv, hk] using this
  rw [hgi]
  exact ⟨h0, hl, fun x h => by (rw [hg] at h; cases h), fun x h => by (rw [hd] at h; cases h), fun x h => by (rw [hf] at h; cases h)⟩

/-- Generation 1 of partition 255, whose barrier a PARTSET of V = 0 aborts. -/
def sPart : State := sCmd (cmdBytes 5 255 0 0 0 0) [(oGTAB, 2 ^ 48 + 255 * 2 ^ 40 + 1), (oPARTCFG + 8 * 255, 0xFE01)]
theorem witness_partIdle : sPart.atHead (.partset (cmdIs 255 0 0 0 0)) = true ∧ sPart.partIdle 255 ∧ (sPart.inPart 255 1) :=
  ⟨by decide +kernel, partIdle_one _ _ 1 (by decide +kernel) (by decide +kernel) (by decide +kernel) (by decide) (by decide +kernel) (by decide +kernel)
    (by decide +kernel) (by decide +kernel), 0, by decide +kernel⟩

/-- The generation of a till and of an entry of the fault buffer. -/
theorem witness_partIdle_arrays : (st wp).partOf 1 = 0 ∧ (st wp).partIdle 0 ∧ (svS (y := fun k => { k with fbuf := [fe] })).partIdle 0 ∧ ringOff (st wp) = true
    ∧ ((svS (y := fun k => { k with fbuf := [fe] })).core 0).fbuf.find? (fun e => e.idx == 2) = some fe ∧ fe.gen ≠ 0
    ∧ (svS (y := fun k => { k with fbuf := [fe] })).partOf fe.gen = 0 :=
  ⟨by decide +kernel, partIdle_one _ _ 1 (by decide +kernel) (by decide +kernel) (by decide +kernel) (by decide) (by decide +kernel) (by decide +kernel)
    (by decide +kernel) (by decide +kernel), partIdle_one _ _ 1 (by decide +kernel) (by decide +kernel) (by decide +kernel) (by decide) (by decide +kernel)
    (by decide +kernel) (by decide +kernel) (by decide +kernel), by decide +kernel⟩

/-- NREG of a descriptor of which a sector is poisoned, and of one that does not translate. -/
theorem witness_Commands_nreg :
    let n (va : Nat) : State := { (sCmd (cmdBytes 1 0 1 3 0 0) [(oGTAB + 0x10, 0x70002)]) with
      mem := layBytes [] (tabs ++ [(0x60000, cmdBytes 1 0 1 3 0 0), (0x70018, leBytes 8 (va + 1))]) }
    let p : State := { n 0x80000 with poison := [0x800C0 / 64] }
    let i : Instr := .nreg (cmdIs 0 1 3 0 0)
    p.atHead i = true ∧ p.nodeVA 1 3 = some 0x80000 ∧ (match p.xlateCp 1 0x80000 .read with | .ok pa leaf => pa == 2 ^ 48 + 0x80000 && aperOf leaf == 0 | _ => false) = true
    ∧ p.poisoned (2 ^ 48 + 0x80000 + 64 * 3) = true ∧ p.node 1 3 = none
    ∧ (n (2 ^ 40)).atHead i = true ∧ (n (2 ^ 40)).nodeVA 1 3 = some (2 ^ 40) ∧ (n (2 ^ 40)).node 1 3 = none
    ∧ (match (n (2 ^ 40)).xlateCp 1 (2 ^ 40) .read with | .ok _ _ => false | _ => true) = true := by decide +kernel

/-! Errors in arrays -/

/-- An armed entry of a warp here, of lanes 0 and 31, and one of package 7. -/
def sMonL : State := two wMon
def mArr (dev : Nat) : Mon := { monE with dev := dev, dline := 0 }
/-- Two groups that hold 64 bytes each, the second without a warp. -/
def sSpad : State :=
  let s := two wp
  { s with cores := [{ s.core 0 with groups := [{ placeGroup with spBytes := 64 }, { placeGroup with gid := 2, spBase := 64, spBytes := 64 }], sp := [(8, 1), (64, 7)] }] }
theorem witness_Upkeep_arrays :
    let l : State := { sMonL with mons := [mArr 0] }
    let r : State := { net (st wp) with mons := [mArr 7] }
    let k := l.homeSlice (locOf monE.pa)
    (l.mons.filter (fun m => l.homeSlice (locOf m.pa) == k))[0]? = some (mArr 0) ∧ (r.mons.filter (fun m => r.homeSlice (locOf m.pa) == k))[0]? = some (mArr 7)
    ∧ (l.stop = none ∧ ringOff l = true ∧ (l.core 0).warp? 0 = some wMon ∧ wMon.wait = .mem 0x80000001 15 .sy ∧ wMon.stopped = false ∧ wMon.replay = none
      ∧ 15 < wMon.preds.length ∧ (l.core 0).gen = 1 ∧ ∀ m ∈ l.mons, m.spilled = false ∧ m.st ≠ .deferred)
    ∧ (r.stop = none ∧ ringOff r = true ∧ (mArr 7).ack = none ∧ r.noDark = true ∧ (r.dest 7).bad = false)
    ∧ (511 < (st wp).part.chans ∧ ((st wp).core 0).warp? 9 = none ∧ (st wp).noShatus = false)
    ∧ (sSpad.stop = none ∧ ringOff sSpad = true ∧ 0 < sSpad.cores.length
      ∧ (sSpad.core 0).groups.find? (fun g => decide (g.spBase ≤ 64) && decide (64 < g.spBase + g.spBytes)) = some { placeGroup with gid := 2, spBase := 64, spBytes := 64 }
      ∧ (sSpad.core 0).groups.find? (fun g => decide (g.spBase ≤ 128) && decide (128 < g.spBase + g.spBytes)) = none
      ∧ (sSpad.core 0).warps.all (fun w => !w.sup && w.gid == 1 && !w.stopped) = true ∧ ((sSpad.core 0).warps.map Warp.wix).Nodup) := by decide +kernel

/-! Copies -/

/-- A copy of core 0 whose last transfer is f, in a machine with links and a listed object at 0x40. -/
def sCpy1 (f : Xfer) (y : Copy → Copy := fun x => x) : State :=
  let s := sCopy (y (cpy1 f))
  net { s with cores := [{ s.core 0 with bars := [0x40], sp := SMap.setN (s.core 0).sp 0x40 (Bar.enc ⟨1, 1, 8, false, 0⟩) }] }
/-- A place in the fourth 256 GiB, which is package 7's. -/
def peerVA : Nat := 3 * 2 ^ 38 + 0x1000
/-- The translation of an address for a copy of core 0: the aperture and the package. -/
def copyPlace (s : State) (a : Nat) (k : AKind) : Nat × Nat × Bool :=
  match (s.xlate 0 false 1 a k).1 with
  | .ok pa leaf => (aperOf leaf, devOf leaf, s.open_ pa)
  | _ => (9, 0, false)
/-- Transfers to scratchpad with a posting, to local HBM, to a peer and from one. -/
theorem witness_CopyEvents_places :
    let x (s d : CLoc) : Xfer := ⟨s, d, 8, false, none, 0, false⟩
    let yb (x : Copy) : Copy := { x with cpl := .bar, target := 0x40 }
    (∀ p ∈ [(x (.va 0x1000) (.sp 0 8), true), (x (.va 0x1000) (.va 0x2038), false), (x (.va 0x1000) (.va peerVA), false), (x (.va peerVA) (.sp 0 8), false)],
      let y (z : Copy) := if p.2 then yb z else z
      let s := sCpy1 p.1 y
      let z := y (cpy1 p.1)
      s.stop = none ∧ (s.core 0).copy? 9 = some z ∧ z.started = true ∧ z.faulted = none ∧ (s.core 0).copying = true ∧ z.nextXfer = some (1, p.1)
      ∧ s.trails 0 z p.1 = false ∧ z.opc ≠ opStage ∧ s.calm = true ∧ s.noDark = true ∧ s.mons = [] ∧ (s.dest 7).bad = false)
    ∧ (let s := sCpy1 (x (.va 0x1000) (.sp 0 8)) yb
      (s.sourceBytes 0 (.va 0x1000) 8).isSome = true ∧ s.spadAt 0 1 0x40 = some (0, 0x40) ∧ s.listed 0 0x40 = true)
    ∧ (let s := sCpy1 (x (.va 0x1000) (.va 0x2038))
      copyPlace (s.sourceRead 0 (.va 0x1000)) 0x2038 .write = (0, 0, true) ∧ locOf (2 ^ 48 + 0x2038) % 64 + 8 = 64)
    ∧ (let s := sCpy1 (x (.va 0x1000) (.va peerVA))
      copyPlace (s.sourceRead 0 (.va 0x1000)) peerVA .write = (1, 7, true))
    ∧ copyPlace (sCpy1 (x (.va peerVA) (.sp 0 8))) peerVA .read = (1, 7, true) := by decide +kernel

/-- Of a transfer within scratchpad 16 to 24 and 8 to 16, the bytes read are apart from those written. -/
theorem witness_readsApart : (sCopy (cpy1 ⟨.sp 0 16, .sp 0 8, 8, false, none, 0, false⟩)).readsApart 0 (cpy1 ⟨.sp 0 16, .sp 0 8, 8, false, none, 0, false⟩) := by
  intro g hg h hh a b ha hb
  simp only [cpy1, List.mem_cons, List.not_mem_nil, or_false] at hg hh
  rcases hg with rfl | rfl <;> rcases hh with rfl | rfl <;> simp_all [State.sideAt]
  subst ha hb
  decide

/-- Task completion at package 7, of the greatest task, and here. -/
theorem witness_CopyEvents_tasks :
    let f : Xfer := ⟨.skip, .skip, 8, true, none, 0, false⟩
    let y (n : Nat) (x : Copy) : Copy := { x with cpl := .task, target := n }
    let r := sCpy1 f (y (2 ^ 31 + 7 * 2 ^ 16 + 65535))
    let l := { withCp (sCpy1 f (y 3)) [(oGTAB + 0x18, 0x800000)] with mem := layBytes [] (tabs ++ [(0x800000 + 3 * 128, leBytes 8 0x100000002)]) }
    (y 3 (cpy1 f)).finished = true ∧ (2 ^ 31 + 7 * 2 ^ 16 + 65535 : Nat).testBit 31 = true ∧ r.noDark = true ∧ (r.dest 7).bad = false
    ∧ l.taskEntry 1 3 = some (0x800000 + 3 * 128) ∧ l.poisoned (0x800000 + 3 * 128) = false ∧ leVal (l.peek (0x800000 + 3 * 128) 8) = 0x100000002
    ∧ l.open_ (0x800000 + 3 * 128) = true ∧ l.calm = true ∧ l.mons = [] := by decide +kernel

/-! Links, barriers and the timetable -/

/-- A warp alone on its slice. -/
theorem witness_alone : (kc wp).alone wp 1 0 := fun _ hu hn => absurd (List.mem_singleton.mp hu) hn

/-- The last group of pairs has sent 65,535 in its last pair, of which none has come. -/
def fLost : Flit := flit (2 + 31 * 2 ^ 11) ([2, 2] ++ (List.range 20).flatMap (fun k => leBytes 2 (k + 1)) ++ (List.range 7).flatMap (fun j => leBytes 2 (if j = 5 then 65535 else 0)))
theorem witness_Links_lost :
    let s := sPort 1
    let q := s.port 94
    let lost (j : Nat) : Nat := (leVal ((fLost.body.drop (42 + 2 * j)).take 2) + 2 ^ 16 - q.rcvd.getD (14 + j) 0) % 2 ^ 16
    s.portLive 94 = true ∧ Flit.crcOk fLost = true ∧ fLost.hdr.getLsbD 1 = true ∧ fLost.body.headD 0 = 2 ∧ (fLost.body.getD 1 0).toNat = 2 ∧ q.queue = []
    ∧ ringOff s = true ∧ q.rcvd.length = 20 ∧ q.freed.length = 20 ∧ (List.range 6).map lost = [0, 0, 0, 0, 0, 65535]
    ∧ fld fLost.hdr.toNat 15 11 = 31 := by decide +kernel

/-- A claim with the escrow table full; of a record that does not translate, one that is poisoned, and one behind a poisoned table. -/
theorem witness_RecordsAndTiles_nothing :
    let c := pk 0x07 7 63 [] 1
    let full : State := withCp (sClaim 5) ((List.range 256).map (fun i => (escOff i, 2 ^ 24)))
    let un : State := withCp (sClaim 5) [(oDQ + 32 * 63, 0x10000000000 + 16 + 5)]
    let po : State := { sClaim 5 with poison := [0x10040 / 64] }
    let pt : State := { sClaim 5 with poison := [(placeRoot + 0x4000) / 64] }
    let pa (s : State) : Nat × Nat := match s.dqPA 63 (s.dqHead 63) .read with | .ok pa => (0, pa) | .error e => (1, if e.1 then 1 else 0)
    (∀ s ∈ [full, un, po, pt], s.accepts c = true ∧ ringOff s = true ∧ (s.dest 7).bad = false ∧ (s.dqCfg 63).testBit 0 = true ∧ (s.dqCfg 63).testBit 2 = true
      ∧ s.inPset (s.cpw (oDQ + 32 * 63 + 24) % 2 ^ 10) 7 = true ∧ s.dqCount 63 ≠ 0)
    ∧ (List.range 256).find? (fun i => full.escSt i == 0) = none ∧ (∀ s ∈ [un, po, pt], (List.range 256).find? (fun i => s.escSt i == 0) = some 0)
    ∧ pa un = (1, 0) ∧ pa po = (0, 2 ^ 48 + 0x10040) ∧ po.poisoned (2 ^ 48 + 0x10040) = true ∧ pa pt = (1, 1) := by decide +kernel

/-- Members 0, whose arrival comes, and 7, which is withdrawn; the episode record lies at srva, or nowhere. -/
def sEpi (srva : Nat) : State :=
  { withCp sBarP [(oFBAR + 64 * 255, 1), (oFBAR + 64 * 255 + 32, srva)] with fbars := [{ idx := 255, gen := 1, epi := 63, withdrawn := [7] }] }
def pEpi : Packet := pk 0x1A 0 255 (leBytes 8 6400) 1
def wEpi : List (Nat × List Byte) := episodeWords 63 6400 [(0, 0), (7, 0xFFFF)]

/-- A package set whose first 64 bytes are bs and whose others are zero. -/
theorem pset_first (s : State) (p : Nat) (bs : List Byte)
    (h : ((List.range 64).all (fun k => s.peek (fld (s.cpw oPSETB) 55 12 * 2 ^ 12 + 4096 * p + 64 * k) 64 == if k = 0 then bs else List.replicate 64 0)) = true) :
    s.pset p = (List.range 512).filterMap (fun b => if (bs.getD (b / 8) 0).getLsbD (b % 8) then some b else none) := by
  have at_ (k : Nat) (hk : k < 64) := eq_of_beq (List.all_eq_true.mp h k (List.mem_range.mpr hk))
  have none_ (b : Nat) : ((List.replicate 64 (0 : Byte)).getD (b / 8) 0).getLsbD (b % 8) = false := by
    have : (List.replicate 64 (0 : Byte)).getD (b / 8) 0 = 0 := by
      rw [List.getD_eq_getElem?_getD, List.getElem?_replicate]
      split <;> rfl
    rw [this]
    simp
  unfold State.pset
  rw [show List.range 64 = 0 :: (List.range 63).map Nat.succ from List.range_succ_eq_map, List.flatMap_cons]
  have rest : ((List.range 63).map Nat.succ).flatMap (fun k => (List.range 512).filterMap (fun b =>
      if ((s.peek (fld (s.cpw oPSETB) 55 12 * 2 ^ 12 + 4096 * p + 64 * k) 64).getD (b / 8) 0).getLsbD (b % 8) then some (512 * k + b) else none)) = [] := by
    rw [List.flatMap_eq_nil_iff]
    intro k hk
    obtain ⟨j, hj, rfl⟩ := List.mem_map.mp hk
    rw [at_ (j + 1) (by have := List.mem_range.mp hj; omega), if_neg (Nat.succ_ne_zero j), List.filterMap_eq_nil_iff]
    intro b _
    rw [none_ b]
    rfl
  rw [show ∀ (f : Nat → List Nat), f = (fun k => (List.range 512).filterMap (fun b =>
      if ((s.peek (fld (s.cpw oPSETB) 55 12 * 2 ^ 12 + 4096 * p + 64 * k) 64).getD (b / 8) 0).getLsbD (b % 8) then some (512 * k + b) else none)) →
      ((List.range 63).map Nat.succ).flatMap f = [] from fun f hf => hf ▸ rest]
  · rw [List.append_nil, at_ 0 (by decide), if_pos rfl]
    simp only [Nat.mul_zero, Nat.zero_add]
  · rfl

/-- Package set 0 of the barrier is packages 0 and 7. -/
theorem pset_epi (v : Nat) (h : v = 0 ∨ v = 0x2000) : (sEpi v).pset 0 = [0, 7] := by
  rcases h with rfl | rfl <;> rw [pset_first _ 0 (0x81 :: List.replicate 63 0) (by decide +kernel)] <;> decide +kernel
theorem witness_BarrierPacketsAndAborts_episode :
    (∀ v ∈ [0, 0x2000], let s := sEpi v
      s.accepts pEpi = true ∧ ringOff s = true ∧ s.running 1 = true ∧ s.fbValid 255 = true ∧ fld (s.fbDesc 255 1) 9 0 = 0 ∧ (s.fb 255).arr = []
      ∧ (s.fb 255).gen = 1 ∧ (s.fb 255).withdrawn = [7] ∧ (s.fb 255).lost = []
      ∧ leVal (pEpi.pay.take 8) = 6400 ∧ s.fbDesc 255 4 = v ∧ s.memberSen 255 0 = false ∧ (s.dest 0).bad = false)
    ∧ (sEpi 0x2000).still = true ∧ sBarP.poisoned (2 ^ 48 + 0x1000) = false ∧ sPk.lossy 1 = [] := by decide +kernel

/-- The member that counts is package 0 (R233, R531). -/
theorem witness_fbLive (v : Nat) (h : v = 0 ∨ v = 0x2000) : (sEpi v).fbLive 255 = [0] := by
  have hp := pset_epi v h
  rcases h with rfl | rfl <;>
    rw [State.fbLive, show fld ((sEpi _).fbDesc 255 1) 9 0 = 0 from by decide +kernel, hp] <;> decide +kernel

/-- Where the writes of an episode record go, each after those before it. -/
def epiPlaces : List (Nat × Nat × Bool) :=
  (List.range wEpi.length).map (fun j =>
    match ((wEpi.take j).foldl (fun (t : State) x => t.jobStore 1 (0x2000 + x.1) { who := .cp, strong := true, sc := .sy, rel := true } x.2) (sEpi 0x2000)).xlateCp 1
        (0x2000 + (wEpi.getD j (0, [])).1) .write with
    | .ok pa leaf => (pa, aperOf leaf, (sEpi 0x2000).open_ pa)
    | _ => (0, 9, false))
theorem witness_recordAt : epiPlaces = wEpi.map (fun w => (2 ^ 48 + 0x2000 + w.1, 0, true)) ∧ (2 ^ 48 + 0x2000) % 64 = 0 := by decide +kernel

/-- Notices of pre-emption to a CP whose firmware does not run, of the source that announced the slot, and of another. -/
theorem witness_Timetable_notices :
    let w := sTab [ent 0 1000 4000 1]
    let q : Preempt := { gen := 3, job := 9, t := 5, src := 7 }
    let n : State := { w with noCp := true }
    n.noCp = true ∧ w.noCp = false ∧ w.stop = none ∧ w.noDark = true ∧ (pPren 10001).dst.toNat = w.dev ∧ (pPren 10001).src.toNat = 7 ∧ q.src = 7 ∧ q.u = none
    ∧ (w.reservation 3).isSome = true ∧ ({ q with src := 8 } : Preempt).src ≠ 7 ∧ (net w).pathTo 7 = true := by decide +kernel

/-- R35, R92: a warp that binds q0 for pops from ring 0 completes once that ring is closed, and not while it has no entry. -/
theorem test_popBoundHoldsCompletion :
    let w : Warp := { wp with fin := 0xFFFFFFFF, qb := 8 }
    let g : Group := (st w).group 0 1
    w.over { g with rings := [{}] } = false ∧ w.over { g with rings := [{ closeAt := some 0 }] } = true := by decide +kernel

end Sys2Proof.Tests
end

section
namespace Sys2Proof.Machine

/-! ### A slice's cycle whose first candidate issues (R37 to R42, R45) -/

/-- A change of a warp that keeps its mode keeps the mode in which its bytes are decoded. -/
theorem State.sup_updWarp (s : State) (c wix : Nat) (f : Warp → Warp) (hf : ∀ w, (f w).wix = w.wix) (hs : ∀ w, (f w).sup = w.sup) :
    ((s.updWarp c wix f).warp c wix).sup = (s.warp c wix).sup := by
  cases hw : (s.core c).warp? wix with
  | some w => rw [State.warp_updWarp s c wix f hf (by simp [hw]), hs]
  | none =>
    have hn : ((s.updWarp c wix f).core c).warp? wix = none := by
      simpa [hw] using State.warp?_updWarp_isSome s c wix c wix f hf
    simp only [State.warp, hw, hn]

/-- R298 to R300: a fetch whose block decodes to an instruction, and needs no word of the next block, gives the path that instruction. -/
theorem State.fetch_of_unit {s s1 : State} {c wix : Nat} {ls : Mask} {pc : DWord} {bs ib : List Byte} {size : Nat} {i : Instr} (fuel : Nat)
    (hb : s.fetchBlock c wix (pc.toNat / 32 * 32) = (.ok (some bs), s1)) (h28 : pc.toNat % 32 ≠ 28)
    (hd : decodeBlock (s.warp c wix).sup bs 0 (pc.toNat % 32) = .unit size ib (.ok i)) :
    s.fetch c wix ls (fuel + 1) pc = (.instr { core := c, wix := wix, pc := pc, lanes := ls, size := size, ib := ib } i, s1) := by
  simp only [State.fetch, State.fetchAt, hb, State.fetchNext, h28, decide_false, Bool.false_and, Bool.false_eq_true, if_false]
  rw [hd]

/-- What follows the issue of the first path of a warp: the second's (R39, R40), and what the issue leaves (R42). -/
def afterFirst (c wix cyc : Nat) (avoid : Option Nat) (f : Fetched) (p : DWord × Mask) (ps : List (DWord × Mask)) (u : State) :
    Host.Outcome State Fault Refusal :=
  let u1 := u.dropFetched c wix
  match ps with
  | [] => .next { u1.noteIssue c wix (p :: ps) p.2 cyc with issued := true }
  | q :: _ =>
    match issueSecond c wix avoid f q u1 with
    | .next v => .next { v.noteIssue c wix (p :: ps) (if v.issued then p.2 ||| q.2 else p.2) cyc with issued := true }
    | o => o

section
variable {s s1 : State} {c sl wix cyc : Nat} {avoid : Option Nat} {p : DWord × Mask} {ps : List (DWord × Mask)} {cu : Cur} {i : Instr}

/-- A first path that faults the model faults the warp's try. -/
theorem issuePaths_fault {all : List (DWord × Mask)} {r : Fault} (hf : s.fetch c wix p.2 8 p.1 = (.instr cu i, s1))
    (ha : avoid ≠ some i.unit) (he : exec i { s1 with cur := some cu, issued := false } = .fault r) :
    issuePaths c sl wix cyc avoid all (p :: ps) s = .fault r := by
  simp [issuePaths, hf, ha, issueFetched, he]

/-- A first path that issues ends the warp's try, with the second path beside it or without (R39, R40). -/
theorem issuePaths_next {u : State} (hf : s.fetch c wix p.2 8 p.1 = (.instr cu i, s1)) (ha : avoid ≠ some i.unit)
    (he : exec i { s1 with cur := some cu, issued := false } = .next u) (hu : u.issued = true) :
    issuePaths c sl wix cyc avoid (p :: ps) (p :: ps) s = afterFirst c wix cyc avoid (.instr cu i) p ps u := by
  simp only [issuePaths, hf, issueFetched, he, hu, beq_eq_false_iff_ne.mpr ha]
  rfl

end

/-- The end of a slice's cycle in which the first candidate's try answered o. -/
def cycleAfter (c sl wix : Nat) (ws : List Nat) (s0 : State) : Host.Outcome State Fault Refusal → Host.Outcome State Fault Refusal
  | .next u => .next (cycleEnd c sl wix ws s0 u)
  | o => o

/-- What follows the issue of a first path is an issue, or ends the step. -/
theorem afterFirst_issued {c wix cyc : Nat} {avoid : Option Nat} {f : Fetched} {p : DWord × Mask} {ps : List (DWord × Mask)} {u v : State}
    (h : afterFirst c wix cyc avoid f p ps u = .next v) : v.issued = true := by
  unfold afterFirst at h
  cases ps with
  | nil => cases h; rfl
  | cons q qs =>
    simp only at h
    split at h
    · cases h; rfl
    · next o ho => exact absurd h (ho v)

/-- The cycle of a slice whose first candidate issues, or ends the step (R39, R45). -/
theorem sliceTurn_first {s : State} {c sl wix : Nat} {ws : List Nat} (o : Host.Outcome State Fault Refusal)
    (hb : (s.tickSlice c sl).booted = true) (hc : (s.tickSlice c sl).candidates c sl = wix :: ws)
    (ht : tryWarp c sl wix ((s.tickSlice c sl).slice c sl).cyc
      (((s.tickSlice c sl).kept c sl).bind (fun k => if k.1 == wix then none else some k.2)) (s.tickSlice c sl) = o)
    (ho : ∀ u, o = .next u → u.issued = true) :
    sliceTurn c sl s = cycleAfter c sl wix ws (s.tickSlice c sl) o := by
  have hturn : sliceTurn c sl s = issueWarps c sl ((s.tickSlice c sl).slice c sl).cyc ((s.tickSlice c sl).slice c sl).busy
      ((s.tickSlice c sl).kept c sl) [] (wix :: ws) (s.tickSlice c sl) := by
    simp [sliceTurn, hb, hc]
  rw [hturn, issueWarps, ht]
  clear ht
  cases o with
  | next u => simp only [ho u rfl, if_true]; rfl
  | fault r => rfl
  | refused r => rfl

/-- Settles O3: the first candidate's first path is fetched, is not barred, and issues; what follows is the second path's issue and the end of the
cycle. -/
theorem stepRunsDecoded : Obligations.StepRunsDecoded := by
  unfold Obligations.StepRunsDecoded
  intro s s1 dt c sl wix rest ws p ps bs ib size i hag s0 hboot hcand hrank hkept hblk h28 hdec cu cyc avoid
  have hsup := State.sup_updWarp s0 c wix (fun w => { w with needs := [] }) (fun _ => rfl) (fun _ => rfl)
  have hf := State.fetch_of_unit (ls := p.2) 7 hblk h28 (hsup ▸ hdec)
  have ha : avoid ≠ some i.unit := by
    intro h
    obtain ⟨k, hk, hu⟩ := Option.bind_eq_some_iff.mp h
    split at hu
    · cases hu
    · next hne => exact (hkept k hk).elim (fun h1 => hne (beq_iff_eq.mpr h1)) (fun h1 => h1 (Option.some.inj hu))
  have htry : tryWarp c sl wix cyc avoid s0
      = issuePaths c sl wix cyc avoid (p :: ps) (p :: ps) (s0.updWarp c wix (fun w => { w with needs := [] })) := by
    rw [tryWarp, hrank]
  have hstep : step s = sliceTurn c sl (({ s with agenda := rest } : State).elapse dt) := by
    simp only [step, hag, perform]
  rw [hstep]
  refine ⟨fun r he => ?_, fun u he hu => ?_⟩
  · exact sliceTurn_first _ hboot hcand (htry.trans (issuePaths_fault hf ha he)) (fun u h => by cases h)
  · rw [sliceTurn_first _ hboot hcand (htry.trans (issuePaths_next hf ha he hu)) (fun v h => afterFirst_issued h)]
    cases ps with
    | nil => rfl
    | cons q qs =>
      simp only [afterFirst]
      cases issueSecond c wix avoid (.instr cu i) q (u.dropFetched c wix) <;> rfl

end Sys2Proof.Machine
end

section
namespace Sys2Proof.Machine

/-! ### Two warps of one admission index park together (R58, R59) -/

/-- An event ends in the next state only where nothing has stopped the model, and then in the state that it left. -/
theorem State.eq_of_out_next {s t : State} (h : s.out = .next t) : t = s := by
  unfold State.out at h
  split at h
  · cases h
  · exact (Host.Outcome.next.inj h).symm

/-- A warp that has waited 2 µs for an operation of the matrix unit, and has no v register and no tile. -/
def twin : Warp :=
  { wix := 0, gid := 1, warp := 0, vBud := 0, wBud := 0, aBud := 0, pcs := 8 :: List.replicate 31 0, preds := List.replicate 16 0
    ops := [matOp 0], wait := .cnt 0, since := 1, place := some (1, 0) }

/-- Eight parked warps whose records (R60) leave 2,048 bytes of the park area: room for the record of one twin. -/
def fillers : List Warp :=
  (List.range 7).map (fun i => { twin with wix := i + 1, warp := i + 1, vBud := 512, aBud := 128, place := none, parkAt := 135168 * i })
    ++ [{ twin with wix := 8, warp := 8, vBud := 256, aBud := 126, place := none, parkAt := 946176 }]

/-- A core whose park area is the first MiB of local HBM, and on which two warps have admission index 0. -/
def twins : State :=
  { ptb := 2001, keys := [(0, 1)]
    cores := [{ gen := 1, warps := fillers ++ [twin, { twin with warp := 9, place := some (1, 1) }]
                groups := [{ emptyGroup with gid := 1, gen := 1, nWarps := 10, started := true }] }] }

/-- The park area of that core is open. -/
theorem twins_parkOpen : ParkOpen 0 twins where
  key := by decide
  base := by decide
  here a ha := by
    have hloc : locOf (twins.parkArea 0 + a) = a := by
      show (0 + a) % 2 ^ 48 = a
      omega
    rw [hloc]
    show decide (a / 256 < 512 * 5859375) = true
    rw [decide_eq_true_eq]
    omega
  mons m h := by cases h

set_option maxRecDepth 10000 in
/-- The second record lies beyond the park area: the first PC of the second warp stands where the area has ended. -/
theorem twins_parked_beyond : (twins.parkWarp 0 0).peek (2 ^ 20) 1 = [8] := by decide +kernel

/-- Refutes O49, in its first clause: nothing there says that the warps of a core have admission indices of their own (R58). Where two warps have
one index, both park as the first times out, while R59's test has counted the record of one: that of the other is laid beyond the park area. -/
theorem not_warpEvents : ¬ Obligations.WarpEvents := by
  unfold Obligations.WarpEvents
  intro h
  obtain ⟨hpark, -⟩ := h twins 0 0 twin rfl (by decide) (by decide)
  have hparks : twin.parks := ⟨rfl, rfl, .inl ⟨0, rfl⟩⟩
  obtain ⟨t, hrun, -, hout, -⟩ := hpark hparks (by decide) (by decide) rfl (by decide) (by decide) twins_parkOpen
  have hexec : exec (.warpParkTimeout 0 0) twins = (twins.parkWarp 0 0).out := rfl
  have ht : t = twins.parkWarp 0 0 := State.eq_of_out_next (hexec.symm.trans hrun)
  have hsame := hout (2 ^ 20) (by decide)
  rw [ht, twins_parked_beyond] at hsame
  exact absurd hsame (by decide)

end Sys2Proof.Machine
end

section
namespace Sys2Proof.Machine

/-! ### The tills of a package, by their keys (R75 to R77, R81) -/

theorem modNth_zero {α : Type} (x : α) (l : List α) (f : α → α) : modNth (x :: l) 0 f = f x :: l := rfl

theorem modNth_succ {α : Type} (x : α) (l : List α) (k : Nat) (f : α → α) : modNth (x :: l) (k + 1) f = x :: modNth l k f := by
  simp only [modNth, List.getElem?_cons_succ]
  split <;> rfl

/-- A change that a map does not see, of one entry of a list. -/
theorem map_modNth {α β : Type} (l : List α) (k : Nat) {f : α → α} {g : α → β} (h : ∀ x, g (f x) = g x) :
    (modNth l k f).map g = l.map g := by
  apply List.ext_getElem?
  intro j
  simp only [List.getElem?_map, modNth_getElem?]
  split
  · simp [Option.map_map, Function.comp_def, h]
  · rfl

/-- What a till is known by. -/
def Till.key (t : Till) : Nat × Nat × Nat := (t.gen, t.nid, t.die)

/-- A change of the tills of one key. -/
def State.updTill (s : State) (gen nid die : Nat) (f : Till → Till) : State :=
  { s with tills := s.tills.map (fun (t : Till) => if t.gen == gen && t.nid == nid && t.die == die then f t else t) }

/-- The till of a key after a change of the tills of one key. -/
theorem State.till?_updTill (s : State) (gen nid die : Nat) {f : Till → Till} (hf : ∀ t, (f t).key = t.key) (g d e : Nat) :
    (s.updTill gen nid die f).till? g d e = if g = gen ∧ d = nid ∧ e = die then (s.till? g d e).map f else s.till? g d e := by
  have hkey : ∀ t : Till, (f t).gen = t.gen ∧ (f t).nid = t.nid ∧ (f t).die = t.die := fun t => by
    simpa [Till.key] using hf t
  simp only [State.till?, State.updTill]
  induction s.tills with
  | nil => simp
  | cons x l ih =>
    obtain ⟨hg, hn, hd⟩ := hkey x
    by_cases hx : (x.gen == gen && x.nid == nid && x.die == die) = true
    · simp only [List.map_cons, List.find?_cons, if_pos hx, hg, hn, hd, ih]
      simp only [Bool.and_eq_true, beq_iff_eq] at hx
      obtain ⟨⟨rfl, rfl⟩, rfl⟩ := hx
      split
      · next h => simp only [Bool.and_eq_true, beq_iff_eq] at h; simp [h.1.1.symm, h.1.2.symm, h.2.symm]
      · rfl
    · simp only [List.map_cons, List.find?_cons, if_neg hx, ih]
      split
      · next h =>
        rw [if_neg]
        rintro ⟨rfl, rfl, rfl⟩
        exact hx h
      · rfl

/-- The records of a till that a die holds on chip (R76). -/
def Till.chipped (die : Nat) (t : Till) : Nat := (t.recs.filter (fun r => !r.spilled && tillDie t r == die)).length

theorem State.onChip_eq_sum (s : State) (die : Nat) : s.onChip die = (s.tills.map (Till.chipped die)).sum := by
  have h : ∀ (l : List Till) (n : Nat),
      l.foldl (fun n t => n + (t.recs.filter (fun r => !r.spilled && tillDie t r == die)).length) n = n + (l.map (Till.chipped die)).sum := by
    intro l
    induction l with
    | nil => intro n; rfl
    | cons t l ih => intro n; simp only [List.foldl_cons, List.map_cons, List.sum_cons, ih, Till.chipped]; omega
  exact (h s.tills 0).trans (Nat.zero_add _)

/-- Where no two tills have one key, a change that puts one record more of a till on chip puts one more of the die there. -/
theorem State.onChip_updTill (s : State) (c : Nat) {x : Till} {f : Till → Till} (hapart : s.tillsApart) (hx : x ∈ s.tills)
    (hf : (f x).chipped c = x.chipped c + 1) : (s.updTill x.gen x.nid x.die f).onChip c = s.onChip c + 1 := by
  simp only [State.onChip_eq_sum, State.updTill]
  simp only [State.tillsApart] at hapart
  revert hapart hx
  induction s.tills with
  | nil => intro _ hx; cases hx
  | cons y l ih =>
    intro hapart hx
    obtain ⟨hnot, hl⟩ := List.nodup_cons.mp hapart
    rcases List.mem_cons.mp hx with rfl | hx
    · have hrest : l.map (fun (t : Till) => if t.gen == x.gen && t.nid == x.nid && t.die == x.die then f t else t) = l := by
        refine (List.map_congr_left fun t ht => if_neg fun h => ?_).trans (List.map_id' l)
        simp only [Bool.and_eq_true, beq_iff_eq] at h
        exact hnot (List.mem_map.mpr ⟨t, ht, by simp [h.1.1, h.1.2, h.2]⟩)
      simp only [List.map_cons, hrest, BEq.rfl, Bool.and_self, if_true, List.sum_cons, hf]
      omega
    · have hy : (y.gen == x.gen && y.nid == x.nid && y.die == x.die) = false := by
        rw [Bool.eq_false_iff]
        intro h
        simp only [Bool.and_eq_true, beq_iff_eq] at h
        exact hnot (List.mem_map.mpr ⟨x, hx, by simp [h.1.1, h.1.2, h.2]⟩)
      have := ih hl hx
      simp only [List.map_cons, hy, Bool.false_eq_true, if_false, List.sum_cons] at this ⊢
      omega

/-- A till whose first spilled record has come back on chip (R76). -/
def Till.backed (t : Till) : Till := { t with recs := modNth t.recs (t.recs.findIdx TRec.spilled) (fun (r : TRec) => { r with spilled := false }) }

theorem Till.chipped_backed {t : Till} {die : Nat} (hd : t.die = die) (h4 : die < 4) (h : t.recs.any TRec.spilled = true) :
    t.backed.chipped die = t.chipped die + 1 := by
  have hdie : ∀ (u : Till) (r : TRec), u.die = t.die → (tillDie u r == die) = true := fun u r hu => by
    simp only [tillDie, hu, hd, if_neg (by omega : ¬ die = 4), BEq.rfl]
  have key : ∀ l : List TRec, l.any TRec.spilled = true →
      ((modNth l (l.findIdx TRec.spilled) (fun (r : TRec) => { r with spilled := false })).filter (fun r => !r.spilled)).length
        = (l.filter (fun r => !r.spilled)).length + 1 := by
    intro l
    induction l with
    | nil => intro h; cases h
    | cons r l ih =>
      intro h
      cases hr : r.spilled with
      | true => simp [List.findIdx_cons, hr, modNth_zero]
      | false =>
        have := ih (by simpa [hr] using h)
        simp [List.findIdx_cons, hr, modNth_succ, this]
  have hb : ∀ r, (tillDie t.backed r == die) = true := fun r => hdie _ _ rfl
  simp only [Till.chipped, hb, hdie t _ rfl, Bool.and_true]
  exact key t.recs h

/-- A choice that is made entry by entry falls on an entry of the list, where it has one. -/
theorem foldl_pick {α : Type} {pick : Option α → α → Option α} (h0 : ∀ x, pick none x = some x)
    (h1 : ∀ y x, pick (some y) x = some x ∨ pick (some y) x = some y) {l : List α} (hl : l ≠ []) : ∃ x ∈ l, l.foldl pick none = some x := by
  have h : ∀ (l : List α) (y : α), ∃ x ∈ y :: l, l.foldl pick (some y) = some x := by
    intro l
    induction l with
    | nil => exact fun y => ⟨y, List.mem_singleton_self y, rfl⟩
    | cons z l ih =>
      intro y
      rw [List.foldl_cons]
      rcases h1 y z with e | e <;> rw [e]
      · obtain ⟨x, hx, hf⟩ := ih z
        exact ⟨x, List.mem_cons_of_mem _ hx, hf⟩
      · obtain ⟨x, hx, hf⟩ := ih y
        exact ⟨x, List.mem_cons.mpr ((List.mem_cons.mp hx).imp_right (List.mem_cons_of_mem _)), hf⟩
  cases l with
  | nil => exact absurd rfl hl
  | cons y l => simpa only [List.foldl_cons, h0] using h l y

/-- R76: where the die has room, a spilled record of a running generation's till comes back. -/
theorem execTillSpillReturn_back {s : State} {die : Nat} (hroom : s.onChip die < 8192)
    (h : ∃ x ∈ s.tills, x.die = die ∧ s.running x.gen = true ∧ x.recs.any TRec.spilled = true) :
    ∃ x ∈ s.tills, x.die = die ∧ x.recs.any TRec.spilled = true
      ∧ execTillSpillReturn die s = .next (s.updTill x.gen x.nid x.die Till.backed) := by
  obtain ⟨x, hx, rfl, hrun, hsp⟩ := h
  let firsts := (s.tills.filter (fun t => t.die == x.die && s.running t.gen)).filterMap (fun t =>
    (t.recs.find? TRec.spilled).map (fun r => (t.gen, t.nid, r.age)))
  have hne : firsts ≠ [] := by
    obtain ⟨r, hr⟩ := Option.isSome_iff_exists.mp (List.find?_isSome.mpr (List.any_eq_true.mp hsp))
    exact List.ne_nil_of_mem (List.mem_filterMap.mpr ⟨x, List.mem_filter.mpr ⟨hx, by simp [hrun]⟩, by rw [hr]; rfl⟩)
  simp only [execTillSpillReturn]
  generalize hold : List.foldl _ none _ = oldest
  obtain ⟨y, hy, rfl⟩ : ∃ y ∈ firsts, oldest = some y := by
    rw [← hold]
    refine foldl_pick (fun _ => rfl) (fun y x => ?_) hne
    by_cases h : y.2.2 < x.2.2
    · exact .inl (if_pos h)
    · exact .inr (if_neg h)
  obtain ⟨t, ht, hty⟩ := List.mem_filterMap.mp hy
  obtain ⟨ht, htd⟩ := List.mem_filter.mp ht
  simp only [Bool.and_eq_true, beq_iff_eq] at htd
  obtain ⟨r, hr, rfl⟩ := Option.map_eq_some_iff.mp hty
  refine ⟨t, ht, htd.1, List.any_eq_true.mpr ⟨r, List.mem_of_find?_eq_some hr, List.find?_some hr⟩, ?_⟩
  rw [htd.1]
  exact if_neg (by omega)

/-- A till that has been examined at a time (R77). -/
def Till.examined (n : NodeReg) (ptb : Nat) (t : Till) : Till :=
  if t.ready.isNone then { t with ready := (t.readyFor n).map (fun a => ptb - a) } else t

theorem State.examine_eq_updTill (s : State) {gen nid die : Nat} {n : NodeReg} (hd : die ≠ 4) (hn : s.node gen nid = some n) :
    s.examine gen nid die = s.updTill gen nid die (Till.examined n s.ptb) := by
  simp only [State.examine, if_neg hd, State.updTill, hn]
  congr 1
  apply List.map_congr_left
  intro t _
  cases hk : (t.gen == gen && t.nid == nid && t.die == die) <;> cases ht : t.ready.isNone <;> simp [Till.examined, ht]

/-- R77: a till is ready by its count, or by the age of its oldest record. -/
theorem Till.readyFor_isSome (t : Till) (n : NodeReg) :
    (t.readyFor n).isSome = true ↔ n.coal ≤ t.recs.length ∨ ∃ r, t.recs.head? = some r ∧ n.timer ≤ r.age := by
  have hcount : ((t.recs[n.coal - 1]?).map TRec.age).isSome = true ↔ n.coal ≤ t.recs.length := by
    have hcoal : 0 < n.coal := Nat.succ_pos _
    rw [Option.isSome_map, isSome_getElem?]
    omega
  have hage : (t.recs.head?.bind (fun r => if n.timer ≤ r.age then some (r.age - n.timer) else none)).isSome = true
      ↔ ∃ r, t.recs.head? = some r ∧ n.timer ≤ r.age := by
    cases t.recs.head? with
    | none => simp
    | some r => by_cases h : n.timer ≤ r.age <;> simp [h]
  rw [← hcount, ← hage, Till.readyFor]
  split
  · next hx hy => simp [hx, hy]
  · exact Bool.eq_iff_iff.mp (Option.isSome_or) |>.trans (Bool.or_eq_true_iff)

/-- The event of a till's timer examines the till while its generation runs (R77). -/
theorem exec_tillTimerExpiry {s : State} {gen nid die : Nat} {n : NodeReg} (hstop : s.stop = none) (hd : die < 4)
    (hn : s.node gen nid = some n) (hr : s.running gen = true) :
    exec (.tillTimerExpiry gen nid die) s = .next (s.updTill gen nid die (Till.examined n s.ptb)) := by
  have hout : (s.updTill gen nid die (Till.examined n s.ptb)).stop = none := hstop
  show (if s.running gen then s.examine gen nid die else s).out = _
  rw [if_pos hr, State.examine_eq_updTill s (by omega) hn]
  simp only [State.out, hout]

/-- A till that may rank as NORM now (R81). -/
def Till.risen (n : NodeReg) (ptb : Nat) (t : Till) : Till :=
  match t.ready with
  | some r => if n.prio = 3 && r + 1000000 ≤ ptb then { t with promoted := true } else t
  | none => t

theorem exec_bgPromotion {s : State} {gen nid die : Nat} {n : NodeReg} (hn : s.node gen nid = some n) :
    exec (.bgPromotion gen nid die) s = .next (s.updTill gen nid die (Till.risen n s.ptb)) := by
  show execBgPromotion gen nid die s = _
  simp only [execBgPromotion, State.updTill, hn]
  congr 3
  funext t
  cases hr : t.ready <;> simp [Till.risen, hr]

/-- Settles O47: each event changes the tills of one key, and of these no record's bytes. -/
theorem tills : Obligations.Tills := by
  unfold Obligations.Tills
  intro s die
  refine ⟨fun hd hroom hapart hex => ?_, fun hfull => ?_, fun gen nid x n hstop hd hapart hx hn hrun hready => ?_,
    fun gen nid x n r hx hn hprio hready hlate => ?_⟩
  · obtain ⟨x, hx, hxd, hsp, hexec⟩ := execTillSpillReturn_back hroom hex
    refine ⟨_, hexec, rfl, State.onChip_updTill s die hapart hx (Till.chipped_backed hxd hd hsp), ?_⟩
    simp only [State.updTill, List.map_map]
    refine List.map_congr_left fun t _ => ?_
    simp only [Function.comp]
    split
    · simp only [Till.backed]
      congr 1
      exact map_modNth _ _ fun _ => rfl
    · rfl
  · show execTillSpillReturn die s = _
    simp only [execTillSpillReturn, if_pos hfull]
    split <;> rfl
  · have hkey : ∀ t, (Till.examined n s.ptb t).key = t.key := fun t => by unfold Till.examined; split <;> rfl
    refine ⟨_, (x.readyFor n).map (fun a => s.ptb - a), exec_tillTimerExpiry hstop hd hn hrun, rfl, ?_, ?_, fun g d e hne => ?_⟩
    · rw [State.till?_updTill s gen nid die hkey, if_pos ⟨rfl, rfl, rfl⟩, hx]
      simp [Till.examined, hready]
    · rw [Option.isSome_map, Till.readyFor_isSome]
    · rw [State.till?_updTill s gen nid die hkey, if_neg (by tauto)]
  · have hkey : ∀ t, (Till.risen n s.ptb t).key = t.key := fun t => by unfold Till.risen; split <;> (try split) <;> rfl
    refine ⟨_, exec_bgPromotion hn, rfl, ?_, fun g d e hne => ?_⟩
    · rw [State.till?_updTill s gen nid die hkey, if_pos ⟨rfl, rfl, rfl⟩, hx]
      simp [Till.risen, hready, hprio, hlate]
    · rw [State.till?_updTill s gen nid die hkey, if_neg (by tauto)]

end Sys2Proof.Machine
end

section
namespace Sys2Proof.Machine

/-! ### A group of a core -/

/-- A core that has a group is one of the machine's. -/
theorem State.core_lt_of_group {s : State} {c gid : Nat} (h : ((s.core c).group? gid).isSome = true) : c < s.cores.length := by
  by_contra hc
  simp [State.core, List.getElem?_eq_none (by omega : s.cores.length ≤ c), Core.group?] at h

/-- The group after a change of it. -/
theorem State.group_updGroup {s : State} {c gid : Nat} {f : Group → Group} (hf : ∀ g, (f g).gid = g.gid)
    (h : ((s.core c).group? gid).isSome = true) : (s.updGroup c gid f).group c gid = f (s.group c gid) := by
  have hkey : (fun g : Group => g.gid == gid) ∘ (fun (g : Group) => if g.gid == gid then f g else g) = fun g => g.gid == gid := by
    funext g
    simp only [Function.comp]
    split
    · rw [hf]
    · rfl
  obtain ⟨g, hg⟩ := Option.isSome_iff_exists.mp h
  have hfind : (s.core c).groups.find? (fun g => g.gid == gid) = some g := hg
  simp only [State.group, State.updGroup, State.core_updCore, State.core_lt_of_group h, and_self, if_true, Core.group?, List.find?_map, hkey, hfind,
    Option.map_some, Option.getD_some, if_pos (List.find?_some hg)]

/-! ### Launch of a group (R53, R74, R79 to R83, R85, R86, R91) -/

/-- The start of a group changes the group, and what its warps know (R86). -/
theorem State.startGroup_eq (s : State) (c gid : Nat) :
    s.startGroup c gid = { s.updGroup c gid (fun g => { g with started := true }) with hb := (s.startGroup c gid).hb } := by
  have h : ∀ (ws : List Warp) (u : State),
      ws.foldl (fun (t : State) w => { t with hb := t.hb.pass (.stage c gid) (.warp c w.wix) }) u
        = { u with hb := (ws.foldl (fun (t : State) w => { t with hb := t.hb.pass (.stage c gid) (.warp c w.wix) }) u).hb } := by
    intro ws
    induction ws with
    | nil => exact fun u => rfl
    | cons w ws ih => exact fun u => by rw [List.foldl_cons, ih]
  exact h _ _

/-- The core of a group that starts. -/
theorem State.core_startGroup (s : State) (c gid k : Nat) :
    (s.startGroup c gid).core k = if c = k ∧ k < s.cores.length then
      { s.core k with groups := (s.core k).groups.map (fun g => if g.gid == gid then { g with started := true } else g) } else s.core k := by
  rw [State.startGroup_eq]
  exact State.core_updCore s c k _

/-- The group that a launch puts on a core (R79, R91). -/
def State.newGroup (s : State) (n : NodeReg) (recs : List TRec) (gid : Nat) (clp : Option (List (Nat × Nat))) (x : Spot) : Group :=
  { gid := gid, gen := n.gen, nid := n.nid, desc := n.desc, depth := recDepth (recs.headD { bytes := [] }).bytes, recs := recs.map TRec.bytes
    launch := s.ptb, spBase := x.sp, spBytes := n.spad, nWarps := n.warps.length, rings := List.replicate 4 {}, clp := clp, provs := recs.map TRec.prov }

/-- Its warps (R53, R58). -/
def State.newWarps (s : State) (n : NodeReg) (gid c : Nat) (x : Spot) : List Warp :=
  ((List.range n.warps.length).zip (n.warps.zip (x.warps.zip x.wixs))).map (fun p =>
    newWarp gid p.1 p.2.2.2 p.2.1 p.2.2.1 ((s.core c).slices.getD p.2.2.1.1 {}).cyc)

theorem State.newWarps_length (s : State) (n : NodeReg) (gid c : Nat) (x : Spot) :
    (s.newWarps n gid c x).length = min n.warps.length (min x.warps.length x.wixs.length) := by
  simp [State.newWarps]

/-- Warp k of a group as it is created. -/
theorem State.newWarps_getElem? (s : State) (n : NodeReg) (gid c : Nat) (x : Spot) {k : Nat} (hk : k < (s.newWarps n gid c x).length) :
    ∃ place age, (s.newWarps n gid c x)[k]? = some (newWarp gid k (x.wixs.getD k 0) (n.warps.getD k (0, (0, 0, 0), 0)) place age) := by
  have hlen := hk
  rw [State.newWarps_length] at hlen
  have hn : k < n.warps.length := by omega
  have hp : k < x.warps.length := by omega
  have hw : k < x.wixs.length := by omega
  refine ⟨x.warps[k], ((s.core c).slices.getD x.warps[k].1 {}).cyc, ?_⟩
  simp [State.newWarps, hn, hp, hw]

theorem newWarp_fresh (gid i wix : Nat) (x : DWord × (Nat × Nat × Nat) × Word) (place : Nat × Nat × Nat × Nat) (age : Nat) :
    (newWarp gid i wix x place age).fresh := ⟨rfl, rfl, rfl, rfl, rfl, rfl, rfl⟩

section
variable {s : State} {n : NodeReg} {recs : List TRec} {gid c : Nat} {clp : Option (List (Nat × Nat))} {x : Spot}

/-- Putting a group on a core changes the core, and what is known. -/
theorem State.place_eq (hr : n.regions = 0) :
    s.place n recs gid clp c x = { s with cores := (s.place n recs gid clp c x).cores, hb := (s.place n recs gid clp c x).hb } := by
  simp only [State.place, if_pos hr]
  rw [State.startGroup_eq]
  rfl

/-- The core on which a group without regions is put: it has the group, which has started, and its warps. -/
theorem State.core_place (hr : n.regions = 0) (hc : c < s.cores.length) (hg : ∀ g ∈ (s.core c).groups, g.gid ≠ gid) :
    (s.place n recs gid clp c x).core c = { s.core c with
      groups := (s.core c).groups ++ [{ s.newGroup n recs gid clp x with started := true }], warps := (s.core c).warps ++ s.newWarps n gid c x
      nextId := (s.core c).nextId + 1 } := by
  have hold : (s.core c).groups.map (fun (g : Group) => if g.gid == gid then { g with started := true } else g) = (s.core c).groups :=
    (List.map_congr_left fun g h => if_neg (by simpa using hg g h)).trans (List.map_id' _)
  simp only [State.place, if_pos hr]
  rw [State.core_startGroup, if_pos ⟨rfl, (State.cores_length_updCore _ _ _).symm ▸ hc⟩, State.core_updCore, if_pos ⟨rfl, hc⟩]
  simp only [List.map_append, List.append_nil]
  congr 1
  exact congrArg₂ _ hold (by simp [State.newGroup])

theorem State.core_place_ne {k : Nat} (hr : n.regions = 0) (hk : k ≠ c) : (s.place n recs gid clp c x).core k = s.core k := by
  simp only [State.place, if_pos hr]
  rw [State.core_startGroup, if_neg fun h => hk h.1.symm]
  exact (State.core_updCore _ c k _).trans (if_neg fun h => hk h.1.symm)

end

/-- Records of no grid change none (R35). -/
theorem State.gridsLaunch_none {s : State} {recs : List TRec} (k : Nat) (h : ∀ r ∈ recs, r.prov.grid = none) : s.gridsLaunch recs k = s := by
  have hids : recs.filterMap (fun r => r.prov.grid) = [] := List.filterMap_eq_nil_iff.mpr h
  simp [State.gridsLaunch, hids]

/-- Examining a till changes the tills alone. -/
theorem State.examine_eq (s : State) (gen nid die : Nat) : s.examine gen nid die = { s with tills := (s.examine gen nid die).tills } := by
  unfold State.examine
  split <;> rfl

/-- A launch of one group: the group is put on its core, the counter of R74 has its number, and the till is examined again. -/
theorem State.launch_one {s : State} {t : Till} {n : NodeReg} {c : Nat} {x : Spot} (hclp : n.clp = false) (hg : ∀ r ∈ t.recs, r.prov.grid = none) :
    let gid := freeGid s.liveGids s.liveGids.length (s.inst + 1)
    s.launch t n [(c, x)] = { s.place n (t.recs.take n.coal) gid none c x with inst := gid, tills := (s.launch t n [(c, x)]).tills } := by
  intro gid
  simp only [State.launch]
  rw [State.examine_eq]
  simp only [List.length_cons, List.length_nil, List.map_cons, List.map_nil, nextGids, List.zip_cons_cons, List.zip_nil_left, List.foldl_cons,
    List.foldl_nil, hclp, Bool.false_eq_true, if_false, State.gridsLaunch_none _ fun r h => hg r (List.mem_of_mem_take h)]
  rfl

/-- The number after the last one is taken where it has 32 bits and no live group has it (R74). -/
theorem freeGid_free {live : List Nat} {k n : Nat} (h : n < 2 ^ 32) (h0 : 0 < n) (hl : n ∉ live) : freeGid live k n = n := by
  have hn : max 1 (n % 2 ^ 32) = n := by rw [Nat.mod_eq_of_lt h]; omega
  cases k with
  | zero => simp only [freeGid, hn]
  | succ k => simp only [freeGid, hn]; exact if_neg (by simpa using hl)

/-- A group of a core is live (R74). -/
theorem State.mem_liveGids {s : State} {c : Nat} {g : Group} (hc : c < s.cores.length) (hg : g ∈ (s.core c).groups) : g.gid ∈ s.liveGids := by
  have hcore : s.core c ∈ s.cores := by
    simp [State.core, hc]
  exact List.mem_append_left _ (List.mem_flatMap.mpr ⟨_, hcore, List.mem_map_of_mem hg⟩)

/-- A copy that has made every transfer makes no more (R85, R421). -/
theorem Copy.nextXfer_none {x : Copy} (h : ∀ f ∈ x.xfers, f.done = true) : x.nextXfer = none := by
  rw [Copy.nextXfer, List.find?_eq_none]
  intro p hp
  simp [h p.2 (List.of_mem_zip hp).2]

section
variable {s : State} {c id : Nat} {x : Copy} (hx : (s.core c).copy? id = some x) (hd : ∀ f ∈ x.xfers, f.done = true)
include hx hd

theorem State.xferSteps_done (n : Nat) : State.xferSteps c id n s = s := by
  cases n with
  | zero => rfl
  | succ n => simp [State.xferSteps, State.xferStep, hx, Copy.nextXfer_none hd]

theorem State.xferFault_done : s.xferFault c id = s := by
  simp [State.xferFault, hx, Copy.nextXfer_none hd]

end

/-- R85: the staging whose bytes are all there ends, and its group starts. -/
theorem exec_stagingComplete {s : State} {c gid : Nat} {x : Copy} (hstop : s.stop = none)
    (hx : (s.core c).copies.find? (fun x => x.opc == opStage && x.gid == gid) = some x) (hrun : (s.core c).phase = .run)
    (hd : ∀ f ∈ x.xfers, f.done = true) (hid : ∀ y ∈ (s.core c).copies, y.id = x.id → y = x) :
    exec (.stagingComplete c gid) s = .next ((s.dropCopy c x.id).startGroup c gid) := by
  have hcopy : (s.core c).copy? x.id = some x := by
    obtain ⟨y, hy⟩ := Option.isSome_iff_exists.mp
      (show ((s.core c).copy? x.id).isSome = true from
        List.find?_isSome.mpr ⟨x, List.mem_of_find?_eq_some hx, beq_self_eq_true x.id⟩)
    rw [hy, hid y (List.mem_of_find?_eq_some hy) (by simpa using List.find?_some hy)]
  have hout : ((s.dropCopy c x.id).startGroup c gid).stop = none := by
    rw [State.startGroup_eq]
    exact hstop
  show execStagingComplete c gid s = _
  simp only [execStagingComplete, hx, hrun, State.xferSteps_done hcopy hd, State.xferFault_done hcopy hd, hcopy]
  rw [if_neg (by decide), if_pos (List.all_eq_true.mpr hd)]
  simp only [State.out, hout]

/-- The core of a group that starts as a staging ends. -/
theorem State.core_staged (s : State) (c gid id k : Nat) :
    ((s.dropCopy c id).startGroup c gid).core k = if c = k ∧ k < s.cores.length then
      { s.core k with
        copies := (s.core k).copies.filter (fun x => x.id != id)
        groups := (s.core k).groups.map (fun g => if g.gid == gid then { g with started := true } else g) } else s.core k := by
  have hlen : (s.dropCopy c id).cores.length = s.cores.length := State.cores_length_updCore _ _ _
  rw [State.core_startGroup, hlen, State.dropCopy, State.core_updCore]
  split <;> rfl

/-- The group that starts as a staging ends. -/
theorem State.started_staged {s : State} {c gid : Nat} (id : Nat) (h : ((s.core c).group? gid).isSome = true) :
    (((s.dropCopy c id).startGroup c gid).group c gid).started = true := by
  have hdrop : (((s.dropCopy c id).core c).group? gid).isSome = true := by
    simp only [State.dropCopy, State.core_updCore]
    split <;> exact h
  rw [State.startGroup_eq]
  exact congrArg Group.started (State.group_updGroup (f := fun g => { g with started := true }) (fun _ => rfl) hdrop)

/-- R79 to R83: the first-ranked till's group is launched on the core that takes it. -/
theorem exec_groupAdmission {s : State} {die c : Nat} {x : Till} {n : NodeReg} {rest : List (Till × NodeReg)} {sp : Spot} (hstop : s.stop = none)
    (hready : s.readyTills die = (x, n) :: rest) (hspots : s.spots die x.gen n = some [(c, sp)]) (hclp : n.clp = false) (hreg : n.regions = 0)
    (hgrid : ∀ r ∈ x.recs, r.prov.grid = none) :
    exec (.groupAdmission die) s = .next (s.launch x n [(c, sp)]) := by
  have hout : (s.launch x n [(c, sp)]).stop = none := by
    rw [State.launch_one hclp hgrid, State.place_eq hreg]
    exact hstop
  show execGroupAdmission die s = _
  simp only [execGroupAdmission, hready, hspots, State.out, hout]

/-- Settles O48: a launch puts one group on its core (place), and the end of a staging starts its group. -/
theorem launches : Obligations.Launches := by
  unfold Obligations.Launches
  intro s hstop
  refine ⟨?_, fun die x n rest hready hspots => ?_, fun c gid x hc hx hrun hd hid hg => ?_⟩
  · intro die x n rest c sp hready hspots hc hclp gid hreg hgrid hfree
    have hone := State.launch_one (s := s) (c := c) (x := sp) hclp hgrid
    have hnot : ∀ g ∈ (s.core c).groups, g.gid ≠ gid := fun g hg h => hfree (h ▸ State.mem_liveGids hc hg)
    have hcore := (congrArg (State.core · c) hone).trans
      (State.core_place (recs := x.recs.take n.coal) (clp := none) (x := sp) hreg hc hnot)
    simp only at hcore
    refine ⟨_, s.newWarps n gid c sp, { s.newGroup n (x.recs.take n.coal) gid none sp with started := true },
      exec_groupAdmission hstop hready hspots hclp hreg hgrid, ?_, fun h32 hnew => freeGid_free h32 (Nat.succ_pos _) hnew,
      by rw [hcore], by rw [hcore], rfl, rfl, rfl, rfl, rfl, rfl, rfl, rfl, State.newWarps_length .., fun k hk => ?_, fun k hk => ?_⟩
    · rw [hone, State.place_eq hreg]
    · obtain ⟨place, age, hw⟩ := State.newWarps_getElem? s n gid c sp hk
      exact ⟨_, hw, newWarp_fresh .., rfl, rfl, rfl, rfl, rfl, rfl, rfl⟩
    · rw [hone]
      exact State.core_place_ne hreg hk
  · show execGroupAdmission die s = _
    simp only [execGroupAdmission, hready, hspots]
  · have hcore := State.core_staged s c gid x.id c
    rw [if_pos ⟨rfl, hc⟩] at hcore
    refine ⟨_, exec_stagingComplete hstop hx hrun hd hid, ?_, by rw [hcore], State.started_staged x.id hg,
      by rw [hcore], by rw [hcore], fun k hk => ?_⟩
    · rw [State.startGroup_eq]
      rfl
    · rw [State.core_staged, if_neg fun h => hk h.1.symm]

end Sys2Proof.Machine
end

section
namespace Sys2Proof.Machine

/-! ### Runs of bytes in a sparse map (R2, R93) -/

theorem leBytes_length (n v : Nat) : (leBytes n v).length = n := by
  induction n generalizing v with
  | zero => rfl
  | succ n ih => simp [leBytes, ih]

/-- Part i of parts of one length, laid one after the other. -/
theorem take_drop_flatMap {α β : Type} {f : α → List β} {m : Nat} (hf : ∀ x, (f x).length = m) {l : List α} {i : Nat} {x : α}
    (h : l[i]? = some x) : ((l.flatMap f).drop (m * i)).take m = f x := by
  induction l generalizing i with
  | nil => cases h
  | cons y l ih =>
    cases i with
    | zero =>
      cases h
      rw [Nat.mul_zero, List.drop_zero, List.flatMap_cons, List.take_append_of_le_length (hf x).ge, ← hf x, List.take_length]
    | succ i =>
      rw [List.flatMap_cons, Nat.mul_succ, Nat.add_comm, ← List.drop_drop, ← hf y, List.drop_left, hf y]
      exact ih h

/-- What a run of writes left, read within it. -/
theorem SMap.getN_setN {w : Nat} (m : SMap w) (k off n : Nat) (vs : List (BitVec w)) (h : off + n ≤ vs.length) :
    SMap.getN (SMap.setN m k vs) n (k + off) = (vs.drop off).take n := by
  apply List.ext_getElem?
  intro j
  rw [SMap.getN_eq, List.getElem?_map]
  by_cases hj : j < n
  · have hv : off + j < vs.length := by omega
    simp [SMap.get_setN, hj, show k ≤ k + off + j by omega, show k + off + j - k = off + j by omega, hv]
  · simp [hj]

/-- A run of writes leaves what lies outside it. -/
theorem SMap.get_setN_outside {w : Nat} (m : SMap w) (k a : Nat) (vs : List (BitVec w)) (h : a < k ∨ k + vs.length ≤ a) :
    SMap.get (SMap.setN m k vs) a = SMap.get m a := by
  rw [SMap.get_setN]
  split
  · rw [List.getElem?_eq_none (by omega)]
    rfl
  · rfl

/-! ### Rings and queue registers (R54, R92 to R95) -/

/-- A group whose ring has changed. -/
theorem State.group_updRing {s : State} {c gid : Nat} (k : Nat) (f : Ring → Ring) (h : ((s.core c).group? gid).isSome = true) :
    (s.updRing c gid k f).group c gid = { s.group c gid with rings := modNth (s.group c gid).rings k f } :=
  State.group_updGroup (fun _ => rfl) h

theorem SameQueues.group {c : Nat} {s t : State} (h : SameQueues c s t) (gid : Nat) :
    (t.core c).group? gid = (s.core c).group? gid ∧ t.group c gid = s.group c gid := by
  simp only [State.group, Core.group?, h.1, and_self]

theorem Group.ring_mod (g : Group) {k : Nat} (f : Ring → Ring) (hk : k < g.rings.length) (j : Nat) :
    ({ g with rings := modNth g.rings k f } : Group).ring j = if k = j then f (g.ring j) else g.ring j := by
  simp only [Group.ring, modNth_getD]
  by_cases hj : k = j
  · subst hj; simp [hk]
  · simp [hj]

/-- A queue register that an instruction uses as its destination stands in D. -/
theorem mem_queueUses_dst {i : Instr} {f : Fmt} {q : Nat} : (q, true) ∈ queueUses i f ↔ ∃ n, f.d = .q n ∧ n ≤ q ∧ q < n + i.shape.d.words := by
  have hsrc : ∀ (o : Opd) (k : OpK),
      (q, true) ∉ (match o with | .q n => (List.range k.words).map (fun j => (n + j, false)) | _ => ([] : List (Nat × Bool))) := by
    intro o k
    cases o <;> simp
  have hdst : (q, true) ∈ (match f.d with | .q n => (List.range i.shape.d.words).map (fun j => (n + j, true)) | _ => ([] : List (Nat × Bool)))
      ↔ ∃ n, f.d = .q n ∧ n ≤ q ∧ q < n + i.shape.d.words := by
    cases f.d <;> simp
    case q n =>
      constructor
      · rintro ⟨j, hj, rfl⟩
        omega
      · intro h
        exact ⟨q - n, by omega, by omega⟩
  rw [← hdst]
  simp only [queueUses, List.mem_append]
  constructor
  · rintro ((((h | h) | h) | h) | h)
    · exact h
    all_goals exact absurd h (hsrc _ _)
  · exact fun h => .inl (.inl (.inl (.inl h)))

section
variable {f : Fmt} {cu : Cur} {s : State} {q : Nat}

/-- mov.i32 to a queue register has it as D. -/
theorem mov_pushes (h : queueUses (.mov f .i32) f = [(q, true)]) : f.d = .q q := by
  obtain ⟨n, hn, h1, h2⟩ := mem_queueUses_dst.mp (h ▸ List.mem_singleton_self (q, true))
  have hw : (Instr.mov f .i32).shape.d.words = 1 := rfl
  rw [hn, show n = q by omega]

/-- mov.i32 from a queue register has another D. -/
theorem mov_pops (h : queueUses (.mov f .i32) f = [(q, false)]) (n : Nat) : f.d ≠ .q n := by
  intro hn
  have hm : (n, true) ∈ queueUses (.mov f .i32) f := mem_queueUses_dst.mpr ⟨n, hn, le_rfl, Nat.lt_succ_self n⟩
  simp [h] at hm

/-- mov.i32 writes D with the lanes' values, and the entries that it read are claimed (R342, R95). -/
theorem exec_mov (h : ready (.mov f .i32) f cu s = true) :
    let i : Instr := .mov f .i32
    let c := mkCtx s cu i f
    exec i s = .next (popped i f cu s (finished (c.wr (begun i f (fun c t => c.occOf t i) cu s) 1 (c.a s 1)))) := by
  intro i c
  have hstop : (c.wr (begun i f (fun c t => c.occOf t i) cu s) 1 (c.a s 1)).stop = none := by
    obtain ⟨b1, -, -, b4⟩ := begun_spec i f (fun c t => c.occOf t i) cu s (ready_warp h)
    have hrest := (b1.trans (wr_spec c _ 1 (c.a s 1) b4).1).rest
    have hsame : (c.wr (begun i f (fun c t => c.occOf t i) cu s) 1 (c.a s 1)).stop = s.stop := by rw [hrest]
    rw [hsame, ready_stop h]
  refine issueOcc_ready h ?_ hstop
  have ha := a_begun i f (fun c t => c.occOf t i) cu s
  simp only [Ty.words, c, i] at ha ⊢
  rw [ha]

/-- And of the warp it changes what DataDone says, before D waits for the entries. -/
theorem exec_mov_done (h : ready (.mov f .i32) f cu s = true) :
    let i : Instr := .mov f .i32
    ∃ t, exec i s = .next (popped i f cu s t) ∧ DataDone i f (.d 1 (fun c s l => c.a s 1 l)) cu s t :=
  data_d h rfl (uses_ne (words_pos .i32)) fun occ => by rw [a_begun]; rfl

/-- The bytes of an entry that lanes push (R93): their words, and zero in the lanes that are not ACTIVE. -/
def Ctx.entry (c : Ctx) (vals : Nat → Nat) : List Byte :=
  Sys2Proof.Machine.lanes.flatMap (fun l => leBytes 4 (if c.active.getLsbD l then vals l else 0))

theorem Ctx.entry_length (c : Ctx) (vals : Nat → Nat) : (c.entry vals).length = 128 := by
  simp [Ctx.entry, List.length_flatMap, leBytes_length, Sys2Proof.Machine.lanes]

theorem Ctx.entry_word (c : Ctx) (vals : Nat → Nat) {l : Nat} (hl : l < 32) :
    ((c.entry vals).drop (4 * l)).take 4 = leBytes 4 (if c.active.getLsbD l then vals l else 0) :=
  take_drop_flatMap (fun _ => leBytes_length 4 _) (show Sys2Proof.Machine.lanes[l]? = some l by simp [Sys2Proof.Machine.lanes, hl])

/-- What a push does (R93): its ring counts one entry more, and the entry is written. -/
theorem push_done {c : Ctx} {t : State} (vals : Nat → Nat) (hsame : SameQueues c.core s t)
    (hg : ((s.core c.core).group? c.w.gid).isSome = true) (hk : (c.w.binding q).2.2 < (s.group c.core c.w.gid).rings.length) :
    let g := s.group c.core c.w.gid
    let k := (c.w.binding q).2.2
    (∀ j, ((c.push t q vals).group c.core c.w.gid).ring j = if k = j then { g.ring j with tail := (g.ring j).tail + 1 } else g.ring j)
      ∧ ((c.push t q vals).core c.core).sp = SMap.setN (s.core c.core).sp (g.ringAddr k (g.ring k).tail) (c.entry vals) := by
  intro g k
  obtain ⟨hgrp, hgroup⟩ := hsame.group c.w.gid
  rw [← hgrp] at hg
  have hcore := State.core_lt_of_group hg
  let t1 := t.updCore c.core (fun x => { x with sp := SMap.setN x.sp (g.ringAddr k (g.ring k).tail) (c.entry vals) })
  have ht1 : t1.core c.core = { t.core c.core with sp := SMap.setN (t.core c.core).sp (g.ringAddr k (g.ring k).tail) (c.entry vals) } := by
    rw [State.core_updCore, if_pos ⟨rfl, hcore⟩]
  have hgroup1 : t1.group c.core c.w.gid = g := by
    simp only [State.group, ht1]
    exact hgroup
  have hpush : c.push t q vals = t1.updRing c.core c.w.gid k (fun r => { r with tail := r.tail + 1 }) := by
    simp only [Ctx.push, hgroup]
    rfl
  rw [hpush]
  refine ⟨fun j => ?_, ?_⟩
  · rw [State.group_updRing k _ (by rw [ht1]; exact hg), hgroup1, Group.ring_mod _ _ hk]
  · have hsp : ((t1.updRing c.core c.w.gid k (fun r => { r with tail := r.tail + 1 })).core c.core).sp = (t1.core c.core).sp := by
      simp only [State.updRing, State.updGroup, State.core_updCore]
      split <;> rfl
    rw [hsp, ht1, ← hsame.2]

theorem Ctx.awaitPops_wix (c : Ctx) (o : Opd) (es : List (Nat × Nat)) (ptb : Nat) (w : Warp) :
    (c.awaitPops (runOf o 1) es ptb w).wix = w.wix := by
  unfold Ctx.awaitPops
  split
  · rfl
  · cases o <;> rfl

/-- An instruction that reads one entry claims it, and D waits for it. -/
theorem popAll_one {c : Ctx} {i : Instr} {s t : State} {e : Nat × Nat} (h : c.pops i s = [e]) :
    c.popAll i s t = (c.upd t (c.awaitPops (destRunsOf i c.f (s.group c.core c.w.gid)) [e] s.ptb)).updRing c.core c.w.gid e.1 Ring.claim := by
  simp [Ctx.popAll, h]

/-- D waits for a popped entry: its registers stand as they were and are empty, and an operation holds their values (R54, R95). -/
theorem Ctx.awaitPops_v {c : Ctx} {d : Nat} {es : List (Nat × Nat)} {ptb : Nat} {w : Warp} (h : w.emptyIn c.active (0, d, 1) = 0) :
    c.awaitPops (runOf (.v d) 1) es ptb w =
      (({ w with v := (maskLanes c.active).foldl (fun v l => v.set (32 * d + l) (c.w.v.get (32 * d + l))) w.v } : Warp).vClear d c.active).addOp
        { id := 0, kind := .pop, pops := es, issued := ptb
          fills := [⟨true, d, (maskLanes c.active).map (fun l => (l, w.v.get (32 * d + l)))⟩] } := by
  unfold Ctx.awaitPops
  rw [if_neg (by simp [runOf, h])]
  rfl

theorem Ctx.awaitPops_w {c : Ctx} {d : Nat} {es : List (Nat × Nat)} {ptb : Nat} {w : Warp} (h : w.emptyIn c.active (1, d, 1) = 0) :
    c.awaitPops (runOf (.w d) 1) es ptb w =
      (({ w with w := w.w.set d (c.w.w.get d) } : Warp).wClear d).addOp
        { id := 0, kind := .pop, pops := es, issued := ptb, fills := [⟨false, d, [(0, w.w.get d)]⟩] } := by
  unfold Ctx.awaitPops
  rw [if_neg (by simp [runOf, h])]
  rfl

/-- A lane of a run of writes of what a map of registers held. -/
theorem SMap.get_restore {w : Nat} (m0 : SMap w) (d : Nat) (ls : List Nat) (m : SMap w) (j : Nat) :
    SMap.get (ls.foldl (fun v l => v.set (32 * d + l) (SMap.get m0 (32 * d + l))) m) j
      = if ∃ l ∈ ls, 32 * d + l = j then SMap.get m0 j else SMap.get m j := by
  induction ls generalizing m with
  | nil => simp
  | cons l ls ih =>
    rw [List.foldl_cons, ih, SMap.get_set]
    by_cases h : 32 * d + l = j
    · simp [h]
    · simp [h]

/-- No register of D is empty in a lane that is ACTIVE, in an instruction that is ready (R56). -/
theorem ready_dest_active {i : Instr} (h : ready i f cu s = true) {file d : Nat}
    (hr : (file, d, 1) ∈ destRunsOf i f (s.group cu.core (mkCtx s cu i f).w.gid)) :
    (mkCtx s cu i f).w.emptyIn (mkCtx s cu i f).active (file, d, 1) = 0 := by
  have hor := ready_dest h _ hr
  match file with
  | 0 =>
    apply BitVec.eq_of_getLsbD_eq
    intro l hl
    cases ha : (mkCtx s cu i f).active.getLsbD l
    · simp [Warp.emptyIn, ha]
    · have := emptyIn_v hor 0 Nat.one_pos l (by rw [BitVec.getLsbD_or, ha, Bool.true_or])
      simpa [Warp.emptyIn, ha] using this
  | 1 =>
    have hne : (mkCtx s cu i f).active ||| (mkCtx s cu i f).zeroed i ≠ 0 := fun h0 => ready_active h (BitVec.or_eq_zero_iff.mp h0).1
    have hfull := emptyIn_w hor hne 0 Nat.one_pos
    rw [Nat.add_zero] at hfull
    simp [Warp.emptyIn, hfull]
  | _ + 2 => rfl

end

section
variable {f : Fmt} {cu : Cur} {s : State} {q : Nat}

/-- The groups and the scratchpad of a core after an effect that writes no queue register. -/
theorem wr_sameQueues (hr : ready (.mov f .i32) f cu s = true) (hd : ∀ n, f.d ≠ .q n) (vals : Nat → Nat) :
    let c := mkCtx s cu (.mov f .i32) f
    SameQueues cu.core s (finished (c.wr (begun (.mov f .i32) f (fun c t => c.occOf t (.mov f .i32)) cu s) 1 vals)) := by
  intro c
  obtain ⟨-, b2, -, b4⟩ := begun_spec (.mov f .i32) f (fun c t => c.occOf t (.mov f .i32)) cu s (ready_warp hr)
  exact b2.trans ((wr_spec c _ 1 vals b4).2.2.2 hd)

/-- What claiming an entry does to the rings, and to nothing else of the group and the scratchpad (R95). -/
theorem popped_rings {i : Instr} {t : State} {k e : Nat} (hsame : SameQueues cu.core s t) (hp : (mkCtx s cu i f).pops i s = [(k, e)])
    (hgrp : ((s.core cu.core).group? (mkCtx s cu i f).w.gid).isSome = true) (hk : k < (s.group cu.core (mkCtx s cu i f).w.gid).rings.length) :
    let g := s.group cu.core (mkCtx s cu i f).w.gid
    ((popped i f cu s t).core cu.core).sp = (s.core cu.core).sp
      ∧ ∀ j, ((popped i f cu s t).group cu.core (mkCtx s cu i f).w.gid).ring j = if k = j then (g.ring j).claim else g.ring j := by
  intro g
  have hx := hsame.trans (same_updWarp cu.core cu.wix t ((mkCtx s cu i f).awaitPops (destRunsOf i f g) [(k, e)] s.ptb))
  obtain ⟨hx1, hx2⟩ := hx.group (mkCtx s cu i f).w.gid
  have hpop : popped i f cu s t = ((t.updWarp cu.core cu.wix ((mkCtx s cu i f).awaitPops (destRunsOf i f g) [(k, e)] s.ptb)).updRing
      cu.core (mkCtx s cu i f).w.gid k Ring.claim) := popAll_one hp
  rw [hpop]
  refine ⟨?_, fun j => ?_⟩
  · rw [← hx.2]
    simp only [State.updRing, State.updGroup, State.core_updCore]
    split <;> rfl
  · rw [State.group_updRing k Ring.claim (hx1 ▸ hgrp), hx2, Group.ring_mod _ _ hk]

/-- What claiming an entry does to the warp: D waits for the entry. -/
theorem popped_warp {i : Instr} {t : State} {k e : Nat} (ht : ((t.core cu.core).warp? cu.wix).isSome = true)
    (hp : (mkCtx s cu i f).pops i s = [(k, e)]) (hd : destRunsOf i f (s.group cu.core (mkCtx s cu i f).w.gid) = runOf f.d 1) :
    (popped i f cu s t).warp cu.core cu.wix = (mkCtx s cu i f).awaitPops (runOf f.d 1) [(k, e)] s.ptb (t.warp cu.core cu.wix) := by
  have hpop : popped i f cu s t = ((t.updWarp cu.core cu.wix ((mkCtx s cu i f).awaitPops (runOf f.d 1) [(k, e)] s.ptb)).updRing
      cu.core (mkCtx s cu i f).w.gid k Ring.claim) := by rw [← hd]; exact popAll_one hp
  rw [hpop, State.warp, warp?_updRing]
  exact State.warp_updWarp t cu.core cu.wix _ (Ctx.awaitPops_wix _ f.d _ _) ht

/-- The first register of D in a lane, after an effect of one register. -/
theorem DataDone.lane {i : Instr} {e : DataEff} {t : State} {d l : Nat} (h : DataDone i f e cu s t) (he : e.n = 1) (hd : f.d = .v d)
    (hl : l ∈ maskLanes (mkCtx s cu i f).active) :
    (t.warp cu.core cu.wix).v.get (32 * d + l) = BitVec.ofNat 32 (e.val (mkCtx s cu i f) s l) := by
  obtain ⟨hl, ha⟩ := (mem_maskLanes _ _).mp hl
  have hf : (mkCtx s cu i f).f.d = .v d := hd
  have hu : (mkCtx s cu i f).laneOf l = l := by simp [Ctx.laneOf, mkCtx, Fmt.anyVQ, hd, Opd.isVQ]
  have hv := h.v d l hl
  simp only [vAfter, hf, he, Nat.le_refl, Nat.lt_succ_self, and_self, if_true, ha, hu, Nat.sub_self, Nat.mul_zero, Nat.pow_zero, Nat.div_one] at hv
  exact BitVec.eq_of_toNat_eq (by rw [BitVec.toNat_ofNat]; exact hv)

theorem DataDone.uniform {i : Instr} {e : DataEff} {t : State} {d : Nat} (h : DataDone i f e cu s t) (he : e.n = 1) (hd : f.d = .w d) :
    (t.warp cu.core cu.wix).w.get d = BitVec.ofNat 32 (e.val (mkCtx s cu i f) s (mkCtx s cu i f).low) := by
  have hf : (mkCtx s cu i f).f.d = .w d := hd
  have hv := h.w d
  simp only [wAfter, hf, he, Nat.le_refl, Nat.lt_succ_self, and_self, if_true, Nat.sub_self, Nat.mul_zero, Nat.pow_zero, Nat.div_one] at hv
  exact BitVec.eq_of_toNat_eq (by rw [BitVec.toNat_ofNat]; exact hv)

theorem DataDone.emptyIn {i : Instr} {e : DataEff} {t : State} (h : DataDone i f e cu s t) (m : Mask) (r : Nat × Nat × Nat) :
    (t.warp cu.core cu.wix).emptyIn m r = (mkCtx s cu i f).w.emptyIn m r := by
  simp only [Warp.emptyIn, h.full.1, h.full.2]

theorem DataDone.addOp {i : Instr} {e : DataEff} {t : State} (h : DataDone i f e cu s t) (o : Op) :
    ((t.warp cu.core cu.wix).addOp o).ops = ((mkCtx s cu i f).w.addOp o).ops := by
  have hops : (t.warp cu.core cu.wix).ops = (mkCtx s cu i f).w.ops := by rw [h.frame]
  simp only [Warp.addOp, Warp.nextOp, hops]

end

/-- Settles O18: a pop claims its entry (popped_rings) and leaves D waiting for it (popped_warp); a push writes its entry (push_done). -/
theorem queueRegisters : Obligations.QueueRegisters := by
  unfold Obligations.QueueRegisters
  intro f cu s q i c g k hwf hready hgrp hk
  refine ⟨fun hq => ?_, fun hq => ?_⟩
  · have hpops : c.pops i s = [(k, (ringOf c q s).head)] := by
      have hu : queueUses i c.f = [(q, false)] := hq
      simp only [Ctx.pops, hu]
      rfl
    obtain ⟨t, hexec, hdone⟩ := exec_mov_done hready
    obtain ⟨hsp, hrings⟩ := popped_rings (wr_sameQueues hready (mov_pops hq) (c.a s 1)) hpops hgrp hk
    rw [← Host.Outcome.next.inj (hexec.symm.trans (exec_mov hready))] at hsp hrings
    have hwarp := popped_warp hdone.warp hpops rfl
    have hring : ringOf c q (popped i f cu s t) = (ringOf c q s).claim := (hrings k).trans (if_pos rfl)
    refine ⟨t, _, hexec, rfl, hdone, hsp, hring, by rw [hring]; rfl, by rw [hring]; rfl,
      fun j hj => (hrings j).trans (if_neg (Ne.symm hj)), fun d hd => ?_, fun d hd => ?_⟩
    · have hfull : (t.warp cu.core cu.wix).emptyIn c.active (0, d, 1) = 0 := (hdone.emptyIn _ _).trans (ready_dest_active hready (by
        rw [show destRunsOf i f _ = runOf f.d 1 from rfl, hd]
        exact List.mem_singleton_self _))
      rw [hd, Ctx.awaitPops_v hfull] at hwarp
      rw [hwarp]
      refine ⟨fun l hl ha => ⟨?_, ?_⟩, (hdone.addOp _).trans ?_⟩
      · exact congrArg BitVec.toNat ((SMap.get_restore _ _ _ _ _).trans (if_pos ⟨l, (mem_maskLanes _ _).mpr ⟨hl, ha⟩, rfl⟩))
      · simp only [Warp.vEmpty, Warp.addOp, Warp.vClear, SMap.get_set, if_true, BitVec.getLsbD_or]
        exact (congrArg _ ha).trans (Bool.or_true _)
      · rw [List.map_congr_left fun l hl => by rw [hdone.lane rfl hd hl]]
        rfl
    · have hfull : (t.warp cu.core cu.wix).emptyIn c.active (1, d, 1) = 0 := (hdone.emptyIn _ _).trans (ready_dest_active hready (by
        rw [show destRunsOf i f _ = runOf f.d 1 from rfl, hd]
        exact List.mem_singleton_self _))
      rw [hd, Ctx.awaitPops_w hfull] at hwarp
      rw [hwarp]
      refine ⟨?_, ?_, (hdone.addOp _).trans ?_⟩
      · exact congrArg BitVec.toNat ((SMap.get_set _ _ _ _).trans (if_pos rfl))
      · simp only [Warp.addOp, Warp.wClear, hdone.full.2]
        rfl
      · rw [hdone.uniform rfl hd]
        rfl
  · have hd : f.d = .q q := mov_pushes hq
    have hpops : c.pops i s = [] := by
      have hu : queueUses i c.f = [(q, true)] := hq
      simp [Ctx.pops, hu]
    obtain ⟨-, b2, -, -⟩ := begun_spec i f (fun c t => c.occOf t i) cu s (ready_warp hready)
    obtain ⟨hrings, hsp⟩ := push_done (c := c) (c.a s 1) b2 hgrp hk
    have hwr : popped i f cu s (finished (c.wr (begun i f (fun c t => c.occOf t i) cu s) 1 (c.a s 1)))
        = finished (c.push (begun i f (fun c t => c.occOf t i) cu s) q (c.a s 1)) := by
      rw [popped, popAll_none _ _ _ _ hpops]
      simp [Ctx.wr, c, mkCtx, hd]
    refine ⟨_, (exec_mov hready).trans (congrArg _ hwr), (hrings k).trans (if_pos rfl),
      fun j hj => (hrings j).trans (if_neg (Ne.symm hj)), fun l hl => ?_, fun a ha => ?_⟩
    · refine (congrArg (fun m => SMap.getN m 4 _) hsp).trans ?_
      rw [← Ctx.entry_word c (c.a s 1) hl]
      exact SMap.getN_setN _ _ _ _ _ (by rw [Ctx.entry_length]; omega)
    · refine (congrArg (fun m => SMap.get m a) hsp).trans (SMap.get_setN_outside _ _ _ _ ?_)
      rw [Ctx.entry_length]
      exact ha

end Sys2Proof.Machine
end

section
namespace Sys2Proof.Machine

/-! ### A reply that frees the slot of a flit which came by a port beyond the 95 (R213, R219, R247) -/

/-- A packet that is accepted is performed (R224, R522). -/
theorem State.receive_of_accepts {s : State} {p : Packet} (f : State → State) (h : s.accepts p = true) :
    s.receive p f = ((f s).performed p.src.toNat p.psn.toNat).out := by
  simp only [State.accepts, Bool.and_eq_true, Bool.not_eq_true', beq_iff_eq, Bool.or_eq_true, Option.isNone_iff_eq_none] at h
  obtain ⟨⟨⟨⟨⟨⟨⟨⟨-, -⟩, hdst⟩, hbars⟩, hcp⟩, hdone⟩, hkeeps⟩, hfence⟩, habort⟩ := h
  have hcp' : (s.noCp && byCp p.opc.toNat) = false := by rcases hcp with h | h <;> simp [h]
  have habort' : (p.gen.toNat != 0 && s.aborted.contains p.gen.toNat) = false := by
    rcases habort with h | h
    · simp [h]
    · rw [h, Bool.and_false]
  have hdst' : (p.dst.toNat != s.dev) = false := by simp [hdst]
  simp only [State.receive, State.receiveIf, hdst', hbars, hcp', hdone, hkeeps, hfence, habort', Bool.or_self, Bool.false_eq_true, if_false]

/-- The claim of package 1 on deque 0 of package 0. -/
def lateClaim : Packet :=
  { gen := 0, psn := 0, src := 1, dst := 0, cls := 0, vgrp := 0, val := false, opc := 0x07, tag := 0, addr := 0, pay := [] }

/-- A flit of the clock class that came by port 95. -/
def strayFlit : Nat × Flit × Option (Nat × Nat) := (15, { hdr := 0, body := [] }, some (95, 0))

/-- A package whose list of ports has a 96th entry, which has sent and received a marker; a flit that came by it is queued on the link to package 1,
which is up. The word at which its port control would lie is that of the first port's GPSTAT. -/
def extraPort : State :=
  { cp := [(oGPSTAT / 8, 2), (oLLSTAT / 8, 1)]
    ports := { queue := [strayFlit] } :: List.replicate 94 {} ++ [{ marked := true, farMarked := true }] }

theorem extraPort_accepts : extraPort.accepts lateClaim = true := by decide +kernel

/-- The deque is not open: the claim is answered empty (R238). -/
theorem extraPort_claim :
    exec (.claim lateClaim) extraPort = ((extraPort.replyEmpty lateClaim 0).performed 1 0).out := by
  have hclosed : (extraPort.dqCfg 0).testBit 0 = false := by decide +kernel
  have hdq : lateClaim.addr.toNat % 64 = 0 := rfl
  show execClaim lateClaim extraPort = _
  rw [execClaim, State.receive_of_accepts _ extraPort_accepts]
  simp only [hdq, hclosed, Bool.false_and]
  rfl

/-- The stray flit goes out with the answer, and the port that it came by goes dark: that is written over GPSTAT. -/
theorem extraPort_dark : ((extraPort.replyEmpty lateClaim 0).performed 1 0).cpw oGPSTAT = 3 := by decide +kernel

/-- Refutes O57, in its clause on a claim of a deque that is not open: nothing there says that a package has 95 ports (R213), and noDark speaks of
those alone. Where the list of ports has one more, a flit that came by it lets the answer of the claim change a CP register. -/
theorem not_recordsAndTiles : ¬ Obligations.RecordsAndTiles := by
  unfold Obligations.RecordsAndTiles
  intro h
  obtain ⟨-, -, -, hclaim, -, -⟩ := h lateClaim extraPort extraPort_accepts (by decide +kernel) (by decide +kernel)
  obtain ⟨hempty, -⟩ := hclaim
  obtain ⟨t, hrun, htook, -⟩ := hempty (.inl (by decide +kernel))
  have ht : t = (extraPort.replyEmpty lateClaim 0).performed 1 0 := State.eq_of_out_next (extraPort_claim.symm.trans hrun)
  have hsame : t.cpw oGPSTAT = extraPort.cpw oGPSTAT := by
    rw [htook.rest]
    rfl
  rw [ht, extraPort_dark] at hsame
  exact absurd hsame (by decide +kernel)

end Sys2Proof.Machine
end

section
/-! SUPPORT. When an answer of the machine is in canonical form: a state alone or in a pair, what a meaning answers, what a check
leaves. A write of memory, of a key tag or of a CP register goes by way of the operations of Sys2Proof/Laws/Memory.lean, so that the form
is kept along with the calls: one lemma for each function of the model that makes a state, in the order of the model. -/

namespace Sys2Proof.Machine

/-- A choice between two states in canonical form. -/
theorem ite_canonical {p : Prop} {_ : Decidable p} {s t : State} (hs : s.canonical = true) (ht : t.canonical = true) :
    (if p then s else t).canonical = true := by
  split
  · exact hs
  · exact ht

/-- The state that comes with an answer. -/
theorem snd_canonical {α : Type} {p : α × State} {a : α} {t : State} (e : p = (a, t)) (h : p.2.canonical = true) : t.canonical = true := by
  subst e; exact h

theorem fst_canonical {α : Type} {p : State × α} {a : α} {t : State} (e : p = (t, a)) (h : p.1.canonical = true) : t.canonical = true := by
  subst e; exact h

theorem thd_canonical {α β : Type} {p : α × β × State} {a : α} {b : β} {t : State} (e : p = (a, b, t))
    (h : p.2.2.canonical = true) : t.canonical = true := by
  subst e; exact h

theorem some_canonical {o : Option State} {t : State} (e : o = some t) (h : o.all State.canonical = true) : t.canonical = true := by
  subst e; exact h

/-- Every state in a meaning's answer is in canonical form. -/
def Res.Canonical : Res → Prop
  | .ok s | .hold s | .faultIn s _ => s.canonical = true
  | .fault _ | .replay _ _ => True

/-- The next state, where there is one, is in canonical form. -/
def NextCanonical : Host.Outcome State Fault Refusal → Prop
  | .next t => t.canonical = true
  | _ => True

/-- The state that checks of R368 leave. -/
def Chk.Canonical : Chk → Prop
  | .ok _ s => s.canonical = true
  | .bad r => r.Canonical

/-- What a failed check answers. -/
def ErrCanonical {α : Type} : Except Res α → Prop
  | .error r => r.Canonical
  | .ok _ => True

theorem err_canonical {α : Type} {x : Except Res α} {r : Res} (e : x = .error r) (h : ErrCanonical x) : r.Canonical := by
  subst e; exact h

theorem fst_err {α : Type} {p : Except Res α × State} {r : Res} {t : State} (e : p = (.error r, t)) (h : ErrCanonical p.1) : r.Canonical := by
  subst e; exact h

theorem chk_ok {x : Chk} {ls : List LAcc} {t : State} (e : x = .ok ls t) (h : x.Canonical) : t.canonical = true := by
  subst e; exact h

theorem chk_bad {x : Chk} {r : Res} (e : x = .bad r) (h : x.Canonical) : r.Canonical := by
  subst e; exact h

theorem next_canonical {o : Host.Outcome State Fault Refusal} {t : State} (e : o = .next t) (h : NextCanonical o) : t.canonical = true := by
  subst e; exact h

theorem foldl_keeps {α β : Type} {P : α → Prop} {f : α → β → α} (hf : ∀ a b, P a → P (f a b)) (l : List β) {a : α} (h : P a) :
    P (l.foldl f a) :=
  List.foldlRecOn l f h fun a ha b _ => hf a b ha

theorem foldl_snd_canonical {α β : Type} {f : α × State → β → α × State} {l : List β} {a : α × State} (h : a.2.canonical = true)
    (hf : ∀ a b, a.2.canonical = true → (f a b).2.canonical = true) : (l.foldl f a).2.canonical = true :=
  foldl_keeps (P := fun a : α × State => a.2.canonical = true) hf l h

theorem foldl_thd_canonical {α β γ : Type} {f : α × β × State → γ → α × β × State} {l : List γ} {a : α × β × State}
    (h : a.2.2.canonical = true) (hf : ∀ a b, a.2.2.canonical = true → (f a b).2.2.canonical = true) : (l.foldl f a).2.2.canonical = true :=
  foldl_keeps (P := fun a : α × β × State => a.2.2.canonical = true) hf l h

/-- A fold of steps that keep the form, from a state in it. -/
theorem canonical_foldl {α : Type} {f : State → α → State} {l : List α} {s : State} (h : s.canonical = true)
    (hf : ∀ s a, s.canonical = true → (f s a).canonical = true) : (l.foldl f s).canonical = true :=
  foldl_canonical f hf l s h

/-- A check leaves a state in canonical form, or an answer that does. -/
def ChkCanonical : Except Res State → Prop
  | .error r => r.Canonical
  | .ok s => s.canonical = true

theorem res_ite {p : Prop} {_ : Decidable p} {r q : Res} (hr : r.Canonical) (hq : q.Canonical) : (if p then r else q).Canonical := by
  split
  · exact hr
  · exact hq

theorem chk_error {x : Except Res State} {r : Res} (e : x = .error r) (h : ChkCanonical x) : r.Canonical := by
  subst e; exact h

theorem chk_state {x : Except Res State} {t : State} (e : x = .ok t) (h : ChkCanonical x) : t.canonical = true := by
  subst e; exact h

theorem foldl_fst_canonical {α β : Type} {f : State × α → β → State × α} {l : List β} {a : State × α} (h : a.1.canonical = true)
    (hf : ∀ a b, a.1.canonical = true → (f a b).1.canonical = true) : (l.foldl f a).1.canonical = true :=
  foldl_keeps (P := fun a : State × α => a.1.canonical = true) hf l h

end Sys2Proof.Machine
end

section
/-! SUPPORT. The lemma of each function of the model that makes a state. h is always the form of the state that it is given. A function that
only writes fields other than the four maps needs none: the form of what it makes is that of what it is given. -/

namespace Sys2Proof.Machine

/-! ### Reads, translation, mailboxes, and what becomes of a faulting warp -/

theorem updCore_canonical {s : State} (h : s.canonical = true) {c : Nat} {f : Core → Core} : (s.updCore c f).canonical = true := h

theorem farRead_canonical {s : State} {ac : Acc} {dev pa : Nat} {bs : List Byte} (h : s.canonical = true) :
    (s.farRead ac dev pa bs).2.canonical = true := by
  unfold State.farRead
  split
  rename_i s2 e
  have hs2 : s2.canonical = true := snd_canonical e (raceRead_canonical h _ _ _)
  split <;> exact hs2

theorem reroute_canonical {s : State} {i : Nat} (h : s.canonical = true) : (s.reroute i).canonical = true :=
  canonical_foldl h fun _ _ ht => transmit_canonical ht _

theorem scanPaths_canonical {s : State} (h : s.canonical = true) : s.scanPaths.canonical = true :=
  canonical_foldl h fun _ _ ht => flush_canonical _ _ ht

theorem hotCount_canonical {s : State} {gen va dev : Nat} (h : s.canonical = true) : (s.hotCount gen va dev).canonical = true :=
  ite_canonical h (ite_canonical h (ite_canonical h h))

theorem monRoom_canonical {rec_ : Recorder} (hr : KeepsForm rec_) {s : State} {slice : Nat} (h : s.canonical = true) :
    (s.monRoom rec_ slice).all State.canonical = true := by
  unfold State.monRoom
  extract_lets cfg cand
  split
  · exact h
  · split
    · split
      · exact layMons_canonical hr (by exact h) _
      · rfl
    · rfl

theorem monRegister_canonical {s : State} {m : Mon} (h : s.canonical = true) : (s.monRegister m).2.canonical = true := by
  unfold State.monRegister
  split
  · exact ringRec_canonical h _
  · split
    rename_i s1 e
    have hs1 : s1.canonical = true := snd_canonical e (monReadBy_canonical keepsForm_ringRec h _)
    split
    · exact hs1
    · split
      · exact hs1
      · extract_lets slice
        split
        · rename_i s2 e2
          have hs2 : s2.canonical = true := some_canonical e2 (monRoom_canonical keepsForm_ringRec hs1)
          exact hs2
        · exact rateRec_canonical (by exact hs1) _ _

theorem loadHost_canonical {s : State} {ac : Acc} {pa n : Nat} (h : s.canonical = true) : (s.loadHost ac pa n).2.canonical = true :=
  raceRead_canonical (by exact h) _ _ _

theorem loadSpBy_canonical {s : State} {ac : Acc} {c a n : Nat} (h : s.canonical = true) : (s.loadSpBy ac c a n).2.canonical = true :=
  raceRead_canonical h _ _ _

theorem loadSp_canonical {s : State} {ac : Acc} {c a n : Nat} (h : s.canonical = true) :
    (s.loadSp ac c a n).2.canonical = true := loadSpBy_canonical h

theorem walkKey_canonical {s : State} {rd : Nat → Nat} {sup : Bool} {gen va : Nat} (h : s.canonical = true) :
    (s.walkKey rd sup gen va).canonical = true := by
  unfold State.walkKey
  split
  · exact h
  · exact ite_canonical (keyRec_canonical h _) h

theorem walkRec_canonical {s : State} {c : Nat} {sup : Bool} {gen : Nat} {r : FRec} (h : s.canonical = true) :
    (s.walkRec c sup gen r).canonical = true :=
  ite_canonical (walkKey_canonical h) h

theorem xlate_canonical {s : State} {c : Nat} {sup : Bool} {gen va : Nat} {k : AKind} (h : s.canonical = true) :
    (s.xlate c sup gen va k).2.canonical = true := by
  unfold State.xlate
  extract_lets g hit r s1
  have hs1 : s1.canonical = true := by
    dsimp only [s1]
    clear_value r
    split <;> exact h
  clear_value hit
  split
  · exact h
  · exact hs1

theorem farBell_canonical {s : State} {ac : Acc} {dev pa : Nat} (h : s.canonical = true) : (s.farBell ac dev pa).canonical = true :=
  sendPacket_canonical (by exact h) _

theorem doorbell_canonical {s : State} {c : Nat} (h : s.canonical = true) : (s.doorbell c).canonical = true := by
  unfold State.doorbell
  extract_lets va miss ac
  have hmiss : miss.canonical = true := ringRec_canonical h _
  refine ite_canonical h ?_
  split
  · refine ite_canonical hmiss ?_
    refine ite_canonical (ite_canonical hmiss (storePA_canonical h _ _ _ _)) ?_
    exact ite_canonical (storeHost_canonical h _ _ _ _) (ite_canonical (farBell_canonical h) h)
  · exact hmiss

theorem mboxAdd_canonical {s : State} {c : Nat} {e : MEntry} (h : s.canonical = true) : (s.mboxAdd c e).canonical = true := doorbell_canonical h

theorem mboxRec_canonical {s : State} {c wix : Nat} {r0 : FRec} (h : s.canonical = true) : (s.mboxRec c wix r0).canonical = true :=
  ite_canonical (mboxAdd_canonical h) h

theorem mboxEnter_canonical {c : Nat} (l : List (Nat × FRec)) :
    ∀ {s : State}, s.canonical = true → (State.mboxEnter c l s).canonical = true := by
  induction l with
  | nil => exact fun h => h
  | cons p t ih => exact fun h => ite_canonical (ih (mboxAdd_canonical h)) h

theorem mboxRefill_canonical {s : State} {c : Nat} (h : s.canonical = true) : (s.mboxRefill c).canonical = true := mboxEnter_canonical _ h

theorem takeFault_canonical {s : State} {c wix : Nat} {at_ : Option (DWord × DWord)} {r : FRec} (h : s.canonical = true) :
    (s.takeFault c wix at_ r).canonical = true :=
  ite_canonical (ringRec_canonical (by exact ite_canonical h h) _) (mboxRec_canonical (ite_canonical h h))

theorem stopAsync_canonical {s : State} {c wix : Nat} {r0 : FRec} (h : s.canonical = true) : (s.stopAsync c wix r0).canonical = true :=
  ite_canonical h (takeFault_canonical h)

theorem resumeWarp_canonical {s : State} {c wix : Nat} {skip : Bool} (h : s.canonical = true) : (s.resumeWarp c wix skip).canonical = true := by
  unfold State.resumeWarp
  extract_lets s1
  split
  · exact takeFault_canonical h
  · exact h

theorem takeReplay_canonical {s0 : State} {c wix src : Nat} {r0 : FRec} (h : s0.canonical = true) :
    Option.all State.canonical (s0.takeReplay c wix src r0) = true := by
  unfold State.takeReplay
  extract_lets s
  have hs : s.canonical = true := walkRec_canonical h
  split
  · exact takeFault_canonical hs
  · split
    · exact rfl
    · exact mboxRec_canonical hs

/-! ### Writes of destinations -/

theorem wr_canonical {c : Ctx} {s : State} {n : Nat} {vals : Nat → Nat} (h : s.canonical = true) : (c.wr s n vals).canonical = true := by
  unfold Ctx.wr
  split
  · exact h
  · exact h
  · exact canonical_foldl h fun _ _ ht => ht
  · exact h

theorem wrP_canonical {c : Ctx} {s : State} {p : Nat} {f : Nat → Bool} (h : s.canonical = true) : (c.wrP s p f).canonical = true := h

theorem wrF_canonical {c : Ctx} {s : State} {n : Nat} {vals : Nat → Nat × Flags} (h : s.canonical = true) : (c.wrF s n vals).canonical = true :=
  wr_canonical h

/-! ### Issuing -/

theorem closedPush_canonical {c : Ctx} {i : Instr} {r : Res} (h : r.Canonical) : (c.closedPush i r).Canonical := by
  unfold Ctx.closedPush
  split
  · exact h
  · extract_lets closed
    split
    · trivial
    · trivial
    · split
      · trivial
      · trivial
    · exact h

theorem trapped_canonical {c : Ctx} {i : Instr} {t : FRec} {r : Res} (h : r.Canonical) : (c.trapped i t r).Canonical := by
  unfold Ctx.trapped
  split
  · split
    · exact h
    · trivial
  · trivial

theorem popAll_canonical {c : Ctx} {i : Instr} {s t : State} (h : t.canonical = true) : (c.popAll i s t).canonical = true :=
  ite_canonical h (canonical_foldl h fun _ _ ht => ht)

theorem run_canonical {i : Instr} {f : Fmt} {occ : Ctx → State → Nat} {body : Ctx → State → Res} {cu : Cur} {s : State}
    (h : s.canonical = true) (hb : ∀ c t, t.canonical = true → (body c t).Canonical) : (run i f occ body cu s).Canonical := by
  unfold run
  extract_lets c g adv r
  have hr : r.Canonical := hb _ _ (by exact h)
  split
  · trivial
  · split
    · trivial
    · split
      · exact h
      · split
        · split
          · exact ite_canonical h h
          · exact h
        · split
          · exact ite_canonical h h
          · split
            · exact trapped_canonical hr
            · apply closedPush_canonical
              clear_value r
              split
              · exact popAll_canonical hr
              · exact hr
              · exact hr

theorem settleRes_canonical {cu : Cur} {size : Nat} {s : State} {r : Res} (h : s.canonical = true) (hr : r.Canonical) :
    NextCanonical (settleRes cu size s r) := by
  unfold settleRes
  extract_lets halted fin held at_
  have hfin : ∀ t b, t.canonical = true → NextCanonical (fin t b) := by
    intro t b ht
    simp only [fin, halted]
    split
    · trivial
    · exact ht
  split
  · exact hfin _ _ hr
  · exact hfin _ _ hr
  · exact hfin _ _ (takeFault_canonical h)
  · exact hfin _ _ (takeFault_canonical hr)
  · split
    · next e => exact hfin _ _ (some_canonical e (takeReplay_canonical h))
    · exact hfin _ _ h

/-- An instruction whose meaning keeps the form keeps it. -/
theorem issueOcc_canonical {i : Instr} {f : Fmt} {occ : Ctx → State → Nat} {body : Ctx → State → Res} {s : State} (h : s.canonical = true)
    (hb : ∀ c t, t.canonical = true → (body c t).Canonical) : NextCanonical (issueOcc i f occ body s) := by
  unfold issueOcc
  split
  · exact h
  · exact settleRes_canonical h (run_canonical h hb)

theorem issue_canonical {i : Instr} {f : Fmt} {body : Ctx → State → Res} {s : State} (h : s.canonical = true)
    (hb : ∀ c t, t.canonical = true → (body c t).Canonical) : NextCanonical (issue i f body s) :=
  issueOcc_canonical h hb

theorem issueOk_canonical {i : Instr} {f : Fmt} {eff : Ctx → State → State} {s : State} (h : s.canonical = true)
    (he : ∀ c t, t.canonical = true → (eff c t).canonical = true) : NextCanonical (issueOk i f eff s) :=
  issue_canonical h he

/-! ### Control flow -/

theorem branch_canonical {link : Bool} {c : Ctx} {s : State} (h : s.canonical = true) : (branch link c s).Canonical := by
  unfold branch
  extract_lets ls s1
  have hs1 : s1.canonical = true := ite_canonical (wr_canonical h) h
  split
  · exact trivial
  · exact hs1

theorem execSvc_canonical {f : Fmt} {s : State} (h : s.canonical = true) : NextCanonical (execSvc f s) := by
  unfold execSvc
  refine issue_canonical h (fun c t ht => ?_)
  split
  · exact h
  · exact mboxAdd_canonical ht

/-! ### CP registers -/

theorem dpcfgStore_canonical {s : State} {i v : Nat} (h : s.canonical = true) : (s.dpcfgStore i v).canonical = true :=
  ite_canonical (setCpw_canonical (setCpw_canonical h _ _) _ _) (setCpw_canonical h _ _)

theorem uitcfgStore_canonical {s : State} {t v : Nat} (h : s.canonical = true) : (s.uitcfgStore t v).canonical = true := setCpw_canonical h _ _

theorem dequeStore_canonical {s : State} {i k v : Nat} (h : s.canonical = true) : (s.dequeStore i k v).canonical = true :=
  ite_canonical (setCpw_canonical h _ _) (ite_canonical (setCpw_canonical h _ _) h)

theorem sendPtpm_canonical {s : State} {d : Nat} (h : s.canonical = true) : (s.sendPtpm d).canonical = true := sendPacket_canonical (by exact h) _

theorem reparent_canonical {s : State} (h : s.canonical = true) : s.reparent.canonical = true := by
  unfold State.reparent
  extract_lets w
  refine ite_canonical h ?_
  split
  · exact setCpw_canonical h _ _
  · exact h

theorem gpctlStore_canonical {s : State} {i v : Nat} (h : s.canonical = true) : (s.gpctlStore i v).canonical = true :=
  ite_canonical (reroute_canonical (reparent_canonical (setCpw_canonical h _ _))) h

theorem ptpcfgStore_canonical {s : State} {v : Nat} (h : s.canonical = true) : (s.ptpcfgStore v).canonical = true := setCpw_canonical h _ _

theorem cpStore_canonical {s : State} {off size v : Nat} (h : s.canonical = true) : (s.cpStore off size v).canonical = true := by
  unfold State.cpStore
  refine ite_canonical h ?_
  refine ite_canonical (dpcfgStore_canonical h) ?_
  refine ite_canonical (uitcfgStore_canonical h) ?_
  refine ite_canonical (dequeStore_canonical h) ?_
  refine ite_canonical (gpctlStore_canonical h) ?_
  refine ite_canonical (ptpcfgStore_canonical h) ?_
  refine ite_canonical (setCpw_canonical h _ _) ?_
  refine ite_canonical (setCpw_canonical h _ _) ?_
  refine ite_canonical (ite_canonical (setCpw_canonical h _ _) h) ?_
  refine ite_canonical h ?_
  exact ite_canonical (setCpw_canonical h _ _) (ite_canonical (setCpw_canonical h _ _) (setCpw_canonical h _ _))

theorem winLoad_canonical {s : State} {ac : Acc} {c o : Nat} (h : s.canonical = true) : (s.winLoad ac c o).2.canonical = true := by
  unfold State.winLoad
  split
  · exact loadSpBy_canonical h
  · exact h
  · exact raceRead_canonical h _ _ _
  · exact h

theorem winPut_canonical {s : State} {c : Nat} {at_ : Win} {v : Word} (h : s.canonical = true) : (s.winPut c at_ v).canonical = true := by
  unfold State.winPut
  split <;> exact h

theorem winStore_canonical {s : State} {ac : Acc} {c o : Nat} {bs : List (Option Byte)} (h : s.canonical = true) :
    (s.winStore ac c o bs).canonical = true := by
  unfold State.winStore
  split
  · exact storeSpBy_canonical h _ _ _ _ _
  · exact winPut_canonical (raceWrite_canonical h _ _ _ _)
  · exact h

theorem leaveTiles_canonical {s : State} {c : Nat} {w : Warp} (h : s.canonical = true) : (s.leaveTiles c w).canonical = true := by
  unfold State.leaveTiles
  split <;> exact h

theorem ocmLoad_canonical {s : State} {ac : Acc} {o n : Nat} (h : s.canonical = true) : (s.ocmLoad ac o n).2.canonical = true := by
  unfold State.ocmLoad
  split
  · exact h
  · split
    · exact h
    · split
      · exact foldl_snd_canonical h fun _ _ ht => winLoad_canonical ht
      · exact h

theorem ocmStore_canonical {s : State} {ac : Acc} {o : Nat} {bs : List Byte} (h : s.canonical = true) : (s.ocmStore ac o bs).canonical = true := by
  unfold State.ocmStore
  refine ite_canonical (cpStore_canonical h) ?_
  split
  · exact canonical_foldl h fun _ _ ht => winStore_canonical ht
  · exact h

/-! ### Loads and stores of memory and of the on-chip map -/

theorem locate_err {c : Ctx} {s : State} {sp : Space} {k : AKind} {n l a : Nat} : ErrCanonical (c.locate s sp k n l a).1 := by
  unfold Ctx.locate
  extract_lets info
  split
  · exact trivial
  · split
    · split <;> exact trivial
    · split <;> exact trivial
    · split
      split
      · exact trivial
      · extract_lets r
        split <;> exact trivial
      · exact trivial

theorem locate_canonical {c : Ctx} {s : State} {sp : Space} {k : AKind} {n l a : Nat} (h : s.canonical = true) :
    (c.locate s sp k n l a).2.canonical = true := by
  unfold Ctx.locate
  extract_lets info
  split
  · exact h
  · split
    · split <;> exact h
    · split <;> exact h
    · split
      rename_i s1 e
      have hs1 : s1.canonical = true := snd_canonical e (xlate_canonical h)
      split <;> exact hs1

theorem locateAll_canonical {c : Ctx} {sp : Space} {k : AKind} {n : Nat} {addr : Nat → Nat} {l : List Nat} {acc : List LAcc} {s : State}
    (h : s.canonical = true) : (c.locateAll sp k n addr l acc s).Canonical := by
  induction l generalizing acc s with
  | nil => exact h
  | cons x t ih =>
    unfold Ctx.locateAll
    split
    · next e => exact fst_err e locate_err
    · next e => exact ih (snd_canonical e (locate_canonical h))

theorem readLoc_canonical {c : Ctx} {s : State} {ac : Acc} {ro : Bool} {x : LAcc} {n : Nat} (h : s.canonical = true) :
    (c.readLoc s ac ro x n).2.2.canonical = true := by
  unfold Ctx.readLoc
  split
  · split
    · exact h
    · split
      rename_i s2 e
      have hs2 : s2.canonical = true := snd_canonical e (loadPA_canonical h _ _ _)
      extract_lets older
      split <;> exact hs2
  · exact loadHost_canonical h
  · exact ocmLoad_canonical h
  · exact loadSp_canonical h
  · exact h
  · exact h

theorem writeLoc_canonical {s : State} {ac : Acc} {x : Loc} {bs : List Byte} {rmw : Bool} (h : s.canonical = true) :
    (s.writeLoc ac x bs rmw).canonical = true := by
  unfold State.writeLoc
  split
  · exact storePA_canonical h _ _ _ _
  · exact storeHost_canonical h _ _ _ _
  · exact ocmStore_canonical h
  · exact storeSp_canonical h _ _ _ _ _
  · exact h

theorem sendReq_canonical {s : State} {c wix : Nat} {x : Packet × Req} (h : s.canonical = true) : (s.sendReq c wix x).canonical = true :=
  sendPacket_canonical (by exact h) _

theorem requests_canonical {c : Ctx} {s : State} {ls : List LAcc} {opc per n : Nat} {sx : Bool} {pay : List LAcc → List Byte}
    (h : s.canonical = true) : 
    (c.requests s ls opc per n sx pay).2.canonical = true := by
  unfold Ctx.requests
  refine foldl_snd_canonical h fun t k ht => ?_
  refine foldl_snd_canonical ht fun t k ht => ?_
  extract_lets va
  split
  rename_i s1 e
  have hs1 : s1.canonical = true := snd_canonical e (hotCount_canonical ht)
  split
  · exact hs1
  · exact sendReq_canonical hs1

theorem sendLater_canonical {s : State} {c wix : Nat} (h : s.canonical = true) : (s.sendLater c wix).canonical = true := by
  unfold State.sendLater
  refine canonical_foldl h fun t k ht => ?_
  split
  · exact ht
  · exact ite_canonical ht (sendReq_canonical ht)

theorem load_canonical {c : Ctx} {s0 s : State} {sp : Space} {n : Nat} {sx : Bool} {sh : Nat} {ac : Acc} {ro : Bool} (h : s0.canonical = true)
    (hs : s.canonical = true) : 
    (c.load s0 s sp n sx sh ac ro).Canonical := by
  unfold Ctx.load
  split
  · next e => exact chk_bad e (locateAll_canonical hs)
  · rename_i s1 e
    have hs1 : s1.canonical = true := chk_ok e (locateAll_canonical hs)
    split
    · exact trivial
    · split
      · exact h
      · exact requests_canonical (foldl_thd_canonical hs1 fun _ _ ht => readLoc_canonical ht)

theorem wholeSectors_canonical {s : State} {ls : List LAcc} {n : Nat} (h : s.canonical = true) : (s.wholeSectors ls n).canonical = true :=
  ite_canonical h h

theorem store_canonical {c : Ctx} {s0 s : State} {sp : Space} {n sh : Nat} {ac : Acc} (h : s0.canonical = true) (hs : s.canonical = true) :
    (c.store s0 s sp n sh ac).Canonical := by
  unfold Ctx.store
  split
  · next e => exact chk_bad e (locateAll_canonical hs)
  · rename_i s1 e
    have hs1 : s1.canonical = true := chk_ok e (locateAll_canonical hs)
    split
    · exact trivial
    · extract_lets peers val s2
      have hs2 : s2.canonical = true := canonical_foldl (wholeSectors_canonical hs1) fun _ _ ht => writeLoc_canonical ht
      split
      · exact h
      · split
        · exact requests_canonical hs2
        · exact hs2

theorem rmw_canonical {c : Ctx} {s : State} {ac : Acc} {o : AOp} {t : Ty} {x : LAcc} {cv fv : Nat} (h : s.canonical = true) :
    (c.rmw s ac o t x cv fv).2.2.canonical = true := by
  unfold Ctx.rmw
  split
  rename_i t' e
  have ht' : t'.canonical = true := thd_canonical e (readLoc_canonical h)
  extract_lets old
  split
  · exact ht'
  · split
    · exact writeLoc_canonical ht'
    · exact ht'

theorem atom_canonical {c : Ctx} {s0 s : State} {o : AOp} {t : Ty} {ord : Ord} {sc : Scope} {pr sp : Bool} {sh : Nat} (h : s0.canonical = true)
    (hs : s.canonical = true) : 
    (c.atom s0 s o t ord sc pr sp sh).Canonical := by
  unfold Ctx.atom
  extract_lets n space ac cv fv
  split
  · next e => exact chk_bad e (locateAll_canonical hs)
  · rename_i s1 e
    have hs1 : s1.canonical = true := chk_ok e (locateAll_canonical hs)
    split
    · exact trivial
    · split
      · exact h
      · exact requests_canonical (foldl_thd_canonical hs1 fun _ _ ht => rmw_canonical ht)

theorem reduce_canonical {c : Ctx} {s0 s : State} {o : AOp} {t : Ty} {ord : Ord} {sc : Scope} {sh : Nat} (h : s0.canonical = true)
    (hs : s.canonical = true) : 
    (c.reduce s0 s o t ord sc sh).Canonical := by
  unfold Ctx.reduce
  extract_lets n ac cv
  split
  · next e => exact chk_bad e (locateAll_canonical hs)
  · rename_i s1 e
    have hs1 : s1.canonical = true := chk_ok e (locateAll_canonical hs)
    split
    · exact trivial
    · extract_lets peers locals
      split
      · exact h
      · split
        extract_lets s2 s3
        have hs3 : s3.canonical = true := ite_canonical hs1 hs1
        split
        · exact requests_canonical hs3
        · exact hs3

theorem redPoison_canonical {s : State} {who : Agent} {pa : Nat} (h : s.canonical = true) : (s.redPoison who pa).canonical = true := by
  unfold State.redPoison
  split <;> exact ringRec_canonical h _

theorem redLane_canonical {s : State} {who : Agent} {r : RedLane} (h : s.canonical = true) : (s.redLane who r).canonical = true := by
  unfold State.redLane
  extract_lets n ac
  refine ite_canonical (hostNote_canonical (by exact loadHost_canonical h) _ _ _ _) ?_
  refine ite_canonical (redPoison_canonical h) ?_
  exact storeNote_canonical (by exact raceRead_canonical (touch_canonical h _) _ _ _) _ _ _ _

/-! ### What the CP does for jobs, and barriers over the grid and the fabric -/

theorem cpXlateRec_canonical {s : State} {gen va code level kind : Nat} (h : s.canonical = true) :
    (s.cpXlateRec gen va code level kind).canonical = true :=
  ringRec_canonical (walkKey_canonical h) _

theorem cpOcmRec_canonical {s : State} {gen va : Nat} (h : s.canonical = true) : (s.cpOcmRec gen va).canonical = true := ringRec_canonical h _

theorem cpRequest_canonical {s : State} {gen dst opc pa : Nat} {pay : List Byte} (h : s.canonical = true) :
    (s.cpRequest gen dst opc pa pay).2.canonical = true :=
  sendPacket_canonical (by exact h) _

theorem farPacket_canonical {s : State} {gen va dev pa opc n : Nat} {ac : Acc} {pay : List Byte} (h : s.canonical = true) :
    (s.farPacket gen va dev pa opc n ac pay).2.canonical = true :=
  hotCount_canonical h

theorem farStore_canonical {s : State} {gen va dev pa opc n : Nat} {ac : Acc} {pay : List Byte} (h : s.canonical = true) :
    (s.farStore gen va dev pa opc n ac pay).2.canonical = true :=
  sendPacket_canonical (farPacket_canonical (pay := pay) h) _

theorem jobWrite_canonical {s : State} {gen va : Nat} {ac : Acc} {bs : List Byte} (h : s.canonical = true) :
    (s.jobWrite gen va ac bs).2.canonical = true := by
  unfold State.jobWrite
  split
  · split
    · exact storePA_canonical h _ _ _ _
    · exact farStore_canonical h
    · exact storeHost_canonical h _ _ _ _
    · exact cpOcmRec_canonical h
  · exact cpXlateRec_canonical h
  · exact ringRec_canonical h _

theorem jobStore_canonical {s : State} {gen va : Nat} {ac : Acc} {bs : List Byte} (h : s.canonical = true) :
    (s.jobStore gen va ac bs).canonical = true :=
  jobWrite_canonical h

theorem jobAdd_canonical {s : State} {gen va : Nat} {who : Agent} (h : s.canonical = true) : (s.jobAdd gen va who).2.canonical = true := by
  unfold State.jobAdd
  extract_lets ac
  split
  · split
    · exact redLane_canonical h
    · exact farStore_canonical h
    · exact storeHost_canonical (by exact loadHost_canonical h) _ _ _ _
    · exact cpOcmRec_canonical h
  · exact cpXlateRec_canonical h
  · exact ringRec_canonical h _

theorem cpRead_canonical {s : State} {gen : Nat} {ac : Acc} {pa n : Nat} (h : s.canonical = true) : (s.cpRead gen ac pa n).2.canonical = true := by
  unfold State.cpRead
  split
  · exact ringRec_canonical h _
  · exact loadPA_canonical h _ _ _

theorem phaseRead_canonical {s : State} {r : CpRead} (h : s.canonical = true) : (s.phaseRead r).canonical = true := cpRequest_canonical h

theorem phaseTurn_canonical {s : State} {dst pa : Nat} (h : s.canonical = true) : (s.phaseTurn dst pa).canonical = true := by
  unfold State.phaseTurn
  extract_lets mine
  refine ite_canonical h ?_
  split
  · exact phaseRead_canonical h
  · exact h

theorem phaseWrite_canonical {s : State} {r : CpRead} {old : Nat} (h : s.canonical = true) : (s.phaseWrite r old).canonical = true :=
  cpRequest_canonical h

theorem phaseEnd_canonical {s : State} {r : CpRead} (h : s.canonical = true) : (s.phaseEnd r).canonical = true := phaseTurn_canonical h

theorem jobPhase_canonical {s : State} {gen va status : Nat} {sc : Scope} (h : s.canonical = true) :
    (s.jobPhase gen va status sc).canonical = true := by
  unfold State.jobPhase
  extract_lets ac
  split
  · split
    · exact storePA_canonical (by exact cpRead_canonical h) _ _ _ _
    · exact phaseTurn_canonical (hotCount_canonical (hotCount_canonical h))
    · exact storeHost_canonical (by exact loadHost_canonical h) _ _ _ _
    · exact cpOcmRec_canonical h
  · exact cpXlateRec_canonical h
  · exact ringRec_canonical h _

theorem gbArrive_canonical {s : State} {gen g : Nat} (h : s.canonical = true) : (s.gbArrive gen g).canonical = true :=
  ite_canonical h (jobPhase_canonical h)

theorem updFb_canonical {s : State} {b : Nat} {f : FBar → FBar} (h : s.canonical = true) : (s.updFb b f).canonical = true := ite_canonical h h

theorem fbSend_canonical {s : State} {gen dst opc b : Nat} {pay : List Byte} (h : s.canonical = true) :
    (s.fbSend gen dst opc b pay).canonical = true :=
  sendPacket_canonical (by exact h) _

theorem fbArrive_canonical {s : State} {gen b : Nat} (h : s.canonical = true) : (s.fbArrive gen b).canonical = true :=
  ite_canonical (updFb_canonical h) (fbSend_canonical (updFb_canonical (updFb_canonical h)))

theorem fbRelease_canonical {s : State} {b status : Nat} (h : s.canonical = true) : (s.fbRelease b status).canonical = true :=
  jobPhase_canonical (updFb_canonical h)

theorem fbDeclare_canonical {s : State} {b bits : Nat} (h : s.canonical = true) : (s.fbDeclare b bits).canonical = true := by
  unfold State.fbDeclare
  refine ite_canonical h ?_
  extract_lets on mask tset s1
  have hs1 : s1.canonical = true :=
    canonical_foldl h fun _ _ ht => ite_canonical (ite_canonical (setCpw_canonical (setCpw_canonical ht _ _) _ _) (setCpw_canonical ht _ _)) ht
  exact canonical_foldl hs1 fun _ _ ht => sendPacket_canonical ht _

theorem fbRecord_canonical {s : State} {b k e : Nat} {lags : List (Nat × Nat)} (h : s.canonical = true) : (s.fbRecord b k e lags).canonical = true :=
  ite_canonical h (jobStore_canonical (jobStore_canonical (canonical_foldl h fun _ _ ht => jobStore_canonical ht)))

theorem fbCheck_canonical {b n : Nat} : ∀ {s : State}, s.canonical = true → (s.fbCheck b n).canonical = true := by
  induction n with
  | zero => exact fun h => h
  | succ n ih =>
    intro s h
    unfold State.fbCheck
    extract_lets x live got arr e lags k s1 hist s2 s3 status word
    have hs2 : s2.canonical = true := updFb_canonical (fbRecord_canonical h)
    have hs3 : s3.canonical = true :=
      canonical_foldl hs2 fun _ _ ht => ite_canonical ht (fbSend_canonical (updFb_canonical ht))
    exact ite_canonical h (ih (canonical_foldl hs3 fun _ _ ht => fbSend_canonical ht))

theorem fbRoot_canonical {s : State} {gen b src ptb : Nat} (h : s.canonical = true) : (s.fbRoot gen b src ptb).canonical = true := by
  unfold State.fbRoot
  exact ite_canonical h (fbCheck_canonical (updFb_canonical h))

theorem fbOut_canonical {s : State} {b src : Nat} {lost : Bool} (h : s.canonical = true) : (s.fbOut b src lost).canonical = true := by
  unfold State.fbOut
  exact ite_canonical h (fbCheck_canonical (ite_canonical (updFb_canonical h) (ringRec_canonical (updFb_canonical h) _)))

theorem barrierPacket_canonical {s : State} {p : Packet} (h : s.canonical = true) : (s.barrierPacket p).canonical = true := by
  unfold State.barrierPacket
  extract_lets b v
  refine ite_canonical h ?_
  refine ite_canonical (fbRoot_canonical h) ?_
  exact ite_canonical (fbRelease_canonical h) (ite_canonical (fbOut_canonical h) (fbDeclare_canonical h))

theorem fbNoRoot_canonical {s : State} {b : Nat} (h : s.canonical = true) : (s.fbNoRoot b).canonical = true :=
  ite_canonical (ringRec_canonical (updFb_canonical h) _) (jobPhase_canonical (ringRec_canonical (updFb_canonical h) _))

/-! ### Park records and vaults -/

theorem layPark_canonical {s : State} {c : Nat} {w : Warp} (h : s.canonical = true) : (s.layPark c w).canonical = true := pokePA_canonical h _ _

theorem layParks_canonical {s : State} {c fresh : Nat} (h : s.canonical = true) : (s.layParks c fresh).canonical = true :=
  foldl_snd_canonical h fun _ _ ht => ite_canonical (layPark_canonical ht) ht

theorem layWarp_canonical {s : State} {pa : Nat} {g : Group} {w : Warp} (h : s.canonical = true) : (s.layWarp pa g w).canonical = true := by
  unfold State.layWarp
  split
  · exact h
  · extract_lets s1 s2
    have hs1 : s1.canonical = true := canonical_foldl h fun _ _ ht => pokePA_canonical (pokePA_canonical ht _ _) _ _
    have hs2 : s2.canonical = true := canonical_foldl hs1 fun _ _ ht => pokePA_canonical ht _ _
    exact pokePA_canonical hs2 _ _

theorem layEntry_canonical {s : State} {pa : Nat} {w : Warp} (h : s.canonical = true) : (s.layEntry pa w).canonical = true := pokePA_canonical h _ _

theorem layAgain_canonical {s : State} {v : Vault} {w : Warp} (h : s.canonical = true) : (s.layAgain v w).canonical = true :=
  ite_canonical (layWarp_canonical h) (layEntry_canonical (pokePA_canonical h _ _))

theorem layVault_canonical {s : State} {v : Vault} {aclk : Nat} (h : s.canonical = true) : (s.layVault v aclk).canonical = true := by
  unfold State.layVault
  extract_lets s1 s2 s3 s4
  have hs1 : s1.canonical = true := pokePA_canonical h _ _
  have hs2 : s2.canonical = true := canonical_foldl hs1 fun _ _ ht => pokePA_canonical ht _ _
  have hs3 : s3.canonical = true := canonical_foldl hs2 fun _ _ ht => layWarp_canonical ht
  have hs4 : s4.canonical = true := canonical_foldl hs3 fun _ _ ht => layEntry_canonical ht
  exact pokePA_canonical hs4 _ _

/-! ### Loads and fences -/

theorem execLdk_canonical {f : Fmt} {cnt : BitVec 3} {s : State} (h : s.canonical = true) : NextCanonical (execLdk f cnt s) := by
  unfold execLdk
  refine issue_canonical h (fun c t ht => ?_)
  extract_lets n a info bs
  split
  · exact trivial
  · split
    · exact trivial
    · exact ht

theorem execFence_canonical {f : Fmt} {ord : Ord} {sco : Scope} {s : State} (h : s.canonical = true) : NextCanonical (execFence f ord sco s) := by
  unfold execFence
  refine issue_canonical h (fun c t ht => ?_)
  extract_lets acq
  split
  · exact h
  · exact ht

theorem execRcfence_canonical {f : Fmt} {s : State} (h : s.canonical = true) : NextCanonical (execRcfence f s) := by
  unfold execRcfence
  refine issue_canonical h (fun c t ht => ?_)
  split
  · exact h
  · exact ht

/-! ### Barrier objects, waits and queues -/

theorem parkWarp_canonical {s : State} {c wix : Nat} (h : s.canonical = true) : (s.parkWarp c wix).canonical = true :=
  ite_canonical h (layParks_canonical (leaveTiles_canonical h))

theorem barStep_canonical {s : State} {who : Agent} {sc : Scope} {rel : Bool} {core phys : Nat} {f : Bar → Bar} (h : s.canonical = true) :
    (s.barStep who sc rel core phys f).2.canonical = true := by
  unfold State.barStep
  split
  next e => exact storeSp_canonical (snd_canonical e (loadSp_canonical h)) _ _ _ _ _

theorem barPost_canonical {s : State} {who : Agent} {core phys n : Nat} (h : s.canonical = true) : (s.barPost who core phys n).canonical = true :=
  barStep_canonical h

theorem barAt_err {c : Ctx} {s : State} : ErrCanonical (c.barAt s) := by
  unfold Ctx.barAt
  extract_lets a
  split
  · exact trivial
  · next e => exact fst_err e locate_err
  · exact trivial

theorem execBini_canonical {f : Fmt} {s : State} (h : s.canonical = true) : NextCanonical (execBini f s) := by
  unfold execBini
  refine issue_canonical h fun c t ht => ?_
  split
  · next e => exact err_canonical e barAt_err
  · extract_lets n
    split
    · exact trivial
    · split
      · split
        rename_i t1 e
        have ht1 : t1.canonical = true := snd_canonical e (barStep_canonical ht)
        split
        · exact ht1
        · exact trivial
      · split
        · exact trivial
        · exact updCore_canonical (storeSp_canonical ht _ _ _ _ _)

theorem execBarv_canonical {f : Fmt} {sco : Scope} {s : State} (h : s.canonical = true) : NextCanonical (execBarv f sco s) := by
  unfold execBarv
  refine issue_canonical h (fun c t ht => ?_)
  split
  · next e => exact err_canonical e barAt_err
  · extract_lets n
    split
    · exact h
    · split
      · exact trivial
      · split
        rename_i t1 e'
        have ht1 : t1.canonical = true := snd_canonical e' (barStep_canonical ht)
        split
        · exact trivial
        · exact wr_canonical ht1

theorem execBexp_canonical {f : Fmt} {s : State} (h : s.canonical = true) : NextCanonical (execBexp f s) := by
  unfold execBexp
  refine issue_canonical h (fun c t ht => ?_)
  split
  · next e => exact err_canonical e barAt_err
  · extract_lets n
    split
    · exact trivial
    · split
      rename_i t1 e'
      have ht1 : t1.canonical = true := snd_canonical e' (barStep_canonical ht)
      split
      · exact trivial
      · exact ht1

theorem learnRetired_canonical {s : State} {c wix : Nat} (h : s.canonical = true) : (s.learnRetired c wix).canonical = true := by
  unfold State.learnRetired
  extract_lets w s1
  have hs1 : s1.canonical = true := canonical_foldl h fun _ _ ht => ht
  exact hs1

theorem phase_canonical {s : State} {c wix core phys : Nat} {sc : Scope} (h : s.canonical = true) : (s.phase c wix core phys sc).2.canonical = true :=
  loadSp_canonical h

theorem execAwaitPh_canonical {f : Fmt} {sco : Scope} {s : State} (h : s.canonical = true) : NextCanonical (execAwaitPh f sco s) := by
  unfold execAwaitPh
  refine issue_canonical h (fun c t ht => ?_)
  split
  · next e => exact err_canonical e barAt_err
  · split
    · exact trivial
    · extract_lets tok
      split
      rename_i t1 e'
      have ht1 : t1.canonical = true := snd_canonical e' (phase_canonical ht)
      split
      · exact ht1
      · exact ht

theorem retest_canonical {s : State} {c wix : Nat} (h : s.canonical = true) : (s.retest c wix).canonical = true := by
  unfold State.retest
  extract_lets w done
  have hdone : ∀ t : State, t.canonical = true → (done t).canonical = true := fun _ ht => ht
  split
  · exact ite_canonical (hdone _ (learnRetired_canonical h)) h
  · split
    next e => exact ite_canonical (hdone _ (snd_canonical e (phase_canonical h))) h
  · exact h

theorem register_canonical {c : Ctx} {s0 s : State} {x : LAcc} {m : Mon} {wait : Wait} (h : s0.canonical = true) (hs : s.canonical = true) :
    (c.register s0 s x m wait).Canonical := by
  unfold Ctx.register
  extract_lets parked ended
  split
  · split
    · exact h
    · split
      · rename_i x' h' t e
        have ht : t.canonical = true := snd_canonical e (monRegister_canonical hs)
        exact ht
      · rename_i t e
        have ht : t.canonical = true := snd_canonical e (monRegister_canonical hs)
        exact parkWarp_canonical ht
  · split
    · exact h
    · exact parkWarp_canonical (sendReq_canonical (hotCount_canonical hs))
  · exact h

theorem awaitAt_canonical {c : Ctx} {s : State} {n a : Nat} {k : State → LAcc → Res} (h : s.canonical = true)
    (hk : ∀ t x, t.canonical = true → (k t x).Canonical) : (c.awaitAt s n a k).Canonical := by
  unfold Ctx.awaitAt
  split
  · next e => exact chk_bad e (locateAll_canonical h)
  · next e =>
    split
    · split
      · exact trivial
      · exact trivial
      · split
        · exact trivial
        · exact hk _ _ (chk_ok e (locateAll_canonical h))
    · exact h

theorem execGbarGrid_canonical {f : Fmt} {s : State} (h : s.canonical = true) : NextCanonical (execGbarGrid f s) := by
  unfold execGbarGrid
  refine issue_canonical h (fun c t ht => ?_)
  extract_lets g gen
  split
  · exact h
  · split
    · exact trivial
    · exact gbArrive_canonical ht

theorem execGbarFab_canonical {f : Fmt} {s : State} (h : s.canonical = true) : NextCanonical (execGbarFab f s) := by
  unfold execGbarFab
  refine issue_canonical h (fun c t ht => ?_)
  extract_lets b
  split
  · exact h
  · split
    · exact trivial
    · exact fbArrive_canonical ht

theorem tryClose_canonical {s : State} {c gid k : Nat} (h : s.canonical = true) : (s.tryClose c gid k).canonical = true := ite_canonical h h

theorem execQcls_canonical {f : Fmt} {qn : BitVec 3} {s : State} (h : s.canonical = true) : NextCanonical (execQcls f qn s) := by
  unfold execQcls
  refine issue_canonical h (fun c t ht => ?_)
  split
  split
  · exact trivial
  · split
    · exact trivial
    · exact tryClose_canonical ht

theorem execQstat_canonical {f : Fmt} {qn : BitVec 3} {s : State} (h : s.canonical = true) : NextCanonical (execQstat f qn s) := by
  unfold execQstat
  refine issue_canonical h (fun c t ht => ?_)
  split
  split
  · exact trivial
  · exact wr_canonical ht

/-! ### Events, time and fetches -/

theorem out_canonical {s : State} (h : s.canonical = true) : NextCanonical s.out := by
  unfold State.out
  split
  · exact trivial
  · exact h

theorem elapse_canonical {s : State} {dt : Nat} (h : s.canonical = true) : (s.elapse dt).canonical = true := by
  unfold State.elapse
  split
  · exact h
  · have hi : s.scanPaths.idleLinks.canonical = true := idleLinks_canonical (scanPaths_canonical h)
    exact hi

theorem tickSlice_canonical {s : State} {c sl : Nat} (h : s.canonical = true) : (s.tickSlice c sl).canonical = true :=
  canonical_foldl h fun _ _ ht => ite_canonical ht (retest_canonical ht)

theorem fetchBlock_canonical {s : State} {c wix va : Nat} (h : s.canonical = true) : (s.fetchBlock c wix va).2.canonical = true := by
  unfold State.fetchBlock
  extract_lets w gen ac
  split
  rename_i s1 e
  have hs1 : s1.canonical = true := snd_canonical e (xlate_canonical h)
  split
  · exact hs1
  · exact hs1
  · split
    · split
      · exact hs1
      · exact loadPA_canonical hs1 _ _ _
    · extract_lets d tag sec p s2
      have hs2 : s2.canonical = true := sendPacket_canonical (by exact hotCount_canonical hs1) _
      split
      · exact hs1
      · split
        · exact hs1
        · split
          · exact hs1
          · exact hs2
    · exact loadHost_canonical hs1
    · split
      · exact ocmLoad_canonical hs1
      · exact hs1

theorem fetchAt_canonical {s : State} {cu : Cur} {va : Nat} (h : s.canonical = true) : (s.fetchAt cu va).2.canonical = true := by
  unfold State.fetchAt
  split
  · next e => exact snd_canonical e (fetchBlock_canonical h)
  · next e => exact snd_canonical e (fetchBlock_canonical h)
  · next e => exact snd_canonical e (fetchBlock_canonical h)
  · next e => exact snd_canonical e (fetchBlock_canonical h)

theorem fetchNext_canonical {s : State} {cu : Cur} {bs : List Byte} (h : s.canonical = true) : (s.fetchNext cu bs).2.canonical = true := by
  unfold State.fetchNext
  extract_lets w
  split
  · split
    · next e => exact snd_canonical e (fetchAt_canonical h)
    · next e => exact snd_canonical e (fetchAt_canonical h)
  · exact h

theorem fetch_canonical {c wix : Nat} {ls : Mask} {fuel : Nat} {pc : DWord} {s : State} (h : s.canonical = true) :
    (s.fetch c wix ls fuel pc).2.canonical = true := by
  induction fuel generalizing s pc with
  | zero => exact h
  | succ fuel ih =>
    unfold State.fetch
    extract_lets w cu
    split
    · next e => exact snd_canonical e (fetchAt_canonical h)
    · next s1 e =>
      have h1 : s1.canonical = true := snd_canonical e (fetchAt_canonical h)
      split
      · next e => exact snd_canonical e (fetchNext_canonical h1)
      · next s2 e =>
        have h2 : s2.canonical = true := snd_canonical e (fetchNext_canonical h1)
        split
        · exact ih h2
        all_goals exact h2

/-! ### Tills, tasks, aborts, and the retirement of groups -/

theorem uitPut_canonical {s : State} {t cook seq : Nat} (h : s.canonical = true) : (s.uitPut t cook seq).canonical = true :=
  storePA_canonical (storePA_canonical h _ _ _ _) _ _ _ _

theorem userIrq_canonical {s : State} {t cook seq : Nat} (h : s.canonical = true) : (s.userIrq t cook seq).canonical = true :=
  ite_canonical h (ite_canonical h (uitPut_canonical h))

theorem pageIrq_canonical {s : State} {page cook seq : Nat} (h : s.canonical = true) : (s.pageIrq page cook seq).canonical = true := by
  unfold State.pageIrq
  extract_lets cfg t
  refine ite_canonical h ?_
  split
  · exact userIrq_canonical h
  · exact h
  · exact h
  · exact h

theorem completion_canonical {s : State} {gen page comp cook seq at_ end_ launched status : Nat} (h : s.canonical = true) :
    (s.completion gen page comp cook seq at_ end_ launched status).canonical = true := by
  unfold State.completion
  extract_lets ac rest cstat
  split
  · split
    · exact pageIrq_canonical (jobStore_canonical h)
    · split
      · next s1 e =>
        have h1 : s1.canonical = true := snd_canonical e (jobWrite_canonical h)
        exact pageIrq_canonical (jobStore_canonical h1)
      · next k s1 e =>
        have h1 : s1.canonical = true := snd_canonical e (jobWrite_canonical h)
        split
        rename_i s2 e2
        have h2 : s2.canonical = true := snd_canonical e2 (farPacket_canonical h1)
        split
        · exact pageIrq_canonical h2
        · exact h2
  · exact pageIrq_canonical (jobStore_canonical h)

theorem completeGrid_canonical {s : State} {g : Grid} {status : Nat} (h : s.canonical = true) : (s.completeGrid g status).canonical = true := by
  unfold State.completeGrid
  split
  · exact h
  · exact completion_canonical h

theorem sendPren_canonical {s : State} {e : List Byte} {t : Nat} (h : s.canonical = true) : (s.sendPren e t).canonical = true :=
  canonical_foldl h fun _ _ ht => sendPacket_canonical ht _

theorem preemptEnd_canonical {s : State} {gen : Nat} (h : s.canonical = true) : (s.preemptEnd gen).canonical = true := by
  unfold State.preemptEnd
  refine ite_canonical h ?_
  split
  · exact sendPren_canonical h
  · exact h

/-- The escrow records and what waits for the fabric are no part of the form. -/
theorem withEsc_canonical {s : State} {es : List EscRec} {q : List (Nat × Nat × Next)} (h : s.canonical = true) :
    ({ s with esc := es, after := q } : State).canonical = true := h

theorem escFree_canonical {s : State} {i : Nat} (h : s.canonical = true) : (s.escFree i).canonical = true :=
  withEsc_canonical (setCpw_canonical h _ _)

theorem escBack_canonical {s : State} {i : Nat} (h : s.canonical = true) : (s.escBack i).canonical = true := by
  unfold State.escBack
  extract_lets dq cfg pos cap head n wait back
  split
  · exact h
  · split
    · exact h
    · split
      · split
        · exact escFree_canonical (setCpw_canonical (storePA_canonical h _ _ _ _) _ _)
        · exact h
      · exact h

theorem escRetry_canonical {s : State} (h : s.canonical = true) : s.escRetry.canonical = true :=
  canonical_foldl h fun _ _ ht => escBack_canonical ht

theorem leaveAll_canonical {s : State} {c : Nat} (h : s.canonical = true) : (s.leaveAll c).canonical = true :=
  canonical_foldl h fun _ _ ht => leaveTiles_canonical ht

theorem mayLose_canonical {s : State} {key : Nat} {r : WRec} {newer : List WRec} (h : s.canonical = true) :
    (s.mayLose key r newer).canonical = true := by
  unfold State.mayLose
  split
  · exact h
  · exact ite_canonical h (pokeRaw_canonical (by exact h) _ _ _)

theorem loseDirty_canonical {s : State} {gen key : Nat} (h : s.canonical = true) : (s.loseDirty gen key).canonical = true :=
  canonical_foldl h fun _ _ ht => ite_canonical (mayLose_canonical ht) ht

theorem abortGen_canonical {sA : State} {gen part : Nat} (h : sA.canonical = true) : (sA.abortGen gen part).canonical = true := by
  unfold State.abortGen
  extract_lets s s0 s1 s2 mine s3 s4 s5 dqOf s6 s7 s8
  have hs : s.canonical = true := ite_canonical h (loseDirty_canonical h)
  have h0 : s0.canonical = true := canonical_foldl hs fun _ _ ht => leaveAll_canonical ht
  have h1 : s1.canonical = true := h0
  have h2 : s2.canonical = true := canonical_foldl h1 fun _ _ ht => completeGrid_canonical ht
  have h3 : s3.canonical = true := canonical_foldl h2 fun _ _ ht => completion_canonical ht
  have h4 : s4.canonical = true := monRefillAll_canonical (by exact h3)
  have h5 : s5.canonical = true := canonical_foldl h4 fun _ _ ht => ite_canonical (setCpw_canonical ht _ _) ht
  have h6 : s6.canonical = true := canonical_foldl h5 fun _ _ ht => ite_canonical (setCpw_canonical ht _ _) ht
  have h7 : s7.canonical = true := by
    refine canonical_foldl h6 fun t i ht => ite_canonical ht (ite_canonical (escFree_canonical ht) ?_)
    split
    · exact ite_canonical (escBack_canonical ht) ht
    · exact ht
  have h8 : s8.canonical = true := canonical_foldl h7 fun _ _ ht => ite_canonical (fbOut_canonical ht) (sendPacket_canonical ht _)
  exact ringRec_canonical h8 _

theorem abortPart_canonical {s : State} {part cause : Nat} (h : s.canonical = true) : (s.abortPart part cause).canonical = true :=
  canonical_foldl h fun _ _ ht => abortGen_canonical (canonical_foldl ht fun _ _ hu => sendPacket_canonical hu _)

theorem examine_canonical {s : State} {gen nid die : Nat} (h : s.canonical = true) : (s.examine gen nid die).canonical = true := ite_canonical h h

theorem laySpill_canonical {s : State} {gen : Nat} {r : TRec} (h : s.canonical = true) : (s.laySpill gen r).canonical = true := by
  unfold State.laySpill
  split
  · exact ite_canonical (pokePA_canonical h _ _) h
  · exact h

theorem spillFull_canonical {s : State} {gen cap n : Nat} (h : s.canonical = true) : (s.spillFull gen cap n).canonical = true :=
  ite_canonical (ringRec_canonical (by exact h) _) h

theorem enterTill_canonical {s : State} {gen nid die : Nat} {r0 : TRec} (h : s.canonical = true) : (s.enterTill gen nid die r0).canonical = true := by
  unfold State.enterTill
  extract_lets area chip held spill cap n r s1 s2
  have h1 : s1.canonical = true := h
  have h2 : s2.canonical = true := ite_canonical (spillFull_canonical (laySpill_canonical h1)) h1
  exact ite_canonical (abortPart_canonical (ringRec_canonical h _)) (ite_canonical (rateRec_canonical h2 _ _) (examine_canonical h2))

theorem deliver_canonical {s : State} {gen nid idx : Nat} {die? : Option Nat} {bs : List Byte} {prov : Prov} {clk : Clock} (h : s.canonical = true) :
    (s.deliver gen nid idx die? bs prov clk).canonical = true :=
  ite_canonical h (enterTill_canonical h)

theorem rehome_canonical {s : State} {gen : Nat} (h : s.canonical = true) : (s.rehome gen).canonical = true :=
  ite_canonical h (canonical_foldl (by exact h) fun _ _ ht => canonical_foldl ht fun _ _ hu => enterTill_canonical hu)

theorem taskRec_canonical {s : State} {gen code n pa : Nat} {dev : Option Nat} (h : s.canonical = true) :
    (s.taskRec gen code n pa dev).canonical = true :=
  ringRec_canonical h _

theorem cpPeek_canonical {s : State} {gen pa n : Nat} (h : s.canonical = true) : (s.cpPeek gen pa n).2.canonical = true := by
  unfold State.cpPeek
  split
  · exact ringRec_canonical h _
  · exact ite_canonical (keyRec_canonical h _) h

theorem taskSet_canonical {s : State} {gen n pa count : Nat} {crt : Bool} (h : s.canonical = true) :
    (s.taskSet gen n pa count crt).canonical = true := by
  unfold State.taskSet
  extract_lets ac
  split
  · split
    rename_i s0 e
    have h0 : s0.canonical = true := snd_canonical e (cpPeek_canonical h)
    exact deliver_canonical (storePA_canonical h0 _ _ _ _)
  · exact storePA_canonical h _ _ _ _

theorem taskCreate_canonical {s : State} {gen n c : Nat} {bs : List Byte} {who : Agent} (h : s.canonical = true) :
    (s.taskCreate gen n c bs who).canonical = true := by
  unfold State.taskCreate
  split
  · exact taskRec_canonical h
  · split
    rename_i s0 e
    have h0 : s0.canonical = true := snd_canonical e (cpPeek_canonical h)
    exact ite_canonical (taskRec_canonical h0) (taskSet_canonical (storePA_canonical (by exact h0) _ _ _ _))

theorem taskDec_canonical {s : State} {gen n : Nat} {who : Agent} {dev : Option Nat} (h : s.canonical = true) :
    (s.taskDec gen n who dev).canonical = true := by
  unfold State.taskDec
  split
  · exact taskRec_canonical h
  · split
    rename_i s0 e
    have h0 : s0.canonical = true := snd_canonical e (cpPeek_canonical h)
    exact ite_canonical (taskRec_canonical h0) (taskSet_canonical (by exact h0))

theorem taskRetire_canonical {s : State} {gen n : Nat} (h : s.canonical = true) : (s.taskRetire gen n).canonical = true := by
  unfold State.taskRetire
  split
  · exact h
  · exact ite_canonical (storePA_canonical (by exact cpPeek_canonical h) _ _ _ _) (cpPeek_canonical h)

theorem updVault_canonical {s : State} {v : Vault} {wix : Nat} {f : Warp → Warp} (h : s.canonical = true) :
    (s.updVault v wix f).canonical = true := by
  unfold State.updVault
  extract_lets s1
  split
  · exact layAgain_canonical h
  · exact h

theorem layIf_canonical {s : State} {c wix : Nat} (h : s.canonical = true) : (s.layIf c wix).canonical = true := ite_canonical (layPark_canonical h) h

theorem mapWarp_canonical {s : State} {c gen wix : Nat} {f : Warp → Warp} (h : s.canonical = true) : (s.mapWarp c gen wix f).canonical = true := by
  unfold State.mapWarp
  refine ite_canonical (layIf_canonical h) ?_
  split
  · exact updVault_canonical h
  · exact h

theorem mapGroup_canonical {s : State} {c gen gid : Nat} {f : Group → Group} (h : s.canonical = true) : (s.mapGroup c gen gid f).canonical = true :=
  ite_canonical h h

theorem settleProv_canonical {s : State} {c : Nat} {g : Group} {p : Prov} {bs : List Byte} (h : s.canonical = true) :
    (s.settleProv c g p bs).canonical = true := by
  unfold State.settleProv
  extract_lets s1 s2
  have hs1 : s1.canonical = true := by
    dsimp only [s1]
    split
    · exact taskRetire_canonical h
    · exact h
  have hs2 : s2.canonical = true := ite_canonical (jobAdd_canonical hs1) hs1
  split
  · exact sendPacket_canonical (by exact hs2) _
  · exact hs2

theorem endGrid_canonical {s : State} {gr : Grid} (h : s.canonical = true) : (s.endGrid gr).1.canonical = true := by
  unfold State.endGrid
  split
  · exact mapGroup_canonical h
  · exact h

theorem writeCompletion_canonical {s : State} {id : Nat} (h : s.canonical = true) : (s.writeCompletion id).canonical = true := by
  unfold State.writeCompletion
  split
  · split
    · exact ite_canonical (preemptEnd_canonical (completeGrid_canonical (by exact h))) h
    · exact h
  · exact h

theorem leaveGrid_canonical {s : State} {id status : Nat} (h : s.canonical = true) : (s.leaveGrid id status).1.canonical = true := by
  unfold State.leaveGrid
  extract_lets s1
  split
  · split
    · exact endGrid_canonical h
    · exact h
  · exact h

theorem dropGroup_canonical {s : State} {c : Nat} {g : Group} (h : s.canonical = true) : (s.dropGroup c g).canonical = true :=
  ite_canonical (canonical_foldl h fun _ _ ht => settleProv_canonical ht) h

theorem retireGroup_canonical {fuel : Nat} {s : State} {c gid status : Nat} (h : s.canonical = true) :
    (State.retireGroup fuel s c gid status).canonical = true := by
  induction fuel generalizing s c gid status with
  | zero => exact h
  | succ fuel ih =>
    unfold State.retireGroup
    refine ite_canonical h (canonical_foldl (dropGroup_canonical (by exact h)) fun t id ht => ?_)
    split
    · next t1 c' gen' gid' e =>
      have h1 : t1.canonical = true := fst_canonical e (leaveGrid_canonical ht)
      exact ite_canonical (ih h1) h1
    · next e => exact fst_canonical e (leaveGrid_canonical ht)

theorem discardGroup_canonical {s : State} {c gid : Nat} (h : s.canonical = true) : (s.discardGroup c gid).canonical = true :=
  ringRec_canonical (retireGroup_canonical (by exact h)) _

theorem warpLeaves_canonical {s : State} {c wix : Nat} (h : s.canonical = true) : (s.warpLeaves c wix).canonical = true := by
  unfold State.warpLeaves
  extract_lets w s0 s1 s2
  have hs0 : s0.canonical = true := canonical_foldl (leaveTiles_canonical h) fun _ _ ht => ht
  exact canonical_foldl hs0 fun _ _ ht => ite_canonical (tryClose_canonical ht) ht

/-! ### Copies -/

theorem enterRec_canonical {s : State} {c va : Nat} {bs : List Byte} (h : s.canonical = true) : (s.enterRec c va bs).canonical = true := by
  unfold State.enterRec
  split
  rename_i u e
  have hu : u.canonical = true := snd_canonical e (by split <;> exact h)
  exact updCore_canonical hu

theorem shapeRec_canonical {s : State} {c id : Nat} {who : Agent} {va : Nat} (h : s.canonical = true) :
    (s.shapeRec c id who va).2.canonical = true := by
  unfold State.shapeRec
  extract_lets keep
  have hkeep : ∀ bs t, t.canonical = true → (keep bs t).2.canonical = true := fun _ _ ht => ht
  clear_value keep
  split
  · exact h
  · exact hkeep _ _ h
  · split
    · exact h
    · split
      rename_i s1 e
      have h1 : s1.canonical = true := snd_canonical e (xlate_canonical h)
      split
      · split
        · split
          · exact ringRec_canonical h1 _
          · exact hkeep _ _ (enterRec_canonical (loadPA_canonical h1 _ _ _))
        · extract_lets tag s2 p
          have h2 : s2.canonical = true := hotCount_canonical h1
          split
          · exact h1
          · exact sendPacket_canonical (by exact h2) _
        · exact hkeep _ _ (enterRec_canonical (loadHost_canonical h1))
        · exact hkeep _ _ (enterRec_canonical (ocmLoad_canonical h1))
      · exact h1

theorem pieceMoves_canonical {s : State} {c : Nat} {x : Copy} {p : Piece} (h : s.canonical = true) : (s.pieceMoves c x p).2.canonical = true := by
  unfold State.pieceMoves
  extract_lets arg side win va n sp o
  split
  · exact h
  · have hs : ∀ {va : Nat} {r : Except Stuck (List Byte)} {t : State}, s.shapeRec c x.id (x.agent c) va = (r, t) → t.canonical = true :=
      fun e => snd_canonical e (shapeRec_canonical h)
    split
    any_goals exact h
    all_goals
      split
      · next e => exact hs e
      · next s1 e =>
        have h1 : s1.canonical = true := hs e
        split
        · exact h1
        · extract_lets cells
          split
          · split <;> exact h1
          · exact h1

theorem bindWindows_canonical {s : State} {c id : Nat} {xs : List Xfer} (h : s.canonical = true) : (s.bindWindows c id xs).canonical = true := by
  unfold State.bindWindows
  refine canonical_foldl h fun t k ht => ?_
  split
  · split
    · exact ht
    · split
      · exact ht
      · extract_lets b s1
        refine canonical_foldl ht fun t k ht => ?_
        split <;> exact ht
  · exact ht

theorem writeWindow_canonical {s : State} {x : Copy} {k o : Nat} {bs : List Byte} (h : s.canonical = true) :
    (s.writeWindow x k o bs).canonical = true := by
  unfold State.writeWindow
  split
  · exact h
  · exact canonical_foldl h fun _ _ ht => mapWarp_canonical ht

theorem pieceRec_canonical {s : State} {c : Nat} {x : Copy} {p : Piece} {reason va : Nat} (h : s.canonical = true) :
    (s.pieceRec c x p reason va).canonical = true :=
  mboxRec_canonical h

theorem retirePieces_canonical {s : State} {c : Nat} {x : Copy} {landed : Bool} (h : s.canonical = true) :
    (s.retirePieces c x landed).canonical = true :=
  ite_canonical (canonical_foldl h fun _ _ ht => mapWarp_canonical ht) h

theorem endCopy_canonical {s : State} {c : Nat} {x : Copy} {reason va : Nat} (h : s.canonical = true) : (s.endCopy c x reason va).canonical = true :=
  canonical_foldl (retirePieces_canonical h) fun _ _ ht => pieceRec_canonical ht

theorem startCopy_canonical {s : State} {c : Nat} {x : Copy} (h : s.canonical = true) : (s.startCopy c x).canonical = true := by
  unfold State.startCopy
  extract_lets go
  have hgo : go.2.canonical = true := by
    refine foldl_snd_canonical h fun a p ha => ?_
    split
    · exact ha
    · split
      · next e => exact snd_canonical e (pieceMoves_canonical ha)
      · next e => exact snd_canonical e (pieceMoves_canonical ha)
  clear_value go
  split
  · exact endCopy_canonical hgo
  · exact hgo
  · exact bindWindows_canonical hgo

theorem startCopies_canonical {s : State} {c gid : Nat} (h : s.canonical = true) : (s.startCopies c gid).canonical = true :=
  canonical_foldl h fun _ _ ht => ite_canonical ht (ite_canonical ht (startCopy_canonical ht))

theorem readSide_canonical {s : State} {c : Nat} {x : Copy} {l : CLoc} {n : Nat} (h : s.canonical = true) :
    (s.readSide c x l n).2.canonical = true := by
  unfold State.readSide
  extract_lets ac
  split
  · exact loadSp_canonical h
  · exact h
  · exact h
  · split
    rename_i s1 e
    have hs1 : s1.canonical = true := snd_canonical e (xlate_canonical h)
    split
    · exact hs1
    · exact hs1
    · split
      · split
        · exact hs1
        · exact loadPA_canonical hs1 _ _ _
      · exact hs1
      · exact loadHost_canonical hs1
      · exact ocmLoad_canonical hs1

theorem postXfer_canonical {s : State} {c : Nat} {x : Copy} {n : Nat} (h : s.canonical = true) : (s.postXfer c x n).canonical = true := by
  unfold State.postXfer
  refine ite_canonical h ?_
  split
  · exact ite_canonical (barPost_canonical h) h
  · exact h

theorem blur_canonical {s : State} {c : Nat} {x : Copy} {f : Xfer} {bs : List Byte} (h : s.canonical = true) :
    (s.blur c x f bs).2.canonical = true := by
  unfold State.blur
  split
  · exact h
  · extract_lets at_ reads writes on both ms
    split <;> exact h

theorem writeXfer_canonical {s : State} {c : Nat} {x : Copy} {k : Nat} {f : Xfer} {data : List Byte} {pois : Bool} (h : s.canonical = true) :
    (s.writeXfer c x k f data pois).2.canonical = true := by
  unfold State.writeXfer
  extract_lets ac fin
  have hfin : ∀ t, t.canonical = true → (fin t).2.canonical = true := fun t ht => postXfer_canonical (by exact ht)
  clear_value fin
  split
  rename_i s0 e
  have h0 : s0.canonical = true := snd_canonical e (blur_canonical h)
  split
  · exact hfin _ (storeSp_canonical h0 _ _ _ _ _)
  · exact hfin _ h0
  · exact hfin _ h0
  · split
    rename_i t e
    have ht : t.canonical = true := snd_canonical e (xlate_canonical h0)
    split
    · exact ht
    · exact ht
    · split
      · exact hfin _ (ite_canonical (storePA_canonical ht _ _ _ _) (storePA_canonical ht _ _ _ _))
      · extract_lets d tag hb u
        have hu : u.canonical = true := sendPacket_canonical (hotCount_canonical (by exact ht)) _
        split
        · exact ht
        · exact hu
      · exact hfin _ (storeHost_canonical ht _ _ _ _)
      · split
        · exact hfin _ (writeWindow_canonical ht)
        · exact hfin _ (ocmStore_canonical ht)

theorem xferStep_canonical {s t : State} {c id : Nat} (h : s.canonical = true) (e : s.xferStep c id = some t) : t.canonical = true := by
  refine some_canonical e ?_
  clear e
  unfold State.xferStep
  split
  · rfl
  · split
    · rfl
    · split
      · rfl
      · split
        · rfl
        · split
          · next t e =>
            have ht : t.canonical = true := snd_canonical e (readSide_canonical h)
            split
            · next u e => exact snd_canonical e (writeXfer_canonical ht)
            · rfl
          · next d pa t e =>
            have ht : t.canonical = true := snd_canonical e (readSide_canonical h)
            split
            · rfl
            · extract_lets tag va u
              have hu : u.canonical = true := sendPacket_canonical (hotCount_canonical (by exact ht)) _
              exact hu
          · rfl

theorem xferSteps_canonical {c id n : Nat} {s : State} (h : s.canonical = true) : (State.xferSteps c id n s).canonical = true := by
  induction n generalizing s with
  | zero => exact h
  | succ n ih =>
    unfold State.xferSteps
    split
    · next e => exact ih (xferStep_canonical h e)
    · exact h

theorem stopSet_canonical {s : State} {c : Nat} {x : Copy} {r : FRec} (h : s.canonical = true) : (s.stopSet c x r).canonical = true :=
  canonical_foldl h fun _ _ ht => ite_canonical (stopAsync_canonical ht) ht

theorem failCopy_canonical {s : State} {c : Nat} {x : Copy} {stop : Option FRec} (h : s.canonical = true) :
    (s.failCopy c x stop).canonical = true := by
  unfold State.failCopy
  refine ite_canonical (discardGroup_canonical (by exact h)) ?_
  extract_lets s1
  have h1 : s1.canonical = true := endCopy_canonical h
  split
  · exact stopSet_canonical h1
  · exact h1

theorem copyBad_canonical {s back : State} {c : Nat} {x : Copy} {code level va kind : Nat} (h : s.canonical = true) (hback : back.canonical = true) :
    (s.copyBad c x code level va kind back).canonical = true := by
  unfold State.copyBad
  extract_lets s1 src wix r0
  have h1 : s1.canonical = true := walkRec_canonical h
  refine ite_canonical (ite_canonical (failCopy_canonical (stopAsync_canonical h1)) (failCopy_canonical (mboxRec_canonical h1))) ?_
  split
  · exact hback
  · exact mboxRec_canonical h1

theorem copyWalkPoison_canonical {s : State} {c : Nat} {x : Copy} {pa : Nat} (h : s.canonical = true) : (s.copyWalkPoison c x pa).canonical = true :=
  failCopy_canonical (ringRec_canonical h _)

theorem copyFar_canonical {s : State} {c : Nat} {x : Copy} {d : Nat} (h : s.canonical = true) : (s.copyFar c x d).canonical = true :=
  failCopy_canonical h

theorem putXfer_canonical {s back : State} {c : Nat} {x : Copy} {k : Nat} {f : Xfer} {bs : List Byte} {pois : Bool} (h : s.canonical = true)
    (hback : back.canonical = true) : (s.putXfer c x k f bs pois back).canonical = true := by
  unfold State.putXfer
  have hw : ∀ {r : XRead} {u : State}, s.writeXfer c x k f bs pois = (r, u) → u.canonical = true :=
    fun e => snd_canonical e (writeXfer_canonical h)
  split
  · next e => exact hw e
  · next e => exact copyBad_canonical (hw e) hback
  · next e => exact copyWalkPoison_canonical (hw e)
  · next e => exact copyFar_canonical (hw e)
  · next e => exact hw e

theorem copyPoison_canonical {s : State} {c pa : Nat} (h : s.canonical = true) : (s.copyPoison c pa).canonical = true :=
  ringRec_canonical (by exact ite_canonical (ringRec_canonical h _) h) _

theorem xferPoison_canonical {s : State} {c : Nat} {x : Copy} {k : Nat} {f : Xfer} {pa : Nat} {here : Bool} (h : s.canonical = true) :
    (s.xferPoison c x k f pa here).canonical = true := by
  unfold State.xferPoison
  extract_lets t1 ocm t2
  have h1 : t1.canonical = true := ite_canonical (copyPoison_canonical h) (ringRec_canonical h _)
  have h2 : t2.canonical = true := putXfer_canonical h1 h
  exact ite_canonical (discardGroup_canonical (by exact h1)) (ite_canonical (stopSet_canonical h2) h2)

theorem xferFault_canonical {s : State} {c id : Nat} (h : s.canonical = true) : (s.xferFault c id).canonical = true := by
  unfold State.xferFault
  split
  · exact h
  · next x _ =>
    refine ite_canonical h ?_
    split
    · exact h
    · next k f _ =>
      refine ite_canonical h ?_
      have hr : ∀ {r : XRead} {t : State}, s.readSide c x f.src f.n = (r, t) → t.canonical = true :=
        fun e => snd_canonical e (readSide_canonical h)
      split
      · next e => exact copyBad_canonical (hr e) h
      · next e => exact copyWalkPoison_canonical (hr e)
      · next e => exact ite_canonical (copyFar_canonical (hr e)) h
      · next e => exact xferPoison_canonical (hr e)
      · next e =>
        split
        · exact h
        · exact h
        · exact putXfer_canonical (hr e) h

theorem completeCopy_canonical {s : State} {c : Nat} {x : Copy} (h : s.canonical = true) : (s.completeCopy c x).canonical = true := by
  unfold State.completeCopy
  extract_lets s1
  have h1 : s1.canonical = true := retirePieces_canonical (by exact h)
  exact ite_canonical h1 (ite_canonical (sendPacket_canonical (by exact h1) _) (taskDec_canonical h1))

theorem supply_canonical {c : Ctx} {s0 s : State} {opc mods : Nat} {cpl : Cpl} {target : Nat} {args : List Nat} {lanesA : List (Nat × Nat)}
    (h : s0.canonical = true) (hs : s.canonical = true) : (c.supply s0 s opc mods cpl target args lanesA).Canonical := by
  unfold Ctx.supply
  refine res_ite h ?_
  dsimp only
  split
  · refine res_ite (startCopies_canonical ?_) (res_ite (startCopies_canonical ?_) (startCopies_canonical ?_))
    · exact ite_canonical h (retirePieces_canonical h)
    · exact hs
    · exact ite_canonical hs hs
  · refine startCopies_canonical (updCore_canonical ?_)
    exact ite_canonical hs hs

theorem spadRun_canonical {c : Ctx} {s : State} {l a n : Nat} {r : Res} (e : c.spadRun s l a n = some r) : r.Canonical := by
  unfold Ctx.spadRun at e
  split at e
  · next r' t e' =>
    cases e
    exact fst_err e' locate_err
  · split at e
    · cases e
      exact trivial
    · cases e

theorem copyWith_canonical {c : Ctx} {s0 s : State} {opc mods : Nat} {cpl : Cpl} {ctw : BitVec 7} {sizeOk : Bool} {args : List Nat}
    {lanesA : List (Nat × Nat)} (h : s0.canonical = true) (hs : s.canonical = true) :
    (c.copyWith s0 s opc mods cpl ctw sizeOk args lanesA).Canonical := by
  unfold Ctx.copyWith
  split
  · exact trivial
  · extract_lets target
    have hr : (c.supply s0 s opc mods cpl target args lanesA).Canonical := supply_canonical h hs
    generalize c.supply s0 s opc mods cpl target args lanesA = r at hr ⊢
    split
    · split
      · exact trivial
      · exact hr
    · exact hr

theorem execCpy_canonical {f : Fmt} {cpl : Cpl} {ds ss : Bool} {ctw : BitVec 7} {s : State} (h : s.canonical = true) :
    NextCanonical (execCpy f cpl ds ss ctw s) := by
  refine issue_canonical h fun c t ht => ?_
  extract_lets n dst src mods okLen check
  have hck : ∀ {sp k a} {t : State}, t.canonical = true → ChkCanonical (check sp k a t) := by
    intro sp k a t ht
    dsimp only [check]
    split
    · split
      · next e => exact spadRun_canonical e
      · exact ht
    · split
      · next e => exact fst_err e locate_err
      · next e => exact snd_canonical e (locate_canonical ht)
  clear_value check
  split
  · exact copyWith_canonical h ht
  · split
    · next e => exact chk_error e (hck ht)
    · next t1 e =>
      have h1 : t1.canonical = true := chk_state e (hck ht)
      split
      · next e => exact chk_error e (hck h1)
      · next t2 e => exact copyWith_canonical h (chk_state e (hck h1))

theorem lanesRun_canonical {c : Ctx} {k : AKind} {n base : Nat} {okLen : Bool} {ls : List Nat} {s : State} (h : s.canonical = true) :
    ChkCanonical (c.lanesRun k n base okLen ls s) := by
  induction ls generalizing s with
  | nil => exact h
  | cons l t ih =>
    unfold Ctx.lanesRun
    split
    · next e => exact fst_err e locate_err
    · next s1 e =>
      have h1 : s1.canonical = true := snd_canonical e (locate_canonical h)
      split
      · next r e =>
        split at e
        · exact spadRun_canonical e
        · cases e
      · exact ih h1

theorem lanesCopy_canonical {c : Ctx} {s0 s : State} {opc : Nat} {k : AKind} {cpl : Cpl} {ctw : BitVec 7} (h : s0.canonical = true)
    (hs : s.canonical = true) : (c.lanesCopy s0 s opc k cpl ctw).Canonical := by
  unfold Ctx.lanesCopy
  extract_lets n base okLen ls las
  split
  · next e => exact chk_error e (lanesRun_canonical hs)
  · next e => exact copyWith_canonical h (chk_state e (lanesRun_canonical hs))

/-! ### Supervisor instructions -/

theorem execSret_canonical {f : Fmt} {skip : Bool} {s : State} (h : s.canonical = true) : NextCanonical (execSret f skip s) := by
  unfold execSret
  refine issue_canonical h (fun c t ht => ?_)
  extract_lets i
  split
  · exact trivial
  · split
    · exact trivial
    · exact layIf_canonical (resumeWarp_canonical ht)

theorem execMbrecv_canonical {f : Fmt} {pe pf : BitVec 4} {s : State} (h : s.canonical = true) : NextCanonical (execMbrecv f pe pf s) := by
  refine issueOk_canonical h fun c t ht => ?_
  split
  · exact wrP_canonical (wrP_canonical ht)
  · exact mboxRefill_canonical (wrP_canonical (wrP_canonical ht))

theorem execMbpost_canonical {f : Fmt} {s : State} (h : s.canonical = true) : NextCanonical (execMbpost f s) := by
  unfold execMbpost
  refine issue_canonical h (fun c t ht => ?_)
  extract_lets a i gen vals
  split
  · exact trivial
  · split
    · exact trivial
    · exact mapWarp_canonical ht

theorem mapCopy_canonical {s : State} {c gen id : Nat} {f : Copy → Copy} (h : s.canonical = true) : (s.mapCopy c gen id f).canonical = true :=
  ite_canonical h h

theorem execFrep_canonical {f : Fmt} {s : State} (h : s.canonical = true) : NextCanonical (execFrep f s) := by
  unfold execFrep
  refine issue_canonical h (fun c t ht => ?_)
  extract_lets i t1
  split
  · exact trivial
  · split
    · exact h
    · split
      · exact mapWarp_canonical ht
      · exact mapCopy_canonical ht

theorem dropAccess_canonical {s : State} {c : Nat} {e : FEntry} (h : s.canonical = true) : (s.dropAccess c e).canonical = true :=
  ite_canonical (ite_canonical (ringRec_canonical (by exact h) _) (mboxRec_canonical h)) (mapWarp_canonical h)

theorem execFdrop_canonical {f : Fmt} {s : State} (h : s.canonical = true) : NextCanonical (execFdrop f s) := by
  unfold execFdrop
  refine issue_canonical h (fun c t ht => ?_)
  extract_lets i t1
  split
  · exact trivial
  · split
    · exact dropAccess_canonical ht
    · split
      · split
        · exact failCopy_canonical ht
        · exact ht
      · exact mapCopy_canonical ht

theorem execTlbi_canonical {f : Fmt} {scp : Bool} {s : State} (h : s.canonical = true) : NextCanonical (execTlbi f scp s) := by
  unfold execTlbi
  refine issue_canonical h (fun c t ht => ?_)
  extract_lets va cls gen clean
  split
  · exact h
  · split
    · exact trivial
    · split <;> exact ht

theorem execWpark_canonical {f : Fmt} {s : State} (h : s.canonical = true) : NextCanonical (execWpark f s) := by
  unfold execWpark
  refine issue_canonical h (fun c t ht => ?_)
  extract_lets i
  split
  · exact trivial
  · exact parkWarp_canonical ht

theorem execWwake_canonical {f : Fmt} {s : State} (h : s.canonical = true) : NextCanonical (execWwake f s) := by
  unfold execWwake
  refine issue_canonical h (fun c t ht => ?_)
  extract_lets i
  split
  · exact trivial
  · exact ht

theorem vaultAt_err {c : Ctx} {s : State} {va : Nat} : ErrCanonical (c.vaultAt s va) := by
  unfold Ctx.vaultAt
  split
  · exact trivial
  · exact trivial
  · next e => exact fst_err e locate_err

theorem execSctxRd_canonical {f : Fmt} {vlt : Bool} {s : State} (h : s.canonical = true) : NextCanonical (execSctxRd f vlt s) := by
  unfold execSctxRd
  refine issue_canonical h (fun c t ht => ?_)
  dsimp only
  split
  · exact wr_canonical ht
  · split
    · exact wr_canonical ht
    · split
      · split
        · next e => exact err_canonical e vaultAt_err
        · split
          · exact trivial
          · split
            · exact wr_canonical ht
            · exact trivial
      · split
        · exact trivial
        · split
          · exact wr_canonical ht
          · exact trivial

theorem execSctxWr_canonical {f : Fmt} {vlt : Bool} {s : State} (h : s.canonical = true) : NextCanonical (execSctxWr f vlt s) := by
  unfold execSctxWr
  refine issue_canonical h (fun c t ht => ?_)
  extract_lets x v mb
  split
  · exact ht
  · split
    · exact ht
    · split
      · split
        · next e => exact err_canonical e vaultAt_err
        · split
          · exact trivial
          · split
            · exact trivial
            · split
              · exact trivial
              · split
                · exact trivial
                · exact updVault_canonical ht
      · split
        · exact trivial
        · split
          · exact trivial
          · split
            · exact trivial
            · exact mapWarp_canonical ht

/-! ### Admission and what comes between instructions -/

theorem execTillSpillReturn_canonical {die : Nat} {s : State} (h : s.canonical = true) : NextCanonical (execTillSpillReturn die s) := by
  unfold execTillSpillReturn
  extract_lets firsts oldest back
  clear_value oldest
  split
  · split <;> exact h
  · exact h

theorem startGroup_canonical {s : State} {c gid : Nat} (h : s.canonical = true) : (s.startGroup c gid).canonical = true :=
  canonical_foldl h fun _ _ ht => ht

theorem place_canonical {s : State} {n : NodeReg} {recs : List TRec} {gid : Nat} {clp : Option (List (Nat × Nat))} {c : Nat} {x : Spot}
    (h : s.canonical = true) : 
    (s.place n recs gid clp c x).canonical = true :=
  ite_canonical (startGroup_canonical h) h

theorem launch_canonical {s : State} {t : Till} {n : NodeReg} {cs : List (Nat × Spot)} (h : s.canonical = true) :
    (s.launch t n cs).canonical = true :=
  examine_canonical (canonical_foldl h fun _ _ ht => place_canonical ht)

theorem execGroupAdmission_canonical {die : Nat} {s : State} (h : s.canonical = true) : NextCanonical (execGroupAdmission die s) := by
  unfold execGroupAdmission
  split
  · exact h
  · split
    · exact h
    · exact out_canonical (launch_canonical h)

theorem execStagingComplete_canonical {core group : Nat} {s : State} (h : s.canonical = true) : NextCanonical (execStagingComplete core group s) := by
  unfold execStagingComplete
  split
  · exact h
  · split
    · exact h
    · extract_lets t
      have ht : t.canonical = true := xferFault_canonical (xferSteps_canonical h)
      split
      · exact out_canonical ht
      · split
        · exact out_canonical (startGroup_canonical ht)
        · exact out_canonical ht

theorem execWarpParkTimeout_canonical {core warp : Nat} {s : State} (h : s.canonical = true) : NextCanonical (execWarpParkTimeout core warp s) := by
  unfold execWarpParkTimeout
  split
  · exact h
  · extract_lets kind
    split
    · exact out_canonical (parkWarp_canonical h)
    · exact h

theorem execWarpUnpark_canonical {core slice : Nat} {s : State} (h : s.canonical = true) : NextCanonical (execWarpUnpark core slice s) := by
  unfold execWarpUnpark
  extract_lets k ws
  split
  · exact h
  · split
    · exact out_canonical h
    · exact h

theorem stopWarp_canonical {s : State} {c gen wix : Nat} {r : FRec} (h : s.canonical = true) : (s.stopWarp c gen wix r).canonical = true :=
  ite_canonical (ite_canonical (stopAsync_canonical h) h) (mapWarp_canonical h)

theorem stopPoison_canonical {s : State} {c gen wix va : Nat} (h : s.canonical = true) : (s.stopPoison c gen wix va).canonical = true :=
  stopWarp_canonical h

theorem finishOp_canonical {s : State} {c gen wix : Nat} {o : Op} (h : s.canonical = true) : (s.finishOp c gen wix o).canonical = true := by
  unfold State.finishOp
  extract_lets gid s0 s1
  have hs0 : s0.canonical = true := canonical_foldl h fun _ _ ht => mapGroup_canonical ht
  have hs1 : s1.canonical = true := mapWarp_canonical hs0
  split
  · exact stopPoison_canonical hs1
  · exact hs1

theorem execLoadDataReturn_canonical {core warp op : Nat} {s : State} (h : s.canonical = true) :
    NextCanonical (execLoadDataReturn core warp op s) := by
  unfold execLoadDataReturn
  split
  · extract_lets mine
    split
    · exact out_canonical (finishOp_canonical h)
    · exact h
  · exact h

theorem execWarpComplete_canonical {core warp : Nat} {s : State} (h : s.canonical = true) : NextCanonical (execWarpComplete core warp s) := by
  unfold execWarpComplete
  split
  · split
    · exact out_canonical (retireGroup_canonical (startCopies_canonical (warpLeaves_canonical h)))
    · exact h
  · exact h

theorem execMatrixResultWritten_canonical {core warp : Nat} {s : State} (h : s.canonical = true) :
    NextCanonical (execMatrixResultWritten core warp s) := by
  unfold execMatrixResultWritten
  split
  · exact out_canonical (mapWarp_canonical h)
  · exact h

theorem execRedPerformed_canonical {core warp : Nat} {s : State} (h : s.canonical = true) : NextCanonical (execRedPerformed core warp s) := by
  unfold execRedPerformed
  split
  · exact out_canonical (mapWarp_canonical (canonical_foldl h fun _ _ ht => redLane_canonical ht))
  · exact h

theorem execCopyPosting_canonical {core copy count : Nat} {s : State} (h : s.canonical = true) :
    NextCanonical (execCopyPosting core copy count s) := by
  unfold execCopyPosting
  split
  · split
    · exact out_canonical (xferSteps_canonical h)
    · exact h
  · exact h

theorem execCopyComplete_canonical {core copy : Nat} {s : State} (h : s.canonical = true) : NextCanonical (execCopyComplete core copy s) := by
  unfold execCopyComplete
  split
  · split
    · exact out_canonical (completeCopy_canonical h)
    · exact h
  · exact h

theorem execCopyAccessFault_canonical {core copy : Nat} {s : State} (h : s.canonical = true) : NextCanonical (execCopyAccessFault core copy s) := by
  unfold execCopyAccessFault
  split
  · exact out_canonical (xferFault_canonical h)
  · exact h

theorem execMonitorDeadline_canonical {k : Nat} {s : State} (h : s.canonical = true) : NextCanonical (execMonitorDeadline k s) := by
  unfold execMonitorDeadline
  split
  · split
    · exact out_canonical (monRefillAll_canonical (fireMon_canonical h _ _))
    · exact h
  · exact h

/-! ### Switches -/

theorem signalCore_canonical {s : State} {c : Nat} (h : s.canonical = true) : (s.signalCore c).canonical = true := ite_canonical h h

theorem signalAll_canonical {s : State} (h : s.canonical = true) : s.signalAll.canonical = true :=
  canonical_foldl h fun _ _ ht => signalCore_canonical ht

theorem complete_canonical {s : State} {c wix : Nat} (h : s.canonical = true) : (s.complete c wix).canonical = true := by
  unfold State.complete
  refine canonical_foldl h fun t k ht => ?_
  split
  · exact ht
  · exact ite_canonical (canonical_foldl ht fun _ _ ht => redLane_canonical ht) ht
  · exact ite_canonical (finishOp_canonical ht) ht
  · exact ite_canonical (finishOp_canonical ht) ht
  · exact ite_canonical (finishOp_canonical ht) ht
  · exact ite_canonical (finishOp_canonical ht) ht
  · exact ht

theorem completeAll_canonical {s : State} {c : Nat} (h : s.canonical = true) : (s.completeAll c).canonical = true :=
  canonical_foldl h fun _ _ ht => complete_canonical ht

theorem execSwitchHaltEnd_canonical {core : Nat} {s : State} (h : s.canonical = true) : NextCanonical (execSwitchHaltEnd core s) := by
  unfold execSwitchHaltEnd
  split
  · exact h
  · exact out_canonical (completeAll_canonical h)

theorem execSwitchDrainEnd_canonical {core : Nat} {s : State} (h : s.canonical = true) : NextCanonical (execSwitchDrainEnd core s) := by
  unfold execSwitchDrainEnd
  extract_lets k
  split
  · exact out_canonical h
  · exact h

theorem execSwitchDrainLimit_canonical {core : Nat} {s : State} (h : s.canonical = true) : NextCanonical (execSwitchDrainLimit core s) := by
  unfold execSwitchDrainLimit
  extract_lets k
  split
  · exact out_canonical (ringRec_canonical (by exact h) _)
  · exact h

theorem shelveTills_canonical {s : State} {gen : Nat} (h : s.canonical = true) : (s.shelveTills gen).canonical = true := by
  unfold State.shelveTills
  refine ite_canonical (rehome_canonical h) ?_
  split
  · exact h
  · extract_lets cap mine n used tills s1
    have hs1 : s1.canonical = true := canonical_foldl h fun _ _ ht => ite_canonical ht (laySpill_canonical ht)
    exact ite_canonical (abortPart_canonical (ringRec_canonical (spillFull_canonical h) _)) (spillFull_canonical hs1)

theorem saveCore_canonical {s0 : State} {c : Nat} (h : s0.canonical = true) : (s0.saveCore c).canonical = true :=
  ite_canonical (leaveAll_canonical h) (layVault_canonical (leaveAll_canonical h))

theorem restartSup_canonical {s : State} {c : Nat} (h : s.canonical = true) : (s.restartSup c).canonical = true := ringRec_canonical (by exact h) _

theorem turn_canonical {s : State} {c : Nat} (h : s.canonical = true) : (s.turn c).canonical = true := by
  unfold State.turn
  extract_lets k t same s1 ph s2
  have hs1 : s1.canonical = true := ite_canonical h (ringRec_canonical h _)
  exact ite_canonical hs1 (shelveTills_canonical hs1)

theorem execSwitchSaveEnd_canonical {core : Nat} {s : State} (h : s.canonical = true) : NextCanonical (execSwitchSaveEnd core s) := by
  unfold execSwitchSaveEnd
  extract_lets k s1
  have hs1 : s1.canonical = true := shelveTills_canonical (saveCore_canonical h)
  split
  · exact h
  · exact out_canonical (turn_canonical (ite_canonical (restartSup_canonical hs1) hs1))

theorem execClockChangeEnd_canonical {core : Nat} {s : State} (h : s.canonical = true) : NextCanonical (execClockChangeEnd core s) := by
  unfold execClockChangeEnd
  extract_lets k
  split
  · exact out_canonical (turn_canonical h)
  · exact h

theorem rearm_canonical {s : State} {c gen : Nat} (h : s.canonical = true) : (s.rearm c gen).canonical = true := by
  unfold State.rearm
  extract_lets mine s1
  have h1 : s1.canonical = true := by
    refine canonical_foldl h fun t m ht => ?_
    split
    · next u e =>
      have hu : u.canonical = true := wakeWarp_canonical ht e
      exact hu
    · exact ht
  exact monRefillAll_canonical (by exact h1)

theorem reloadTills_canonical {s : State} {gen : Nat} (h : s.canonical = true) : (s.reloadTills gen).canonical = true :=
  canonical_foldl (canonical_foldl (rehome_canonical h) fun _ _ ht => ht) fun _ _ ht => examine_canonical ht

theorem applyHeld_canonical {s : State} {gen : Nat} (h : s.canonical = true) : (s.applyHeld gen).canonical = true :=
  canonical_foldl h fun _ _ ht => performed_canonical (barrierPacket_canonical ht) _ _

theorem barrierTraffic_canonical {s : State} {p : Packet} (h : s.canonical = true) : (s.barrierTraffic p).1.canonical = true := by
  unfold State.barrierTraffic
  split
  · exact barrierPacket_canonical h
  · exact h

theorem endDropped_canonical {s : State} {c : Nat} (h : s.canonical = true) : (s.endDropped c).canonical = true :=
  canonical_foldl h fun _ _ ht => failCopy_canonical ht

theorem takeAsync_canonical {s : State} {c : Nat} (h : s.canonical = true) : (s.takeAsync c).canonical = true := by
  unfold State.takeAsync
  refine canonical_foldl h fun t k ht => ?_
  split
  · exact takeFault_canonical ht
  · exact ht

theorem execSwitchRestoreEnd_canonical {core : Nat} {s : State} (h : s.canonical = true) : NextCanonical (execSwitchRestoreEnd core s) := by
  unfold execSwitchRestoreEnd
  extract_lets k x late s0 s1 hb
  have h1 : s1.canonical = true := ite_canonical (ringRec_canonical (by exact h) _) h
  clear_value hb s1 s0 late x
  split
  · exact h
  · split
    · exact out_canonical (applyHeld_canonical (reloadTills_canonical h1))
    · extract_lets s2 s3 s4
      have h3 : s3.canonical = true :=
        canonical_foldl (endDropped_canonical (takeAsync_canonical (rearm_canonical h1))) fun _ _ ht => startCopies_canonical ht
      have h4 : s4.canonical = true :=
        canonical_foldl (applyHeld_canonical (reloadTills_canonical (mboxRefill_canonical h3))) fun _ _ ht => sendLater_canonical ht
      exact out_canonical (canonical_foldl h4 fun _ _ ht => retireGroup_canonical ht)

theorem preemptOver_canonical {s : State} {gen : Nat} (h : s.canonical = true) : (s.preemptOver gen).canonical = true :=
  ite_canonical h (signalAll_canonical (ite_canonical h h))

theorem execCoreRestart_canonical {core : Nat} {s : State} (h : s.canonical = true) : NextCanonical (execCoreRestart core s) := by
  unfold execCoreRestart
  extract_lets k
  split
  · split
    · exact h
    · split
      · exact out_canonical h
      · exact out_canonical h
      · exact out_canonical h
      · exact out_canonical h
      · exact out_canonical (restartSup_canonical h)
  · exact h

/-! ### Commands, keys, deposits and resets -/

theorem endCommand_canonical {s : State} {status : Nat} (h : s.canonical = true) : (s.endCommand status).canonical = true :=
  setCpw_canonical (storePA_canonical h _ _ _ _) _ _

theorem command_canonical {s : State} {i : Instr} {f : State → Nat × State} (h : s.canonical = true)
    (hf : ∀ t, t.canonical = true → (f t).2.canonical = true) : NextCanonical (s.command i f) := by
  unfold State.command
  split
  · exact h
  · split
    next e => exact out_canonical (endCommand_canonical (snd_canonical e (hf s h)))

theorem nodeRead_canonical {s : State} {gen nid : Nat} (h : s.canonical = true) : (s.nodeRead gen nid).canonical = true := by
  unfold State.nodeRead
  split
  · exact cpPeek_canonical h
  · exact h

theorem descRead_canonical {s : State} {gen va : Nat} (h : s.canonical = true) : (s.descRead gen va).2.canonical = true := by
  unfold State.descRead
  extract_lets ac
  split
  · split
    · split
      · exact cpPeek_canonical h
      · split
        next e => exact snd_canonical e (foldl_snd_canonical h fun _ _ ha => loadPA_canonical ha _ _ _)
    · extract_lets d
      split
      · split
        · exact h
        · refine canonical_foldl h fun t k ht => ?_
          split
          next tag u e =>
          have hu : u.canonical = true := snd_canonical e (cpRequest_canonical (hotCount_canonical ht))
          exact hu
      · split
        · exact h
        · split <;> exact h
    · exact loadHost_canonical h
    · exact ocmLoad_canonical h
  · exact h

theorem execNreg_canonical {c : Cmd} {s : State} (h : s.canonical = true) : NextCanonical (execNreg c s) := by
  unfold execNreg
  extract_lets gen nid
  split
  · exact h
  · split
    · exact out_canonical (endCommand_canonical h)
    · split
      · exact out_canonical (endCommand_canonical (nodeRead_canonical h))
      · have hd : ∀ {va : Nat} {r : DescRead} {t : State}, (s.nodeRead gen nid).descRead gen va = (r, t) → t.canonical = true :=
          fun e => snd_canonical e (descRead_canonical (nodeRead_canonical h))
        split
        · next e => exact out_canonical (hd e)
        · next e => exact out_canonical (endCommand_canonical (hd e))
        · next bs t e =>
          have ht : t.canonical = true := hd e
          extract_lets n st t1
          split
          · exact out_canonical (endCommand_canonical ht)
          · exact out_canonical (endCommand_canonical (canonical_foldl (by exact ht) fun _ _ hu => examine_canonical hu))

theorem execNunreg_canonical {c : Cmd} {s : State} (h : s.canonical = true) : NextCanonical (execNunreg c s) := by
  refine command_canonical h fun t ht => ?_
  split <;> exact ht

theorem execNodeUnregisterEffect_canonical {gen nid : Nat} {s : State} (h : s.canonical = true) :
    NextCanonical (execNodeUnregisterEffect gen nid s) := by
  unfold execNodeUnregisterEffect
  split
  · split <;> exact h
  · exact h

theorem killKey_canonical {s : State} {k : Nat} (h : s.canonical = true) : (s.killKey k).canonical = true := by
  unfold State.killKey
  extract_lets tags
  obtain ⟨hmem, hhost, hcp, htag⟩ := (canonical_iff s).mp h
  have hw : SMap.wf tags = true := by
    dsimp only [tags]
    split
    · refine foldl_keeps (P := fun m : SMap 64 => SMap.wf m = true) (fun m e hm => ?_) s.keyTag htag
      split
      · exact SMap.set_wf _ _ _ hm
      · exact hm
    · exact htag
  clear_value tags
  exact monRefillAll_canonical ((canonical_iff _).mpr ⟨hmem, hhost, hcp, hw⟩)

theorem execKeygen_canonical {c : Cmd} {s : State} (h : s.canonical = true) : NextCanonical (execKeygen c s) := by
  refine command_canonical h fun t ht => ?_
  split <;> exact ht

theorem execKeykill_canonical {c : Cmd} {s : State} (h : s.canonical = true) : NextCanonical (execKeykill c s) := by
  refine command_canonical h fun t ht => ?_
  split
  · exact ht
  · exact killKey_canonical ht

theorem execPartset_canonical {c : Cmd} {s : State} (h : s.canonical = true) : NextCanonical (execPartset c s) := by
  refine command_canonical h fun t ht => ?_
  extract_lets v t1
  have h1 : t1.canonical = true := setCpw_canonical ht _ _
  clear_value t1
  split
  · exact ht
  · exact ite_canonical h1 (abortPart_canonical h1)

theorem storeRun_canonical {s : State} {pa : Nat} {bs : List Byte} (h : s.canonical = true) : (s.storeRun pa bs).canonical = true :=
  canonical_foldl h fun _ _ ht => storePA_canonical ht _ _ _ _

theorem execAttest_canonical {c : Cmd} {s : State} (h : s.canonical = true) : NextCanonical (execAttest c s) := by
  refine command_canonical h fun t ht => ?_
  extract_lets a b
  split
  · exact ht
  · exact storeRun_canonical ht

theorem byShatus_canonical {s t : State} (h : s.canonical = true) (ht : t.canonical = true) : NextCanonical (s.byShatus t) := by
  unfold State.byShatus
  split
  · exact h
  · exact out_canonical ht

theorem setDp_canonical {s : State} {page total count : Nat} (h : s.canonical = true) : (s.setDp page total count).canonical = true :=
  setCpw_canonical h _ _

theorem preemptFor_canonical {s : State} {gen : Nat} (h : s.canonical = true) : (s.preemptFor gen).canonical = true := by
  unfold State.preemptFor
  split
  · exact h
  · extract_lets start own own'
    split
    · exact h
    · refine ite_canonical h ?_
      split
      · exact ite_canonical (sendPren_canonical h) (sendPren_canonical h)
      · exact h
    · exact ite_canonical h (sendPren_canonical h)

theorem deposit_canonical {s : State} {page : Nat} {data : List Byte} {who : Agent} (h : s.canonical = true) :
    (s.deposit page data who).2.canonical = true := by
  unfold State.deposit
  extract_lets cfg n
  split
  · exact h
  · exact preemptFor_canonical (setDp_canonical h)

theorem execDeposit_canonical {at_ : Nat} {orig : Origin} {data : List Byte} {s : State} (h : s.canonical = true) :
    NextCanonical (execDeposit at_ orig data s) := by
  unfold execDeposit
  extract_lets pcie page
  split
  · exact out_canonical h
  · exact out_canonical (deposit_canonical h)

theorem execDepositToRecords_canonical {s : State} (h : s.canonical = true) : NextCanonical (execDepositToRecords s) := by
  unfold execDepositToRecords
  split
  · exact h
  · extract_lets gen s0 s1 w nid n id s2 s2'
    have hs1 : s1.canonical = true := setDp_canonical h
    have hs2' : s2'.canonical = true := ite_canonical (completion_canonical hs1) (pageIrq_canonical hs1)
    split
    · exact out_canonical (canonical_foldl hs1 fun _ _ ht => deliver_canonical ht)
    · exact out_canonical (preemptEnd_canonical (ringRec_canonical hs2' _))

theorem execUserInterruptWaitEnd_canonical {target : Nat} {s : State} (h : s.canonical = true) :
    NextCanonical (execUserInterruptWaitEnd target s) := by
  unfold execUserInterruptWaitEnd
  split
  · split
    · exact h
    · split
      · exact h
      · exact out_canonical (uitPut_canonical h)
  · exact h

theorem execVfReset_canonical {vf : Nat} {s : State} (h : s.canonical = true) : NextCanonical (execVfReset vf s) := by
  have hk : ∀ r k, (((s.ringRec r).abortPart k 2).killKey k).canonical = true :=
    fun _ _ => killKey_canonical (abortPart_canonical (ringRec_canonical h _))
  unfold execVfReset
  split
  · generalize ht : State.killKey _ _ = t
    exact out_canonical (ht ▸ hk _ _)
  · exact h

theorem afterReset_canonical {s : State} (h : s.canonical = true) : s.afterReset.canonical = true := by
  obtain ⟨hmem, hhost, _, htag⟩ := (canonical_iff s).mp h
  exact (canonical_iff _).mpr ⟨hmem, hhost, rfl, htag⟩

theorem measureImage_canonical {s : State} {i : Nat} (h : s.canonical = true) : (s.measureImage i).canonical = true := ite_canonical h h

theorem runSupervisors_canonical {s : State} (h : s.canonical = true) : s.runSupervisors.canonical = true := ite_canonical h h

theorem startSupervisors_canonical {s : State} (h : s.canonical = true) : s.startSupervisors.canonical = true :=
  runSupervisors_canonical (measureImage_canonical h)

theorem trainLinks_canonical {s : State} (h : s.canonical = true) : s.trainLinks.canonical = true :=
  canonical_foldl h fun _ _ ht => setCpw_canonical ht _ _

theorem execPackageReset_canonical {s : State} (h : s.canonical = true) : NextCanonical (execPackageReset s) := by
  unfold execPackageReset
  extract_lets s0 s1
  have h0 : s0.canonical = true := afterReset_canonical h
  have h1 : s1.canonical = true := measureImage_canonical (measureImage_canonical (measureImage_canonical h0))
  exact ite_canonical h0 (ite_canonical h1 (ite_canonical h1 (trainLinks_canonical (startSupervisors_canonical h1))))

/-! ### The host die -/

theorem hdieError_canonical {s : State} {hcore key pa : Nat} (h : s.canonical = true) : (s.hdieError hcore key pa).canonical = true := by
  unfold State.hdieError
  extract_lets s1 parts s2 s3
  have h2 : s2.canonical = true := canonical_foldl (ringRec_canonical h _) fun _ _ ht => abortPart_canonical ht
  have h3 : s3.canonical = true := setCpw_canonical h2 _ _
  clear_value s3
  exact ite_canonical (runSupervisors_canonical (by exact h3)) (abortPart_canonical (ringRec_canonical h _))

theorem execDpst_canonical {rd rs1 rs2 : BitVec 5} {s : State} (h : s.canonical = true) : NextCanonical (execDpst rd rs1 rs2 s) := by
  unfold execDpst
  split
  · exact h
  · extract_lets hart src pc
    have hpc : ∀ v t, t.canonical = true → NextCanonical (pc v t).out := fun v t ht => out_canonical ht
    clear_value pc
    split
    · exact hpc _ _ (hdieError_canonical h)
    · split
      next bs s1 e =>
      have h1 : s1.canonical = true := snd_canonical e (foldl_snd_canonical h fun _ _ ha => loadPA_canonical ha _ _ _)
      split
      · split
        · split
          next e => exact hpc _ _ (snd_canonical e (deposit_canonical h1))
        · exact hpc _ _ h1
      · exact hpc _ _ h1

theorem execClret_canonical {s : State} (h : s.canonical = true) : NextCanonical (execClret s) := by
  unfold execClret
  split
  · exact h
  · exact out_canonical h

theorem execUserInterruptTake_canonical {hart : Nat} {s : State} (h : s.canonical = true) : NextCanonical (execUserInterruptTake hart s) := by
  unfold execUserInterruptTake
  extract_lets h'
  split
  · exact out_canonical h
  · exact h

/-! ### Links, packets and what is lost with a destination -/

theorem countStat_canonical {s : State} {p hi lo n : Nat} (h : s.canonical = true) :
    (s.countStat p hi lo n).canonical = true := setCpw_canonical h _ _

theorem forward_canonical {s : State} {p : Packet} {hop by_ pair n : Nat} (h : s.canonical = true) :
    (s.forward p hop by_ pair n).canonical = true := by
  unfold State.forward
  extract_lets own q goal cs
  split
  · exact onPort_canonical h _ _ _ _
  · exact h

theorem arrived_canonical {s : State} {p : Packet} {hop by_ pair n : Nat} (h : s.canonical = true) : (s.arrived p hop by_ pair n).canonical = true :=
  ite_canonical h (forward_canonical h)

theorem execDrainMarkerSend_canonical {port : Nat} {s : State} (h : s.canonical = true) : NextCanonical (execDrainMarkerSend port s) := by
  unfold execDrainMarkerSend
  extract_lets p
  split
  · exact out_canonical (darkIf_canonical (by exact h) _)
  · exact h

theorem farMarker_canonical {s : State} {i : Nat} (h : s.canonical = true) : (s.farMarker i).canonical = true :=
  ite_canonical (darkIf_canonical (by exact h) _) h

theorem loseOnward_canonical {s : State} {p : Nat} (h : s.canonical = true) : (s.loseOnward p).canonical = true := canonical_foldl h fun _ _ ht => ht

/-! The ports and the clock are no part of the form. -/

theorem withPorts_canonical {s : State} {ps : List Port} (h : s.canonical = true) : ({ s with ports := ps } : State).canonical = true := h

theorem withPtp_canonical {s : State} {p : Ptp} (h : s.canonical = true) : ({ s with ptp := p } : State).canonical = true := h

theorem withPtb_canonical {s : State} {n : Nat} {p : Ptp} (h : s.canonical = true) : ({ s with ptb := n, ptp := p } : State).canonical = true := h

theorem execDrainMarkerTimeout_canonical {port : Nat} {s : State} (h : s.canonical = true) : NextCanonical (execDrainMarkerTimeout port s) := by
  unfold execDrainMarkerTimeout
  extract_lets p
  split
  · refine out_canonical (ringRec_canonical (loseOnward_canonical (updPort_canonical ?_ _ _)) _)
    exact setPort_canonical h _ _
  · exact h

theorem resync_canonical {s : State} {p : Nat} {body : List Byte} (h : s.canonical = true) : (s.resync p body).canonical = true :=
  drainPort_canonical _ _ (by exact ite_canonical h (rateRec_canonical (by exact countStat_canonical h) _ _))

theorem badFlit_canonical {s : State} {p : Nat} (h : s.canonical = true) : (s.badFlit p).canonical = true := by
  unfold State.badFlit
  extract_lets s1 s2 n
  have h1 : s1.canonical = true := countStat_canonical h
  have h2 : s2.canonical = true := updPort_canonical h1 _ _
  exact ite_canonical (rateRec_canonical h2 _ _) h2

theorem packetFlit_canonical {s0 : State} {p : Nat} {f : Flit} (h : s0.canonical = true) : (s0.packetFlit p f).canonical = true := by
  unfold State.packetFlit
  extract_lets s h' pair fidx old rest held
  have hs : s.canonical = true := ite_canonical h h
  refine ite_canonical hs ?_
  split
  extract_lets s1
  split
  · exact hs
  · exact ite_canonical (arrived_canonical hs) hs

theorem execFlitReceive_canonical {port : Nat} {flit : Flit} {s : State} (h : s.canonical = true) : NextCanonical (execFlitReceive port flit s) := by
  unfold execFlitReceive
  split
  · exact h
  · split
    · exact out_canonical (badFlit_canonical h)
    · extract_lets h' r s1 s2
      have hs1 : s1.canonical = true := ite_canonical h h
      have hs2 : s2.canonical = true := by
        dsimp only [s2]
        refine ite_canonical ?_ (packetFlit_canonical hs1)
        split
        · exact ite_canonical (farMarker_canonical hs1) hs1
        · exact resync_canonical hs1
        · exact hs1
      exact out_canonical (drainPort_canonical _ _ hs2)

theorem execResyncReceive_canonical {port : Nat} {flit : Flit} {s : State} (h : s.canonical = true) :
    NextCanonical (execResyncReceive port flit s) := by
  unfold execResyncReceive
  split
  · exact h
  · split
    · exact out_canonical (badFlit_canonical h)
    · split
      · exact out_canonical (resync_canonical h)
      · exact h

theorem execPortLightLoss_canonical {port : Nat} {s : State} (h : s.canonical = true) : NextCanonical (execPortLightLoss port s) :=
  out_canonical (ite_canonical (ringRec_canonical (reparent_canonical (setPort_canonical h _ _)) _) h)

theorem trainPort_canonical {s : State} {i far fport : Nat} (h : s.canonical = true) : (s.trainPort i far fport).canonical = true := by
  unfold State.trainPort
  extract_lets w s1
  have h1 : s1.canonical = true := by
    refine updPort_canonical ?_ _ _
    exact setPort_canonical (setCpw_canonical h _ _) _ _
  exact ite_canonical h1 (updPort_canonical (withPorts_canonical h1) _ _)

theorem execPortDownRetrain_canonical {port : Nat} {trained : Option (BitVec 15 × BitVec 6)} {s : State} (h : s.canonical = true) :
    NextCanonical (execPortDownRetrain port trained s) := by
  unfold execPortDownRetrain
  split
  · exact out_canonical (ite_canonical (trainPort_canonical h) h)
  · exact h

theorem execLaneLoss_canonical {port lane : Nat} {s : State} (h : s.canonical = true) : NextCanonical (execLaneLoss port lane s) := by
  unfold execLaneLoss
  extract_lets w on v w1 s1 s2
  have h1 : s1.canonical = true := reparent_canonical (setCpw_canonical h _ _)
  have h2 : s2.canonical = true := ringRec_canonical h1 _
  split
  · exact h
  · split
    · exact execPortLightLoss_canonical h2
    · exact out_canonical h2

theorem receiveIf_canonical {s : State} {p : Packet} {f : State → State × Bool} (h : s.canonical = true)
    (hf : ∀ t, t.canonical = true → (f t).1.canonical = true) : NextCanonical (s.receiveIf p f) := by
  unfold State.receiveIf
  extract_lets src psn gen x
  split
  · exact h
  · split
    · exact h
    · split
      · exact out_canonical (sendSack_canonical h _ _)
      · split
        · exact h
        · split
          · exact out_canonical (rateRec_canonical (performed_canonical h _ _) _ _)
          · split
            · exact out_canonical (performed_canonical h _ _)
            · split
              · next e => exact out_canonical (performed_canonical (fst_canonical e (hf s h)) _ _)
              · next e => exact out_canonical (fst_canonical e (hf s h))

theorem receive_canonical {s : State} {p : Packet} {f : State → State} (h : s.canonical = true)
    (hf : ∀ t, t.canonical = true → (f t).canonical = true) : NextCanonical (s.receive p f) :=
  receiveIf_canonical h hf

theorem execSackTimer_canonical {src block : Nat} {s : State} (h : s.canonical = true) : NextCanonical (execSackTimer src block s) := by
  unfold execSackTimer
  split
  · split
    · exact out_canonical (sendSack_canonical h _ _)
    · exact h
  · exact h

theorem execPacketRetransmit_canonical {dst psn : Nat} {s : State} (h : s.canonical = true) : NextCanonical (execPacketRetransmit dst psn s) := by
  unfold execPacketRetransmit
  split
  · split
    · exact out_canonical (transmit_canonical (updDest_canonical h _ _) _)
    · exact h
  · exact h

theorem answerRead_canonical {s : State} {gen : Nat} {ac : Option Acc} {dev pa : Nat} {bs : List Byte} (h : s.canonical = true) :
    (s.answerRead gen ac dev pa bs).2.canonical = true := by
  unfold State.answerRead
  split
  · exact h
  · exact farRead_canonical h

theorem answerLanes_canonical {s : State} {gen dev : Nat} {o : Op} {ls : List (Nat × ReqLane)} {bytes : Nat → ReqLane → List Byte}
    (h : s.canonical = true) : 
    (s.answerLanes gen dev o ls bytes).2.canonical = true :=
  foldl_snd_canonical h fun _ _ ht => answerRead_canonical ht

theorem answerOp_canonical {s : State} {c gen wix : Nat} {o : Op} {gone : Req → Bool} {vals : List (Nat × Nat)} {stop : Option Nat}
    (h : s.canonical = true) : 
    (s.answerOp c gen wix o gone vals stop).canonical = true :=
  ite_canonical (finishOp_canonical (mapWarp_canonical h)) (mapWarp_canonical h)

theorem loseOp_canonical {s : State} {c gen wix d : Nat} {o : Op} (h : s.canonical = true) : (s.loseOp c gen wix d o).canonical = true := by
  unfold State.loseOp
  extract_lets gone lanes0 o'
  split
  · exact answerOp_canonical h
  · exact mapWarp_canonical h
  · exact answerOp_canonical h

theorem loseCopy_canonical {s : State} {c gen : Nat} {x : Copy} (h : s.canonical = true) : (s.loseCopy c gen x).canonical = true :=
  ite_canonical (failCopy_canonical h) (mapCopy_canonical h)

theorem returnCut_canonical {s : State} {i : Nat} (h : s.canonical = true) : (s.returnCut i).canonical = true := by
  unfold State.returnCut
  extract_lets w d dq gen slot s1
  clear_value slot
  split
  · exact ringRec_canonical (by exact escBack_canonical (setCpw_canonical (by exact h) _ _)) _
  · exact h

theorem loseThief_canonical {s : State} (h : s.canonical = true) : s.loseThief.canonical = true :=
  canonical_foldl h fun _ _ ht => returnCut_canonical ht

theorem execEpochSend_canonical {dst : Nat} {s : State} (h : s.canonical = true) : NextCanonical (execEpochSend dst s) := by
  unfold execEpochSend
  extract_lets x
  split
  · exact out_canonical (transmit_canonical (updDest_canonical h _ _) _)
  · exact h

theorem loseWarp_canonical {s : State} {c gen d : Nat} {w : Warp} (h : s.canonical = true) : (s.loseWarp c gen d w).canonical = true := by
  unfold State.loseWarp
  extract_lets s0 s1 wakes
  have hs0 : s0.canonical = true := ite_canonical (mapWarp_canonical h) h
  have hs1 : s1.canonical = true := canonical_foldl hs0 fun _ _ ht => loseOp_canonical ht
  exact ite_canonical (mapWarp_canonical hs1) hs1

theorem loseNext_canonical {s : State} {x : Next} (h : s.canonical = true) : (s.loseNext x).canonical = true := by
  unfold State.loseNext
  split
  · exact pageIrq_canonical h
  · exact pageIrq_canonical h
  · exact h
  · exact escFree_canonical h

theorem execUnreachableDeclare_canonical {dst : Nat} {s : State} (h : s.canonical = true) : NextCanonical (execUnreachableDeclare dst s) := by
  unfold execUnreachableDeclare
  extract_lets s0 x late s1 s2 s3 s4 s5
  have h0 : s0.canonical = true := loseThief_canonical h
  have h1 : s1.canonical = true := ringRec_canonical (updDest_canonical h0 _ _) _
  have h2 : s2.canonical = true := canonical_foldl h1 fun _ _ ht => canonical_foldl ht fun _ _ hu => loseWarp_canonical hu
  have h3 : s3.canonical = true := canonical_foldl h2 fun _ _ ht => canonical_foldl ht fun _ _ hu => loseCopy_canonical hu
  have h4 : s4.canonical = true := canonical_foldl h3 fun _ _ ht => stopWarp_canonical ht
  have h5 : s5.canonical = true := canonical_foldl (by exact h4) fun _ _ ht => loseNext_canonical ht
  clear_value s5
  split
  · exact out_canonical h0
  · exact out_canonical (canonical_foldl (loseThief_canonical h5) fun _ _ ht =>
      ite_canonical ht (ite_canonical (fbOut_canonical ht) (ite_canonical (fbNoRoot_canonical ht) ht)))

/-! ### Task instructions and the teller -/

theorem areas_err {c : Ctx} {s : State} {ls : List Nat} : ErrCanonical (c.areas s ls) := by
  induction ls with
  | nil => exact trivial
  | cons l t ih =>
    unfold Ctx.areas
    split
    · split
      · exact trivial
      · next e => exact err_canonical e ih
    · exact ih
    · next e => exact fst_err e locate_err

theorem areaBytes_canonical {c : Ctx} {s : State} {a : Nat × Nat} {off n : Nat} (h : s.canonical = true) :
    (c.areaBytes s a off n).2.canonical = true :=
  loadSp_canonical h

theorem unreachable_canonical {s : State} {d : Nat} {r : Res} (e : unreachable s d = some r) : r.Canonical := by
  unfold unreachable at e
  split at e
  · cases e
    exact trivial
  · cases e

theorem execEmit_canonical {f : Fmt} {s : State} (h : s.canonical = true) : NextCanonical (execEmit f s) := by
  unfold execEmit
  refine issue_canonical h (fun c t ht => ?_)
  split
  · exact h
  · split
    · next e => exact err_canonical e areas_err
    · extract_lets nid gen g
      split
      · exact trivial
      · split
        · exact trivial
        · exact canonical_foldl ht fun _ _ ht => deliver_canonical (areaBytes_canonical ht)

theorem execEmitRem_canonical {f : Fmt} {s : State} (h : s.canonical = true) : NextCanonical (execEmitRem f s) := by
  refine issue_canonical h fun c t ht => ?_
  refine res_ite h ?_
  split
  · next e => exact err_canonical e areas_err
  · extract_lets nid d t1
    have h1 : t1.canonical = true := ht
    clear_value t1
    split
    · next e => exact unreachable_canonical e
    · split
      next reqs t2 e =>
      refine snd_canonical (t := t2) e (foldl_snd_canonical h1 fun a b ha => ?_)
      split
      next bs v e =>
      have hv : v.canonical = true := snd_canonical e (areaBytes_canonical ha)
      exact sendPacket_canonical (by exact hv) _

theorem execEmitTask_canonical {f : Fmt} {s : State} (h : s.canonical = true) : NextCanonical (execEmitTask f s) := by
  unfold execEmitTask
  refine issue_canonical h (fun c t ht => ?_)
  extract_lets perLane nid word g
  split
  · exact h
  · split
    · next e => exact err_canonical e areas_err
    · split
      · exact trivial
      · split
        · exact ht
        · exact taskCreate_canonical (areaBytes_canonical ht)

theorem execSpawn_canonical {f : Fmt} {s : State} (h : s.canonical = true) : NextCanonical (execSpawn f s) := by
  refine issue_canonical h fun c t ht => ?_
  refine res_ite h ?_
  split
  · next e => exact err_canonical e areas_err
  · extract_lets g gen nid n
    refine res_ite trivial (res_ite trivial (res_ite trivial (res_ite trivial ?_)))
    split
    next bs t1 e =>
    have h1 : t1.canonical = true := snd_canonical e (areaBytes_canonical ht)
    split
    next k t2 e =>
    have h2 : t2.canonical = true := snd_canonical e h1
    exact canonical_foldl h2 fun _ _ hu => deliver_canonical hu

theorem setTail_canonical {s : State} {i v : Nat} (h : s.canonical = true) : (s.setTail i v).canonical = true := setCpw_canonical h _ _

theorem setHead_canonical {s : State} {i v : Nat} (h : s.canonical = true) : (s.setHead i v).canonical = true := setCpw_canonical h _ _

theorem dqFault_canonical {s : State} {i k : Nat} {e : Bool × Nat} : (s.dqFault i k e).Canonical := by
  unfold State.dqFault
  split <;> exact trivial

theorem execTkput_canonical {f : Fmt} {s : State} (h : s.canonical = true) : NextCanonical (execTkput f s) := by
  refine issue_canonical h fun c t ht => ?_
  refine res_ite h ?_
  split
  · next e => exact err_canonical e areas_err
  · extract_lets i g
    refine res_ite trivial (res_ite (wr_canonical ht) ?_)
    split
    · exact dqFault_canonical
    · split
      next bs t1 e =>
      have h1 : t1.canonical = true := snd_canonical e (areaBytes_canonical ht)
      extract_lets r t2 t3
      have h3 : t3.canonical = true := setTail_canonical (storePA_canonical (by exact h1) _ _ _ _)
      exact wr_canonical h3

theorem execTkget_canonical {f : Fmt} {s : State} (h : s.canonical = true) : NextCanonical (execTkget f s) := by
  unfold execTkget
  refine issue_canonical h (fun c t ht => ?_)
  extract_lets i k
  split
  · exact trivial
  · split
    · exact wr_canonical ht
    · split
      · exact dqFault_canonical
      · split
        · exact stopAsync_canonical (wr_canonical ht)
        · exact wr_canonical (escRetry_canonical (deliver_canonical (setTail_canonical (loadPA_canonical ht _ _ _))))

theorem execTkgetClaim_canonical {f : Fmt} {s : State} (h : s.canonical = true) : NextCanonical (execTkgetClaim f s) := by
  refine issue_canonical h fun c t ht => ?_
  extract_lets i d tag t1
  have h1 : t1.canonical = true := sendPacket_canonical (by exact ht) _
  clear_value t1
  refine res_ite trivial ?_
  split
  · next e => exact unreachable_canonical e
  · exact h1

theorem execTdec_canonical {f : Fmt} {s : State} (h : s.canonical = true) : NextCanonical (execTdec f s) := by
  unfold execTdec
  refine issue_canonical h (fun c t ht => ?_)
  split
  · exact h
  · exact taskDec_canonical ht

theorem execTdecRem_canonical {f : Fmt} {s : State} (h : s.canonical = true) : NextCanonical (execTdecRem f s) := by
  refine issue_canonical h fun c t ht => ?_
  extract_lets d t1 tag p
  refine res_ite h ?_
  split
  · next e => exact unreachable_canonical e
  · have h2 : (State.sendPacket { t1 with tag := (tag + 1) % 2 ^ 32 } p).canonical = true := sendPacket_canonical (by exact ht) _
    exact h2

/-! ### Packets -/

theorem reply_canonical {s : State} {p : Packet} {opc addr : Nat} {pay : List Byte} (h : s.canonical = true) :
    (s.reply p opc addr pay).canonical = true :=
  sendPacket_canonical h _

theorem replyPoison_canonical {s : State} {p : Packet} (h : s.canonical = true) : (s.replyPoison p).canonical = true :=
  ringRec_canonical (reply_canonical h) _

theorem mixRuns_canonical {s : State} {p : Packet} (h : s.canonical = true) : (s.mixRuns p).canonical = true :=
  canonical_foldl h fun _ _ ht => mixCheck_canonical ht _ _ _

theorem execRd_canonical {p : Packet} {s : State} (h : s.canonical = true) : NextCanonical (execRd p s) := by
  have answer : ∀ (u : State) (ac : Acc) (lo : Nat) (xs : List Byte) (a : Nat), u.canonical = true →
      (match u.raceRead ac lo xs with | (bs, v) => v.reply p 0x10 a bs).canonical = true := by
    intro u ac lo xs a hu
    split
    next e => exact reply_canonical (snd_canonical e (raceRead_canonical hu _ _ _))
  refine receive_canonical h fun t ht => ?_
  refine ite_canonical (replyPoison_canonical ht) (answer _ _ _ _ _ ?_)
  exact touch_canonical (mixRuns_canonical (ite_canonical (keyRec_canonical ht _) ht)) _

theorem badCtl_canonical {s : State} {p : Packet} (h : s.canonical = true) : (s.badCtl p).canonical = true := ringRec_canonical h _

theorem remoteRmw_canonical {s : State} {p : Packet} {k : Ctl} {e : LaneEnt} (h : s.canonical = true) : (s.remoteRmw p k e).2.canonical = true := by
  unfold State.remoteRmw
  extract_lets n ac pa
  split
  rename_i s2 e'
  have hs2 : s2.canonical = true := snd_canonical e' (loadPA_canonical h _ _ _)
  extract_lets old
  split
  · exact storePA_canonical hs2 _ _ _ _
  · exact hs2

theorem execAtomPacket_canonical {p : Packet} {s : State} (h : s.canonical = true) : NextCanonical (execAtomPacket p s) := by
  unfold execAtomPacket
  refine receive_canonical h (fun t ht => ?_)
  split
  · exact badCtl_canonical ht
  · refine ite_canonical (replyPoison_canonical ht) ?_
    exact reply_canonical (foldl_snd_canonical ht fun _ _ ht => remoteRmw_canonical ht)

theorem execRedPacket_canonical {p : Packet} {s : State} (h : s.canonical = true) : NextCanonical (execRedPacket p s) := by
  unfold execRedPacket
  refine receive_canonical h (fun t ht => ?_)
  split
  · exact badCtl_canonical ht
  · exact ite_canonical (ringRec_canonical ht _) (canonical_foldl ht fun _ _ ht => redLane_canonical ht)

theorem execMon_canonical {p : Packet} {s : State} (h : s.canonical = true) : NextCanonical (execMon p s) := by
  unfold execMon
  refine receiveIf_canonical h (fun t ht => ?_)
  split
  · exact ht
  · split
    · rename_i x h' t' e
      have ht' : t'.canonical = true := snd_canonical e (monRegister_canonical ht)
      exact sendPacket_canonical ht' _
    · next e => exact snd_canonical e (monRegister_canonical ht)

theorem remoteRec_canonical {s : State} {p : Packet} {nid : Nat} {pay : List Byte} (h : s.canonical = true) :
    (s.remoteRec p nid pay).canonical = true :=
  ite_canonical (deliver_canonical h) (ringRec_canonical h _)

theorem execSnot_canonical {p : Packet} {s : State} (h : s.canonical = true) : NextCanonical (execSnot p s) := by
  unfold execSnot
  refine receive_canonical h (fun t ht => ?_)
  extract_lets valid __src
  split
  · exact ringRec_canonical ht _
  · exact remoteRec_canonical ht

theorem replyEmpty_canonical {s : State} {p : Packet} {dq : Nat} (h : s.canonical = true) : (s.replyEmpty p dq).canonical = true := reply_canonical h

theorem claimFault_canonical {s : State} {dq : Nat} {e : Bool × Nat} (h : s.canonical = true) : (s.claimFault dq e).canonical = true :=
  ite_canonical (ringRec_canonical h _) (ringRec_canonical h _)

theorem execClaim_canonical {p : Packet} {s : State} (h : s.canonical = true) : NextCanonical (execClaim p s) := by
  refine receive_canonical h fun t ht => ?_
  extract_lets dq src slot open_ h'
  clear_value open_ slot
  split
  · split
    · exact replyEmpty_canonical (claimFault_canonical ht)
    · refine ite_canonical (replyEmpty_canonical (ringRec_canonical ht _)) ?_
      split
      next bs s1 e =>
      have h1 : s1.canonical = true := snd_canonical e (loadPA_canonical ht _ _ _)
      extract_lets s2 s3 s4
      have h3 : s3.canonical = true := setCpw_canonical (setCpw_canonical (setHead_canonical h1) _ _) _ _
      exact reply_canonical (escRetry_canonical (withEsc_canonical h3))
  · exact replyEmpty_canonical ht

theorem execEsct_canonical {p : Packet} {s : State} (h : s.canonical = true) : NextCanonical (execEsct p s) := by
  unfold execEsct
  refine receive_canonical h (fun t ht => ?_)
  split
  · exact ite_canonical (setCpw_canonical ht _ _) ht
  · exact ht

theorem execEscd_canonical {p : Packet} {s : State} (h : s.canonical = true) : NextCanonical (execEscd p s) := by
  unfold execEscd
  refine receive_canonical h (fun t ht => ?_)
  split
  · refine ite_canonical ht ?_
    extract_lets w bs s1
    have hs1 : s1.canonical = true := setCpw_canonical (by exact ht) _ _
    split
    · rename_i x s1' e
      have hs1' : s1'.canonical = true := snd_canonical e (jobAdd_canonical hs1)
      exact escFree_canonical hs1'
    · rename_i s1' e
      have hs1' : s1'.canonical = true := snd_canonical e (jobAdd_canonical hs1)
      exact ite_canonical (escFree_canonical hs1') hs1'
  · exact ht

theorem xferOpen_canonical {s : State} {c gen id k : Nat} (h : s.canonical = true) : (s.xferOpen c gen id k).canonical = true := mapCopy_canonical h

theorem copyData_canonical {s : State} {c gen : Nat} {x : Copy} {k : Nat} {f : Xfer} {data : List Byte} (h : s.canonical = true) :
    (s.copyData c gen x k f data).canonical = true :=
  ite_canonical (putXfer_canonical (xferOpen_canonical h) (xferOpen_canonical h)) (xferOpen_canonical h)

theorem copyShape_canonical {s : State} {c gen : Nat} {x : Copy} {va : Nat} {data : List Byte} (h : s.canonical = true) :
    (s.copyShape c gen x va data).canonical = true := by
  unfold State.copyShape
  extract_lets s1
  have hs1 : s1.canonical = true := mapCopy_canonical h
  exact ite_canonical (startCopies_canonical (ite_canonical hs1 (enterRec_canonical hs1))) hs1

theorem takeData_canonical {s : State} {src tag : Nat} {data : List Byte} (h : s.canonical = true) : (s.takeData src tag data).canonical = true := by
  unfold State.takeData
  split
  · extract_lets mine
    split
    rename_i s1 e
    have hs1 : s1.canonical = true := snd_canonical e (answerLanes_canonical h)
    split
    · exact mapWarp_canonical hs1
    · exact answerOp_canonical hs1
  · split
    · exact copyData_canonical h
    · split
      · exact copyShape_canonical h
      · split
        · exact phaseWrite_canonical h
        · exact h

theorem execAtomr_canonical {p : Packet} {s : State} (h : s.canonical = true) : NextCanonical (execAtomr p s) := by
  refine receive_canonical h fun t ht => ?_
  split
  · extract_lets mine
    split
    next e => exact answerOp_canonical (snd_canonical e (answerLanes_canonical ht))
  · exact ht

theorem execClaimr_canonical {p : Packet} {s : State} (h : s.canonical = true) : NextCanonical (execClaimr p s) := by
  unfold execClaimr
  refine receive_canonical h (fun t ht => ?_)
  split
  · exact ite_canonical (answerOp_canonical ht) (answerOp_canonical (sendPacket_canonical (by exact deliver_canonical ht) _))
  · exact ht

theorem fetchPoison_canonical {s : State} {c gen wix va pa : Nat} {o : Op} (h : s.canonical = true) :
    (s.fetchPoison c gen wix va pa o).canonical = true :=
  ite_canonical (takeFault_canonical (mapWarp_canonical h)) (mapWarp_canonical (mapWarp_canonical h))

theorem shapePoison_canonical {s : State} {c gen : Nat} {x : Copy} {va pa : Nat} (h : s.canonical = true) :
    (s.shapePoison c gen x va pa).canonical = true :=
  ite_canonical (endCopy_canonical (ringRec_canonical h _)) (mapCopy_canonical (ringRec_canonical h _))

theorem execErrr_canonical {p : Packet} {s : State} (h : s.canonical = true) : NextCanonical (execErrr p s) := by
  unfold execErrr
  refine receive_canonical h (fun t ht => ?_)
  extract_lets src tag pa mine
  split
  · split
    · exact fetchPoison_canonical ht
    · exact answerOp_canonical ht
  · split
    · exact ite_canonical (xferPoison_canonical (xferOpen_canonical ht)) (xferOpen_canonical ht)
    · split
      · exact shapePoison_canonical ht
      · split
        · exact phaseEnd_canonical (ringRec_canonical ht _)
        · exact ht

theorem copyAcked_canonical {s : State} {c gen : Nat} {x : Copy} {k : Nat} {f : Xfer} (h : s.canonical = true) :
    (s.copyAcked c gen x k f).canonical = true :=
  ite_canonical (postXfer_canonical h) (mapCopy_canonical h)

theorem unhold_canonical {s : State} {d tag : Nat} (h : s.canonical = true) : (s.unhold d tag).canonical = true := by
  unfold State.unhold
  extract_lets mine
  split
  · exact h
  · exact ite_canonical (sendLater_canonical (mapWarp_canonical h)) (mapWarp_canonical h)

theorem doNext_canonical {s : State} {x : Next} (h : s.canonical = true) : (s.doNext x).canonical = true := by
  unfold State.doNext
  split
  · extract_lets s1
    have hs1 : s1.canonical = true := sendPacket_canonical h _
    split
    · exact hs1
    · exact ite_canonical (pageIrq_canonical hs1) hs1
  · exact pageIrq_canonical h
  · exact escFree_canonical h

theorem thenNext_canonical {s : State} {d tag : Nat} (h : s.canonical = true) : (s.thenNext d tag).canonical = true := by
  unfold State.thenNext
  extract_lets mine s1
  have hs1 : s1.canonical = true := canonical_foldl h fun _ _ ht => doNext_canonical ht
  split
  · exact phaseEnd_canonical hs1
  · exact hs1

theorem acked_canonical {s0 : State} {d : Nat} {q : Packet} (h : s0.canonical = true) : (s0.acked d q).canonical = true := by
  unfold State.acked
  extract_lets tag s
  have hs : s.canonical = true := thenNext_canonical (unhold_canonical h)
  refine ite_canonical ?_ hs
  split
  · split
    · exact mapWarp_canonical hs
    · exact mapWarp_canonical hs
    · exact mapWarp_canonical hs
    · exact hs
  · split
    · exact copyAcked_canonical hs
    · exact hs

theorem execSack_canonical {p : Packet} {s : State} (h : s.canonical = true) : NextCanonical (execSack p s) := by
  unfold execSack
  split
  · exact h
  · extract_lets d base map x hit s1 s2 s3
    have hs1 : s1.canonical = true := updDest_canonical h _ _
    have hs2 : s2.canonical = true := canonical_foldl hs1 fun _ _ ht => acked_canonical ht
    have hs3 : s3.canonical = true := ite_canonical (ringRec_canonical (updDest_canonical hs2 _ _) _) hs2
    exact out_canonical (flush_canonical _ _ hs3)

theorem execEpoch_canonical {p : Packet} {s : State} (h : s.canonical = true) : NextCanonical (execEpoch p s) := by
  unfold execEpoch
  split
  · exact h
  · exact out_canonical (sendSack_canonical (by exact ite_canonical h (updSrc_canonical h _ _)) _ _)

theorem execWake_canonical {p : Packet} {s : State} (h : s.canonical = true) : NextCanonical (execWake p s) := by
  unfold execWake
  refine receive_canonical h (fun t ht => ?_)
  extract_lets a gen c wix held
  split
  · split
    · exact ite_canonical (mapWarp_canonical (ite_canonical (answerRead_canonical ht) ht)) ht
    · exact ht
  · exact ht

theorem withdraw_canonical {s : State} {x : List Byte} (h : s.canonical = true) : (s.withdraw x).canonical = true := ite_canonical h h

theorem execTte_canonical {p : Packet} {s : State} (h : s.canonical = true) : NextCanonical (execTte p s) := by
  unfold execTte
  refine receive_canonical h (fun t ht => ?_)
  extract_lets s' e why
  refine ite_canonical (sendPacket_canonical (by exact ringRec_canonical (by exact ht) _) _) ?_
  refine ite_canonical ?_ ht
  split
  · exact withdraw_canonical ht
  · exact ht

theorem execPtpm_canonical {p : Packet} {s : State} (h : s.canonical = true) : NextCanonical (execPtpm p s) := by
  unfold execPtpm
  split
  · exact h
  · exact out_canonical (sendPtpm_canonical h)

theorem noticeLate_canonical {s : State} {gen v : Nat} (h : s.canonical = true) : (s.noticeLate gen v).canonical = true :=
  ite_canonical (signalAll_canonical (preemptOver_canonical (ringRec_canonical h _))) h

theorem execPren_canonical {p : Packet} {s : State} (h : s.canonical = true) : NextCanonical (execPren p s) := by
  unfold execPren
  extract_lets gen v
  split
  · exact h
  · split
    · exact h
    · split <;> exact out_canonical (noticeLate_canonical h)

/-! ### The clock, hot pages and errors in arrays -/

theorem loseLock_canonical {s : State} (h : s.canonical = true) : s.loseLock.canonical = true := ringRec_canonical (by exact setCpw_canonical h _ _) _

theorem execHoldoverTimeout_canonical {s : State} (h : s.canonical = true) : NextCanonical (execHoldoverTimeout s) := by
  unfold execHoldoverTimeout
  split
  · exact out_canonical (ite_canonical (ringRec_canonical (by exact h) _) h)
  · exact h

theorem clockExchange_canonical {s : State} {parent : Nat} {offset : Int} {hops : Nat} {root : Bool} {rate : Int} (h : s.canonical = true) :
    (s.clockExchange parent offset hops root rate).canonical = true := by
  unfold State.clockExchange
  extract_lets first now ok bad lock c0 p0 s1 c1 p1 s2
  have hc0 : c0.canonical = true := setCpw_canonical h _ _
  have h1 : s1.canonical = true := withPtb_canonical hc0
  have hc1 : c1.canonical = true := setCpw_canonical h1 _ _
  have h2 : s2.canonical = true := withPtp_canonical hc1
  clear_value s2 c1 s1
  refine ite_canonical ?_ (ite_canonical (loseLock_canonical h1) h1)
  split
  · exact ringRec_canonical h2 _
  · exact h2

theorem askParent_canonical {s : State} {d : Nat} (h : s.canonical = true) : (s.askParent d).canonical = true := sendPtpm_canonical h

theorem execPtpExchange_canonical {parent : Nat} {offset : Int} {hops : Nat} {root : Bool} {rate : Int} {s : State} (h : s.canonical = true) :
    NextCanonical (execPtpExchange parent offset hops root rate s) := by
  unfold execPtpExchange
  extract_lets heard s1
  have h1 : s1.canonical = true := clockExchange_canonical (askParent_canonical h)
  clear_value s1
  split
  · exact out_canonical (clockExchange_canonical h)
  · split
    · exact out_canonical h1
    · exact h

theorem ptpDue_canonical {s : State} (h : s.canonical = true) : s.ptpDue.canonical = true := by
  unfold State.ptpDue
  refine ite_canonical ?_ h
  split
  · exact askParent_canonical h
  · exact h

theorem hotEntry_canonical {s : State} {cfgOff posOff : Nat} {bs : List Byte} (h : s.canonical = true) :
    (s.hotEntry cfgOff posOff bs).canonical = true :=
  ite_canonical h (cpRelease_canonical (storePA_canonical h _ _ _ _) _ _)

theorem execHotPageEpochEnd_canonical {s : State} (h : s.canonical = true) : NextCanonical (execHotPageEpochEnd s) := by
  unfold execHotPageEpochEnd
  extract_lets hpep thr s1
  have hs1 : s1.canonical = true := canonical_foldl h fun _ _ ht => ite_canonical (hotEntry_canonical ht) (hotEntry_canonical ht)
  split
  · exact h
  · exact out_canonical hs1

theorem execPatrolRead_canonical {slice : Nat} {s : State} (h : s.canonical = true) : NextCanonical (execPatrolRead slice s) := by
  unfold execPatrolRead
  split
  · exact h
  · exact out_canonical (ite_canonical h (canonical_foldl h fun _ _ ht => ringRec_canonical ht _))

theorem poisonSec_canonical {s : State} {sec : Nat} (h : s.canonical = true) : (s.poisonSec sec).canonical = true := ite_canonical h h

theorem arrayWarp_canonical {s : State} {core wix arr : Nat} (h : s.canonical = true) : (s.arrayWarp core wix arr).canonical = true := by
  unfold State.arrayWarp
  split
  · exact stopAsync_canonical h
  · exact ringRec_canonical h _

theorem arraySpad_canonical {s : State} {core off : Nat} (h : s.canonical = true) : (s.arraySpad core off).canonical = true :=
  ite_canonical (ringRec_canonical (by exact h) _) (canonical_foldl h fun _ _ ht => stopAsync_canonical ht)

theorem arrayMon_canonical {s : State} {slice k : Nat} (h : s.canonical = true) : (s.arrayMon slice k).canonical = true := by
  unfold State.arrayMon
  split
  · exact monRefillAll_canonical (ringRec_canonical (fireMon_canonical h _ _) _)
  · exact h

theorem execArrayUncorrectableError_canonical {at_ : ArrayAt} {s : State} (h : s.canonical = true) :
    NextCanonical (execArrayUncorrectableError at_ s) := by
  unfold execArrayUncorrectableError
  refine out_canonical ?_
  split
  · exact ringRec_canonical (poisonSec_canonical h) _
  · exact poisonSec_canonical h
  · exact ite_canonical h h
  · exact ringRec_canonical (by exact canonical_foldl h fun _ _ ht => poisonSec_canonical ht) _
  · exact arrayMon_canonical h
  · exact arrayWarp_canonical h
  · exact arraySpad_canonical h
  · exact arrayWarp_canonical h
  · exact ringRec_canonical (poisonSec_canonical h) _
  · exact abortPart_canonical h
  · split
    · exact ite_canonical h (abortPart_canonical h)
    · exact h

/-! ### Doorbells -/

theorem ringBell_canonical {s : State} (h : s.canonical = true) : NextCanonical (ringBell s) := by
  unfold ringBell
  split
  · exact h
  · exact out_canonical (ocmStore_canonical (ocmLoad_canonical h))

/-! ### The shapes of integer instructions -/

theorem unary_canonical {i : Instr} {f : Fmt} {n na : Nat} {op : Nat → Nat} {s : State} (h : s.canonical = true) :
    NextCanonical (unary i f n na op s) :=
  issueOk_canonical h (fun _ _ ht => wr_canonical ht)

theorem binary_canonical {i : Instr} {f : Fmt} {n na nb : Nat} {op : Nat → Nat → Nat} {s : State} (h : s.canonical = true) :
    NextCanonical (binary i f n na nb op s) :=
  issueOk_canonical h (fun _ _ ht => wr_canonical ht)

theorem ternary_canonical {i : Instr} {f : Fmt} {n na nb nc : Nat} {op : Nat → Nat → Nat → Nat} {s : State} (h : s.canonical = true) :
    NextCanonical (ternary i f n na nb nc op s) :=
  issueOk_canonical h (fun _ _ ht => wr_canonical ht)

theorem un_canonical {i : Instr} {f : Fmt} {t : Ty} {op : Nat → Nat} {s : State} (h : s.canonical = true) : NextCanonical (un i f t op s) :=
  unary_canonical h

theorem bin_canonical {i : Instr} {f : Fmt} {t : Ty} {op : Nat → Nat → Nat} {s : State} (h : s.canonical = true) :
    NextCanonical (bin i f t op s) :=
  binary_canonical h

theorem carry_canonical {i : Instr} {f : Fmt} {t : Ty} {cp : BitVec 4} {sub : Bool} {s : State} (h : s.canonical = true) :
    NextCanonical (carry i f t cp sub s) :=
  issueOk_canonical h (fun _ _ ht => wr_canonical ht)

/-! ### The shapes of float instructions -/

theorem fp1_canonical {i : Instr} {f : Fmt} {nd n : Nat} {op : RC → Nat → Nat × Flags} {s : State} (h : s.canonical = true) :
    NextCanonical (fp1 i f nd n op s) :=
  issueOk_canonical h (fun _ _ ht => wrF_canonical ht)

theorem fp2_canonical {i : Instr} {f : Fmt} {nd n nb : Nat} {op : RC → Nat → Nat → Nat × Flags} {s : State} (h : s.canonical = true) :
    NextCanonical (fp2 i f nd n nb op s) :=
  issueOk_canonical h (fun _ _ ht => wrF_canonical ht)

theorem fp3_canonical {i : Instr} {f : Fmt} {n : Nat} {op : RC → Nat → Nat → Nat → Nat × Flags} {s : State} (h : s.canonical = true) :
    NextCanonical (fp3 i f n op s) :=
  issueOk_canonical h (fun _ _ ht => wrF_canonical ht)

theorem spec1_canonical {i : Instr} {f : Fmt} {op : Nat} {s : State} (h : s.canonical = true) : NextCanonical (spec1 i f op s) := fp1_canonical h

/-! ### Packed rows -/

theorem packed2_canonical {i : Instr} {f : Fmt} {t : Ty} {op : RC → Nat → Nat → Nat → Nat × Flags} {s : State} (h : s.canonical = true) :
    NextCanonical (packed2 i f t op s) :=
  issueOk_canonical h (fun _ _ ht => wrF_canonical ht)

/-! ### Matrix operations -/

theorem countM_canonical {c : Ctx} {s : State} (h : s.canonical = true) : (c.countM s).canonical = true := h

theorem spRead_err {c : Ctx} {s : State} {n a size : Nat} : ErrCanonical (c.spRead s n a size).1 := by
  unfold Ctx.spRead
  split <;> exact trivial

theorem spRead_canonical {c : Ctx} {s : State} {n a size : Nat} (h : s.canonical = true) : (c.spRead s n a size).2.canonical = true := by
  unfold Ctx.spRead
  split
  · exact loadSp_canonical h
  · exact h

/-! ### Reads of a matrix operation -/

/-- What a read leaves is in canonical form, and so is what a failed one answers. -/
def RdCanonical {α : Type} (x : Rd α) : Prop := ErrCanonical x.1 ∧ x.2.canonical = true

theorem rd_state {α : Type} {x : Rd α} {y : Except Res α} {t : State} (e : x = (y, t)) (h : RdCanonical x) : t.canonical = true := by
  subst e; exact h.2

theorem rd_error {α : Type} {x : Rd α} {r : Res} {t : State} (e : x = (.error r, t)) (h : RdCanonical x) : r.Canonical := by
  subst e; exact h.1

/-- A read that fails as an earlier one did. -/
theorem rd_same {α β : Type} {x : Rd α} {r : Res} {t : State} (e : x = (.error r, t)) (h : RdCanonical x) :
    RdCanonical (α := β) (.error r, t) := by
  subst e; exact h

theorem rd_ok {α : Type} {x : Rd α} {y : Except Res α} {t : State} {β : Type} {b : β} (e : x = (y, t)) (h : RdCanonical x) :
    RdCanonical (.ok b, t) :=
  ⟨trivial, rd_state e h⟩

theorem spRead_rd {c : Ctx} {s : State} {n a size : Nat} (h : s.canonical = true) : RdCanonical (c.spRead s n a size) :=
  ⟨spRead_err, spRead_canonical h⟩

theorem spReads_canonical {c : Ctx} {n size : Nat} {as : List Nat} {s : State} (h : s.canonical = true) : RdCanonical (c.spReads n size as s) := by
  induction as generalizing s with
  | nil => exact ⟨trivial, h⟩
  | cons a t ih =>
    unfold Ctx.spReads
    split
    · next e => exact rd_same e (spRead_rd h)
    · next e =>
      have h1 := rd_state e (spRead_rd h)
      split
      · next e => exact rd_ok e (ih h1)
      · next e => exact rd_same e (ih h1)

theorem rowCodes_canonical {c : Ctx} {s : State} {o : MOpd} {j r : Nat} (h : s.canonical = true) : RdCanonical (c.rowCodes s o j r) := by
  unfold Ctx.rowCodes
  extract_lets b nr first v go n u8
  have hgo : RdCanonical go := by
    refine foldl_keeps (P := RdCanonical) (fun a i ha => ?_) _ ⟨trivial, h⟩
    split
    · next e t => exact ha
    · next ls t =>
      split
      · next e => exact rd_same e (spReads_canonical ha.2)
      · next e => exact rd_ok e (spReads_canonical ha.2)
  clear_value go
  split
  · exact ⟨trivial, h⟩
  · split
    · split
      · exact hgo
      · exact ⟨trivial, hgo.2⟩
    · split
      · next e => exact rd_same e (spReads_canonical h)
      · next e => exact rd_ok e (spReads_canonical h)

theorem scaleCode_canonical {c : Ctx} {s : State} {o : MOpd} {j low r β : Nat} (h : s.canonical = true) :
    RdCanonical (c.scaleCode s o j low r β) := by
  unfold Ctx.scaleCode
  extract_lets one reg q sb x b
  have hone : ∀ a, RdCanonical (one a) := by
    intro a
    dsimp only [one]
    split
    · next e => exact rd_ok e (spRead_rd h)
    · next e => exact rd_same e (spRead_rd h)
  clear_value one
  split
  · exact ⟨trivial, h⟩
  · exact hone _
  · exact hone _

theorem tensorScale_canonical {c : Ctx} {s : State} {sl : Slot} (h : s.canonical = true) : RdCanonical (c.tensorScale s sl) := by
  unfold Ctx.tensorScale
  split
  · split
    · next e => exact rd_ok e (spRead_rd h)
    · next e => exact rd_same e (spRead_rd h)
  · exact ⟨trivial, h⟩

theorem rowVals_canonical {c : Ctx} {s : State} {o : MOpd} {ts : FV} {j low r : Nat} (h : s.canonical = true) :
    RdCanonical (c.rowVals s o ts j low r) := by
  unfold Ctx.rowVals
  split
  · next e => exact rd_same e (rowCodes_canonical h)
  · next codes t e =>
    have ht : t.canonical = true := rd_state e (rowCodes_canonical h)
    extract_lets dec go
    have hgo : RdCanonical go := by
      refine foldl_keeps (P := RdCanonical) (fun a i ha => ?_) _ ⟨trivial, ht⟩
      split
      · exact ha
      · split
        · next e => exact rd_same e (scaleCode_canonical ha.2)
        · next e => exact rd_ok e (scaleCode_canonical ha.2)
    clear_value go
    split
    · split
      · exact hgo
      · exact ⟨trivial, hgo.2⟩
    · exact ⟨trivial, ht⟩

theorem opdRows_canonical {c : Ctx} {o : MOpd} {ts : FV} {j low : Nat} {rs : List Nat} {s : State} (h : s.canonical = true) :
    RdCanonical (c.opdRows o ts j low rs s) := by
  induction rs generalizing s with
  | nil => exact ⟨trivial, h⟩
  | cons r t ih =>
    unfold Ctx.opdRows
    split
    · next e => exact rd_same e (rowVals_canonical h)
    · next e =>
      have h1 := rd_state e (rowVals_canonical h)
      split
      · next e => exact rd_ok e (ih h1)
      · next e => exact rd_same e (ih h1)

theorem tileAt_err {c : Ctx} {s : State} {a : Nat} : ErrCanonical (c.tileAt s a) := by
  unfold Ctx.tileAt
  extract_lets range
  split
  · split <;> exact trivial
  · exact trivial

theorem tilesAt_err {c : Ctx} {s : State} {a : Nat} {js : List Nat} : ErrCanonical (c.tilesAt s a js) := by
  induction js with
  | nil =>
    unfold Ctx.tilesAt
    split <;> exact trivial
  | cons j t ih =>
    unfold Ctx.tilesAt
    split
    · exact trivial
    · split
      · next e => exact err_canonical e tileAt_err
      · split
        · exact trivial
        · next e => exact err_canonical (x := c.tilesAt s a t) e ih

theorem mmaFault_canonical {c : Ctx} {m : MmaMods} {a b : MOpd} {r : Res} (e : c.mmaFault m a b = some r) : r.Canonical := by
  unfold Ctx.mmaFault at e
  extract_lets at e
  repeat' split at e
  all_goals cases e
  all_goals exact trivial

theorem or_canonical {x y : Option Res} {r : Res} (hx : ∀ r, x = some r → r.Canonical) (hy : ∀ r, y = some r → r.Canonical)
    (e : x.or y = some r) : r.Canonical := by
  cases x with
  | none => exact hy r e
  | some q => exact hx r e

theorem findSome_canonical {α : Type} {f : α → Option Res} {l : List α} (hf : ∀ a r, f a = some r → r.Canonical) (r : Res)
    (e : l.findSome? f = some r) : r.Canonical := by
  obtain ⟨a, _, ha⟩ := List.exists_of_findSome?_eq_some e
  exact hf a r ha

theorem mmaRange_canonical {c : Ctx} {s : State} {a b : MOpd} {n low : Nat} {qs : List Nat} {r : Res} (h : s.canonical = true)
    (e : c.mmaRange s a b n low qs = some r) : r.Canonical := by
  unfold Ctx.mmaRange at e
  extract_lets err row at e
  have herr : ∀ {α : Type} (x : Rd α), RdCanonical x → ∀ r, err x = some r → r.Canonical := by
    intro α x hx r e
    dsimp only [err] at e
    split at e
    · next e' =>
      cases e
      exact err_canonical e' hx.1
    · cases e
  have hrow : ∀ o j i r, row o j i = some r → r.Canonical := by
    intro o j i r e
    dsimp only [row] at e
    split at e
    · cases e
    · split at e
      · exact herr _ (rowCodes_canonical h) r e
      · exact herr _ (rowVals_canonical h) r e
  clear_value err row
  refine or_canonical (herr _ (tensorScale_canonical h)) (fun r e => or_canonical (herr _ (tensorScale_canonical h)) (fun r e => ?_) e) e
  exact findSome_canonical (fun j r e => or_canonical (findSome_canonical (hrow a j)) (findSome_canonical (hrow b j)) e) r e

theorem mmaQuarter_canonical {c : Ctx} {k : MKind} {inf zero : Bool} {n : Nat} {a b : MOpd} {ta tb : FV} {j low : Nat} {t : State}
    (h : t.canonical = true) : RdCanonical (c.mmaQuarter k inf zero n a b ta tb j low t) := by
  unfold Ctx.mmaQuarter
  extract_lets x
  split
  · next e => exact rd_same e (opdRows_canonical h)
  · next e =>
    have h1 := rd_state e (opdRows_canonical h)
    split
    · next e => exact rd_same e (opdRows_canonical h1)
    · next e => exact rd_ok e (opdRows_canonical h1)

theorem mmaReads_canonical {c : Ctx} {k : MKind} {inf zero : Bool} {n : Nat} {a b : MOpd} {ta tb : FV} {low : Nat} {js : List Nat} {t : State}
    (h : t.canonical = true) : RdCanonical (c.mmaReads k inf zero n a b ta tb low js t) := by
  induction js generalizing t with
  | nil => exact ⟨trivial, h⟩
  | cons j rest ih =>
    unfold Ctx.mmaReads
    split
    · next e => exact rd_same e (mmaQuarter_canonical h)
    · next e =>
      have h1 := rd_state e (mmaQuarter_canonical h)
      split
      · next e => exact rd_same e (ih h1)
      · next e => exact rd_ok e (ih h1)

theorem mma_canonical {c : Ctx} {s0 s : State} {m : MmaMods} {zero : Bool} (h : s0.canonical = true) (hs : s.canonical = true) :
    (c.mma s0 s m zero).Canonical := by
  unfold Ctx.mma
  extract_lets g sa sb opd qs low tiles kind
  have htiles : ErrCanonical tiles := by
    dsimp only [tiles]
    split
    · exact tilesAt_err
    · exact trivial
  clear_value tiles opd kind
  refine res_ite h ?_
  split
  · exact htiles
  · exact trivial
  · extract_lets a b
    split
    · cases e : c.mmaRange s a b _ low qs with
      | none => exact mmaFault_canonical (by assumption)
      | some r => exact mmaRange_canonical hs e
    · split
      · next e => exact rd_error e (tensorScale_canonical hs)
      · next e =>
        have h1 := rd_state e (tensorScale_canonical hs)
        split
        · next e => exact rd_error e (tensorScale_canonical h1)
        · next e =>
          have h2 := rd_state e (tensorScale_canonical h1)
          split
          · next e => exact rd_error e (mmaReads_canonical h2)
          · next e =>
            have h3 := rd_state e (mmaReads_canonical h2)
            split
            next s4 fl e =>
            have h4 : s4.canonical = true := by
              refine fst_canonical e (foldl_fst_canonical h3 fun acc x ha => ?_)
              extract_lets t
              have ht : t.canonical = true := ha
              clear_value t
              split
              · split
                next bs t1 e =>
                have h1 : t1.canonical = true := snd_canonical e (loadSp_canonical ht)
                split
                dsimp only
                exact storeSp_canonical h1 _ _ _ _ _
              · split
                exact ht
            exact h4

theorem execAccld_canonical {f : Fmt} {nqm : BitVec 4} {ssp : Bool} {s : State} (h : s.canonical = true) : NextCanonical (execAccld f nqm ssp s) := by
  refine issue_canonical h fun c t ht => ?_
  split
  · split
    · next e => exact err_canonical e tilesAt_err
    · refine countM_canonical (canonical_foldl ht fun u p hu => ?_)
      split
      next e =>
      have h1 := snd_canonical e (loadSp_canonical hu)
      exact h1
  · exact res_ite trivial (countM_canonical (canonical_foldl ht fun _ _ hu => hu))

theorem execAccst_canonical {f : Fmt} {nqm : BitVec 4} {ssp : Bool} {s : State} (h : s.canonical = true) : NextCanonical (execAccst f nqm ssp s) := by
  refine issue_canonical h fun c t ht => ?_
  split
  · split
    · next e => exact err_canonical e tilesAt_err
    · exact countM_canonical (canonical_foldl ht fun _ _ hu => storeSp_canonical hu _ _ _ _ _)
  · exact res_ite trivial (countM_canonical (canonical_foldl ht fun _ _ hu => hu))

/-! ### Block conversions -/

theorem putBlocks_canonical {c : Ctx} {s : State} {out : List (List ((Nat × Nat) × Nat) × Flags)} (h : s.canonical = true) :
    (c.putBlocks s out).canonical = true := h

theorem execQpack_canonical {f : Fmt} {inf : Bool} {sl : BitVec 3} {s : State} (h : s.canonical = true) : NextCanonical (execQpack f inf sl s) := by
  refine issue_canonical h fun c t ht => ?_
  extract_lets q
  refine res_ite trivial ?_
  split
  · next e => exact rd_error e (tensorScale_canonical ht)
  · next e => exact putBlocks_canonical (rd_state e (tensorScale_canonical ht))

theorem execQunpk_canonical {f : Fmt} {inf : Bool} {sl : BitVec 3} {s : State} (h : s.canonical = true) : NextCanonical (execQunpk f inf sl s) := by
  refine issue_canonical h fun c t ht => ?_
  extract_lets q
  refine res_ite trivial ?_
  split
  · next e => exact rd_error e (tensorScale_canonical ht)
  · next e =>
    have h1 := rd_state e (tensorScale_canonical ht)
    exact countM_canonical h1

theorem execRqnt_canonical {f : Fmt} {inf : Bool} {sl sls : BitVec 3} {s : State} (h : s.canonical = true) :
    NextCanonical (execRqnt f inf sl sls s) := by
  refine issue_canonical h fun c t ht => ?_
  extract_lets g q p
  refine res_ite trivial ?_
  split
  · next e => exact rd_error e (tensorScale_canonical ht)
  · next e =>
    have h1 := rd_state e (tensorScale_canonical ht)
    split
    · next e => exact rd_error e (tensorScale_canonical h1)
    · next e => exact putBlocks_canonical (rd_state e (tensorScale_canonical h1))

theorem execTopk_canonical {f : Fmt} {ty : Ty} {pp : Option (BitVec 4)} {s : State} (h : s.canonical = true) :
    NextCanonical (execTopk f ty pp s) := by
  unfold execTopk
  refine issueOk_canonical h (fun c t ht => ?_)
  extract_lets k ls key sel t1 t2
  have ht1 : t1.canonical = true := wr_canonical ht
  have ht2 : t2.canonical = true := by
    dsimp only [t2]
    split <;> exact ht1
  exact ht2

/-! ### Lanes -/

theorem execLbc_canonical {f : Fmt} {t : Ty} {s : State} (h : s.canonical = true) : NextCanonical (execLbc f t s) := by
  unfold execLbc
  refine issue_canonical h (fun c t ht => ?_)
  extract_lets src emp u1
  have hu1 : u1.canonical = true := wr_canonical ht
  split
  · split
    · exact trivial
    · exact h
  · split
    · exact hu1
    · exact wr_canonical ht

/-! ### Predicates -/

theorem execVote_canonical {f : Fmt} {op : VOp} {s : State} (h : s.canonical = true) : NextCanonical (execVote f op s) := by
  unfold execVote
  refine issueOk_canonical h (fun c t ht => ?_)
  extract_lets m
  split
  · exact wr_canonical ht
  · exact ht
  · exact ht
  · exact ht

end Sys2Proof.Machine
end

section
/-! O7 and O8: the memory maps keep their canonical form (R110, R269). Instructions first, then events, turns and the step. -/

namespace Sys2Proof.Machine

/-! ### Every instruction -/

theorem exec_canonical {i : Instr} {s : State} (h : s.canonical = true) : NextCanonical (exec i s) := by
  cases i <;> unfold exec
  case packageReset => exact execPackageReset_canonical h
  case dpst => exact execDpst_canonical h
  case clret => exact execClret_canonical h
  case deposit => exact execDeposit_canonical h
  case depositToRecords => exact execDepositToRecords_canonical h
  case dpcfgWrite | uitcfgWrite | dequeEntryWrite | gpctlWrite => exact byShatus_canonical h (ite_canonical (cpStore_canonical h) h)
  case grtselWrite | ptpcfgWrite | erlostWrite | registerWrite => exact byShatus_canonical h (cpStore_canonical h)
  case nreg => exact execNreg_canonical h
  case nunreg => exact execNunreg_canonical h
  case nodeUnregisterEffect => exact execNodeUnregisterEffect_canonical h
  case keygen => exact execKeygen_canonical h
  case keykill => exact execKeykill_canonical h
  case partset => exact execPartset_canonical h
  case attest => exact execAttest_canonical h
  case cmdUndefined => exact command_canonical h (fun _ ht => ht)
  case tillSpillReturn => exact execTillSpillReturn_canonical h
  case tillTimerExpiry => exact out_canonical (ite_canonical (examine_canonical h) h)
  case bgPromotion => exact h
  case groupAdmission => exact execGroupAdmission_canonical h
  case stagingComplete => exact execStagingComplete_canonical h
  case warpParkTimeout => exact execWarpParkTimeout_canonical h
  case warpUnpark => exact execWarpUnpark_canonical h
  case yieldIntervalEnd | queueCommitNotice | matrixRampTimer | cluitxWrite => exact out_canonical h
  case loadDataReturn => exact execLoadDataReturn_canonical h
  case warpComplete => exact execWarpComplete_canonical h
  case matrixResultWritten => exact execMatrixResultWritten_canonical h
  case redPerformed => exact execRedPerformed_canonical h
  case copyPosting => exact execCopyPosting_canonical h
  case copyComplete => exact execCopyComplete_canonical h
  case monitorDeadline => exact execMonitorDeadline_canonical h
  case switchPrepare | resyncTimer => exact out_canonical (ite_canonical h h)
  case switchSignal => exact out_canonical (signalAll_canonical h)
  case switchHaltEnd => exact execSwitchHaltEnd_canonical h
  case switchDrainEnd => exact execSwitchDrainEnd_canonical h
  case switchDrainLimit => exact execSwitchDrainLimit_canonical h
  case switchSaveEnd => exact execSwitchSaveEnd_canonical h
  case clockChangeEnd => exact execClockChangeEnd_canonical h
  case switchRestoreEnd => exact execSwitchRestoreEnd_canonical h
  case flitReceive => exact execFlitReceive_canonical h
  case resyncReceive => exact execResyncReceive_canonical h
  case drainMarkerSend => exact execDrainMarkerSend_canonical h
  case drainMarkerReceive => exact out_canonical (ite_canonical (farMarker_canonical h) h)
  case drainMarkerTimeout => exact execDrainMarkerTimeout_canonical h
  case portLightLoss => exact execPortLightLoss_canonical h
  case sackTimer => exact execSackTimer_canonical h
  case packetRetransmit => exact execPacketRetransmit_canonical h
  case epochSend => exact execEpochSend_canonical h
  case rd => exact execRd_canonical h
  case wr => exact receive_canonical h (fun _ ht => canonical_foldl (mixRuns_canonical ht) fun _ _ ht => storePA_canonical ht _ _ _ _)
  case atomPacket => exact execAtomPacket_canonical h
  case redPacket => exact execRedPacket_canonical h
  case taskDecrementPacket => exact receive_canonical h (fun _ ht => ite_canonical (taskDec_canonical ht) (badCtl_canonical ht))
  case mon => exact execMon_canonical h
  case recPacket => exact receive_canonical h (fun _ ht => remoteRec_canonical ht)
  case claim => exact execClaim_canonical h
  case esct => exact execEsct_canonical h
  case escd => exact execEscd_canonical h
  case rdr => exact receive_canonical h (fun _ ht => takeData_canonical ht)
  case atomr => exact execAtomr_canonical h
  case claimr => exact execClaimr_canonical h
  case errr => exact execErrr_canonical h
  case sack => exact execSack_canonical h
  case wake => exact execWake_canonical h
  case fbar | frel | sdec | fwdr => exact receiveIf_canonical h (fun _ ht => barrierTraffic_canonical ht)
  case snot => exact execSnot_canonical h
  case tte => exact execTte_canonical h
  case ptpm => exact execPtpm_canonical h
  case pren => exact execPren_canonical h
  case ttr => exact receive_canonical h (fun _ ht => ht)
  case abrt => exact receive_canonical h (fun _ ht => ite_canonical (killKey_canonical (abortGen_canonical ht)) (abortGen_canonical ht))
  case epoch => exact execEpoch_canonical h
  case nop | exit | cvwait | yield | mxhint | pset | psetf | plog | pmovPut | fro => exact issueOk_canonical h (fun _ _ ht => ht)
  case bra | brx | call | ret => exact issue_canonical h (fun _ _ ht => branch_canonical ht)
  case cvset | sget | pmovGet | sel | movd | pabs | lshf | lred | lscan | vhash | vdrop => exact issueOk_canonical h (fun _ _ ht => wr_canonical ht)
  case trap | brk => exact issue_canonical h (fun _ _ ht => trivial)
  case svc => exact execSvc_canonical h
  case sset => exact issueOk_canonical h (fun _ _ ht => ite_canonical ht ht)
  case vote => exact execVote_canonical h
  case add | sub | mul | mulhi | div | rem | min | max | and | or | xor | andn | fcsign => exact bin_canonical h
  case addc | subb => exact carry_canonical h
  case mad | madhi | bfi | prmt => exact ternary_canonical h
  case abs | neg | not | brev | mov | movi | fneg | fabs => exact un_canonical h
  case lea | shl | shr | sar | rot | bfx => exact binary_canonical h
  case popc | clz | ctz | fcls => exact unary_canonical h
  case fadd | fsub | fmul | fmin | fmax | fdiv | fscale => exact fp2_canonical h
  case ffma | pdot => exact fp3_canonical h
  case fsqrt | fgexp | frnd | fcvt | icvt | vscs | punpk => exact fp1_canonical h
  case vsin | vcos | vex2 | vlg2 | vrcp | vrsq | vtanh => exact spec1_canonical h
  case padd | psub | pmul | pmin | pmax => exact packed2_canonical h
  case pfma | pcvt | ppack => exact issueOk_canonical h (fun _ _ ht => wrF_canonical ht)
  case lbc => exact execLbc_canonical h
  case ld | ldro => exact issueOcc_canonical h (fun _ _ ht => load_canonical h ht)
  case ldk => exact execLdk_canonical h
  case st => exact issueOcc_canonical h (fun _ _ ht => store_canonical h ht)
  case atom => exact issueOcc_canonical h (fun _ _ ht => atom_canonical h ht)
  case red => exact issueOcc_canonical h (fun _ _ ht => reduce_canonical h ht)
  case fence => exact execFence_canonical h
  case rcfence => exact execRcfence_canonical h
  case awaitCnt => exact issueOk_canonical h (fun _ _ ht => ite_canonical (learnRetired_canonical ht) ht)
  case awaitPh => exact execAwaitPh_canonical h
  case awaitPhG | awaitMem => exact issue_canonical h (fun _ _ ht => awaitAt_canonical ht (fun _ _ ht => register_canonical h ht))
  case bini => exact execBini_canonical h
  case barv => exact execBarv_canonical h
  case bexp => exact execBexp_canonical h
  case gbarGrid => exact execGbarGrid_canonical h
  case gbarFab => exact execGbarFab_canonical h
  case qcls => exact execQcls_canonical h
  case qstat => exact execQstat_canonical h
  case mma | mmaz => exact issue_canonical h (fun _ _ ht => mma_canonical h ht)
  case accld => exact execAccld_canonical h
  case accst => exact execAccst_canonical h
  case accz => exact issueOk_canonical h (fun _ _ ht => canonical_foldl ht fun _ _ ht => ht)
  case rqnt => exact execRqnt_canonical h
  case qpack => exact execQpack_canonical h
  case qunpk => exact execQunpk_canonical h
  case plsplit => exact issue_canonical h fun _ _ ht => res_ite trivial (countM_canonical (wr_canonical ht))
  case plmrg => exact issue_canonical h fun _ _ ht => res_ite trivial (res_ite trivial (countM_canonical (wr_canonical ht)))
  case topk => exact execTopk_canonical h
  case cpy => exact execCpy_canonical h
  case cpyt | cpyw => exact issue_canonical h (fun _ _ ht => copyWith_canonical h ht)
  case cpyg | cpys => exact issue_canonical h (fun _ _ ht => lanesCopy_canonical h ht)
  case emit => exact execEmit_canonical h
  case emitRem => exact execEmitRem_canonical h
  case emitTask => exact execEmitTask_canonical h
  case spawn => exact execSpawn_canonical h
  case tkget => exact execTkget_canonical h
  case tkgetClaim => exact execTkgetClaim_canonical h
  case tkput => exact execTkput_canonical h
  case tdec => exact execTdec_canonical h
  case tdecRem => exact execTdecRem_canonical h
  case sret => exact execSret_canonical h
  case mbrecv => exact execMbrecv_canonical h
  case mbpost => exact execMbpost_canonical h
  case frep => exact execFrep_canonical h
  case fdrop => exact execFdrop_canonical h
  case tlbi => exact execTlbi_canonical h
  case wpark => exact execWpark_canonical h
  case wwake => exact execWwake_canonical h
  case sctxRd => exact execSctxRd_canonical h
  case sctxWr => exact execSctxWr_canonical h
  case slotWindowEnd => exact out_canonical (signalCore_canonical h)
  case copyAccessFault => exact execCopyAccessFault_canonical h
  case userInterruptWaitEnd => exact execUserInterruptWaitEnd_canonical h
  case lockLossTimeout => exact out_canonical (ite_canonical (loseLock_canonical h) h)
  case holdoverTimeout => exact execHoldoverTimeout_canonical h
  case hotPageEpochEnd => exact execHotPageEpochEnd_canonical h
  case measurementExtend => exact ite_canonical h h
  case userInterruptTake => exact execUserInterruptTake_canonical h
  case vfReset => exact execVfReset_canonical h
  case coreRestart => exact execCoreRestart_canonical h
  case ptpExchange => exact execPtpExchange_canonical h
  case patrolRead => exact execPatrolRead_canonical h
  case arrayCorrectedError => exact out_canonical (ite_canonical (ringRec_canonical (by exact h) _) h)
  case arrayUncorrectableError => exact execArrayUncorrectableError_canonical h
  case hdieUncorrectableError => exact out_canonical (hdieError_canonical h)
  case portLightReturn => exact out_canonical (ite_canonical (trainPort_canonical h) h)
  case portRelockComplete => exact out_canonical (ite_canonical (drainPort_canonical _ _ (by exact setPort_canonical (by exact h) _ _)) h)
  case relockTimeout | darkTimeout => exact out_canonical (ite_canonical (ringRec_canonical (setPort_canonical h _ _) _) h)
  case portDownRetrain => exact execPortDownRetrain_canonical h
  case laneLoss => exact execLaneLoss_canonical h
  case laneRetrain => exact out_canonical (ite_canonical (ite_canonical (setCpw_canonical h _ _) h) (ite_canonical (setCpw_canonical h _ _) h))
  case unreachableDeclare => exact execUnreachableDeclare_canonical h
  case preemptionSlotEnd => exact out_canonical (preemptOver_canonical h)

/-! ### What is due -/

/-- An event that keeps the form. -/
def Keeps (f : Event) : Prop := ∀ s : State, s.canonical = true → NextCanonical (f s)

/-- Every event of a list keeps it. -/
def KeepAll (fs : List Event) : Prop := ∀ f ∈ fs, Keeps f

/-- An event that is the meaning of an instruction. -/
theorem keeps_exec (i : Instr) : Keeps (exec i) := fun _ h => exec_canonical h

theorem keepAll_nil : KeepAll [] := List.forall_mem_nil _

theorem keepAll_one {f : Event} (hf : Keeps f) : KeepAll [f] := List.forall_mem_singleton.mpr hf

theorem keepAll_cons {f : Event} {fs : List Event} (hf : Keeps f) (hfs : KeepAll fs) : KeepAll (f :: fs) := List.forall_mem_cons.mpr ⟨hf, hfs⟩

theorem keepAll_append {fs gs : List Event} (hf : KeepAll fs) (hg : KeepAll gs) : KeepAll (fs ++ gs) := List.forall_mem_append.mpr ⟨hf, hg⟩

theorem keepAll_ite {p : Prop} {_ : Decidable p} {fs gs : List Event} (hf : KeepAll fs) (hg : KeepAll gs) : KeepAll (if p then fs else gs) := by
  split
  · exact hf
  · exact hg

theorem keepAll_map {α : Type} {f : α → Event} {l : List α} (hf : ∀ a, Keeps (f a)) : KeepAll (l.map f) :=
  List.forall_mem_map.mpr fun a _ => hf a

theorem keepAll_flatMap {α : Type} {f : α → List Event} {l : List α} (hf : ∀ a, KeepAll (f a)) : KeepAll (l.flatMap f) := by
  intro g hg
  obtain ⟨a, _, ha⟩ := List.mem_flatMap.mp hg
  exact hf a g ha

theorem cpEvents_keep (s : State) : KeepAll s.cpEvents := by
  unfold State.cpEvents
  refine keepAll_append (keepAll_append (keepAll_append (keepAll_append (keepAll_append (keepAll_append ?_ ?_) ?_) ?_) ?_) ?_) ?_
  · split
    · exact keepAll_one (keeps_exec (.nreg _))
    · exact keepAll_one (keeps_exec (.nunreg _))
    · exact keepAll_one (keeps_exec (.keygen _))
    · exact keepAll_one (keeps_exec (.keykill _))
    · exact keepAll_one (keeps_exec (.partset _))
    · exact keepAll_one (keeps_exec (.attest _))
    · exact keepAll_one (keeps_exec (.cmdUndefined _))
    · exact keepAll_nil
  · exact keepAll_ite keepAll_nil (keepAll_one (keeps_exec .depositToRecords))
  · exact keepAll_map fun n => keeps_exec (.nodeUnregisterEffect n.gen n.nid)
  · exact keepAll_map fun q => keeps_exec (.userInterruptWaitEnd q.1)
  · exact keepAll_map fun _ _ h => out_canonical (writeCompletion_canonical h)
  · exact keepAll_ite keepAll_nil (keepAll_one fun _ h => ringBell_canonical h)
  · exact keepAll_map fun k => keeps_exec (.monitorDeadline k)

theorem switchEvents_keep (s : State) : KeepAll s.switchEvents := by
  unfold State.switchEvents
  refine keepAll_append (keepAll_append (keepAll_append ?_ ?_) ?_) (keepAll_flatMap fun c => ?_)
  · exact keepAll_ite keepAll_nil (keepAll_map fun c => keeps_exec (.switchPrepare c))
  · exact keepAll_map fun p => keeps_exec (.preemptionSlotEnd p.gen)
  · exact keepAll_one (keeps_exec .switchSignal)
  · split
    · exact keepAll_nil
    · exact keepAll_one (keeps_exec (.switchHaltEnd c))
    · exact keepAll_cons (keeps_exec (.switchDrainEnd c)) (keepAll_one (keeps_exec (.switchDrainLimit c)))
    · exact keepAll_one (keeps_exec (.switchSaveEnd c))
    · exact keepAll_one (keeps_exec (.clockChangeEnd c))
    · exact keepAll_one (keeps_exec (.switchRestoreEnd c))

theorem warpEvents_keep (c : Nat) (w : Warp) : KeepAll (warpEvents c w) := by
  unfold warpEvents
  refine keepAll_append (keepAll_flatMap fun o => ?_) (keepAll_ite keepAll_nil ?_)
  · split
    · exact keepAll_one (keeps_exec (.loadDataReturn c w.wix o.id))
    · exact keepAll_one (keeps_exec (.loadDataReturn c w.wix o.id))
    · exact keepAll_one (keeps_exec (.loadDataReturn c w.wix o.id))
    · exact keepAll_one (keeps_exec (.loadDataReturn c w.wix o.id))
    · exact keepAll_one (keeps_exec (.matrixResultWritten c w.wix))
    · exact keepAll_one (keeps_exec (.redPerformed c w.wix))
    · exact keepAll_nil
  · exact keepAll_cons (keeps_exec (.warpComplete c w.wix)) (keepAll_one (keeps_exec (.warpParkTimeout c w.wix)))

theorem coreEvents_keep (s : State) : KeepAll s.coreEvents := by
  unfold State.coreEvents
  refine keepAll_append (keepAll_append (keepAll_append (keepAll_append ?_ ?_) ?_) ?_) (keepAll_flatMap fun c => ?_)
  · exact keepAll_flatMap fun c => keepAll_ite (keepAll_map fun sl => keeps_exec (.warpUnpark c sl)) keepAll_nil
  · exact keepAll_map fun t => keeps_exec (.tillTimerExpiry t.gen t.nid t.die)
  · exact keepAll_map fun t => keeps_exec (.bgPromotion t.gen t.nid t.die)
  · exact keepAll_ite keepAll_nil
      (keepAll_flatMap fun d => keepAll_cons (keeps_exec (.tillSpillReturn d)) (keepAll_one (keeps_exec (.groupAdmission d))))
  · extract_lets k
    refine keepAll_append (keepAll_append (keepAll_append ?_ ?_) ?_) ?_
    · exact keepAll_flatMap (warpEvents_keep c)
    · refine keepAll_flatMap fun x => keepAll_ite (keepAll_one (keeps_exec (.stagingComplete c x.gid))) ?_
      exact keepAll_cons (keeps_exec (.copyPosting c x.id x.xfers.length))
        (keepAll_cons (keeps_exec (.copyAccessFault c x.id)) (keepAll_one (keeps_exec (.copyComplete c x.id))))
    · exact keepAll_flatMap fun g => keepAll_map fun r => keeps_exec (.queueCommitNotice c g.gid r.1 (BitVec.ofNat 32 r.2.tail))
    · exact keepAll_ite (keepAll_one (keeps_exec (.coreRestart c))) keepAll_nil

theorem linkEvents_keep (s : State) : KeepAll s.linkEvents := by
  unfold State.linkEvents
  refine keepAll_append (keepAll_append (keepAll_append (keepAll_append ?_ ?_) ?_) (keepAll_flatMap fun i => ?_)) ?_
  · refine keepAll_flatMap fun d => keepAll_append (keepAll_map fun u => keeps_exec (.packetRetransmit d.dst u.psn)) ?_
    exact keepAll_ite (keepAll_one (keeps_exec (.epochSend d.dst))) (keepAll_one (keeps_exec (.unreachableDeclare d.dst)))
  · exact keepAll_ite (keepAll_one fun _ h => out_canonical (loseThief_canonical h)) keepAll_nil
  · exact keepAll_flatMap fun x => keepAll_map fun b => keeps_exec (.sackTimer x.src b.1)
  · split
    · exact keepAll_cons (keeps_exec (.drainMarkerSend i)) (keepAll_one (keeps_exec (.drainMarkerTimeout i)))
    · exact keepAll_one (keeps_exec (.darkTimeout i))
    · exact keepAll_one (keeps_exec (.relockTimeout i))
    · exact keepAll_nil
  · exact keepAll_cons (keeps_exec .lockLossTimeout) (keepAll_cons (keeps_exec .holdoverTimeout)
      (keepAll_cons (keeps_exec .hotPageEpochEnd) (keepAll_one fun _ h => out_canonical (ptpDue_canonical h))))

theorem hartEvents_keep (s : State) : KeepAll s.hartEvents := keepAll_map fun n => keeps_exec (.userInterruptTake n)

theorem changes_canonical {s : State} {f : Event} {o : Host.Outcome State Fault Refusal} (h : s.canonical = true) (hf : Keeps f)
    (e : changes s f = some o) : NextCanonical o := by
  have hs : NextCanonical (f s) := hf s h
  unfold changes at e
  split at e
  · next t et =>
    rw [et] at hs
    split at e
    · cases e
    · cases e
      exact hs
  · cases e
    exact hs

theorem due_canonical {s : State} {o : Host.Outcome State Fault Refusal} (h : s.canonical = true) (e : s.due = some o) : NextCanonical o := by
  have hall : KeepAll (s.cpEvents ++ s.switchEvents ++ s.coreEvents ++ s.linkEvents ++ s.hartEvents) :=
    keepAll_append (keepAll_append (keepAll_append (keepAll_append (cpEvents_keep s) (switchEvents_keep s)) (coreEvents_keep s))
      (linkEvents_keep s)) (hartEvents_keep s)
  obtain ⟨f, hf, hc⟩ := List.exists_of_findSome?_eq_some e
  exact changes_canonical h (hall f hf) hc

/-! ### A turn -/

theorem issueFetched_canonical {f : Fetched} {s : State} (h : s.canonical = true) : NextCanonical (issueFetched f s) := by
  unfold issueFetched
  split
  · exact exec_canonical (by exact h)
  · exact settleRes_canonical h trivial
  · exact settleRes_canonical h trivial
  · exact h

theorem issueSecond_canonical {c wix : Nat} {avoid : Option Nat} {f : Fetched} {q : DWord × Mask} {s : State} (h : s.canonical = true) :
    NextCanonical (issueSecond c wix avoid f q s) := by
  unfold issueSecond
  split
  · exact h
  · split
    · next e =>
      split
      · exact issueFetched_canonical (snd_canonical e (fetch_canonical h))
      · exact h
    · exact h

theorem issuePaths_canonical {c sl wix cyc : Nat} {avoid : Option Nat} {all ps : List (DWord × Mask)} {s : State} (h : s.canonical = true) :
    NextCanonical (issuePaths c sl wix cyc avoid all ps s) := by
  induction ps generalizing s with
  | nil => exact h
  | cons p rest ih =>
    unfold issuePaths
    split
    next f t e =>
    have hf : NextCanonical (issueFetched f t) := issueFetched_canonical (snd_canonical e (fetch_canonical h))
    extract_lets barred
    split
    · exact ih h
    · split
      · next u e =>
        have hu : u.canonical = true := next_canonical e hf
        split
        · extract_lets u1
          split
          · exact hu
          · next q _ =>
            have hs : NextCanonical (issueSecond c wix avoid f q u1) := issueSecond_canonical hu
            split
            · next v e =>
              have hv : v.canonical = true := next_canonical e hs
              exact hv
            · exact hs
        · exact ih hu
      · exact hf

theorem tryWarp_canonical {c sl wix cyc : Nat} {avoid : Option Nat} {s : State} (h : s.canonical = true) :
    NextCanonical (tryWarp c sl wix cyc avoid s) :=
  issuePaths_canonical (by exact h)

theorem probeWarp_canonical {c sl wix cyc : Nat} {busy : List Nat} {s t : State} (h : s.canonical = true)
    (e : probeWarp c sl wix cyc busy s = some t) : t.canonical = true := by
  unfold probeWarp at e
  split at e
  · next u eu =>
    have hu : u.canonical = true := next_canonical eu (tryWarp_canonical (by exact h))
    split at e
    · cases e
    · cases e
      exact hu
  · cases e

theorem markHeld_canonical {s : State} {c sl wix cyc : Nat} (h : s.canonical = true) : (s.markHeld c sl wix cyc).canonical = true := h

theorem markRest_canonical {c sl cyc wix : Nat} {busy : List Nat} {s : State} (h : s.canonical = true) :
    (s.markRest c sl cyc busy wix).canonical = true := by
  unfold State.markRest
  split
  · exact h
  · next e => exact markHeld_canonical (probeWarp_canonical h e)

theorem issueWarps_canonical {c sl cyc : Nat} {busy : List Nat} {kept : Option (Nat × Nat)} {done ws : List Nat} {s : State}
    (h : s.canonical = true) : NextCanonical (issueWarps c sl cyc busy kept done ws s) := by
  induction ws generalizing done s with
  | nil => exact h
  | cons wix rest ih =>
    unfold issueWarps
    extract_lets avoid
    have ht : NextCanonical (tryWarp c sl wix cyc avoid s) := tryWarp_canonical h
    split
    · next u e =>
      have hu : u.canonical = true := next_canonical e ht
      split
      · extract_lets v ages
        have hv : v.canonical = true := canonical_foldl (by exact hu) fun _ _ hx => markRest_canonical hx
        exact hv
      · exact ih (ite_canonical (markRest_canonical hu) (markHeld_canonical hu))
    · exact ht

theorem sliceTurn_canonical {c sl : Nat} {s : State} (h : s.canonical = true) : NextCanonical (sliceTurn c sl s) := by
  unfold sliceTurn
  extract_lets t
  split
  · exact h
  · exact issueWarps_canonical (tickSlice_canonical h)

theorem hartTurn_canonical {n : Nat} {s : State} (h : s.canonical = true) : NextCanonical (hartTurn n s) := by
  unfold hartTurn
  split
  · exact h
  · split
    · exact exec_canonical (by exact h)
    · exact trivial

theorem perform_canonical {a : Act} {s : State} (h : s.canonical = true) : NextCanonical (perform a s) := by
  unfold perform
  split
  · exact sliceTurn_canonical h
  · exact hartTurn_canonical h
  · split
    · exact exec_canonical h
    · exact h
  · split
    · exact exec_canonical h
    · exact h
  · exact exec_canonical h
  · exact writeCompletion_canonical h

theorem step_canonical {s : State} (h : s.canonical = true) : NextCanonical (step s) := by
  unfold step
  split
  · exact perform_canonical (elapse_canonical (by exact h))
  · split
    · exact exec_canonical h
    · split
      · next e => exact due_canonical h e
      · exact sliceTurn_canonical (elapse_canonical (by exact h))

/-- Settles O7: no step can write a map but by way of the operations on sparse maps, each of which keeps the form. -/
theorem canonicalKept : Obligations.CanonicalKept :=
  fun _ _ h e => next_canonical e (step_canonical h)

/-- Settles O8: after reset the four maps are empty. -/
theorem canonicalAtReset : Obligations.CanonicalAtReset :=
  (canonical_iff State.reset).mpr ⟨rfl, rfl, rfl, rfl⟩

end Sys2Proof.Machine
end

section
namespace Sys2Proof.Machine

/-! ### What is sent frees the slot of a flit that came by a port beyond the 95 (R213, R219, R247) -/

/-- A message about time from package 1. -/
def timeQuestion : Packet :=
  { gen := 0, psn := 0, src := 1, dst := 0, cls := 3, vgrp := 0, val := false, opc := 0x20, tag := 0, addr := 0, pay := [] }

theorem exec_timeQuestion : exec (.ptpm timeQuestion) extraPort = (extraPort.sendPtpm 1).out := by
  show execPtpm timeQuestion extraPort = _
  rw [execPtpm, if_neg (by decide +kernel)]
  rfl

/-- The stray flit goes out with the answer, and the port that it came by goes dark: that is written over GPSTAT. -/
theorem sendPtpm_dark : (extraPort.sendPtpm 1).cpw oGPSTAT = 3 := by decide +kernel

/-- Refutes O60, in its clause on a timing message that is answered: nothing there says that a package has 95 ports (R213), and noDark speaks of
those alone. Where the list of ports has one more, a flit that came by it lets the answer change a CP register. -/
theorem not_timetable : ¬ Obligations.Timetable := by
  unfold Obligations.Timetable
  rintro ⟨-, htiming⟩
  obtain ⟨-, hanswered, -⟩ := htiming timeQuestion extraPort rfl (by decide +kernel) rfl
  obtain ⟨t, hrun, hsame, -⟩ := hanswered (by decide +kernel)
  have ht : t = extraPort.sendPtpm 1 := State.eq_of_out_next (exec_timeQuestion.symm.trans hrun)
  have hcp : t.cpw oGPSTAT = extraPort.cpw oGPSTAT := by rw [hsame]; rfl
  rw [ht, sendPtpm_dark] at hcp
  exact absurd hcp (by decide +kernel)

/-- The package after an exchange with package 1 that shows no offset, of which it had not heard before. -/
def exchanged : State :=
  let t := (({ extraPort with nbrs := [(1, 0)] } : State).askParent 1).clockExchange 1 0 0 false 0
  { t.tick with ptp := { t.ptp with delay := (Config.freeWord t.fresh).toNat } }

theorem exec_exchanged : exec (.ptpExchange 1 0 0 false 0) extraPort = exchanged.out := by
  show execPtpExchange 1 0 0 false 0 extraPort = _
  simp only [execPtpExchange, Bool.false_eq_true, if_false]
  rw [if_pos (by decide +kernel)]
  rfl

/-- The message to the parent makes the port of the stray flit go dark. -/
theorem exchanged_dark : exchanged.cpw oGPSTAT = 3 := by decide +kernel

/-- Refutes O45, in its clause on an exchange that is followed, as O60 is refuted: it says that PTBSTAT and ERLOST alone may differ of the CP's
registers, and the message to the parent changes GPSTAT. -/
theorem not_clock : ¬ Obligations.Clock := by
  unfold Obligations.Clock
  intro h
  obtain ⟨hexchange, -⟩ := h extraPort rfl
  obtain ⟨-, hfollowed⟩ := hexchange 1 0 0 false 0 (by decide +kernel) (by decide) (by decide +kernel)
  obtain ⟨t, hrun, -, -, -, hregs, -⟩ := hfollowed (.inr (by decide +kernel))
  have ht : t = exchanged := State.eq_of_out_next (exec_exchanged.symm.trans hrun)
  have hcp : t.cpw oGPSTAT = extraPort.cpw oGPSTAT := congrArg BitVec.toNat (hregs (oGPSTAT / 8) (by decide))
  rw [ht, exchanged_dark] at hcp
  exact absurd hcp (by decide +kernel)

/-- A root that still waits for a member has no episode to complete (R233). -/
theorem State.fbCheck_waits {s : State} {b m : Nat} (hm : m ∈ s.fbLive b) (ha : ∀ a ∈ (s.fb b).arr, a.1 ≠ m) (n : Nat) : s.fbCheck b n = s := by
  cases n with
  | zero => rfl
  | succ n =>
    have hnone : (s.fb b).arr.find? (fun a => a.1 == m) = none := by
      rw [List.find?_eq_none]
      exact fun a h => by simpa using ha a h
    have hany : ((s.fbLive b).map (fun p => (s.fb b).arr.find? (fun a => a.1 == p))).any Option.isNone = true := by
      rw [List.any_map, List.any_eq_true]
      exact ⟨m, hm, by simp [hnone]⟩
    rw [State.fbCheck]
    simp only [hany, Bool.or_true, if_true]

/-- An arrival of package 1 at barrier 0, at time 0. -/
def arrival : Packet :=
  { gen := 0, psn := 0, src := 1, dst := 0, cls := 2, vgrp := 0, val := false, opc := 0x1A, tag := 0, addr := 0, pay := [] }

/-- The package as the root of barrier 0, whose members are packages 1 and 2; of the block of PSNs of package 1 it has performed all but the first
of 16, and not acknowledged them. -/
def extraPortRoot : State :=
  { extraPort with
    cp := [(oGPSTAT / 8, 2), (oLLSTAT / 8, 1), (oFBAR / 8, 1), (oFBAR / 8 + 3, 1)], keys := [(0, 1)], mem := [(0, 6)]
    srcs := [{ src := 1, fresh := [(0, 2 ^ 16 - 2, 0)] }] }

theorem extraPortRoot_accepts : extraPortRoot.accepts arrival = true := by decide +kernel

theorem extraPortRoot_members : ∀ d ∈ [1, 2], d ∈ extraPortRoot.pset (fld (extraPortRoot.fbDesc 0 1) 9 0) := by
  intro d h
  simp only [State.pset, List.mem_flatMap, List.mem_filterMap]
  refine ⟨0, by decide, d, ?_⟩
  revert d
  decide +kernel

theorem extraPortRoot_live : 2 ∈ extraPortRoot.fbLive 0 :=
  List.mem_filter.mpr ⟨extraPortRoot_members 2 (by decide), by decide +kernel⟩

/-- The root once the arrival counts. -/
def rootReached : State := { extraPortRoot with fbars := [{ idx := 0, arr := [(1, 0)] }] }

theorem rootReached_live : 2 ∈ rootReached.fbLive 0 :=
  List.mem_filter.mpr ⟨extraPortRoot_members 2 (by decide), by decide +kernel⟩

/-- The arrival counts, completes no episode, and is performed (R233). -/
theorem exec_arrival : exec (.fbar arrival) extraPortRoot = (rootReached.performed 1 0).out := by
  have hruns : extraPortRoot.barrierTraffic arrival = (extraPortRoot.barrierPacket arrival, true) := by
    rw [State.barrierTraffic, if_pos (by decide)]
  have hcounts : extraPortRoot.barrierPacket arrival = rootReached := by
    have hmember : (extraPortRoot.pset (fld (extraPortRoot.fbDesc 0 1) 9 0)).contains 1 = true :=
      List.contains_iff_mem.mpr (extraPortRoot_members 1 (by decide))
    have hroot : extraPortRoot.barrierPacket arrival = extraPortRoot.fbRoot 0 0 1 0 := by
      rw [State.barrierPacket, if_neg (by decide +kernel), if_pos (by decide)]
      rfl
    rw [hroot, State.fbRoot, hmember, if_neg (by decide +kernel)]
    exact State.fbCheck_waits (s := rootReached) rootReached_live (by decide) _
  have hreceive : exec (.fbar arrival) extraPortRoot = extraPortRoot.receive arrival (fun s => s.barrierPacket arrival) := by
    show execFbar arrival extraPortRoot = _
    simp only [execFbar, State.receive, State.receiveIf, hruns]
  rw [hreceive, State.receive_of_accepts _ extraPortRoot_accepts, hcounts]
  rfl

/-- The acknowledgement of the 16 packets makes the port of the stray flit go dark (R224). -/
theorem rootReached_dark : (rootReached.performed 1 0).cpw oGPSTAT = 3 := by decide +kernel

/-- Refutes O59, in its clause on an arrival that completes no episode, as O60 is refuted: it says that beside the barrier only what sending moves
differs, and the acknowledgement that the arrival brings about changes GPSTAT. -/
theorem not_barrierPacketsAndAborts : ¬ Obligations.BarrierPacketsAndAborts := by
  unfold Obligations.BarrierPacketsAndAborts
  intro h
  obtain ⟨-, harrival, -⟩ := h arrival extraPortRoot extraPortRoot_accepts (by decide +kernel)
  obtain ⟨t, hrun, htook, -⟩ := harrival rfl (by decide +kernel) rfl (List.contains_iff_mem.mpr (extraPortRoot_members 1 (by decide)))
    (by decide +kernel) (by decide +kernel) ⟨2, extraPortRoot_live, by decide, by decide +kernel⟩
  have ht : t = rootReached.performed 1 0 := State.eq_of_out_next (exec_arrival.symm.trans hrun)
  have hcp : t.cpw oGPSTAT = extraPortRoot.cpw oGPSTAT := by rw [htook.rest]; rfl
  rw [ht, rootReached_dark] at hcp
  exact absurd hcp (by decide +kernel)

end Sys2Proof.Machine
end

section
namespace Sys2Proof.Machine

/-! ### A field of a register, and a record that is only counted (R459) -/

/-- A number after a write of a field: the bits above it, the field, the bits below it. -/
theorem setFld_eq (n hi lo v : Nat) :
    setFld n hi lo v
      = 2 ^ lo * (2 ^ (hi + 1 - lo) * (n / 2 ^ lo / 2 ^ (hi + 1 - lo)) + v % 2 ^ (hi + 1 - lo)) + n % 2 ^ lo := by
  have hlow := Nat.div_add_mod n (2 ^ lo)
  have hmid := Nat.div_add_mod (n / 2 ^ lo) (2 ^ (hi + 1 - lo))
  have hn : n = 2 ^ lo * (2 ^ (hi + 1 - lo) * (n / 2 ^ lo / 2 ^ (hi + 1 - lo))) + fld n hi lo * 2 ^ lo + n % 2 ^ lo := by
    conv_lhs => rw [← hlow, ← hmid]
    rw [fld]; ring
  rw [setFld, Nat.mul_add]
  conv_lhs => rw [Nat.sub_eq_of_eq_add (c := 2 ^ lo * (2 ^ (hi + 1 - lo) * (n / 2 ^ lo / 2 ^ (hi + 1 - lo))) + n % 2 ^ lo) (by omega)]
  ring

theorem fld_setFld (n hi lo v : Nat) : fld (setFld n hi lo v) hi lo = v % 2 ^ (hi + 1 - lo) := by
  rw [setFld_eq, fld, Nat.mul_add_div (Nat.two_pow_pos lo), Nat.div_eq_of_lt (Nat.mod_lt _ (Nat.two_pow_pos lo)), Nat.add_zero,
    Nat.mul_add_mod, Nat.mod_mod]

/-- The field of a number counts only the bits up to its highest. -/
theorem fld_mod {n hi lo k : Nat} (h : hi < k) : fld (n % 2 ^ k) hi lo = fld n hi lo := by
  refine Nat.eq_of_testBit_eq fun i => ?_
  simp only [fld, Nat.testBit_mod_two_pow, Nat.testBit_div_two_pow]
  by_cases hi' : i < hi + 1 - lo
  · simp [show i + lo < k by omega]
  · simp [hi']

theorem State.cpw_setCpw (s : State) (off v : Nat) : (s.setCpw off v).cpw off = v % 2 ^ 64 := by
  simp only [State.cpw, State.setCpw, SMap.get_set, if_true, BitVec.toNat_ofNat]

/-- The package with one record more of a class counted in its field of ERLOST (R459). -/
def State.counted (s : State) (cls : Nat) : State :=
  s.setCpw oERLOST (setFld (s.cpw oERLOST) (8 * cls - 1) (8 * cls - 8) (min 255 (fld (s.cpw oERLOST) (8 * cls - 1) (8 * cls - 8) + 1)))

/-- With the ring off a record is counted, and nothing else becomes of it. -/
theorem State.ringRec_off {s : State} (h : ringOff s = true) (r : FRec) : s.ringRec r = s.counted r.cls := by
  have hoff : ¬(s.cpw oERCFG % 2 = 1) := by
    have := beq_iff_eq.mp h
    omega
  have hcls : (r.now s.ptb).cls = r.cls := by
    unfold FRec.now
    split <;> rfl
  have hput : s.ringPut r = (s.counted r.cls, none) := by
    simp only [State.ringPut, hoff, decide_false, Bool.false_and, Bool.false_eq_true, if_false, hcls, State.counted]
  rw [State.ringRec, State.ringRecN, hput]

theorem counted_counted {cls : Nat} (h0 : 0 < cls) (h8 : cls ≤ 8) (s : State) : Counted cls 1 s (s.counted cls) := by
  rw [Counted, State.counted, State.cpw_setCpw, fld_mod (by omega), fld_setFld]
  have hw : 8 * cls - 1 + 1 - (8 * cls - 8) = 8 := by omega
  rw [hw]
  omega

/-! ### One core, or the signal of several (R190, R192) -/

theorem State.out_next {s : State} (h : s.stop = none) : s.out = .next s := by
  rw [State.out, h]

/-- Of the package only a core differs, which is k. -/
def OneCore (c : Nat) (s t : State) (k : Core) : Prop :=
  t = { s with cores := t.cores } ∧ t.core c = k ∧ ∀ q, q ≠ c → t.core q = s.core q

theorem State.core_updCore_ne {s : State} {c q : Nat} (f : Core → Core) (h : q ≠ c) : (s.updCore c f).core q = s.core q := by
  rw [State.core_updCore, if_neg fun hc => h hc.1.symm]

theorem State.core_updCore_self {s : State} {c : Nat} (f : Core → Core) (h : c < s.cores.length) : (s.updCore c f).core c = f (s.core c) := by
  rw [State.core_updCore, if_pos ⟨rfl, h⟩]

theorem State.updCore_oneCore {s : State} {c : Nat} (f : Core → Core) (h : c < s.cores.length) : OneCore c s (s.updCore c f) (f (s.core c)) :=
  ⟨rfl, State.core_updCore_self f h, fun _ hq => State.core_updCore_ne f hq⟩

/-- An event that changes one core, and with it nothing else. -/
theorem OneCore.of_out {s : State} {c : Nat} {o : Host.Outcome State Fault Refusal} {f : Core → Core} (hstop : s.stop = none) (hc : c < s.cores.length)
    (h : o = (s.updCore c f).out) : ∃ t, o = .next t ∧ OneCore c s t (f (s.core c)) :=
  ⟨_, h.trans (State.out_next hstop), State.updCore_oneCore f hc⟩

/-- A core as the signal leaves it (R192): it halts if the slot in force is another one. -/
def State.signalled (s : State) (q : Nat) : Core :=
  if (s.core q).phase = .run ∧ (s.core q).slot.holds (s.target q) = false then
    { s.core q with phase := .halt, inc := s.target q, swAt := s.ptb, phAt := s.ptb }
  else s.core q

theorem State.signalCore_frame (s : State) (c : Nat) : s.signalCore c = { s with cores := (s.signalCore c).cores } := by
  unfold State.signalCore
  extract_lets k t
  split <;> rfl

theorem State.signalCore_oneCore {s : State} {c : Nat} (h : c < s.cores.length) : OneCore c s (s.signalCore c) (s.signalled c) := by
  unfold State.signalCore State.signalled
  extract_lets k t
  by_cases hsig : k.phase = .run ∧ k.slot.holds t = false
  · rw [if_neg (by simp [hsig]), if_pos hsig]
    exact State.updCore_oneCore _ h
  · rw [if_pos (by simpa [or_iff_not_imp_left] using hsig), if_neg hsig]
    exact ⟨rfl, rfl, fun _ _ => rfl⟩

theorem State.signalCore_length (s : State) (c : Nat) : (s.signalCore c).cores.length = s.cores.length := by
  unfold State.signalCore
  extract_lets k t
  split
  · rfl
  · exact State.cores_length_updCore ..

/-- Which slot is in force does not depend on the cores. -/
theorem State.target_cores (s : State) (ks : List Core) (q : Nat) : ({ s with cores := ks } : State).target q = s.target q := rfl

theorem State.signalled_congr {s t : State} {q : Nat} (h : t = { s with cores := t.cores }) (hq : t.core q = s.core q) : t.signalled q = s.signalled q := by
  have htarget : t.target q = s.target q := by rw [h, State.target_cores]
  have hptb : t.ptb = s.ptb := by rw [h]
  rw [State.signalled, State.signalled, hq, htarget, hptb]

/-- The cores of a list are signalled in turn, each as if it were the only one. -/
theorem State.foldl_signalCore {l : List Nat} : ∀ {s : State}, l.Nodup → (∀ q ∈ l, q < s.cores.length) →
    let t := l.foldl State.signalCore s
    t = { s with cores := t.cores } ∧ t.cores.length = s.cores.length ∧ ∀ q, t.core q = if q ∈ l then s.signalled q else s.core q := by
  induction l with
  | nil => exact fun _ _ => ⟨rfl, rfl, fun _ => rfl⟩
  | cons c l ih =>
    intro s hnd hlt
    obtain ⟨hc, hnd⟩ := List.nodup_cons.mp hnd
    obtain ⟨hframe, hcore, hother⟩ := State.signalCore_oneCore (hlt c List.mem_cons_self)
    have hlen := State.signalCore_length s c
    obtain ⟨hf, hl, hq⟩ := ih (s := s.signalCore c) hnd fun q h => hlen ▸ hlt q (List.mem_cons_of_mem _ h)
    refine ⟨?_, hl.trans hlen, fun q => ?_⟩
    · rw [List.foldl_cons, hf, hframe]
    · rw [List.foldl_cons, hq]
      by_cases hqc : q = c
      · rw [hqc, if_neg hc, if_pos List.mem_cons_self, hcore]
      · simp only [List.mem_cons, hqc, false_or, State.signalled_congr hframe (hother q hqc), hother q hqc]

theorem State.signalAll_spec {s : State} (h : s.cores.length = s.nCores) :
    s.signalAll = { s with cores := s.signalAll.cores } ∧ s.signalAll.cores.length = s.nCores
      ∧ ∀ q, q < s.nCores → s.signalAll.core q = s.signalled q := by
  obtain ⟨hframe, hlen, hcore⟩ := State.foldl_signalCore (s := s) List.nodup_range fun q hq => h ▸ List.mem_range.mp hq
  exact ⟨hframe, hlen.trans h, fun q hq => (hcore q).trans (if_pos (List.mem_range.mpr hq))⟩

/-! ### The steps of a switch (R191 to R193, R200, R504) -/

theorem State.updCore_updCore_oneCore {s : State} {c : Nat} (f g : Core → Core) (h : c < s.cores.length) :
    OneCore c s ((s.updCore c f).updCore c g) (g (f (s.core c))) := by
  refine ⟨rfl, ?_, fun q hq => ?_⟩
  · rw [State.core_updCore_self g ((State.cores_length_updCore s c f).symm ▸ h), State.core_updCore_self f h]
  · rw [State.core_updCore_ne g hq, State.core_updCore_ne f hq]

/-- A core once the pushes of its warps have been performed (R193). -/
def Core.pushed (k : Core) : Core :=
  { k with groups := k.groups.map (fun (g : Group) => { g with rings := g.rings.map (fun (r : Ring) => { r with commit := r.tail }) }) }

theorem State.warp_ops_nil {s : State} {c : Nat} (h : ∀ w ∈ (s.core c).warps, w.ops = []) (wix : Nat) : (s.warp c wix).ops = [] := by
  rw [State.warp, Core.warp?]
  cases hw : (s.core c).warps.find? (fun w => w.wix == wix) with
  | none => rfl
  | some w => exact h w (List.mem_of_find?_eq_some hw)

/-- Where no operation is outstanding, only the pushes have yet to be performed. -/
theorem State.completeAll_idle {s : State} {c : Nat} (hc : c < s.cores.length) (h : ∀ w ∈ (s.core c).warps, w.ops = []) :
    s.completeAll c = s.updCore c Core.pushed := by
  have hwarps : ∀ w ∈ ((s.updCore c Core.pushed).core c).warps, w.ops = [] := by
    rw [State.core_updCore_self _ hc]
    exact h
  have hfix : ∀ wix, (s.updCore c Core.pushed).complete c wix = s.updCore c Core.pushed := fun wix => by
    rw [State.complete, State.warp_ops_nil hwarps, List.foldl_nil]
  exact List.foldl_fixed' hfix _

/-- Where the slot that a core switches to is the one in force, and leaves its clock as it is, the restore begins (R200). -/
theorem State.turn_holds {s : State} {c : Nat} (hsame : (s.core c).inc.holds (s.target c) = true)
    (hclk : ¬((s.target c).aclk ≠ 0 ∧ (s.target c).aclk ≠ (s.core c).aclk)) :
    s.turn c = s.updCore c (fun k => { k with inc := s.target c, phase := .restore, phAt := s.ptb }) := by
  have hclk' : ((s.target c).aclk != 0 && (s.target c).aclk != (s.core c).aclk) = false := by
    simpa [not_and, not_not] using hclk
  simp only [State.turn, hsame, Bool.true_or, if_true, hclk', Bool.false_eq_true, if_false]

theorem SlotIn.holds_self (x : SlotIn) : x.holds x = true := by simp [SlotIn.holds]

/-- A supervisor warp has no register that is empty, and they are zero (R504). -/
theorem supWarp_fresh (entry : DWord) (age : Nat) : (supWarp entry age).fresh := ⟨rfl, rfl, rfl, rfl, rfl, rfl, rfl⟩

theorem State.preemptOn_none {s : State} (h : s.preempt = []) : s.preemptOn = s := by
  rw [State.preemptOn, h, List.map_nil, ← h]

/-- The end of the only pre-emption slot (R210): the cores go back to the slots that are in force without it. -/
theorem State.preemptOver_one {s : State} {p : Preempt} {u : Nat} (hs : s.preempt = [p]) (hon : p.on = true) (hu : p.u = some u) (hend : u ≤ s.ptb)
    (hwdr : p.wdr = false) : s.preemptOver p.gen = ({ s with preempt := [] } : State).signalAll := by
  simp only [State.preemptOver, hs, hon, hu, hend, decide_true, beq_self_eq_true, Bool.and_true, Bool.true_or, List.filter_cons, List.filter_nil,
    if_true, List.isEmpty_cons, Bool.false_eq_true, if_false, List.any_cons, List.any_nil, hwdr, Bool.or_false, Bool.false_and, Bool.not_true]
  rw [State.preemptOn_none rfl]

/-- A core changes and a record of its switch is counted. -/
theorem OneCore.of_ringRec {s : State} {c : Nat} {o : Host.Outcome State Fault Refusal} {f : Core → Core} {r : FRec} (hstop : s.stop = none)
    (hc : c < s.cores.length) (hoff : ringOff s = true) (h0 : 0 < r.cls) (h8 : r.cls ≤ 8) (h : o = ((s.updCore c f).ringRec r).out) :
    ∃ t, o = .next t ∧ t = { s with cores := t.cores, cp := t.cp } ∧ Counted r.cls 1 s t ∧ t.core c = f (s.core c) ∧ ∀ q, q ≠ c → t.core q = s.core q := by
  have hrec : (s.updCore c f).ringRec r = (s.updCore c f).counted r.cls := State.ringRec_off (s := s.updCore c f) hoff r
  obtain ⟨-, hcore, hother⟩ := State.updCore_oneCore f hc
  exact ⟨(s.updCore c f).counted r.cls, by rw [h, hrec]; exact State.out_next hstop, rfl, counted_counted h0 h8 (s.updCore c f), hcore, hother⟩

theorem exec_switchPrepare {s : State} {c : Nat} {e : List Byte} (he : e ∈ s.table) (hlcr : entLcr e = false) (hnow : s.ptb < entSwt e)
    (hnear : entSwt e ≤ s.ptb + fld (entW e 6) 31 0) (happ : s.applies e c = true) :
    exec (.switchPrepare c) s = (s.updCore c (fun k => { k with prep := true })).out := by
  have hany : s.table.any (fun e => !entLcr e && s.ptb < entSwt e && entSwt e ≤ s.ptb + fld (entW e 6) 31 0 && s.applies e c) = true :=
    List.any_eq_true.mpr ⟨e, he, by simp [hlcr, hnow, hnear, happ]⟩
  show execSwitchPrepare c s = _
  rw [execSwitchPrepare, hany, if_pos rfl]

theorem exec_switchHaltEnd {s : State} {c : Nat} (hc : c < s.cores.length) (hph : (s.core c).phase = .halt)
    (hops : ∀ w ∈ (s.core c).warps, w.ops = []) :
    exec (.switchHaltEnd c) s = ((s.updCore c Core.pushed).updCore c (fun k => { k with phase := .drain, phAt := s.ptb })).out := by
  show execSwitchHaltEnd c s = _
  rw [execSwitchHaltEnd, hph, State.completeAll_idle hc hops]
  rfl

theorem exec_switchDrainEnd {s : State} {c : Nat} (hph : (s.core c).phase = .drain) (h : (s.core c).slot.direct = true ∨ (s.core c).fabricOps = 0) :
    exec (.switchDrainEnd c) s = (s.updCore c (fun k => { k with phase := .save, phAt := s.ptb })).out := by
  show execSwitchDrainEnd c s = _
  simp only [execSwitchDrainEnd, hph, beq_self_eq_true, Bool.true_and, Bool.or_eq_true, beq_iff_eq, h, if_true]

theorem exec_switchDrainEnd_open {s : State} {c : Nat} (hdir : (s.core c).slot.direct = false) (hops : (s.core c).fabricOps ≠ 0) :
    exec (.switchDrainEnd c) s = .next s := by
  show execSwitchDrainEnd c s = _
  simp [execSwitchDrainEnd, hdir, hops]

theorem exec_switchDrainLimit_before {s : State} {c : Nat} (h : s.ptb < (s.core c).phAt + 6000) : exec (.switchDrainLimit c) s = .next s := by
  show execSwitchDrainLimit c s = _
  simp [execSwitchDrainLimit, Nat.not_le.mpr h]

theorem exec_switchDrainLimit {s : State} {c : Nat} (hph : (s.core c).phase = .drain) (hdir : (s.core c).slot.direct = false)
    (hops : (s.core c).fabricOps ≠ 0) (h : (s.core c).phAt + 6000 ≤ s.ptb) :
    exec (.switchDrainLimit c) s = ((s.updCore c (fun k => { k with phase := .save, phAt := s.ptb })).ringRec
      { cls := 5, code := 5, core := c, info := min 65535 (s.core c).fabricOps + (s.core c).gen * 2 ^ 16 }).out := by
  show execSwitchDrainLimit c s = _
  simp only [execSwitchDrainLimit, hph, hdir, bne_iff_ne.mpr hops, beq_self_eq_true, h, decide_true, Bool.not_false, Bool.and_self, if_true]

theorem exec_clockChangeEnd {s : State} {c : Nat} (hc : c < s.cores.length) (hph : (s.core c).phase = .clock) (hlate : (s.core c).phAt + 1000 ≤ s.ptb)
    (hinc : s.target c = (s.core c).inc) :
    exec (.clockChangeEnd c) s = ((s.updCore c (fun k => { k with aclk := k.inc.aclk })).updCore c
      (fun k => { k with inc := s.target c, phase := .restore, phAt := s.ptb })).out := by
  have hcore := State.core_updCore_self (fun k => { k with aclk := k.inc.aclk }) hc
  have htarget : (s.updCore c (fun k => { k with aclk := k.inc.aclk })).target c = (s.core c).inc := hinc
  have hturn := State.turn_holds (s := s.updCore c (fun k => { k with aclk := k.inc.aclk })) (c := c)
    (by rw [hcore, htarget]; exact SlotIn.holds_self _) (by rw [hcore, htarget]; exact fun h => h.2 rfl)
  show execClockChangeEnd c s = _
  simp only [execClockChangeEnd, hph, beq_self_eq_true, hlate, decide_true, Bool.and_self, if_true, hturn]
  rfl

section
variable {s : State} {c : Nat} {w : Warp} (hw : (s.core c).warps.find? Warp.sup = some w) (hst : w.stopped = true) (hre : (s.core c).restart = false)
include hw hst hre

theorem exec_coreRestart_run (hph : (s.core c).phase = .run) :
    exec (.coreRestart c) s
      = (s.updCore c (fun k => { k with restart := true, phase := .halt, inc := s.target c, swAt := s.ptb, phAt := s.ptb })).out := by
  show execCoreRestart c s = _
  simp only [execCoreRestart, hw, hst, hre, hph]
  rfl

theorem exec_coreRestart_leaving (hph : (s.core c).phase = .halt ∨ (s.core c).phase = .drain ∨ (s.core c).phase = .save) :
    exec (.coreRestart c) s = (s.updCore c (fun k => { k with restart := true })).out := by
  show execCoreRestart c s = _
  rcases hph with hph | hph | hph <;>
  · simp only [execCoreRestart, hw, hst, hre, hph]
    rfl

theorem exec_coreRestart_entering (hph : (s.core c).phase = .restore ∨ (s.core c).phase = .clock) : exec (.coreRestart c) s = (s.restartSup c).out := by
  show execCoreRestart c s = _
  rcases hph with hph | hph <;>
  · simp only [execCoreRestart, hw, hst, hre, hph]
    rfl

end

/-- Settles O51: each step of a switch is a change of its core alone, with a record where R504 or R511 has one; the signal of all cores is that of
each, since the slot in force on a core does not depend on the others. -/
theorem switching : Obligations.Switching := by
  unfold Obligations.Switching
  intro s c hstop hc k _ _
  refine ⟨fun e he hlcr hnow hnear happ => OneCore.of_out hstop hc (exec_switchPrepare he hlcr hnow hnear happ), fun hpre hlen => ?_, ?_,
    fun p gen hpre hgen hon hu hwdr hlen => ?_, fun hph hops => ?_, fun hph h => OneCore.of_out hstop hc (exec_switchDrainEnd hph h),
    fun hph hdir hops hoff => ⟨fun h => ⟨exec_switchDrainEnd_open hdir hops, exec_switchDrainLimit_before h⟩, fun h => ?_⟩,
    fun hph hlate hinc _ => ?_, fun w hw hst hre => ⟨fun hph => ?_, fun hph => ?_, fun hph hoff => ?_⟩⟩
  · obtain ⟨hframe, hlen', hcore⟩ := State.signalAll_spec hlen
    have hexec : exec .switchSignal s = s.signalAll.out := by
      show execSwitchSignal s = _
      rw [execSwitchSignal, State.preemptOn_none hpre]
    have hstop' : s.signalAll.stop = none := by rw [hframe]; exact hstop
    exact ⟨_, hexec.trans (State.out_next hstop'), hframe, hlen', hcore⟩
  · have hstop' : (s.signalCore c).stop = none := by rw [State.signalCore_frame]; exact hstop
    exact ⟨_, State.out_next hstop', State.signalCore_oneCore hc⟩
  · subst hgen
    obtain ⟨u, hu, hend⟩ := hu
    obtain ⟨hframe, -, hcore⟩ := State.signalAll_spec (s := { s with preempt := [] }) hlen
    have hexec : exec (.preemptionSlotEnd p.gen) s = ({ s with preempt := [] } : State).signalAll.out :=
      congrArg State.out (State.preemptOver_one hpre hon hu hend hwdr)
    have hstop' : ({ s with preempt := [] } : State).signalAll.stop = none := by rw [hframe]; exact hstop
    exact ⟨_, hexec.trans (State.out_next hstop'), hframe, hcore⟩
  · exact ⟨_, (exec_switchHaltEnd hc hph hops).trans (State.out_next hstop), State.updCore_updCore_oneCore Core.pushed _ hc⟩
  · exact OneCore.of_ringRec hstop hc hoff (by simp) (by simp) (exec_switchDrainLimit hph hdir hops h)
  · have hone := State.updCore_updCore_oneCore (fun k => { k with aclk := k.inc.aclk })
      (fun k => { k with inc := s.target c, phase := .restore, phAt := s.ptb }) hc
    simp only [hinc] at hone
    exact ⟨_, (exec_clockChangeEnd hc hph hlate hinc).trans (by rw [hinc]; exact State.out_next hstop), hone⟩
  · exact OneCore.of_out hstop hc (exec_coreRestart_run hw hst hre hph)
  · exact OneCore.of_out hstop hc (exec_coreRestart_leaving hw hst hre hph)
  · obtain ⟨t, hrun, hframe, hcount, hcore, hother⟩ := OneCore.of_ringRec hstop hc hoff (by simp) (by simp) (exec_coreRestart_entering hw hst hre hph)
    exact ⟨t, hrun, hframe, hcount, hother, supWarp s.supEntry ((s.core c).slices.getD 0 {}).cyc, by rw [hcore], rfl, rfl, supWarp_fresh _ _, rfl⟩

end Sys2Proof.Machine
end

section
namespace Sys2Proof.Machine

/-! ### Bits and their count -/

/-- A bit that is clear is set, and no other changes. -/
theorem testBit_add_two_pow {n b : Nat} (h : n.testBit b = false) (k : Nat) : (n + 2 ^ b).testBit k = (n.testBit k || decide (k = b)) := by
  have hlow : n % 2 ^ b < 2 ^ b := Nat.mod_lt _ (Nat.two_pow_pos b)
  have heven : n / 2 ^ b % 2 = 0 := by
    rw [Nat.testBit_eq_decide_div_mod_eq, decide_eq_false_iff_not] at h
    omega
  have hn : n = 2 ^ (b + 1) * (n / 2 ^ b / 2) + n % 2 ^ b := by
    have h1 := Nat.div_add_mod n (2 ^ b)
    have h2 : n / 2 ^ b = 2 * (n / 2 ^ b / 2) := by omega
    rw [pow_succ, mul_assoc, ← h2]
    exact h1.symm
  have hsum : n + 2 ^ b = 2 ^ (b + 1) * (n / 2 ^ b / 2) + (2 ^ b + n % 2 ^ b) := by omega
  have hpow : 2 ^ (b + 1) = 2 * 2 ^ b := by rw [pow_succ, mul_comm]
  rw [hsum, Nat.testBit_two_pow_mul_add _ (by omega)]
  conv_rhs => rw [hn, Nat.testBit_two_pow_mul_add _ (show n % 2 ^ b < 2 ^ (b + 1) by omega)]
  rcases Nat.lt_trichotomy k b with hk | rfl | hk
  · simp [show k < b + 1 by omega, show k ≠ b by omega, Nat.testBit_two_pow_add_gt hk]
  · simp [Nat.testBit_two_pow_add_eq, Nat.testBit_mod_two_pow]
  · simp [show ¬k < b + 1 by omega, show k ≠ b by omega]

/-- A bit that is set is cleared, and no other changes. -/
theorem testBit_sub_two_pow {n b : Nat} (h : n.testBit b = true) (k : Nat) : (n - 2 ^ b).testBit k = (n.testBit k && !decide (k = b)) := by
  have hn : n = n - 2 ^ b + 2 ^ b := by
    have := Nat.ge_two_pow_of_testBit h
    omega
  have hclear : (n - 2 ^ b).testBit b = false := by
    have := Nat.testBit_two_pow_add_eq (n - 2 ^ b) b
    rwa [Nat.add_comm, ← hn, h, Bool.true_eq, Bool.not_eq_true'] at this
  conv_rhs => rw [hn, testBit_add_two_pow hclear]
  by_cases hk : k = b
  · simp [hk, hclear]
  · simp [hk]

/-- Bit k of a field is bit lo + k of the number. -/
theorem testBit_fld (n hi lo k : Nat) : (fld n hi lo).testBit k = (decide (k < hi + 1 - lo) && n.testBit (k + lo)) := by
  rw [fld, Nat.testBit_mod_two_pow, Nat.testBit_div_two_pow]

theorem popN_eq_card (w n : Nat) : popN w n = ((Finset.range w).filter (fun k => n.testBit k = true)).card := by
  induction w with
  | zero => rfl
  | succ w ih =>
    rw [Finset.range_add_one, Finset.filter_insert, popN, List.range_succ, List.foldl_append]
    change (if n.testBit w = true then popN w n + 1 else popN w n) = _
    split
    · rw [Finset.card_insert_of_notMem (by simp), ih]
    · exact ih

/-- A number that lacks one of another's bits counts one less. -/
theorem popN_add_one {w m n b : Nat} (hb : b < w) (hn : n.testBit b = true) (hm : ∀ k, k < w → m.testBit k = (n.testBit k && !decide (k = b))) :
    popN w m + 1 = popN w n := by
  have herase : (Finset.range w).filter (fun k => m.testBit k = true) = ((Finset.range w).filter (fun k => n.testBit k = true)).erase b := by
    ext k
    simp only [Finset.mem_filter, Finset.mem_erase, Finset.mem_range]
    constructor
    · rintro ⟨hk, h⟩
      rw [hm k hk] at h
      simp only [Bool.and_eq_true, Bool.not_eq_true', decide_eq_false_iff_not] at h
      exact ⟨h.2, hk, h.1⟩
    · rintro ⟨hne, hk, h⟩
      exact ⟨hk, by rw [hm k hk, h]; simp [hne]⟩
  rw [popN_eq_card, popN_eq_card, herase, Finset.card_erase_add_one (by simp [hb, hn])]

/-- A number of which no bit is counted is zero. -/
theorem eq_zero_of_popN {w n : Nat} (hn : n < 2 ^ w) (h : popN w n = 0) : n = 0 := by
  rw [popN_eq_card, Finset.card_eq_zero, Finset.filter_eq_empty_iff] at h
  refine Nat.zero_of_testBit_eq_false fun k => ?_
  by_cases hk : k < w
  · exact Bool.eq_false_iff.mpr (h (Finset.mem_range.mpr hk))
  · exact Nat.testBit_eq_false_of_lt (lt_of_lt_of_le hn (Nat.pow_le_pow_right (by decide) (by omega)))

/-! ### CP registers and ports that differ -/

theorem State.cpw_setCpw_ne {s : State} {off o : Nat} (v : Nat) (h : o / 8 ≠ off / 8) : (s.setCpw off v).cpw o = s.cpw o := by
  simp only [State.cpw, State.setCpw, SMap.get_set, if_neg (Ne.symm h)]

theorem State.cpw_lt (s : State) (off : Nat) : s.cpw off < 2 ^ 64 := BitVec.isLt _

theorem RegsBut.cpw {offs : List Nat} {s t : State} {o : Nat} (h : RegsBut offs s t) (ho : ∀ x ∈ offs, o / 8 ≠ x / 8) : t.cpw o = s.cpw o :=
  congrArg BitVec.toNat (h (o / 8) ho)

theorem RegsBut.trans {offs : List Nat} {s t u : State} (h : RegsBut offs s t) (h' : RegsBut offs t u) : RegsBut offs s u :=
  fun k hk => (h' k hk).trans (h k hk)

theorem regsBut_setCpw {offs : List Nat} {off : Nat} (s : State) (v : Nat) (h : off ∈ offs) : RegsBut offs s (s.setCpw off v) := by
  intro k hk
  simp only [State.setCpw, SMap.get_set, if_neg (Ne.symm (hk off h))]

theorem State.port_updPort (s : State) (i j : Nat) (f : Port → Port) :
    (s.updPort i f).port j = if i = j ∧ j < s.ports.length then f (s.port j) else s.port j :=
  modNth_getD s.ports i f j {}

theorem State.port_updPort_self {s : State} {i : Nat} (f : Port → Port) (h : i < s.ports.length) : (s.updPort i f).port i = f (s.port i) := by
  rw [State.port_updPort, if_pos ⟨rfl, h⟩]

theorem State.port_updPort_ne {s : State} {i j : Nat} (f : Port → Port) (h : j ≠ i) : (s.updPort i f).port j = s.port j := by
  rw [State.port_updPort, if_neg fun hc => h hc.1.symm]

/-- A package that looks for a parent writes PTBSTAT at most (R249). -/
theorem State.reparent_eq (s : State) : s.reparent = s ∨ ∃ v, s.reparent = s.setCpw oPTBSTAT v := by
  simp only [State.reparent]
  split
  · exact .inl rfl
  · split
    · exact .inr ⟨_, rfl⟩
    · exact .inl rfl

theorem State.updPort_ports_length (s : State) (i : Nat) (f : Port → Port) : (s.updPort i f).ports.length = s.ports.length :=
  modNth_length _ _ _

/-- Of the package only CP registers at the offsets and the port p differ. -/
structure Touched (offs : List Nat) (p : Nat) (s t : State) : Prop where
  rest : t = { s with cp := t.cp, ports := t.ports }
  regs : RegsBut offs s t
  port : ∀ j, j ≠ p → t.port j = s.port j
  len  : t.ports.length = s.ports.length

section
variable {offs : List Nat} {p : Nat} {s t u : State}

theorem Touched.refl (offs : List Nat) (p : Nat) (s : State) : Touched offs p s s := ⟨rfl, fun _ _ => rfl, fun _ _ => rfl, rfl⟩

theorem Touched.trans (h : Touched offs p s t) (h' : Touched offs p t u) : Touched offs p s u where
  rest := by
    rw [h'.rest, h.rest]
  regs := h.regs.trans h'.regs
  port := fun j hj => (h'.port j hj).trans (h.port j hj)
  len := h'.len.trans h.len

theorem Touched.setCpw {off : Nat} (h : Touched offs p s t) (v : Nat) (ho : off ∈ offs) : Touched offs p s (t.setCpw off v) :=
  h.trans ⟨rfl, regsBut_setCpw t v ho, fun _ _ => rfl, rfl⟩

theorem Touched.updPort (h : Touched offs p s t) (f : Port → Port) : Touched offs p s (t.updPort p f) :=
  h.trans ⟨rfl, fun _ _ => rfl, fun _ hj => State.port_updPort_ne f hj, State.updPort_ports_length _ _ _⟩

theorem Touched.stop (h : Touched offs p s t) : t.stop = s.stop := by rw [h.rest]

theorem Touched.outs (h : Touched offs p s t) : t.outs = s.outs := by rw [h.rest]

theorem Touched.ringOff (h : Touched offs p s t) (ho : ∀ x ∈ offs, oERCFG / 8 ≠ x / 8) : ringOff t = ringOff s := by
  rw [Machine.ringOff, Machine.ringOff, h.regs.cpw ho]

theorem Touched.ringRec (h : Touched offs p s t) (hoff : Machine.ringOff t = true) (r : FRec) (ho : oERLOST ∈ offs) :
    Touched offs p s (t.ringRec r) := by
  rw [State.ringRec_off hoff]
  exact h.setCpw _ ho

theorem Touched.reparent (h : Touched offs p s t) (ho : oPTBSTAT ∈ offs) : Touched offs p s t.reparent := by
  rcases t.reparent_eq with he | ⟨v, he⟩ <;> rw [he]
  · exact h
  · exact h.setCpw v ho

end

/-! ### The states of a port (R246, R247) -/

theorem RegsBut.portState {offs : List Nat} {s t : State} {i : Nat} (h : RegsBut offs s t) (ho : ∀ x ∈ offs, (oGPCTL + 8 * i) / 8 ≠ x / 8) :
    t.portState i = s.portState i := by
  rw [State.portState, State.portState, h.cpw ho]

/-- The registers that a change of a port's state may write: its own two, PTBSTAT (R249) and ERLOST. -/
def portRegs (i : Nat) : List Nat := [oGPCTL + 8 * i, oGPSTAT + 8 * i, oPTBSTAT, oERLOST]

/-- A queued flit waits to go on that came by the port (R219, R247). -/
def State.passes (s : State) (p : Nat) : Bool := s.ports.any (fun q => q.queue.any (cameBy p))

theorem State.passes_updPort (s : State) (i p : Nat) {f : Port → Port} (hf : ∀ q, (f q).queue = q.queue) :
    (s.updPort i f).passes p = s.passes p := by
  have hmap := map_modNth s.ports i hf
  have hany (t : State) : t.passes p = (t.ports.map Port.queue).any (fun q => q.any (cameBy p)) := by
    rw [List.any_map]; rfl
  rw [hany, hany]
  exact congrArg (List.any · _) hmap

/-- Giving slots back changes the totals of slots given back and nothing else. -/
theorem Port.dropRx_eq (q : Port) : q.dropRx = { q with freed := q.dropRx.freed, rx := [] } := by
  have hfold : ∀ (l : List (Nat × List Byte × Nat)) (q : Port),
      l.foldl (fun (q : Port) x => q.free x.1 x.2.2) q = { q with freed := (l.foldl (fun (q : Port) x => q.free x.1 x.2.2) q).freed } := by
    intro l
    induction l with
    | nil => intro q; rfl
    | cons x l ih => intro q; rw [List.foldl_cons, ih]; rfl
  unfold Port.dropRx
  rw [hfold]

theorem State.passes_iff (s : State) (p : Nat) : s.passes p = false ↔ ∀ q ∈ s.ports, ∀ x ∈ q.queue, cameBy p x = false := by
  simp [State.passes]

/-- With no flit of the port queued anywhere there is nothing to lose (R534). -/
theorem State.loseOnward_eq {s : State} {p : Nat} (h : s.passes p = false) : s.loseOnward p = s := by
  rw [State.passes_iff] at h
  have hgone : s.ports.flatMap (fun q => q.queue.filter (cameBy p)) = [] := by
    rw [List.flatMap_eq_nil_iff]
    exact fun q hq => List.filter_eq_nil_iff.mpr fun x hx => by simp [h q hq x hx]
  have hports : s.ports.map (fun (q : Port) => { q with queue := q.queue.filter (fun x => !cameBy p x) }) = s.ports := by
    refine (List.map_congr_left fun q hq => ?_).trans (List.map_id _)
    rw [List.filter_eq_self.mpr fun x hx => by simp [h q hq x hx]]
    rfl
  rw [State.loseOnward, hgone, hports]
  rfl

/-- With no flit of the port queued anywhere there is none to mark (R248). -/
theorem State.freeSlots_eq {s : State} {p : Nat} (h : s.passes p = false) : s.freeSlots p = s := by
  rw [State.passes_iff] at h
  have hports : s.ports.map (fun (q : Port) => { q with queue := q.queue.map (fun x => if cameBy p x then (x.1, x.2.1, some (p, 20)) else x) })
      = s.ports := by
    refine (List.map_congr_left fun q hq => ?_).trans (List.map_id _)
    have hqueue : q.queue.map (fun x => if cameBy p x then (x.1, x.2.1, some (p, 20)) else x) = q.queue :=
      (List.map_congr_left fun x hx => by simp [h q hq x hx]).trans (List.map_id _)
    rw [hqueue]
    rfl
  rw [State.freeSlots, hports]

section
variable {offs : List Nat} {s t : State} {i : Nat}

theorem Touched.setPort (h : Touched offs (31 + i) s t) (st : Nat) (h1 : oGPCTL + 8 * i ∈ offs) (h2 : oGPSTAT + 8 * i ∈ offs) :
    Touched offs (31 + i) s (t.setPort i st) :=
  ((h.setCpw _ h1).setCpw _ h2).updPort _

theorem State.portState_setPort (s : State) (i st : Nat) : (s.setPort i st).portState i = st % 8 := by
  have hne : (oGPCTL + 8 * i) / 8 ≠ (oGPSTAT + 8 * i) / 8 := by simp only [oGPCTL, oGPSTAT]; omega
  change fld (State.cpw (State.setCpw _ _ _) _) 2 0 = _
  rw [State.cpw_setCpw_ne _ hne, State.cpw_setCpw, fld_mod (by decide), fld_setFld]
  rfl

theorem State.setPort_ports_length (s : State) (i st : Nat) : (s.setPort i st).ports.length = s.ports.length := modNth_length _ _ _

theorem State.port_setPort_self (st : Nat) (hp : 31 + i < s.ports.length) : (s.setPort i st).port (31 + i) = { s.port (31 + i) with at_ := s.ptb } :=
  State.port_updPort_self (s := (s.setCpw _ _).setCpw _ _) _ hp

theorem State.passes_setCpw (s : State) (off v p : Nat) : (s.setCpw off v).passes p = s.passes p := rfl

theorem State.passes_setPort (s : State) (i st p : Nat) : (s.setPort i st).passes p = s.passes p :=
  State.passes_updPort ((s.setCpw (oGPCTL + 8 * i) (setFld (s.cpw (oGPCTL + 8 * i)) 2 0 st)).setCpw (oGPSTAT + 8 * i)
    (setFld (s.cpw (oGPSTAT + 8 * i)) 7 0 (s.lightOf i st))) (31 + i) p (f := fun q => { q with at_ := s.ptb }) fun _ => rfl

theorem State.portState_updPort (s : State) (i j : Nat) (f : Port → Port) : (s.updPort j f).portState i = s.portState i := rfl

/-- A port that has sent and received its marker, and has passed on all that came by it, goes dark (R247). -/
def State.goesDark (s : State) (i : Nat) : Bool :=
  decide (s.portState i = 2) && (s.port (31 + i)).marked && (s.port (31 + i)).farMarked && !s.passes (31 + i)

theorem State.darkIf_eq (s : State) (i : Nat) : s.darkIf i = if s.goesDark i then (s.setPort i 3).updPort (31 + i) Port.dropRx else s := rfl

theorem Touched.darkIf (h : Touched offs (31 + i) s t) (h1 : oGPCTL + 8 * i ∈ offs) (h2 : oGPSTAT + 8 * i ∈ offs) :
    Touched offs (31 + i) s (t.darkIf i) := by
  rw [State.darkIf_eq]
  split
  · exact (h.setPort 3 h1 h2).updPort _
  · exact h

theorem State.portState_darkIf (s : State) (i : Nat) : (s.darkIf i).portState i = if s.goesDark i then 3 else s.portState i := by
  rw [State.darkIf_eq]
  split
  · exact s.portState_setPort i 3
  · rfl

theorem State.darkIf_marked (s : State) (i : Nat) (hp : 31 + i < s.ports.length): ((s.darkIf i).port (31 + i)).marked = (s.port (31 + i)).marked := by
  rw [State.darkIf_eq]
  split
  · rw [State.port_updPort_self _ (by rwa [State.setPort_ports_length]), Port.dropRx_eq, State.port_setPort_self _ hp]
  · rfl

end

end Sys2Proof.Machine
end

section
namespace Sys2Proof.Machine

/-! ### The events of a port (R247 to R249, R534, R535) -/

theorem gpctl_notMem_rest (i : Nat) : ∀ x ∈ [oPTBSTAT, oERLOST], (oGPCTL + 8 * i) / 8 ≠ x / 8 := by
  simp only [List.mem_cons, List.not_mem_nil, or_false, forall_eq_or_imp, forall_eq, oGPCTL, oPTBSTAT, oERLOST]
  omega

theorem ercfg_notMem_portRegs (i : Nat) : ∀ x ∈ portRegs i, oERCFG / 8 ≠ x / 8 := by
  simp only [portRegs, List.mem_cons, List.not_mem_nil, or_false, forall_eq_or_imp, forall_eq, oGPCTL, oGPSTAT, oPTBSTAT, oERLOST, oERCFG]
  omega

/-- An event changes a port, its registers, PTBSTAT and ERLOST at most, and leaves the port in a state. -/
def PortGoes (i : Nat) (x : Instr) (st : Nat) (s : State) : Prop :=
  ∃ t, exec x s = .next t ∧ Touched (portRegs i) (31 + i) s t ∧ t.portState i = st

section
variable {s t : State} {i st : Nat}

theorem PortGoes.next {x : Instr} (h : PortGoes i x st s) :
    ∃ t, exec x s = .next t ∧ t = { s with cp := t.cp, ports := t.ports } ∧ t.portState i = st ∧ RegsBut (portRegs i) s t
      ∧ ∀ j, j ≠ 31 + i → t.port j = s.port j := by
  obtain ⟨t, hrun, ht, hst⟩ := h
  exact ⟨t, hrun, ht.rest, hst, ht.regs, ht.port⟩

theorem gpctl_mem_portRegs (i : Nat) : oGPCTL + 8 * i ∈ portRegs i := by simp [portRegs]
theorem gpstat_mem_portRegs (i : Nat) : oGPSTAT + 8 * i ∈ portRegs i := by simp [portRegs]
theorem ptbstat_mem_portRegs (i : Nat) : oPTBSTAT ∈ portRegs i := by simp [portRegs]
theorem erlost_mem_portRegs (i : Nat) : oERLOST ∈ portRegs i := by simp [portRegs]

/-- A record that is only counted leaves the state of a port. -/
theorem State.portState_ringRec (h : ringOff s = true) (r : FRec) (i : Nat) : (s.ringRec r).portState i = s.portState i := by
  have ht := (Touched.refl [oPTBSTAT, oERLOST] 0 s).ringRec h r (by simp)
  exact ht.regs.portState (gpctl_notMem_rest i)

theorem State.portState_reparent (s : State) (i : Nat) : s.reparent.portState i = s.portState i := by
  have ht := (Touched.refl [oPTBSTAT, oERLOST] 0 s).reparent (by simp)
  exact ht.regs.portState (gpctl_notMem_rest i)

theorem Touched.goesTo {x : Instr} (h : Touched (portRegs i) (31 + i) s t) (hstop : s.stop = none) (hx : exec x s = t.out) (hst : t.portState i = st) :
    PortGoes i x st s :=
  ⟨t, by rw [hx, State.out_next (h.stop.trans hstop)], h, hst⟩

/-- A change of state with a record (R535). -/
theorem Touched.goesTo_ringRec {x : Instr} {r : FRec} (h : Touched (portRegs i) (31 + i) s t) (hoff : Machine.ringOff s = true) (hstop : s.stop = none)
    (hx : exec x s = (t.ringRec r).out) (hst : t.portState i = st) : PortGoes i x st s := by
  have hoff' : Machine.ringOff t = true := (h.ringOff (ercfg_notMem_portRegs i)).trans hoff
  exact (h.ringRec hoff' r (erlost_mem_portRegs i)).goesTo hstop hx ((State.portState_ringRec hoff' r i).trans hst)

theorem touched_setPort (s : State) (i st : Nat) : Touched (portRegs i) (31 + i) s (s.setPort i st) :=
  (Touched.refl _ _ s).setPort st (gpctl_mem_portRegs i) (gpstat_mem_portRegs i)

/-- A port that has not yet its marker from the far end goes dark with it, if it has sent its own and passed on what came by it (R247). -/
theorem drainMarkerReceive_drain (hstop : s.stop = none) (hi : i < 64) (hp : 31 + i < s.ports.length) (h2 : s.portState i = 2) :
    PortGoes i (.drainMarkerReceive i) (if (s.port (31 + i)).marked && !s.passes (31 + i) then 3 else 2) s := by
  let u : State := s.updPort (31 + i) (fun q => { q with farMarked := true })
  have hu : Touched (portRegs i) (31 + i) s u := (Touched.refl _ _ s).updPort _
  have hdark : u.goesDark i = ((s.port (31 + i)).marked && !s.passes (31 + i)) := by
    have hpass : u.passes (31 + i) = s.passes (31 + i) := s.passes_updPort _ _ fun _ => rfl
    have hport : u.port (31 + i) = { s.port (31 + i) with farMarked := true } := State.port_updPort_self _ hp
    have hst : u.portState i = 2 := h2
    simp [State.goesDark, hpass, hport, hst]
  refine (hu.darkIf (gpctl_mem_portRegs i) (gpstat_mem_portRegs i)).goesTo hstop ?_ ?_
  · show execDrainMarkerReceive i s = _
    simp only [execDrainMarkerReceive, State.farMarker, hi, if_true, h2]
    rfl
  · rw [State.portState_darkIf, hdark, State.portState_updPort, h2]

/-- The far end's marker may come while the port is up (R247). -/
theorem exec_drainMarkerReceive_up (hstop : s.stop = none) (hi : i < 64) (h1 : s.portState i = 1) :
    exec (.drainMarkerReceive i) s = .next (s.updPort (31 + i) (fun x => { x with farMarked := true })) := by
  have hdark : (s.updPort (31 + i) (fun x => { x with farMarked := true })).goesDark i = false := by
    have hst : (s.updPort (31 + i) (fun x => { x with farMarked := true })).portState i = 1 := h1
    simp [State.goesDark, hst]
  show execDrainMarkerReceive i s = _
  simp only [execDrainMarkerReceive, State.farMarker, hi, if_true, h1, State.darkIf_eq, hdark]
  exact State.out_next hstop

/-- What waits for a marker that does not come is lost after 100 µs; here nothing came by the port (R534). -/
theorem drainMarkerTimeout_goes (hstop : s.stop = none) (hoff : ringOff s = true) (hi : i < 64) (h2 : s.portState i = 2)
    (hm : (s.port (31 + i)).marked = true) (hf : (s.port (31 + i)).farMarked = false) (hlate : (s.port (31 + i)).at_ + 100000 ≤ s.ptb)
    (hpass : s.passes (31 + i) = false) : PortGoes i (.drainMarkerTimeout i) 3 s := by
  let u : State := (s.setPort i 3).updPort (31 + i) Port.dropRx
  have hu : Touched (portRegs i) (31 + i) s u := (touched_setPort s i 3).updPort _
  have hlose : u.loseOnward (31 + i) = u := by
    refine State.loseOnward_eq ?_
    rw [State.passes_updPort _ _ _ fun q => by rw [Port.dropRx_eq], State.passes_setPort, hpass]
  refine hu.goesTo_ringRec hoff hstop (r := { cls := 6, code := 9, info := i }) ?_ (s.portState_setPort i 3)
  show execDrainMarkerTimeout i s = _
  simp only [execDrainMarkerTimeout]
  rw [if_pos (by simp [hi, h2, hm, hf, hlate])]
  exact congrArg (fun t : State => (t.ringRec { cls := 6, code := 9, info := i }).out) hlose

/-- A port that loses its light is down (R535), and the package looks for a parent (R249). -/
theorem exec_portLightLoss (hi : i < 64) (h1 : s.portState i = 1) :
    exec (.portLightLoss i) s = ((s.setPort i 0).reparent.ringRec { cls := 6, code := 6, info := i }).out := by
  show execPortLightLoss i s = _
  rw [execPortLightLoss, if_pos (by simp [hi, h1])]

theorem portLightLoss_goes (hstop : s.stop = none) (hoff : ringOff s = true) (hi : i < 64) (h1 : s.portState i = 1) :
    PortGoes i (.portLightLoss i) 0 s := by
  refine ((touched_setPort s i 0).reparent (ptbstat_mem_portRegs i)).goesTo_ringRec hoff hstop (exec_portLightLoss hi h1) ?_
  rw [State.portState_reparent, State.portState_setPort]

/-- A dark port stays dark for 1 s at most (R535). -/
theorem darkTimeout_goes (hstop : s.stop = none) (hoff : ringOff s = true) (hi : i < 64) (h3 : s.portState i = 3)
    (hlate : (s.port (31 + i)).at_ + 1000000000 < s.ptb) : PortGoes i (.darkTimeout i) 0 s := by
  refine (touched_setPort s i 0).goesTo_ringRec hoff hstop (r := { cls := 6, code := 7, info := i }) ?_ (s.portState_setPort i 0)
  show execDarkTimeout i s = _
  rw [execDarkTimeout, if_pos (by simp [hi, h3, hlate])]

/-- A port has 20 µs to lock (R535). -/
theorem relockTimeout_goes (hstop : s.stop = none) (hoff : ringOff s = true) (hi : i < 64) (h4 : s.portState i = 4)
    (hlate : (s.port (31 + i)).at_ + 20000 ≤ s.ptb) : PortGoes i (.relockTimeout i) 0 s := by
  refine (touched_setPort s i 0).goesTo_ringRec hoff hstop (r := { cls := 6, code := 8, info := i }) ?_ (s.portState_setPort i 0)
  show execRelockTimeout i s = _
  rw [execRelockTimeout, if_pos (by simp [hi, h4, hlate])]

/-- A port by which no flit came that waits to go on trains by itself alone (R248). -/
theorem State.trainPort_touched (hpass : s.passes (31 + i) = false) (far fport : Nat) :
    Touched (portRegs i) (31 + i) s (s.trainPort i far fport) ∧ (s.trainPort i far fport).portState i = 4 := by
  let u : State := ((s.setCpw (oGPCTL + 8 * i) (far % 2 ^ 15 * 2 ^ 32 + fport % 64 * 2 ^ 26)).setPort i 4).updPort (31 + i)
    (fun q => { q with marked := false, farMarked := false })
  have hu : Touched (portRegs i) (31 + i) s u :=
    (((Touched.refl _ _ s).setCpw _ (gpctl_mem_portRegs i)).setPort 4 (gpctl_mem_portRegs i) (gpstat_mem_portRegs i)).updPort _
  have hst : u.portState i = 4 := by rw [State.portState_updPort, State.portState_setPort]
  have hfree : u.freeSlots (31 + i) = u := by
    refine State.freeSlots_eq ?_
    exact (State.passes_updPort _ _ _ (f := fun q => { q with marked := false, farMarked := false }) fun _ => rfl).trans
      ((State.passes_setPort _ i 4 _).trans ((State.passes_setCpw _ _ _ _).trans hpass))
  have htrain : s.trainPort i far fport = u ∨ ∃ f, s.trainPort i far fport = (u.freeSlots (31 + i)).updPort (31 + i) f := by
    simp only [State.trainPort]
    split
    · exact .inl rfl
    · exact .inr ⟨_, rfl⟩
  rcases htrain with h | ⟨f, h⟩ <;> rw [h]
  · exact ⟨hu, hst⟩
  · rw [hfree, State.portState_updPort]
    exact ⟨hu.updPort f, hst⟩

/-- Light at a dark port (R247). -/
theorem portLightReturn_goes (hstop : s.stop = none) (hi : i < 64) (h3 : s.portState i = 3) (hpass : s.passes (31 + i) = false)
    (far : BitVec 15) (fport : BitVec 6) : PortGoes i (.portLightReturn i far fport) 4 s := by
  obtain ⟨ht, hst⟩ := State.trainPort_touched hpass far.toNat fport.toNat
  refine ht.goesTo hstop ?_ hst
  show execPortLightReturn i far fport s = _
  rw [execPortLightReturn, if_pos (by simp [hi, h3])]

/-- A port of the part that is down and trains (R535). -/
theorem portDownRetrain_goes (hstop : s.stop = none) (hi : i < 64) (h0 : s.portState i = 0) (hpass : s.passes (31 + i) = false)
    (hpart : s.part.gports.testBit i = true) (far : BitVec 15) (fport : BitVec 6) : PortGoes i (.portDownRetrain i (some (far, fport))) 4 s := by
  obtain ⟨ht, hst⟩ := State.trainPort_touched hpass far.toNat fport.toNat
  refine ht.goesTo hstop ?_ hst
  show execPortDownRetrain i (some (far, fport)) s = _
  simp only [execPortDownRetrain]
  rw [if_pos (by simp [hpart, hi, h0])]

end

end Sys2Proof.Machine
end

section
namespace Sys2Proof.Machine

/-! ### Flits that go out (R218 to R220, R247) -/

/-- The header of a flit on a port, with SLOTRET and without its CRC (R218, R219). -/
def Port.stamp (p : Port) (f : Flit) : Nat := f.hdr.toNat % 2 ^ 11 + p.ridx * 2 ^ 11 + p.freed.getD p.ridx 0 * 2 ^ 16

/-- A flit as it leaves by a port (R218, R219). -/
def Port.sealFlit (p : Port) (f : Flit) : Flit :=
  { f with hdr := BitVec.ofNat 64 (p.stamp f + (Flit.crc { f with hdr := BitVec.ofNat 64 (p.stamp f) }).toNat * 2 ^ 32) }

/-- The low bits of the header are the flit's own (R218). -/
theorem Port.sealFlit_getLsbD (p : Port) (f : Flit) {k : Nat} (hk : k < 11) : (p.sealFlit f).hdr.getLsbD k = f.hdr.getLsbD k := by
  have hsplit : p.stamp f + (Flit.crc { f with hdr := BitVec.ofNat 64 (p.stamp f) }).toNat * 2 ^ 32
      = 2 ^ 11 * (p.ridx + p.freed.getD p.ridx 0 * 2 ^ 5 + (Flit.crc { f with hdr := BitVec.ofNat 64 (p.stamp f) }).toNat * 2 ^ 21)
        + f.hdr.toNat % 2 ^ 11 := by
    rw [Port.stamp]
    ring
  rw [Port.sealFlit, BitVec.getLsbD_ofNat, hsplit, Nat.testBit_two_pow_mul_add _ (Nat.mod_lt _ (by decide)), if_pos hk, Nat.testBit_mod_two_pow,
    BitVec.testBit_toNat]
  simp [hk, show k < 64 by omega]

/-- n bytes of a value say nothing of what stands above them. -/
theorem leBytes_add_mul (n v c : Nat) : leBytes n (v + c * 256 ^ n) = leBytes n v := by
  induction n generalizing v with
  | zero => rfl
  | succ n ih =>
    have hpow : c * 256 ^ (n + 1) = 256 * (c * 256 ^ n) := by ring
    have hhead : BitVec.ofNat 8 (v + 256 * (c * 256 ^ n)) = BitVec.ofNat 8 v := by
      apply BitVec.eq_of_toNat_eq
      rw [BitVec.toNat_ofNat, BitVec.toNat_ofNat]
      omega
    have htail : (v + 256 * (c * 256 ^ n)) / 256 = v / 256 + c * 256 ^ n := by omega
    rw [leBytes, leBytes, hpow, hhead, htail, ih]

/-- The CRC of a flit that leaves is that of its header and body (R218). -/
theorem Port.sealFlit_crcOk (p : Port) (f : Flit) (hr : p.ridx < 20) (hf : p.freed.getD p.ridx 0 < 2 ^ 16) : Flit.crcOk (p.sealFlit f) = true := by
  have hstamp : p.stamp f < 2 ^ 32 := by
    have := Nat.mod_lt f.hdr.toNat (show 0 < 2 ^ 11 by decide)
    rw [Port.stamp]
    omega
  have hmod : p.stamp f % 2 ^ 64 = p.stamp f := Nat.mod_eq_of_lt (by omega)
  generalize hc : Flit.crc { f with hdr := BitVec.ofNat 64 (p.stamp f) } = c
  have hhdr : (p.sealFlit f).hdr.toNat = p.stamp f + c.toNat * 256 ^ 4 := by
    have := c.isLt
    rw [Port.sealFlit, BitVec.toNat_ofNat, hc]
    omega
  have hcrc : Flit.crc (p.sealFlit f) = c := by
    rw [← hc, Flit.crc, Flit.crc, hhdr, leBytes_add_mul, BitVec.toNat_ofNat, hmod]
    rfl
  have hfld : fld (p.stamp f + c.toNat * 256 ^ 4) 63 32 = c.toNat := by
    have := c.isLt
    rw [fld]
    omega
  rw [Flit.crcOk, hcrc, hhdr, hfld, beq_self_eq_true]

/-! ### What sending moves (R217, R247) -/

/-- What a change of a port does not touch stays as it was at every port. -/
theorem State.port_updPort_keeps {α : Type} (s : State) (i j : Nat) {f : Port → Port} {g : Port → α} (h : ∀ q, g (f q) = g q) :
    g ((s.updPort i f).port j) = g (s.port j) := by
  rw [State.port_updPort]
  split
  · exact h _
  · rfl

theorem State.noDark_iff (s : State) :
    s.noDark = true ↔ ∀ k, k < 64 → s.portState k = 2 → (s.port (31 + k)).marked = true → (s.port (31 + k)).farMarked = false := by
  simp only [State.noDark, List.all_eq_true, List.mem_range, Bool.not_eq_true', Bool.and_eq_false_iff, beq_eq_false_iff_ne]
  refine forall₂_congr fun k _ => ?_
  cases (s.port (31 + k)).marked <;> cases (s.port (31 + k)).farMarked <;> simp

/-- No port is about to go dark, where those in DRAIN were so before, with the same markers. -/
theorem State.noDark_of_noDark {s t : State} (h : s.noDark = true) (hst : ∀ k, k < 64 → t.portState k = 2 → s.portState k = 2)
    (hm : ∀ k, (t.port k).marked = (s.port k).marked ∧ (t.port k).farMarked = (s.port k).farMarked) : t.noDark = true := by
  rw [State.noDark_iff] at h ⊢
  intro k hk h2 h3
  rw [(hm _).2]
  exact h k hk (hst k hk h2) ((hm _).1 ▸ h3)

/-- A package has 64 global ports, and of them none goes dark where none is about to (R213). -/
theorem State.darkIf_eq_self {s : State} {k : Nat} (hlen : s.ports.length = 95) (h : 64 ≤ k ∨ s.noDark = true) : s.darkIf k = s := by
  have hgoes : s.goesDark k = false := by
    by_cases hk : k < 64
    · have hdark := (s.noDark_iff.mp (h.resolve_left (by omega))) k hk
      rw [State.goesDark]
      cases hm : (s.port (31 + k)).marked <;> cases hf : (s.port (31 + k)).farMarked <;> simp_all
    · have hport : s.port (31 + k) = {} := List.getD_eq_default _ _ (by omega)
      simp [State.goesDark, hport]
  rw [State.darkIf_eq, hgoes]
  rfl

/-- Flits have gone out: the state of the port i is as it was, and where no port is about to go dark no register of the CP differs. -/
structure Sends (i : Nat) (s t : State) : Prop where
  stop  : t.stop = s.stop
  len   : t.ports.length = s.ports.length
  state : t.portState i = s.portState i
  outs  : ∃ rest, t.outs = rest ++ s.outs
  calm  : s.noDark = true → t.cp = s.cp ∧ t.noDark = true

section
variable {i : Nat} {s t u : State}

theorem Sends.refl (i : Nat) (s : State) : Sends i s s := ⟨rfl, rfl, rfl, ⟨[], rfl⟩, fun h => ⟨rfl, h⟩⟩

theorem Sends.trans (h : Sends i s t) (h' : Sends i t u) : Sends i s u where
  stop := h'.stop.trans h.stop
  len := h'.len.trans h.len
  state := h'.state.trans h.state
  outs := by
    obtain ⟨a, ha⟩ := h.outs
    obtain ⟨b, hb⟩ := h'.outs
    exact ⟨b ++ a, by rw [hb, ha, List.append_assoc]⟩
  calm := fun hd => ⟨(h'.calm (h.calm hd).2).1.trans (h.calm hd).1, (h'.calm (h.calm hd).2).2⟩

theorem Sends.updPort (h : Sends i s t) (j : Nat) {f : Port → Port} (hm : ∀ q, (f q).marked = q.marked) (hf : ∀ q, (f q).farMarked = q.farMarked) :
    Sends i s (t.updPort j f) :=
  h.trans {
    stop := rfl
    len := State.updPort_ports_length _ _ _
    state := rfl
    outs := ⟨[], rfl⟩
    calm := fun hd => ⟨rfl, State.noDark_of_noDark hd (fun _ _ h => h) fun k => ⟨t.port_updPort_keeps j k hm, t.port_updPort_keeps j k hf⟩⟩ }

theorem Sends.putFlit (h : Sends i s t) (j : Nat) (f : Flit) : Sends i s (t.putFlit j f) := by
  refine (h.updPort j (f := fun p => { p with ridx := (p.ridx + 1) % 20 }) (fun _ => rfl) fun _ => rfl).trans ?_
  exact ⟨rfl, rfl, rfl, ⟨[.flit j ((t.port j).sealFlit f)], rfl⟩, fun hd => ⟨rfl, hd⟩⟩

theorem State.portState_setPort_ne (s : State) {k : Nat} (st : Nat) (h : i ≠ k) (hi : i < 64) (hk : k < 64) : (s.setPort k st).portState i = s.portState i := by
  refine ((Touched.refl [oGPCTL + 8 * k, oGPSTAT + 8 * k] (31 + k) s).setPort st (by simp) (by simp)).regs.portState ?_
  simp only [List.mem_cons, List.not_mem_nil, or_false, forall_eq_or_imp, forall_eq, oGPCTL, oGPSTAT]
  omega

/-- A port that is UP stays so, whichever port goes dark. -/
theorem Sends.darkIf (h : Sends i s t) (hlen : s.ports.length = 95) (hi : i < 64) (h1 : s.portState i = 1) (k : Nat) : Sends i s (t.darkIf k) := by
  have hlen' : t.ports.length = 95 := h.len.trans hlen
  have h1' : t.portState i = 1 := h.state.trans h1
  have ht := (Touched.refl (portRegs k) (31 + k) t).darkIf (gpctl_mem_portRegs k) (gpstat_mem_portRegs k)
  by_cases hk : k < 64
  · refine h.trans ⟨ht.stop, ht.len, ?_, ⟨[], ht.outs⟩, fun hd => ?_⟩
    · rw [State.darkIf_eq]
      split
      · next hdark =>
        have hne : i ≠ k := by
          rintro rfl
          simp [State.goesDark, h1'] at hdark
        rw [State.portState_updPort, State.portState_setPort_ne _ _ hne hi hk]
      · rfl
    · rw [State.darkIf_eq_self hlen' (.inr hd)]
      exact ⟨rfl, hd⟩
  · rw [State.darkIf_eq_self hlen' (.inl (by omega))]
    exact h

theorem Sends.sendResync (h : Sends i s t) (p : Nat) : Sends i s (t.sendResync p) :=
  (h.putFlit p (nulFlit ((t.port p).resyncBody.headD 0) ((t.port p).resyncBody.drop 1))).updPort p (f := fun q => { q with audit := (q.audit + 1) % 3 })
    (fun _ => rfl) fun _ => rfl

theorem Sends.sendFlit (h : Sends i s t) (hlen : s.ports.length = 95) (hi : i < 64) (h1 : s.portState i = 1) (j : Nat)
    (x : Nat × Flit × Option (Nat × Nat)) : Sends i s (t.sendFlit j x) := by
  have hput := (h.updPort j (f := fun p => { p with
    queue := p.queue.erase x, sent := modNth p.sent x.1 (fun v => (v + 1) % 2 ^ 16), tOut := if x.1 / 5 = 3 then t.ptb else p.tOut })
    (fun _ => rfl) fun _ => rfl).putFlit j x.2.1
  obtain ⟨pair, f, from_⟩ := x
  cases from_ with
  | none => exact hput
  | some y =>
    have hfree := hput.updPort y.1 (f := fun q => q.free y.2 1) (fun _ => rfl) fun _ => rfl
    simp only [State.sendFlit]
    split
    · exact hfree
    · exact hfree.darkIf hlen hi h1 _

theorem Sends.drainPort (h : Sends i s t) (hlen : s.ports.length = 95) (hi : i < 64) (h1 : s.portState i = 1) (j n : Nat) :
    Sends i s (t.drainPort j n) := by
  induction n generalizing t with
  | zero => exact h
  | succ n ih =>
    simp only [State.drainPort]
    split
    · exact h
    · split
      · exact h
      · exact ih (h.sendFlit hlen hi h1 j _)

end

/-! ### The marker, the timer and the lock (R220, R247) -/

section
variable {s : State} {i p : Nat}

/-- A port in DRAIN whose flits have gone sends its marker (R247). -/
theorem exec_drainMarkerSend (hstop : s.stop = none) (hi : i < 64) (hp : 31 + i < s.ports.length) (h2 : s.portState i = 2)
    (hm : (s.port (31 + i)).marked = false) (hq : (s.port (31 + i)).queue = []) :
    ∃ t, exec (.drainMarkerSend i) s = .next t ∧ (t.port (31 + i)).marked = true
      ∧ t.portState i = (if (s.port (31 + i)).farMarked && !s.passes (31 + i) then 3 else 2)
      ∧ ∃ f, t.outs = .flit (31 + i) f :: s.outs ∧ f.body.headD 0 = 1 := by
  let v : State := s.putFlit (31 + i) (nulFlit 1 [])
  let u : State := v.updPort (31 + i) (fun q => { q with marked := true, at_ := s.ptb })
  have hv : 31 + i < v.ports.length := by
    show 31 + i < (modNth s.ports (31 + i) _).length
    rwa [modNth_length]
  have hu : 31 + i < u.ports.length := by rwa [State.updPort_ports_length]
  have hfar : (v.port (31 + i)).farMarked = (s.port (31 + i)).farMarked :=
    s.port_updPort_keeps (31 + i) (31 + i) (f := fun p => { p with ridx := (p.ridx + 1) % 20 }) (g := Port.farMarked) fun _ => rfl
  have hpass : u.passes (31 + i) = s.passes (31 + i) :=
    (State.passes_updPort v _ _ (f := fun q => { q with marked := true, at_ := s.ptb }) fun _ => rfl).trans
      (s.passes_updPort (31 + i) _ (f := fun p => { p with ridx := (p.ridx + 1) % 20 }) fun _ => rfl)
  have hport : u.port (31 + i) = { v.port (31 + i) with marked := true, at_ := s.ptb } := State.port_updPort_self _ hv
  have hst : u.portState i = 2 := h2
  have hdark : u.goesDark i = ((s.port (31 + i)).farMarked && !s.passes (31 + i)) := by
    simp [State.goesDark, hst, hport, hfar, hpass]
  have ht := (Touched.refl (portRegs i) (31 + i) u).darkIf (gpctl_mem_portRegs i) (gpstat_mem_portRegs i)
  refine ⟨u.darkIf i, ?_, ?_, ?_, (s.port (31 + i)).sealFlit (nulFlit 1 []), ht.outs, rfl⟩
  · show execDrainMarkerSend i s = _
    simp only [execDrainMarkerSend]
    rw [if_pos (by simp [hi, h2, hm, hq])]
    exact State.out_next (ht.stop.trans hstop)
  · rw [u.darkIf_marked i hu, hport]
  · rw [State.portState_darkIf, hdark, hst]

/-- Totals of a port that fit 16 bits (R219). -/
theorem getD_lt_of_forall {l : List Nat} {b : Nat} (hb : 0 < b) (h : ∀ v ∈ l, v < b) (k : Nat) : l.getD k 0 < b := by
  by_cases hk : k < l.length
  · rw [List.getD_eq_getElem _ _ hk]
    exact h _ (List.getElem_mem hk)
  · rwa [List.getD_eq_default _ _ (by omega)]

/-- The resynchronisation flit that a port sends (R220). -/
def Port.resyncFlit (q : Port) : Flit := q.sealFlit (nulFlit (q.resyncBody.headD 0) (q.resyncBody.drop 1))

theorem Port.resyncFlit_body (q : Port) : q.resyncFlit.body = (q.resyncBody ++ List.replicate 56 0).take 56 := rfl

theorem nulFlit_link (kind : Byte) (rest : List Byte) : (nulFlit kind rest).hdr.getLsbD 1 = true := by
  show (2 : BitVec 64).getLsbD 1 = true
  decide

theorem Port.resyncFlit_link (q : Port) : q.resyncFlit.hdr.getLsbD 1 = true := (q.sealFlit_getLsbD _ (by decide)).trans (nulFlit_link _ _)

/-- The timer of a port sends the totals, and of the sent ones those of the audit group (R220). -/
theorem exec_resyncTimer (hstop : s.stop = none) (hp : p < s.ports.length) (hlive : s.portLive p = true) :
    ∃ t, exec (.resyncTimer p) s = .next t ∧ t = { s with ports := t.ports, outs := .flit p (s.port p).resyncFlit :: s.outs }
      ∧ (t.port p).audit = ((s.port p).audit + 1) % 3 := by
  refine ⟨s.sendResync p, ?_, rfl, ?_⟩
  · show execResyncTimer p s = _
    rw [execResyncTimer, if_pos hlive]
    exact State.out_next hstop
  · have hport : (s.sendResync p).port p = _ :=
      State.port_updPort_self (s := s.updPort p (fun q => { q with ridx := (q.ridx + 1) % 20 })) (fun q => { q with audit := (q.audit + 1) % 3 })
        (by rwa [State.updPort_ports_length])
    rw [hport, State.port_updPort_self _ hp]

theorem setFld_fld (n hi lo : Nat) : setFld n hi lo (fld n hi lo) = n := by
  have hle : fld n hi lo * 2 ^ lo ≤ n :=
    (Nat.mul_le_mul_right _ (Nat.mod_le _ _)).trans (Nat.div_mul_le_self _ _)
  have hmod : fld n hi lo % 2 ^ (hi + 1 - lo) = fld n hi lo := Nat.mod_mod _ _
  rw [setFld, hmod, Nat.sub_add_cancel hle]

/-- A port that comes up keeps its wavelengths (R247; log entry 97). -/
theorem State.setPort_up_regs (s : State) (i : Nat) : RegsBut [oGPCTL + 8 * i] s (s.setPort i 1) := by
  intro k hk
  have hlight : s.lightOf i 1 = fld (s.cpw (oGPSTAT + 8 * i)) 7 0 := rfl
  have hne : k ≠ (oGPCTL + 8 * i) / 8 := hk _ (by simp)
  show SMap.get (SMap.set (SMap.set _ _ _) _ _) k = _
  rw [SMap.get_set, SMap.get_set, if_neg (Ne.symm hne), hlight, setFld_fld]
  split
  · next h =>
    rw [← h]
    exact BitVec.eq_of_toNat_eq (by rw [BitVec.toNat_ofNat]; exact Nat.mod_eq_of_lt (s.cpw_lt _))
  · rfl

/-- A port that comes up is not about to go dark, nor are the others. -/
theorem State.noDark_setPort_up (s : State) (hi : i < 64) (h : s.noDark = true) : (s.setPort i 1).noDark = true := by
  refine State.noDark_of_noDark h (fun k hk h2 => ?_) fun k => ?_
  · by_cases hne : k = i
    · rw [hne, State.portState_setPort] at h2
      cases h2
    · rwa [State.portState_setPort_ne _ _ hne hk hi] at h2
  · exact ⟨State.port_updPort_keeps _ (31 + i) k (f := fun q => { q with at_ := s.ptb }) (g := Port.marked) fun _ => rfl,
      State.port_updPort_keeps _ (31 + i) k (f := fun q => { q with at_ := s.ptb }) (g := Port.farMarked) fun _ => rfl⟩

/-- A port that has locked is UP, sends its totals first, and then what waits there (R247). -/
theorem exec_portRelockComplete (hstop : s.stop = none) (hlen : s.ports.length = 95) (hi : i < 64) (h4 : s.portState i = 4) :
    ∃ t rest, exec (.portRelockComplete i) s = .next t ∧ t.portState i = 1 ∧ t.outs = rest ++ .flit (31 + i) (s.port (31 + i)).resyncFlit :: s.outs
      ∧ (s.noDark = true → RegsBut [oGPCTL + 8 * i] s t) := by
  let v : State := s.sendResync (31 + i)
  let u : State := v.setPort i 1
  have hv : Sends i s v := (Sends.refl i s).sendResync (31 + i)
  have hu : u.portState i = 1 := v.portState_setPort i 1
  have hlen' : u.ports.length = 95 := (v.setPort_ports_length i 1).trans (hv.len.trans hlen)
  have hsends := (Sends.refl i u).drainPort hlen' hi hu (31 + i) (s.port (31 + i)).queue.length
  obtain ⟨rest, houts⟩ := hsends.outs
  refine ⟨u.drainPort (31 + i) (s.port (31 + i)).queue.length, rest, ?_, hsends.state.trans hu, houts, fun hd => ?_⟩
  · show execPortRelockComplete i s = _
    rw [execPortRelockComplete, if_pos (by simp [hi, h4])]
    exact State.out_next (hsends.stop.trans ((touched_setPort v i 1).stop.trans (hv.stop.trans hstop)))
  · obtain ⟨hcp, hdark⟩ := hv.calm hd
    intro k hk
    rw [(hsends.calm (v.noDark_setPort_up hi hdark)).1, ← hcp]
    exact v.setPort_up_regs i k hk

end

end Sys2Proof.Machine
end

section
namespace Sys2Proof.Machine

/-! ### Flits that come in (R218 to R220, R518, R520) -/

theorem State.updPort_updPort (s : State) (i : Nat) (f g : Port → Port) : (s.updPort i f).updPort i g = s.updPort i (fun q => g (f q)) := by
  have hports : modNth (modNth s.ports i f) i g = modNth s.ports i (fun q => g (f q)) := by
    refine List.ext_getElem? fun j => ?_
    simp only [modNth_getElem?]
    split
    · rw [Option.map_map]; rfl
    · rfl
  rw [State.updPort, State.updPort, State.updPort, hports]

/-- With nothing queued there is nothing to send. -/
theorem State.drainPort_of_empty {s : State} {p : Nat} (h : (s.port p).queue = []) : s.drainPort p (s.port p).queue.length = s := by
  rw [h]
  rfl

theorem State.cpw_updPort (s : State) (i o : Nat) (f : Port → Port) : (s.updPort i f).cpw o = s.cpw o := rfl

theorem State.port_setCpw (s : State) (off v p : Nat) : (s.setCpw off v).port p = s.port p := rfl

theorem State.port_countStat (s : State) (i hi lo n p : Nat) : (s.countStat i hi lo n).port p = s.port p := State.port_setCpw _ _ _ _

section
variable {s : State} {p : Nat} {f : Flit}

theorem Touched.countStat (s : State) (p hi lo n : Nat) : Touched [portStat p] p s (s.countStat p hi lo n) :=
  (Touched.refl _ _ s).setCpw _ (by simp)

/-- A saturating count of 16 bits (R537). -/
theorem State.fld_countStat (s : State) (p lo n : Nat) (h : lo ≤ 48) :
    fld ((s.countStat p (lo + 15) lo n).cpw (portStat p)) (lo + 15) lo = min 65535 (fld (s.cpw (portStat p)) (lo + 15) lo + n) := by
  rw [State.countStat, State.cpw_setCpw, fld_mod (by omega), fld_setFld, show lo + 15 + 1 - lo = 16 by omega]
  exact Nat.mod_eq_of_lt (by omega)

/-- A flit whose CRC fails is counted and timed (R518). -/
theorem State.badFlit_eq (hp : p < s.ports.length) (hfew : (s.port p).crcs.length < 999) :
    s.badFlit p = (s.countStat p 63 48 1).updPort p (fun q => { q with crcs := s.ptb :: q.crcs.filter (fun t => decide (s.ptb < t + 1000000)) }) := by
  have hlen := List.length_filter_le (fun t => decide (s.ptb < t + 1000000)) (s.port p).crcs
  have hport := State.port_updPort_self (s := s.countStat p 63 48 1) (i := p)
    (fun q => { q with crcs := s.ptb :: q.crcs.filter (fun t => decide (s.ptb < t + 1000000)) }) (by rwa [(Touched.countStat s p 63 48 1).len])
  simp only [State.badFlit]
  rw [if_neg]
  rw [hport, State.port_countStat, List.length_cons]
  omega

theorem exec_flitReceive_bad (hlive : s.portLive p = true) (hcrc : Flit.crcOk f = false) : exec (.flitReceive p f) s = (s.badFlit p).out := by
  show execFlitReceive p f s = _
  simp only [execFlitReceive, hlive, hcrc, Bool.not_true, Bool.not_false, Bool.false_eq_true, if_false, if_true]

theorem exec_resyncReceive_bad (hlive : s.portLive p = true) (hcrc : Flit.crcOk f = false) : exec (.resyncReceive p f) s = (s.badFlit p).out := by
  show execResyncReceive p f s = _
  simp only [execResyncReceive, hlive, hcrc, Bool.not_true, Bool.not_false, Bool.false_eq_true, if_false, if_true]

/-! ### A packet of one flit (R219) -/

/-- The port once it has received the one flit of a packet, which is taken: what it held of the pair, in rx and in held slots, is dropped. -/
def Port.tookFlit (f : Flit) (now held : Nat) (rest : List (Nat × List Byte × Nat)) (q : Port) : Port :=
  let q1 : Port := if Flit.cls f = 3 then { q with tIn := now } else q
  (({ q1 with rcvd := modNth q1.rcvd (Flit.pair f) (fun v => (v + 1) % 2 ^ 16), rx := rest } : Port).free (Flit.pair f) held).free (Flit.pair f) 1

/-- The slots that a port holds for a packet of a pair that is not whole. -/
def Port.heldOf (q : Port) (pair : Nat) : Nat := ((q.rx.find? (fun x => x.1 == pair)).map (fun x => x.2.2)).getD 0

theorem Port.tookFlit_eq (f : Flit) (now held : Nat) (rest : List (Nat × List Byte × Nat)) (q : Port) :
    (q.tookFlit f now held rest).queue = q.queue ∧ (q.tookFlit f now held rest).ret = q.ret
    ∧ (q.tookFlit f now held rest).rcvd = modNth q.rcvd (Flit.pair f) (fun v => (v + 1) % 2 ^ 16)
    ∧ (q.tookFlit f now held rest).freed
      = modNth (modNth q.freed (Flit.pair f) (fun v => (v + held) % 2 ^ 16)) (Flit.pair f) (fun v => (v + 1) % 2 ^ 16) := by
  unfold Port.tookFlit
  split <;> exact ⟨rfl, rfl, rfl, rfl⟩

/-- A packet of one flit for this package arrives, and its slot is free (R219; log entry 46). -/
theorem State.packetFlit_whole (hp : p < s.ports.length) (hidx : fld f.hdr.toNat 5 3 = 0) (hlast : f.hdr.toNat.testBit 2 = true)
    (hhop : Flit.hop f ≤ 4) (hdst : (Packet.ofBytes f.body).dst.toNat = s.dev) :
    s.packetFlit p f = (s.updPort p (Port.tookFlit f s.ptb ((s.port p).heldOf (Flit.pair f)) ((s.port p).rx.filter (fun x => x.1 != Flit.pair f)))).arrive
      (Packet.ofBytes f.body) := by
  by_cases hc : Flit.cls f = 3
  · have hport := State.port_updPort_self (s := s) (fun q => { q with tIn := s.ptb }) hp
    simp only [State.packetFlit, hc, if_true, show ¬4 < Flit.hop f by omega, if_false, hidx, hlast, hport, State.arrived, State.updPort_dev, hdst,
      State.updPort_updPort, Nat.zero_add]
    congr 2
    funext q
    rw [Port.tookFlit, if_pos hc]
    rfl
  · simp only [State.packetFlit, hc, if_false, show ¬4 < Flit.hop f by omega, hidx, if_true, hlast, State.arrived, State.updPort_dev, hdst,
      State.updPort_updPort, Nat.zero_add]
    congr 2
    funext q
    rw [Port.tookFlit, if_neg hc]
    rfl

end

/-! ### What a flit that is accepted does (R219, R220, R520) -/

section
variable {s : State} {p : Nat} {f : Flit}

/-- SLOTRET of a flit is noted for its pair (R219). -/
def State.noteRet (s : State) (p : Nat) (f : Flit) : State :=
  if fld f.hdr.toNat 15 11 < 20 then s.updPort p (fun q => { q with ret := setNth q.ret (fld f.hdr.toNat 15 11) (fld f.hdr.toNat 31 16) }) else s

theorem State.noteRet_rest (s : State) (p : Nat) (f : Flit) : s.noteRet p f = { s with ports := (s.noteRet p f).ports } := by
  unfold State.noteRet
  split <;> rfl

/-- SLOTRET touches the totals returned and nothing else. -/
theorem State.port_noteRet (hp : p < s.ports.length) :
    (s.noteRet p f).ports.length = s.ports.length
    ∧ ∃ ret, (s.noteRet p f).port p = { s.port p with ret := ret }
      ∧ (fld f.hdr.toNat 15 11 < 20 → ret = setNth (s.port p).ret (fld f.hdr.toNat 15 11) (fld f.hdr.toNat 31 16)) := by
  unfold State.noteRet
  split
  · exact ⟨State.updPort_ports_length _ _ _, _, State.port_updPort_self _ hp, fun _ => rfl⟩
  · next h => exact ⟨rfl, _, rfl, fun hlt => absurd hlt h⟩

theorem setNth_length (l : List Nat) (k v : Nat) : (setNth l k v).length = l.length := List.length_set

theorem getD_setNth (l : List Nat) (k j v : Nat) : (setNth l k v).getD j 0 = if k = j ∧ j < l.length then v else l.getD j 0 := by
  rw [setNth, List.getD_eq_getElem?_getD, List.getElem?_set, List.getD_eq_getElem?_getD]
  split
  · next h =>
    subst h
    split
    · next h => simp [h]
    · next h => simp [h]
  · next h => simp [h]

theorem exec_flitReceive_packet (hlive : s.portLive p = true) (hcrc : Flit.crcOk f = true) (hkind : f.hdr.getLsbD 1 = false) :
    exec (.flitReceive p f) s
      = (((s.noteRet p f).packetFlit p f).drainPort p (((s.noteRet p f).packetFlit p f).port p).queue.length).out := by
  show execFlitReceive p f s = _
  simp only [execFlitReceive, hlive, hcrc, BitVec.testBit_toNat, hkind, Bool.not_true, Bool.false_eq_true, if_false]
  rfl

/-- A packet of one flit for this package arrives, and its slot is free, with those of what the pair had begun (R219; log entry 46). -/
theorem exec_flitReceive_whole (hstop : s.stop = none) (hp : p < s.ports.length) (hlive : s.portLive p = true) (hcrc : Flit.crcOk f = true)
    (hkind : f.hdr.getLsbD 1 = false) (hidx : fld f.hdr.toNat 5 3 = 0) (hlast : f.hdr.getLsbD 2 = true) (hhop : Flit.hop f ≤ 4)
    (hdst : (Packet.ofBytes f.body).dst.toNat = s.dev) (hq : (s.port p).queue = []) :
    ∃ t held rest, exec (.flitReceive p f) s = .next t ∧ t = { s.arrive (Packet.ofBytes f.body) with ports := t.ports }
      ∧ held = (s.port p).heldOf (Flit.pair f) ∧ ∃ ret, t.port p = ({ s.port p with ret := ret } : Port).tookFlit f s.ptb held rest
      ∧ (fld f.hdr.toNat 15 11 < 20 → ret = setNth (s.port p).ret (fld f.hdr.toNat 15 11) (fld f.hdr.toNat 31 16)) := by
  obtain ⟨hlen, ret, hport, hret⟩ := s.port_noteRet (f := f) hp
  have hrest := s.noteRet_rest p f
  generalize hu : s.noteRet p f = u at hlen hport hrest
  have hdev : u.dev = s.dev := by rw [hrest]
  have hptb : u.ptb = s.ptb := by rw [hrest]
  have hwhole := State.packetFlit_whole (s := u) (p := p) (f := f) (by rwa [hlen]) hidx (by rwa [BitVec.testBit_toNat]) hhop (by rwa [hdev])
  generalize hg : Port.tookFlit f u.ptb ((u.port p).heldOf (Flit.pair f)) ((u.port p).rx.filter (fun x => x.1 != Flit.pair f)) = g at hwhole
  have htook : (u.updPort p g).port p = g (u.port p) := State.port_updPort_self g (by rwa [hlen])
  have hempty : ((u.updPort p g).arrive (Packet.ofBytes f.body)).port p = g (u.port p) := htook
  have hqueue : (((u.updPort p g).arrive (Packet.ofBytes f.body)).port p).queue = [] := by
    rw [hempty, ← hg, (Port.tookFlit_eq _ _ _ _ _).1, hport, hq]
  refine ⟨(u.updPort p g).arrive (Packet.ofBytes f.body), (u.port p).heldOf (Flit.pair f), (u.port p).rx.filter (fun x => x.1 != Flit.pair f), ?_, ?_,
    by rw [hport]; rfl, ret, ?_, hret⟩
  · rw [exec_flitReceive_packet hlive hcrc hkind, hu, hwhole, State.drainPort_of_empty hqueue]
    have hustop : u.stop = none := by rw [hrest, hstop]
    exact State.out_next hustop
  · conv_lhs => rw [hrest]
    rfl
  · rw [hempty, ← hg, hptb, ← hport]

/-! ### Resynchronisation (R220, R520) -/

/-- The 16-bit word of a resynchronisation flit at an offset of its body. -/
def resyncWord (body : List Byte) (o : Nat) : Nat := leVal ((body.drop o).take 2)

/-- The places of an audit group that name pairs (R520). -/
def auditPlaces (g : Nat) : List Nat := (List.range 7).filter (fun i => g < 3 && 7 * g + i < 20)

/-- Flits of the i-th pair of an audit group that were sent and have not been received (R520). -/
def Port.lostOf (q : Port) (body : List Byte) (i : Nat) : Nat :=
  (resyncWord body (42 + 2 * i) + 2 ^ 16 - q.rcvd.getD (7 * (body.getD 1 0).toNat + i) 0) % 2 ^ 16

/-- The pairs of an audit group count as received what was sent, and the slots of what was lost are free (R520). -/
def Port.recount (g : Nat) (sent lost : Nat → Nat) (l : List Nat) (q : Port) : Port :=
  l.foldl (fun (q : Port) i =>
    { q with freed := modNth q.freed (7 * g + i) (fun v => (v + lost i) % 2 ^ 16), rcvd := setNth q.rcvd (7 * g + i) (sent i) }) q

theorem Port.recount_eq (g : Nat) (sent lost : Nat → Nat) (l : List Nat) (q : Port) :
    q.recount g sent lost l = { q with freed := (q.recount g sent lost l).freed, rcvd := (q.recount g sent lost l).rcvd } := by
  induction l generalizing q with
  | nil => rfl
  | cons i l ih =>
    rw [Port.recount, List.foldl_cons]
    exact ih _

theorem Port.recount_other {g k : Nat} (sent lost : Nat → Nat) {l : List Nat} (hk : ∀ i ∈ l, k ≠ 7 * g + i) (q : Port) :
    (q.recount g sent lost l).rcvd.getD k 0 = q.rcvd.getD k 0 ∧ (q.recount g sent lost l).freed.getD k 0 = q.freed.getD k 0 := by
  induction l generalizing q with
  | nil => exact ⟨rfl, rfl⟩
  | cons i l ih =>
    obtain ⟨hi, hl⟩ := List.forall_mem_cons.mp hk
    obtain ⟨hr, hf⟩ := ih hl { q with
      freed := modNth q.freed (7 * g + i) (fun v => (v + lost i) % 2 ^ 16), rcvd := setNth q.rcvd (7 * g + i) (sent i) }
    exact ⟨hr.trans (by rw [getD_setNth, if_neg (by omega)]), hf.trans (by rw [modNth_getD, if_neg (by omega)])⟩

theorem Port.recount_of_mem {g i : Nat} (sent lost : Nat → Nat) {l : List Nat} (hnd : l.Nodup) (hi : i ∈ l) {q : Port}
    (hr : 7 * g + i < q.rcvd.length) (hf : 7 * g + i < q.freed.length) :
    (q.recount g sent lost l).rcvd.getD (7 * g + i) 0 = sent i
    ∧ (q.recount g sent lost l).freed.getD (7 * g + i) 0 = (q.freed.getD (7 * g + i) 0 + lost i) % 2 ^ 16 := by
  induction l generalizing q with
  | nil => cases hi
  | cons j l ih =>
    obtain ⟨hj, hnd⟩ := List.nodup_cons.mp hnd
    let q' : Port := { q with freed := modNth q.freed (7 * g + j) (fun v => (v + lost j) % 2 ^ 16), rcvd := setNth q.rcvd (7 * g + j) (sent j) }
    rcases List.mem_cons.mp hi with rfl | hi
    · obtain ⟨hr', hf'⟩ := q'.recount_other sent lost (l := l) (k := 7 * g + i) fun x hx hc => hj (Nat.add_left_cancel hc ▸ hx)
      exact ⟨hr'.trans (by rw [getD_setNth, if_pos ⟨rfl, hr⟩]), hf'.trans (by rw [modNth_getD, if_pos ⟨rfl, hf⟩])⟩
    · obtain ⟨hr', hf'⟩ := ih hnd hi (q := q') (by rwa [setNth_length]) (by rwa [modNth_length])
      have hne : j ≠ i := fun h => hj (h ▸ hi)
      exact ⟨hr', hf'.trans (by rw [modNth_getD, if_neg (by omega)])⟩

/-- The port after a resynchronisation flit; q0 is the port before it. -/
def Port.resynced (q0 : Port) (body : List Byte) (q : Port) : Port :=
  ({ q with ret := (List.range 20).map (fun k => resyncWord body (2 + 2 * k)) } : Port).recount (body.getD 1 0).toNat
    (fun i => resyncWord body (42 + 2 * i)) (q0.lostOf body) (auditPlaces (body.getD 1 0).toNat)

/-- All that a resynchronisation flit shows lost. -/
def Port.lostAll (q : Port) (body : List Byte) : Nat := (auditPlaces (body.getD 1 0).toNat).foldl (fun n i => n + q.lostOf body i) 0

theorem Port.resynced_eq (q0 : Port) (body : List Byte) (q : Port) :
    (Port.resynced q0 body q).queue = q.queue ∧ (Port.resynced q0 body q).ret = (List.range 20).map (fun k => resyncWord body (2 + 2 * k)) := by
  rw [Port.resynced, Port.recount_eq]
  exact ⟨rfl, rfl⟩

theorem State.resync_eq (s : State) (p : Nat) (body : List Byte) :
    s.resync p body =
      (let u := s.updPort p ((s.port p).resynced body)
       let t := if (s.port p).lostAll body = 0 then u
         else (u.countStat p 47 32 ((s.port p).lostAll body)).rateRec (0x6030000 + p)
           { cls := 6, code := 3, info := portInfo p + min 65535 ((s.port p).lostAll body) * 2 ^ 16 }
       t.drainPort p (t.port p).queue.length) := rfl

/-- A record that is made at most once in 1 ms for its key is due (R520). -/
def State.rateDue (s : State) (key : Nat) : Bool :=
  match s.rate.find? (fun x => x.1 == key) with
  | some x => !decide (s.ptb < x.2 + 1000000)
  | none => true

theorem State.rateDue_none {key : Nat} (h : s.rate.find? (fun x => x.1 == key) = none) : s.rateDue key = true := by
  rw [State.rateDue, h]

theorem State.rateDue_some {key : Nat} {x : Nat × Nat} (h : s.rate.find? (fun x => x.1 == key) = some x) :
    s.rateDue key = !decide (s.ptb < x.2 + 1000000) := by
  rw [State.rateDue, h]

theorem State.rateDue_congr {t : State} (hrate : t.rate = s.rate) (hptb : t.ptb = s.ptb) (key : Nat) : t.rateDue key = s.rateDue key := by
  rw [State.rateDue, State.rateDue, hrate, hptb]

/-- No record more of a class is a count that stands (R459). -/
theorem counted_zero {cls : Nat} (h0 : 0 < cls) (s : State) : Counted cls 0 s s := by
  have hfld : fld (s.cpw oERLOST) (8 * cls - 1) (8 * cls - 8) < 2 ^ 8 := by
    rw [fld, show 8 * cls - 1 + 1 - (8 * cls - 8) = 8 by omega]
    exact Nat.mod_lt _ (Nat.two_pow_pos 8)
  rw [Counted]
  omega

/-- With the ring off such a record is timed and counted when it is due, and else nothing becomes of it. -/
theorem State.rateRec_off (h : ringOff s = true) (key : Nat) (r : FRec) :
    ∃ rate, s.rateRec key r = if s.rateDue key then ({ s with rate := rate } : State).counted r.cls else s := by
  have hoff (rate : List (Nat × Nat)) : ({ s with rate := rate } : State).ringRec r = ({ s with rate := rate } : State).counted r.cls :=
    State.ringRec_off (s := { s with rate := rate }) h r
  unfold State.rateRec State.rateRecBy State.rateDue
  cases s.rate.find? (fun x => x.1 == key) with
  | none => exact ⟨_, hoff _⟩
  | some x =>
    by_cases hx : s.ptb < x.2 + 1000000
    · exact ⟨[], by simp [hx]⟩
    · simp only [hx, decide_false, Bool.not_false, if_true, if_false]
      exact ⟨_, hoff _⟩

theorem State.rateRec_counted (h : ringOff s = true) (key : Nat) {r : FRec} (h0 : 0 < r.cls) (h8 : r.cls ≤ 8) :
    s.rateRec key r = { s with cp := (s.rateRec key r).cp, rate := (s.rateRec key r).rate } ∧ RegsBut [oERLOST] s (s.rateRec key r)
    ∧ Counted r.cls (if s.rateDue key then 1 else 0) s (s.rateRec key r) ∧ ∀ p, (s.rateRec key r).port p = s.port p := by
  obtain ⟨rate, he⟩ := State.rateRec_off h key r
  rw [he]
  split
  · exact ⟨rfl, regsBut_setCpw { s with rate := rate } _ (by simp), counted_counted h0 h8 { s with rate := rate }, fun _ => rfl⟩
  · exact ⟨rfl, fun _ _ => rfl, counted_zero h0 s, fun _ => rfl⟩

theorem leVal_lt (l : List Byte) : leVal l < 256 ^ l.length := by
  induction l with
  | nil => exact Nat.one_pos
  | cons b l ih =>
    have hb := b.isLt
    rw [leVal, List.length_cons, pow_succ]
    omega

theorem resyncWord_lt (body : List Byte) (o : Nat) : resyncWord body o < 2 ^ 16 :=
  (leVal_lt _).trans_le (Nat.pow_le_pow_right (show 0 < 256 by decide) (List.length_take_le 2 _))

/-- Where each pair of the group has received what was sent, nothing is lost. -/
theorem Port.lostAll_eq_zero {q : Port} {body : List Byte}
    (h : ∀ i ∈ auditPlaces (body.getD 1 0).toNat, resyncWord body (42 + 2 * i) = q.rcvd.getD (7 * (body.getD 1 0).toNat + i) 0) : q.lostAll body = 0 := by
  have hsum : ∀ l : List Nat, (∀ i ∈ l, q.lostOf body i = 0) → l.foldl (fun n i => n + q.lostOf body i) 0 = 0 := by
    intro l
    induction l with
    | nil => exact fun _ => rfl
    | cons i l ih =>
      intro hl
      rw [List.foldl_cons, hl i List.mem_cons_self]
      exact ih fun j hj => hl j (List.mem_cons_of_mem _ hj)
  refine hsum _ fun i hi => ?_
  have := resyncWord_lt body (42 + 2 * i)
  rw [Port.lostOf, ← h i hi]
  omega

/-- The totals that a resynchronisation flit brings are taken; where it shows nothing lost that is all (R220). -/
theorem State.resync_whole (hp : p < s.ports.length) {body : List Byte} (hq : (s.port p).queue = []) (hall : (s.port p).lostAll body = 0) :
    s.resync p body = s.updPort p ((s.port p).resynced body) := by
  have hempty : ((s.updPort p ((s.port p).resynced body)).port p).queue = [] := by
    rw [State.port_updPort_self _ hp, (Port.resynced_eq _ _ _).1, hq]
  simp only [State.resync_eq, hall, if_true]
  exact State.drainPort_of_empty hempty

theorem portStat_apart {p : Nat} (hp : p < 95) : portStat p / 8 ≠ oERLOST / 8 ∧ portStat p / 8 ≠ oERCFG / 8 := by
  simp only [portStat, oLLSTAT, oGPSTAT, oERLOST, oERCFG]
  split <;> omega

/-- The package once the lost slots of a port are free and counted in AUDIT (R520). -/
def State.audited (s : State) (p : Nat) (body : List Byte) : State :=
  (s.updPort p ((s.port p).resynced body)).countStat p 47 32 ((s.port p).lostAll body)

theorem State.audited_touched (s : State) (p : Nat) (body : List Byte) : Touched [portStat p] p s (s.audited p body) :=
  ((Touched.refl _ _ s).updPort _).trans (Touched.countStat _ p 47 32 _)

theorem State.port_audited (hp : p < s.ports.length) (body : List Byte) : (s.audited p body).port p = Port.resynced (s.port p) body (s.port p) :=
  (State.port_countStat _ _ _ _ _ _).trans (State.port_updPort_self _ hp)

/-- What a resynchronisation flit shows lost is counted, and recorded when that is due (R520). -/
theorem State.resync_lost (hp : p < s.ports.length) {body : List Byte} (hq : (s.port p).queue = []) (hall : (s.port p).lostAll body ≠ 0)
    (hoff : ringOff (s.audited p body) = true) :
    ∃ r : FRec, r.cls = 6 ∧ s.resync p body = (s.audited p body).rateRec (0x6030000 + p) r := by
  refine ⟨{ cls := 6, code := 3, info := portInfo p + min 65535 ((s.port p).lostAll body) * 2 ^ 16 }, rfl, ?_⟩
  generalize hr : ({ cls := 6, code := 3, info := portInfo p + min 65535 ((s.port p).lostAll body) * 2 ^ 16 } : FRec) = r
  have h6 : r.cls = 6 := by rw [← hr]
  obtain ⟨-, -, -, hport⟩ := State.rateRec_counted hoff (0x6030000 + p) (r := r) (by omega) (by omega)
  have hempty : (((s.audited p body).rateRec (0x6030000 + p) r).port p).queue = [] := by
    rw [hport, State.port_audited hp, (Port.resynced_eq _ _ _).1, hq]
  rw [State.resync_eq]
  simp only [hall, if_false, hr]
  exact State.drainPort_of_empty hempty

theorem exec_resyncReceive (hlive : s.portLive p = true) (hcrc : Flit.crcOk f = true) (hkind : f.hdr.getLsbD 1 = true) (hbody : f.body.headD 0 = 2) :
    exec (.resyncReceive p f) s = (s.resync p f.body).out := by
  show execResyncReceive p f s = _
  simp only [execResyncReceive, hlive, hcrc, BitVec.testBit_toNat, hkind, hbody, Bool.not_true, Bool.false_eq_true, if_false]
  rfl

/-- A resynchronisation flit that reports no pair's slots does what resyncReceive does (R220). -/
theorem exec_flitReceive_resync (hlive : s.portLive p = true) (hcrc : Flit.crcOk f = true) (hkind : f.hdr.getLsbD 1 = true) (hbody : f.body.headD 0 = 2)
    (hr : 20 ≤ fld f.hdr.toNat 15 11) (hq : ((s.resync p f.body).port p).queue = []) :
    exec (.flitReceive p f) s = (s.resync p f.body).out := by
  show execFlitReceive p f s = _
  simp only [execFlitReceive, hlive, hcrc, BitVec.testBit_toNat, hkind, hbody, Bool.not_true, Bool.false_eq_true, if_false, if_true,
    show ¬fld f.hdr.toNat 15 11 < 20 by omega]
  exact congrArg State.out (State.drainPort_of_empty hq)

end

end Sys2Proof.Machine
end

section
namespace Sys2Proof.Machine

/-! ### Lanes and wavelengths (R519) -/

section
variable {s : State} {p i lane : Nat}

/-- A change of a link's status and what follows it: the choice of a parent (R249) and the record. -/
def State.relit (s : State) (p v : Nat) (r : State → FRec) : State :=
  let s1 := (s.setCpw (portStat p) v).reparent
  s1.ringRec (r s1)

theorem ptbstat_erlost_apart {o : Nat} (h : o < 95) : ∀ x ∈ [oPTBSTAT, oERLOST], portStat o / 8 ≠ x / 8 := by
  simp only [List.mem_cons, List.not_mem_nil, or_false, forall_eq_or_imp, forall_eq, portStat, oLLSTAT, oGPSTAT, oPTBSTAT, oERLOST]
  split <;> omega

theorem ercfg_apart {p : Nat} (hp : p < 95) : ∀ x ∈ [portStat p, oPTBSTAT, oERLOST], oERCFG / 8 ≠ x / 8 := by
  simp only [List.mem_cons, List.not_mem_nil, or_false, forall_eq_or_imp, forall_eq]
  exact ⟨(portStat_apart hp).2.symm, by decide, by decide⟩

theorem gpctl_apart {p i : Nat} (hp : p < 95) (hi : i < 64) : ∀ x ∈ [portStat p, oPTBSTAT, oERLOST], (oGPCTL + 8 * i) / 8 ≠ x / 8 := by
  simp only [List.mem_cons, List.not_mem_nil, or_false, forall_eq_or_imp, forall_eq, portStat, oLLSTAT, oGPSTAT, oPTBSTAT, oERLOST, oGPCTL]
  split <;> omega

/-- Of the package the status changes, and PTBSTAT and ERLOST may. -/
theorem State.relit_spec (hp : p < 95) (hoff : ringOff s = true) (v : Nat) {r : State → FRec} (hr : ∀ u, (r u).cls = 6) :
    s.relit p v r = { s with cp := (s.relit p v r).cp } ∧ RegsBut [portStat p, oPTBSTAT, oERLOST] s (s.relit p v r)
    ∧ Counted 6 1 s (s.relit p v r) ∧ (s.relit p v r).cpw (portStat p) = v % 2 ^ 64 := by
  let u : State := s.setCpw (portStat p) v
  have hu : Touched [portStat p, oPTBSTAT, oERLOST] p s u := (Touched.refl _ _ s).setCpw v (by simp)
  have hu1 : Touched [portStat p, oPTBSTAT, oERLOST] p s u.reparent := hu.reparent (by simp)
  have hoff1 : ringOff u.reparent = true := (hu1.ringOff (ercfg_apart hp)).trans hoff
  have ht : s.relit p v r = u.reparent.counted 6 := by
    rw [← hr u.reparent]
    exact State.ringRec_off hoff1 _
  have hlater : Touched [oPTBSTAT, oERLOST] p u (u.reparent.counted 6) := ((Touched.refl _ _ u).reparent (by simp)).setCpw _ (by simp)
  rw [ht]
  refine ⟨?_, (hu1.setCpw _ (by simp)).regs, ?_, ?_⟩
  · rcases u.reparent_eq with he | ⟨x, he⟩ <;> rw [he] <;> rfl
  · have hlost : u.reparent.cpw oERLOST = s.cpw oERLOST := by
      have hlost1 : u.reparent.cpw oERLOST = u.cpw oERLOST := ((Touched.refl [oPTBSTAT] p u).reparent (by simp)).regs.cpw (by decide)
      rw [hlost1, State.cpw_setCpw_ne _ (portStat_apart hp).1.symm]
    have hcount := counted_counted (cls := 6) (by decide) (by decide) u.reparent
    rwa [Counted, hlost] at hcount
  · rw [hlater.regs.cpw (ptbstat_erlost_apart hp), State.cpw_setCpw]

/-- The status of a local link without one of its lanes; without any lane the link is down (R519). -/
def laneOff (w lane : Nat) : Nat :=
  let v := w - 2 ^ (8 + lane)
  if fld v 15 8 = 0 then v - v % 2 else v

theorem laneOff_le (w lane : Nat) : laneOff w lane ≤ w := by
  have hle := Nat.sub_le w (2 ^ (8 + lane))
  rw [laneOff]
  split
  · exact (Nat.sub_le _ _).trans hle
  · exact hle

theorem testBit_laneOff {w lane k : Nat} (h : w.testBit (8 + lane) = true) (hk : 0 < k) :
    (laneOff w lane).testBit k = (w.testBit k && !decide (k = 8 + lane)) := by
  obtain ⟨k, rfl⟩ := Nat.exists_eq_add_of_lt hk
  rw [← testBit_sub_two_pow h, laneOff]
  split
  · rw [Nat.zero_add, Nat.testBit_add_one, Nat.testBit_add_one]
    congr 1
    omega
  · rfl

/-- Lanes that carry flits, by the status of a local link (R517). -/
theorem State.liveLanes_local (s : State) (hp : p < 31) : s.liveLanes p = popN 8 (fld (s.cpw (portStat p)) 15 8) := by
  rw [State.liveLanes]
  exact if_pos hp

theorem State.linkUp_eq (s : State) (hp : p < 31) : s.linkUp p = (s.cpw (portStat p)).testBit 0 := by
  rw [State.linkUp, portStat, if_pos hp]

theorem State.liveLanes_port (s : State) (i : Nat) : s.liveLanes (31 + i) = fld (s.cpw (portStat (31 + i))) 7 0 := by
  rw [State.liveLanes]
  exact if_neg (by omega)

theorem portStat_port (i : Nat) : portStat (31 + i) = oGPSTAT + 8 * i := by
  rw [portStat, if_neg (by omega), Nat.add_sub_cancel_left]

theorem popN_laneOff {w lane : Nat} (hl : lane < 8) (h : w.testBit (8 + lane) = true) :
    popN 8 (fld (laneOff w lane) 15 8) + 1 = popN 8 (fld w 15 8) := by
  refine popN_add_one hl (by rw [testBit_fld, Nat.add_comm lane, h]; simp [hl]) fun k hk => ?_
  rw [testBit_fld, testBit_fld, testBit_laneOff h (by omega), Bool.and_assoc]
  congr 3
  simp only [decide_eq_decide]
  omega

theorem laneOff_down {w lane : Nat} (h : popN 8 (fld (laneOff w lane) 15 8) = 0) : (laneOff w lane).testBit 0 = false := by
  have hzero : fld (laneOff w lane) 15 8 = 0 := eq_zero_of_popN (Nat.mod_lt _ (Nat.two_pow_pos 8)) h
  rw [laneOff] at hzero ⊢
  split
  · rw [Nat.testBit_zero, decide_eq_false_iff_not]
    omega
  · next hne =>
    rw [if_neg hne] at hzero
    exact absurd hzero hne

/-- The record of a lane that is lost names the link and what is left of it (R519). -/
def laneRec (p : Nat) (u : State) : FRec := { cls := 6, code := 2, info := portInfo p + u.liveLanes p * 2 ^ 16 }

theorem exec_laneLoss_local (hp : p < 31) (hl : lane < 8) (hon : (s.cpw (portStat p)).testBit (8 + lane) = true) :
    exec (.laneLoss p lane) s = (s.relit p (laneOff (s.cpw (portStat p)) lane) (laneRec p)).out := by
  show execLaneLoss p lane s = _
  simp only [execLaneLoss, hp, hl, hon, if_true, decide_true, Bool.true_and, Bool.not_true, Bool.false_eq_true, if_false,
    show ¬31 ≤ p by omega, decide_false, Bool.false_and]
  rfl

theorem exec_laneLoss_port (hi : i < 64) (hon : 1 < s.liveLanes (31 + i)) (lane : Nat) :
    exec (.laneLoss (31 + i) lane) s = (s.relit (31 + i) (s.cpw (portStat (31 + i)) - 1) (laneRec (31 + i))).out := by
  rw [State.liveLanes_port] at hon
  have hlit : fld (s.cpw (portStat (31 + i)) - 1) 7 0 ≠ 0 := by
    rw [fld] at hon ⊢
    omega
  show execLaneLoss (31 + i) lane s = _
  simp only [execLaneLoss, show ¬31 + i < 31 by omega, show 31 + i < 95 by omega, show 31 ≤ 31 + i by omega, if_false, decide_true, Bool.true_and,
    bne_iff_ne.mpr (show fld (s.cpw (portStat (31 + i))) 7 0 ≠ 0 by omega), hlit, decide_false, Bool.not_true, Bool.false_eq_true]
  rfl

theorem exec_laneLoss_last (hi : i < 64) (hon : s.liveLanes (31 + i) = 1) (lane : Nat) :
    exec (.laneLoss (31 + i) lane) s = exec (.portLightLoss i) (s.relit (31 + i) (s.cpw (portStat (31 + i)) - 1) (laneRec (31 + i))) := by
  rw [State.liveLanes_port] at hon
  have hdark : fld (s.cpw (portStat (31 + i)) - 1) 7 0 = 0 := by
    rw [fld] at hon ⊢
    omega
  show execLaneLoss (31 + i) lane s = execPortLightLoss i _
  simp only [execLaneLoss, show ¬31 + i < 31 by omega, show 31 + i < 95 by omega, show 31 ≤ 31 + i by omega, if_false, decide_true, Bool.true_and,
    bne_iff_ne.mpr (show fld (s.cpw (portStat (31 + i))) 7 0 ≠ 0 by omega), hdark, Bool.not_true, Bool.false_eq_true, if_true, Nat.add_sub_cancel_left]
  rfl

/-- A lane that carries flits is lost (R519): the link is down when it was the last. -/
theorem laneLoss_local (hstop : s.stop = none) (hoff : ringOff s = true) (hp : p < 31) (hl : lane < 8)
    (hon : (s.cpw (portStat p)).testBit (8 + lane) = true) :
    ∃ t, exec (.laneLoss p lane) s = .next t ∧ t = { s with cp := t.cp } ∧ Counted 6 1 s t
      ∧ (t.cpw (portStat p)).testBit (8 + lane) = false ∧ t.liveLanes p + 1 = s.liveLanes p ∧ (t.liveLanes p = 0 → t.linkUp p = false) := by
  obtain ⟨hrest, -, hcount, hstat⟩ := State.relit_spec (p := p) (by omega) hoff (laneOff (s.cpw (portStat p)) lane) (r := laneRec p) fun _ => rfl
  have hlt : laneOff (s.cpw (portStat p)) lane < 2 ^ 64 := (laneOff_le _ _).trans_lt (s.cpw_lt _)
  rw [Nat.mod_eq_of_lt hlt] at hstat
  refine ⟨_, ?_, hrest, hcount, ?_, ?_, fun h0 => ?_⟩
  · rw [exec_laneLoss_local hp hl hon]
    exact State.out_next (by rw [hrest, hstop])
  · rw [hstat, testBit_laneOff hon (by omega)]
    simp
  · rw [State.liveLanes_local _ hp, State.liveLanes_local _ hp, hstat, popN_laneOff hl hon]
  · rw [State.liveLanes_local _ hp, hstat] at h0
    rw [State.linkUp_eq _ hp, hstat, laneOff_down h0]

/-- A wavelength is lost, and others are left (R519). -/
theorem laneLoss_port (hstop : s.stop = none) (hoff : ringOff s = true) (hi : i < 64) (hon : 1 < s.liveLanes (31 + i)) (lane : Nat) :
    ∃ t, exec (.laneLoss (31 + i) lane) s = .next t ∧ t = { s with cp := t.cp } ∧ t.liveLanes (31 + i) + 1 = s.liveLanes (31 + i) ∧ Counted 6 1 s t := by
  obtain ⟨hrest, -, hcount, hstat⟩ := State.relit_spec (p := 31 + i) (by omega) hoff (s.cpw (portStat (31 + i)) - 1) (r := laneRec (31 + i)) fun _ => rfl
  refine ⟨_, ?_, hrest, ?_, hcount⟩
  · rw [exec_laneLoss_port hi hon]
    exact State.out_next (by rw [hrest, hstop])
  · have hw := s.cpw_lt (portStat (31 + i))
    rw [State.liveLanes_port, fld] at hon
    rw [State.liveLanes_port, State.liveLanes_port, hstat, fld, fld]
    omega

/-- A port that is down has no light (R537). -/
theorem State.fld_setPort_down (s : State) (i : Nat) : fld ((s.setPort i 0).cpw (oGPSTAT + 8 * i)) 7 0 = 0 := by
  have hlight : s.lightOf i 0 = 0 := rfl
  change fld (State.cpw (State.setCpw _ _ _) _) 7 0 = _
  rw [State.cpw_setCpw, fld_mod (by decide), fld_setFld, hlight]
  rfl

/-- With its last wavelength a port loses its light (R519, R535). -/
theorem laneLoss_last (hstop : s.stop = none) (hoff : ringOff s = true) (hi : i < 64) (hon : s.liveLanes (31 + i) = 1) (h1 : s.portState i = 1)
    (lane : Nat) : ∃ t, exec (.laneLoss (31 + i) lane) s = .next t ∧ t.liveLanes (31 + i) = 0 ∧ t.portState i = 0 := by
  obtain ⟨hrest, hregs, -, -⟩ := State.relit_spec (p := 31 + i) (by omega) hoff (s.cpw (portStat (31 + i)) - 1) (r := laneRec (31 + i)) fun _ => rfl
  have hexec := exec_laneLoss_last hi hon lane
  generalize s.relit (31 + i) (s.cpw (portStat (31 + i)) - 1) (laneRec (31 + i)) = u at hrest hregs hexec
  have hustop : u.stop = none := by rw [hrest, hstop]
  have huoff : ringOff u = true := by rwa [ringOff, hregs.cpw (ercfg_apart (by omega))]
  have hu1 : u.portState i = 1 := (hregs.portState (gpctl_apart (by omega) hi)).trans h1
  have hv := (touched_setPort u i 0).reparent (ptbstat_mem_portRegs i)
  have hvoff : ringOff (u.setPort i 0).reparent = true := (hv.ringOff (ercfg_notMem_portRegs i)).trans huoff
  have hlater := ((Touched.refl [oPTBSTAT, oERLOST] (31 + i) (u.setPort i 0)).reparent (by simp)).ringRec hvoff { cls := 6, code := 6, info := i }
    (by simp)
  refine ⟨_, ?_, ?_, (hlater.regs.portState (gpctl_notMem_rest i)).trans (u.portState_setPort i 0)⟩
  · rw [hexec, exec_portLightLoss hi hu1]
    exact State.out_next ((hv.ringRec hvoff _ (erlost_mem_portRegs i)).stop.trans hustop)
  · rw [State.liveLanes_port, hlater.regs.cpw (ptbstat_erlost_apart (by omega)), portStat_port, State.fld_setPort_down]

/-- A lane that the part has is found again (R519). -/
theorem laneRetrain_local (hstop : s.stop = none) (hp : p < 31) (hl : lane < 8) (hpart : (s.part.llanes.getD p 0).getLsbD lane = true)
    (hout : (s.cpw (portStat p)).testBit (8 + lane) = false) :
    ∃ t, exec (.laneRetrain p lane) s = .next t ∧ OneReg (portStat p) s t ∧ t.liveLanes p = s.liveLanes p + 1 ∧ t.linkUp p = true := by
  generalize hw : (s.cpw (portStat p) + 2 ^ (8 + lane)) ||| 1 = w
  have hbit (k : Nat) : w.testBit k = ((s.cpw (portStat p)).testBit k || decide (k = 8 + lane) || decide (k = 0)) := by
    have hone : (1 : Nat).testBit k = decide (k = 0) := by cases k <;> simp [Nat.testBit_add_one]
    rw [← hw, Nat.testBit_or, testBit_add_two_pow hout, hone]
  have hlt : w < 2 ^ 64 := by
    refine Nat.lt_pow_two_of_testBit _ fun k hk => ?_
    rw [hbit, Nat.testBit_eq_false_of_lt ((s.cpw_lt _).trans_le (Nat.pow_le_pow_right (by decide) hk))]
    simp
    omega
  have hstat : (s.setCpw (portStat p) w).cpw (portStat p) = w := (State.cpw_setCpw _ _ _).trans (Nat.mod_eq_of_lt hlt)
  refine ⟨s.setCpw (portStat p) w, ?_, ⟨rfl, regsBut_setCpw s w (by simp)⟩, ?_, ?_⟩
  · show execLaneRetrain p lane s = _
    simp only [execLaneRetrain, hp, hl, hpart, hout, if_true, decide_true, Bool.true_and, Bool.not_false, hw]
    exact State.out_next hstop
  · rw [State.liveLanes_local _ hp, State.liveLanes_local _ hp, hstat]
    refine (popN_add_one hl ?_ fun k hk => ?_).symm
    · rw [testBit_fld, hbit]
      simp [hl, Nat.add_comm]
    · rw [testBit_fld, testBit_fld, hbit]
      by_cases hkl : k = lane
      · simp [hkl, Nat.add_comm lane, hout]
      · simp [hkl, show k + 8 ≠ 8 + lane by omega]
  · rw [State.linkUp_eq _ hp, hstat, hbit]
    simp

/-- A wavelength that the part has is found again (R519; log entry 97). -/
theorem laneRetrain_port (hstop : s.stop = none) (hlive : s.portLive (31 + i) = true) (hless : s.liveLanes (31 + i) < s.part.wlmin)
    (hmax : s.part.wlmin < 256) (lane : Nat) :
    ∃ t, exec (.laneRetrain (31 + i) lane) s = .next t ∧ OneReg (oGPSTAT + 8 * i) s t ∧ t.liveLanes (31 + i) = s.liveLanes (31 + i) + 1 := by
  rw [← portStat_port]
  refine ⟨s.setCpw (portStat (31 + i)) (s.cpw (portStat (31 + i)) + 1), ?_, ⟨rfl, regsBut_setCpw s _ (by simp)⟩, ?_⟩
  · rw [State.liveLanes_port] at hless
    show execLaneRetrain (31 + i) lane s = _
    simp only [execLaneRetrain, show ¬31 + i < 31 by omega, hlive, hless, if_false, if_true, decide_true, Bool.true_and]
    exact State.out_next hstop
  · have hw := s.cpw_lt (portStat (31 + i))
    rw [State.liveLanes_port, fld] at hless
    rw [State.liveLanes_port, State.liveLanes_port, State.cpw_setCpw, fld, fld]
    omega

end

end Sys2Proof.Machine
end

section
namespace Sys2Proof.Machine

section
variable {s : State} {p i : Nat} {f : Flit}

/-- A flit whose CRC fails is counted and timed, whichever receives it, and nothing else is taken from it (R518). -/
theorem receive_bad (hstop : s.stop = none) (hp : p < s.ports.length) (hlive : s.portLive p = true) (hcrc : Flit.crcOk f = false)
    (hfew : (s.port p).crcs.length < 999) :
    ∃ t, exec (.flitReceive p f) s = .next t ∧ t = { s with cp := t.cp, ports := t.ports } ∧ RegsBut [portStat p] s t
      ∧ fld (t.cpw (portStat p)) 63 48 = min 65535 (fld (s.cpw (portStat p)) 63 48 + 1)
      ∧ exec (.resyncReceive p f) s = .next t
      ∧ t.port p = { s.port p with crcs := s.ptb :: (s.port p).crcs.filter (fun x => decide (s.ptb < x + 1000000)) } ∧ ∀ j, j ≠ p → t.port j = s.port j := by
  have hcount := Touched.countStat s p 63 48 1
  have ht := hcount.updPort (fun q => { q with crcs := s.ptb :: q.crcs.filter (fun x => decide (s.ptb < x + 1000000)) })
  have hbad := State.badFlit_eq hp hfew
  rw [← hbad] at ht
  refine ⟨s.badFlit p, ?_, ht.rest, ht.regs, ?_, ?_, ?_, ht.port⟩
  · rw [exec_flitReceive_bad hlive hcrc, State.out_next (ht.stop.trans hstop)]
  · rw [hbad, State.cpw_updPort]
    exact s.fld_countStat p 48 1 (by decide)
  · rw [exec_resyncReceive_bad hlive hcrc, State.out_next (ht.stop.trans hstop)]
  · rw [hbad, State.port_updPort_self _ (by rwa [hcount.len]), State.port_countStat]

theorem Flit.pair_lt {f : Flit} (h : Flit.hop f ≤ 4) : Flit.pair f < 20 := by
  have hcls : Flit.cls f < 4 := Nat.mod_lt _ (by decide)
  rw [Flit.pair]
  omega

/-- The totals of a port that has taken the one flit of a packet (R219). -/
theorem Port.getD_tookFlit (q : Port) (held : Nat) (rest : List (Nat × List Byte × Nat)) (now : Nat) (hr : Flit.pair f < q.rcvd.length)
    (hf : Flit.pair f < q.freed.length) :
    (q.tookFlit f now held rest).rcvd.getD (Flit.pair f) 0 = (q.rcvd.getD (Flit.pair f) 0 + 1) % 2 ^ 16
    ∧ (q.tookFlit f now held rest).freed.getD (Flit.pair f) 0 = (q.freed.getD (Flit.pair f) 0 + 1 + held) % 2 ^ 16 := by
  obtain ⟨-, -, hrcvd, hfreed⟩ := Port.tookFlit_eq f now held rest q
  rw [hrcvd, hfreed, modNth_getD, if_pos ⟨rfl, hr⟩, modNth_getD, if_pos ⟨rfl, by rwa [modNth_length]⟩, modNth_getD, if_pos ⟨rfl, hf⟩]
  exact ⟨rfl, by omega⟩

/-- The places of an audit group are those that the flit's group number leaves within the 20 pairs (R520). -/
theorem mem_auditPlaces {g j : Nat} : j ∈ auditPlaces g ↔ j < 7 ∧ g < 3 ∧ 7 * g + j < 20 := by
  simp [auditPlaces]

/-- The pairs that a resynchronisation flit names count as received what was sent, and the slots of what was lost are free (R520). -/
theorem Port.resynced_of_mem {q : Port} {body : List Byte} {j : Nat} (hr : q.rcvd.length = 20) (hf : q.freed.length = 20)
    (hj : j ∈ auditPlaces (body.getD 1 0).toNat) :
    (Port.resynced q body q).rcvd.getD (7 * (body.getD 1 0).toNat + j) 0 = resyncWord body (42 + 2 * j)
    ∧ (Port.resynced q body q).freed.getD (7 * (body.getD 1 0).toNat + j) 0
      = (q.freed.getD (7 * (body.getD 1 0).toNat + j) 0 + q.lostOf body j) % 2 ^ 16 := by
  obtain ⟨-, -, h20⟩ := mem_auditPlaces.mp hj
  exact Port.recount_of_mem _ _ (List.nodup_range.filter _) hj (q := { q with ret := _ }) (by rwa [hr]) (by rwa [hf])

theorem Port.resynced_other (q : Port) {body : List Byte} {k : Nat} (hk : ∀ j ∈ auditPlaces (body.getD 1 0).toNat, k ≠ 7 * (body.getD 1 0).toNat + j) :
    (Port.resynced q body q).rcvd.getD k 0 = q.rcvd.getD k 0 ∧ (Port.resynced q body q).freed.getD k 0 = q.freed.getD k 0 :=
  Port.recount_other _ _ hk { q with ret := _ }

/-- Lost flits of a group are counted in AUDIT, and their slots are free (R520). -/
theorem resync_lost_spec (hp : p < s.ports.length) (hp95 : p < 95) {body : List Byte} (hq : (s.port p).queue = [])
    (hall : (s.port p).lostAll body ≠ 0) (hoff : ringOff s = true) :
    let t := s.resync p body
    t = { s with cp := t.cp, rate := t.rate, ports := t.ports } ∧ RegsBut [portStat p, oERLOST] s t
    ∧ t.port p = Port.resynced (s.port p) body (s.port p) ∧ (∀ j, j ≠ p → t.port j = s.port j)
    ∧ fld (t.cpw (portStat p)) 47 32 = min 65535 (fld (s.cpw (portStat p)) 47 32 + (s.port p).lostAll body)
    ∧ Counted 6 (if s.rateDue (0x6030000 + p) then 1 else 0) s t := by
  have hu := s.audited_touched p body
  have hport := State.port_audited hp body
  have hstat : fld ((s.audited p body).cpw (portStat p)) 47 32 = min 65535 (fld (s.cpw (portStat p)) 47 32 + (s.port p).lostAll body) := by
    have h := State.fld_countStat (s.updPort p ((s.port p).resynced body)) p 32 ((s.port p).lostAll body) (by decide)
    rwa [State.cpw_updPort] at h
  have huoff : ringOff (s.audited p body) = true :=
    (hu.ringOff (List.forall_mem_singleton.mpr (portStat_apart hp95).2.symm)).trans hoff
  obtain ⟨r, h6, hres⟩ := State.resync_lost hp hq hall huoff
  have hrec := State.rateRec_counted huoff (0x6030000 + p) (r := r) (by omega) (by omega)
  rw [← hres, h6] at hrec
  obtain ⟨hrest, hregs, hcount, hports⟩ := hrec
  have hlost : (s.audited p body).cpw oERLOST = s.cpw oERLOST := hu.regs.cpw (List.forall_mem_singleton.mpr (portStat_apart hp95).1.symm)
  have hdue : (s.audited p body).rateDue (0x6030000 + p) = s.rateDue (0x6030000 + p) :=
    State.rateDue_congr (by rw [hu.rest]) (by rw [hu.rest]) _
  intro t
  refine ⟨?_, ?_, (hports p).trans hport, fun j hj => (hports j).trans (hu.port j hj), ?_, ?_⟩
  · have hps : t.ports = (s.audited p body).ports := by rw [show t = _ from hrest]
    refine hrest.trans ?_
    rw [hps, hu.rest]
  · intro k hk
    obtain ⟨hk1, hk2⟩ := List.forall_mem_cons.mp hk
    exact (hregs k hk2).trans (hu.regs k (List.forall_mem_singleton.mpr hk1))
  · rw [hregs.cpw (List.forall_mem_singleton.mpr (portStat_apart hp95).1), hstat]
  · rwa [Counted, hlost, hdue] at hcount

end

/-- Settles O53: a flit that fails its CRC (receive_bad), one that is a whole packet (exec_flitReceive_whole), resynchronisation (resync_lost_spec),
the events of a port (PortGoes), and lanes and wavelengths (State.relit_spec). -/
theorem links : Obligations.Links := by
  unfold Obligations.Links
  intro s i hstop hlen
  refine ⟨fun p f hp hlive hcrc hfew => receive_bad hstop (by omega) hlive hcrc hfew, ?_, ?_, ?_, ?_, ?_, ?_, ?_⟩
  · intro p f hp hlive hcrc hkind hidx hlast hhop hdst hq hr hf
    obtain ⟨t, held, rest, hrun, hrest, hheld, ret, hport, hret⟩ :=
      exec_flitReceive_whole hstop (by omega) hlive hcrc hkind hidx hlast hhop hdst hq
    have hpair := Flit.pair_lt hhop
    obtain ⟨hrcvd, hfreed⟩ := Port.getD_tookFlit (f := f) { s.port p with ret := ret } held rest s.ptb (by rwa [hr]) (by rwa [hf])
    refine ⟨t, hrun, hrest, by rw [hport, hrcvd], by rw [hport, hfreed, hheld]; rfl, fun hin h20 => ?_⟩
    rw [hport, (Port.tookFlit_eq _ _ _ _ _).2.1, hret h20, getD_setNth, if_pos ⟨rfl, hin⟩]
  · intro p hp hlive hridx hfreed
    obtain ⟨t, hrun, hrest, haudit⟩ := exec_resyncTimer hstop (by omega) hlive
    exact ⟨t, _, hrun, hrest, Port.resyncFlit_link _, Port.resyncFlit_body _, haudit,
      Port.sealFlit_crcOk _ _ hridx (getD_lt_of_forall (by decide) hfreed _)⟩
  · intro p f hp hlive hcrc hkind hbody hq hsame
    have hall : (s.port p).lostAll f.body = 0 := by
      refine Port.lostAll_eq_zero fun j hj => ?_
      obtain ⟨h7, -, h20⟩ := mem_auditPlaces.mp hj
      exact hsame j h7 h20
    have hrun := exec_resyncReceive hlive hcrc hkind hbody
    rw [State.resync_whole (by omega) hq hall] at hrun
    have ht := (Touched.refl [] p s).updPort ((s.port p).resynced f.body)
    refine ⟨_, hrun.trans (State.out_next (ht.stop.trans hstop)), rfl, ?_, ht.port⟩
    rw [State.port_updPort_self _ (by omega), (Port.resynced_eq _ _ _).2]
    rfl
  · intro p f g q sent lost js all hp hlive hcrc hkind hbody hq hg hoff hr hf hall
    have hjs : js = auditPlaces g := by simp [js, auditPlaces, hg]
    have hlostAll : (s.port p).lostAll f.body = all := by
      show (auditPlaces g).foldl _ 0 = js.foldl _ 0
      rw [hjs]
      rfl
    have hrun := exec_resyncReceive hlive hcrc hkind hbody
    obtain ⟨hrest, hregs, hport, hother, hstat, hcount⟩ := resync_lost_spec (by omega) hp hq (hlostAll ▸ hall) hoff
    have hqueue : ((s.resync p f.body).port p).queue = [] := by rw [hport, (Port.resynced_eq _ _ _).1, hq]
    have hnext : (s.resync p f.body).out = .next (s.resync p f.body) := State.out_next (by rw [hrest, hstop])
    refine ⟨_, hrun.trans hnext, hrest, fun h20 => (exec_flitReceive_resync hlive hcrc hkind hbody h20 hqueue).trans hnext, hregs, fun j hj => ?_,
      fun k hk => ?_, ?_, hother, hlostAll ▸ hstat, ?_⟩
    · rw [hport]
      exact Port.resynced_of_mem hr hf (hjs ▸ hj)
    · rw [hport]
      exact Port.resynced_other _ (hjs ▸ hk)
    · rw [hport, (Port.resynced_eq _ _ _).2]
      rfl
    · cases hx : s.rate.find? (fun x => x.1 == 0x6030000 + p) with
      | none => rwa [State.rateDue_none hx] at hcount
      | some x =>
        rw [State.rateDue_some hx] at hcount
        by_cases hsoon : s.ptb < x.2 + 1000000 <;> simpa [hsoon] using hcount
  · intro hi q passing goes
    have hp : 31 + i < s.ports.length := by omega
    refine ⟨fun h2 => ⟨exec_drainMarkerSend hstop hi hp h2, (drainMarkerReceive_drain hstop hi hp h2).next, fun hm hf hlate hoff hpass =>
        (drainMarkerTimeout_goes hstop hoff hi h2 hm hf hlate hpass).next⟩,
      fun h1 => ⟨fun hoff => (portLightLoss_goes hstop hoff hi h1).next, exec_drainMarkerReceive_up hstop hi h1⟩,
      fun h3 => ⟨fun hpass far fport => (portLightReturn_goes hstop hi h3 hpass far fport).next, fun hlate hoff =>
        (darkTimeout_goes hstop hoff hi h3 hlate).next⟩,
      fun h4 => ⟨?_, fun hlate hoff => (relockTimeout_goes hstop hoff hi h4 hlate).next⟩,
      fun h0 => ⟨fun hpass hpart far fport => (portDownRetrain_goes hstop hi h0 hpass hpart far fport).next, rfl⟩⟩
    obtain ⟨t, rest, hrun, hst, houts, hregs⟩ := exec_portRelockComplete hstop hlen hi h4
    exact ⟨t, _, rest, hrun, hst, houts, Port.resyncFlit_link _, rfl, hregs⟩
  · exact fun p lane hp hl => ⟨fun hon hoff => laneLoss_local hstop hoff hp hl hon, fun hpart hout => laneRetrain_local hstop hp hl hpart hout⟩
  · intro lane hi hoff
    have hlive : s.liveLanes (31 + i) = fld (s.cpw (oGPSTAT + 8 * i)) 7 0 := by rw [State.liveLanes_port, portStat_port]
    rw [← hlive]
    exact ⟨fun hon => laneLoss_port hstop hoff hi hon lane, fun hon h1 => laneLoss_last hstop hoff hi hon h1 lane,
      fun hport hless hmax => laneRetrain_port hstop hport hless hmax lane⟩

end Sys2Proof.Machine
end

section
namespace Sys2Proof.Machine

/-! ### Acknowledgements free the slot of a flit that came by a port beyond the 95 (R213, R219, R247) -/

theorem extraPort_noDark : extraPort.noDark = true := by
  have h := extraPort_accepts
  simp only [State.accepts, Bool.and_eq_true] at h
  tauto

/-- The EPOCH of package 1 that begins its numbers at 0. -/
def firstEpoch : Packet :=
  { gen := 0, psn := 0, src := 1, dst := 0, cls := 2, vgrp := 0, val := false, opc := 0x24, tag := 0, addr := 0, pay := [] }

/-- The package once it has set the window of package 1 and has answered (R522). -/
def windowSet : State := (extraPort.updSrc 1 (fun x => { x with low := some 0, slid := 0, done := [] })).sendSack 1 0

theorem exec_firstEpoch : exec (.epoch firstEpoch) extraPort = windowSet.out := by
  show execEpoch firstEpoch extraPort = _
  rw [execEpoch, if_neg (by decide)]
  rfl

/-- The package with the extra port, which has performed the claim of package 1 before. -/
def claimedBefore : State := { extraPort with srcs := [{ src := 1, done := [0] }] }

/-- A packet that has been performed is only reported again (R224). -/
theorem exec_claim_again : exec (.claim lateClaim) claimedBefore = (claimedBefore.sendSack 1 0).out := by
  show execClaim lateClaim claimedBefore = _
  rw [execClaim, State.receive, State.receiveIf]
  rfl

/-- The package with the extra port and key 0, which has performed all but the first of 16 packets of package 1 of one block, and not acknowledged
them. -/
def unreported : State := { extraPort with keys := [(0, 1)], srcs := [{ src := 1, fresh := [(0, 2 ^ 16 - 2, 0)] }] }

/-- A write to the first sector by package 1, which names no byte of it. -/
def emptyWrite : Packet :=
  { gen := 0, psn := 0, src := 1, dst := 0, cls := 0, vgrp := 0, val := false, opc := 0x02, tag := 0, addr := 0, pay := List.replicate 72 0 }

theorem unreported_accepts : unreported.accepts emptyWrite = true := extraPort_accepts

/-- The write leaves no byte other than it was, and is performed (R228). -/
theorem exec_emptyWrite : exec (.wr emptyWrite) unreported = (unreported.performed 1 0).out := by
  have hruns : maskRuns (Packet.word emptyWrite 0) 64 0 = [] := by decide
  show execWr emptyWrite unreported = _
  rw [execWr, State.receive_of_accepts _ unreported_accepts]
  simp only [State.mixRuns, hruns, List.foldl_nil]
  rfl

/-- The empty answer of package 1 to a claim on its deque 0. -/
def emptyAnswer : Packet :=
  { gen := 0, psn := 0, src := 1, dst := 0, cls := 1, vgrp := 0, val := false, opc := 0x12, tag := 0, addr := 0x8000000000000000, pay := [] }

/-- The request of the claim, for lane 0. -/
def claimReq : Req := { tag := 0, dst := 1, pa := 0, lanes := [⟨0, 0, 4, false⟩] }

/-- The claim, which fills v0. -/
def claimOp : Op := { id := 0, kind := .claim 0 1, fills := [⟨true, 0, []⟩], reqs := [claimReq], w := true }

/-- The same package, on whose core 0 a warp waits for the answer of its claim. -/
def claiming : State := { unreported with cores := [{ warps := [{ emptyWarp with place := some (0, 0), ops := [claimOp] }] }] }

theorem claiming_accepts : claiming.accepts emptyAnswer = true := extraPort_accepts

theorem claiming_waits : Waits emptyAnswer 0 0 0 claimOp claimReq claiming where
  found := by decide
  req := by decide
  fill := by decide
  lanes := by decide

/-- The package once the claim has its answer and the packet is performed (R240, R224). -/
def claimAnswered : State :=
  (claiming.answerOp 0 0 0 claimOp (fun r => r.tag == 0 && r.dst == 1) [(0, 1)] none).performed 1 0

theorem exec_emptyAnswer : exec (.claimr emptyAnswer) claiming = claimAnswered.out := by
  have hfound : claiming.waiting emptyAnswer.src.toNat emptyAnswer.tag.toNat = some (0, 0, 0, claimOp) := claiming_waits.found
  have hempty : emptyAnswer.addr.toNat.testBit 63 = true := by decide
  show execClaimr emptyAnswer claiming = _
  rw [execClaimr, State.receive_of_accepts _ claiming_accepts]
  simp only [hfound, hempty, if_true]
  rfl

/-- With whatever goes to package 1 the stray flit goes out, and the port that it came by goes dark: that is written over GPSTAT. -/
theorem sent_dark : ∀ t ∈ [windowSet, claimedBefore.sendSack 1 0, unreported.performed 1 0, claimAnswered], t.cpw oGPSTAT = 3 := by decide +kernel

/-- Refutes O54, in its clause on the first EPOCH of a source, as O57 is refuted: it says that only what sending moves differs, and the SACK that
answers the EPOCH changes GPSTAT, where the list of ports has a 96th entry. -/
theorem not_endToEnd : ¬ Obligations.EndToEnd := by
  unfold Obligations.EndToEnd
  intro h
  obtain ⟨-, -, -, hepoch, -⟩ := h extraPort rfl extraPort_noDark
  obtain ⟨t, hrun, -, -, hrest⟩ := hepoch firstEpoch rfl rfl
  have ht : t = windowSet := State.eq_of_out_next (exec_firstEpoch.symm.trans hrun)
  have hcp : t.cpw oGPSTAT = extraPort.cpw oGPSTAT := by rw [hrest]; rfl
  rw [ht, sent_dark _ (.head _)] at hcp
  exact absurd hcp (by decide)

/-- Refutes O55, in its clause on a packet that has been performed, as O57 is refuted: the SACK that reports it again changes GPSTAT. -/
theorem not_packetsOnce : ¬ Obligations.PacketsOnce := by
  unfold Obligations.PacketsOnce
  intro h
  obtain ⟨-, -, -, htaken⟩ := h (.claim lateClaim) lateClaim claimedBefore rfl extraPort_noDark (by simp)
  obtain ⟨hagain, -⟩ := htaken rfl rfl (.inl rfl)
  obtain ⟨t, hrun, -, hrest⟩ := hagain (by decide)
  have ht : t = claimedBefore.sendSack 1 0 := State.eq_of_out_next (exec_claim_again.symm.trans hrun)
  have hcp : t.cpw oGPSTAT = claimedBefore.cpw oGPSTAT := by rw [hrest]; rfl
  rw [ht, sent_dark _ (.tail _ (.head _))] at hcp
  exact absurd hcp (by decide)

/-- Refutes O56, in its clause on WR, as O57 is refuted: it says that beside memory only what sending moves differs, and the acknowledgement that
the write brings about changes GPSTAT. -/
theorem not_memoryRequests : ¬ Obligations.MemoryRequests := by
  unfold Obligations.MemoryRequests
  intro h
  obtain ⟨-, hwr, -⟩ := h emptyWrite unreported unreported_accepts rfl rfl
  obtain ⟨t, hrun, -, -, htook⟩ := hwr (by decide) (by decide) rfl
  have ht : t = unreported.performed 1 0 := State.eq_of_out_next (exec_emptyWrite.symm.trans hrun)
  have hcp : t.cpw oGPSTAT = unreported.cpw oGPSTAT := by rw [htook.rest]; rfl
  rw [ht, sent_dark _ (.tail _ (.tail _ (.head _)))] at hcp
  exact absurd hcp (by decide)

/-- Refutes O58, in its clause on the empty answer to a claim, as O57 is refuted: it says that beside the warp only what sending moves differs, and
the acknowledgement that the answer brings about changes GPSTAT. -/
theorem not_replies : ¬ Obligations.Replies := by
  unfold Obligations.Replies
  intro h
  obtain ⟨hwaits, -⟩ := h emptyAnswer claiming 0 0 0 claimOp claimReq claiming_accepts (by decide) (.inl (by decide))
  obtain ⟨-, -, hempty, -⟩ := hwaits claiming_waits
  obtain ⟨t, hrun, -, htook, -⟩ := hempty (by decide)
  have ht : t = claimAnswered := State.eq_of_out_next (exec_emptyAnswer.symm.trans hrun)
  have hcp : t.cpw oGPSTAT = claiming.cpw oGPSTAT := by rw [htook.rest]; rfl
  rw [ht, sent_dark _ (.tail _ (.tail _ (.tail _ (.head _))))] at hcp
  exact absurd hcp (by decide)

end Sys2Proof.Machine
end

section
namespace Sys2Proof.Machine

/-! ### What the agenda names (R255, R258, R262, R267), and the machine after reset (R269, R281) -/

/-- With an agenda, a step performs its head after its delay. -/
theorem step_of_agenda {s : State} {dt : Nat} {a : Act} {rest : List (Nat × Act)} (h : s.agenda = (dt, a) :: rest) :
    step s = perform a (({ s with agenda := rest } : State).elapse dt) := by
  simp only [step, h]

/-- Settles O4: a step performs the head of the agenda, and each kind of entry names one instruction, or the completion record of a grid. -/
theorem stepRunsOthers : Obligations.StepRunsOthers := by
  unfold Obligations.StepRunsOthers
  intro s dt rest s0
  refine ⟨fun n i hag hs hword => ?hart, fun i hag hcmd => ?command, fun p i hag hp => ?packet, fun i hag => ?occur, fun g hag => ?completion⟩
  all_goals rw [step_of_agenda hag]
  case hart =>
    show hartTurn n s0 = _
    simp only [hartTurn, hs, hword, Bool.false_eq_true, if_false]
  case command =>
    show (match s0.nextCommand with | some i => exec i s0 | none => .next s0) = _
    rw [hcmd]
  case packet =>
    show (match p.instr with | some i => exec i s0 | none => .next s0) = _
    rw [hp]
  case occur => rfl
  case completion => rfl

/-- Settles O9: the reset state is written out field by field. -/
theorem resetValues : Obligations.ResetValues := by
  have hcore (c : Nat) : State.reset.core c = {} := by
    simp only [State.core, State.reset, List.getD_eq_getElem?_getD, List.getElem?_replicate]
    split <;> rfl
  have hhart (n : Nat) : State.reset.hart n = {} := by
    simp only [State.hart, State.reset, List.getD_eq_getElem?_getD, List.getElem?_replicate]
    split <;> rfl
  have hget (r : BitVec 5) : ({} : Hart).get r = 0 := by
    simp only [Hart.get, List.getD_eq_getElem?_getD, List.getElem?_replicate]
    split
    · rfl
    · split <;> rfl
  have hmeas (i : Nat) (hi : i < 8) : State.reset.meas[i]? = some (List.replicate 64 0) := by
    simp only [State.reset, List.getElem?_replicate, hi, if_true]
  have hcores : State.reset.cores.length = 320 := List.length_replicate
  exact ⟨fun _ => rfl, hmeas, hcores, fun c => by rw [hcore]; exact ⟨rfl, rfl, rfl⟩, fun n r => by rw [hhart, hget], rfl, rfl, rfl, rfl, rfl⟩

end Sys2Proof.Machine
end

section
namespace Sys2Proof.Machine

/-! ### A port that goes to DRAIN, and the flits that its packets send before them (R246, R247, R250) -/

/-- A packet of this package to package 1. -/
def waitingClaim : Packet :=
  { gen := 0, psn := 0, src := 0, dst := 1, cls := 0, vgrp := 0, val := false, opc := 0x07, tag := 0, addr := 0, pay := [] }

/-- The package with the extra port, whose first global port is UP and has queued the packet. -/
def extraPortUp : State :=
  (extraPort.setCpw oGPCTL 1).updPort 31 (fun q => { q with queue := (flitsOf waitingClaim 0).map (fun f => (Flit.pair f, f, none)) })

/-- The packet is routed again over the link to package 1, the stray flit goes out before it, and the port that it came by goes dark: that is written
over GPSTAT. -/
theorem gpctlStore_dark : (extraPortUp.gpctlStore 0 2).cpw oGPSTAT = 3 := by decide +kernel

theorem exec_gpctlWrite_extraPortUp : exec (.gpctlWrite 0 2) extraPortUp = (extraPortUp.gpctlStore 0 2).out := rfl

/-- Refutes O40, in its clause on a port that goes to DRAIN, as O57 is refuted: noDark speaks of the 95 ports alone (R213). Where the list of ports
has one more, a flit that came by it lets the packets that are routed again change a register besides GPCTL and PTBSTAT. -/
theorem not_registerWrites : ¬ Obligations.RegisterWrites := by
  unfold Obligations.RegisterWrites
  rintro ⟨-, h⟩
  obtain ⟨-, -, -, hports, -⟩ := h extraPortUp 2 rfl rfl
  obtain ⟨hdrain, -⟩ := hports 0 (by decide)
  obtain ⟨t, hrun, -, -, -, hregs, -⟩ := hdrain (by decide +kernel) (by decide)
  have ht : t = extraPortUp.gpctlStore 0 2 := State.eq_of_out_next (exec_gpctlWrite_extraPortUp.symm.trans hrun)
  have hcp : t.cpw oGPSTAT = extraPortUp.cpw oGPSTAT := congrArg BitVec.toNat (hregs (by decide +kernel) (oGPSTAT / 8) (by decide))
  rw [ht, gpctlStore_dark] at hcp
  exact absurd hcp (by decide +kernel)

end Sys2Proof.Machine
end

section
namespace Sys2Proof.Machine

/-! ### A monitor entry of a device number beyond 15 bits (R18, R127, R484) -/

/-- An entry of device 2^15, whose number has no place in a packet. -/
def farMon : Mon :=
  { pa := 0, opnd := 0, maskv := 0, dline := 0, dev := 2 ^ 15, core := 0, wix := 0, gen := 0, cmp := .eq, dw := false, sc := .sy, st := .armed }

/-- A package whose one monitor entry it is. -/
def farWatched : State := { mons := [farMon] }

/-- The package after an error in the entry. -/
def farLost : State := ((farWatched.fireMon farMon false).ringRec { cls := 3, code := 6, gen := 0, va := 0 }).monRefillAll

theorem exec_farLost : exec (.arrayUncorrectableError (.monitor 0 0)) farWatched = farLost.out := by
  have hm : (farWatched.mons.filter (fun m => farWatched.homeSlice (locOf m.pa) == 0 && m.st != .deferred))[0]? = some farMon := by decide +kernel
  show (farWatched.arrayMon 0 0).out = _
  rw [State.arrayMon, hm]
  rfl

/-- The wake goes to the device of the low 15 bits, which is this package, so nothing is on its way to device 2^15. -/
theorem farLost_queued : (farLost.dest (2 ^ 15)).queued = [] := by decide +kernel

/-- Refutes O46, in its clause on a monitor entry of another package: nothing there says that its device number has 15 bits (R18), and the WAKE packet
has no more for its destination. -/
theorem not_upkeep : ¬ Obligations.Upkeep := by
  unfold Obligations.Upkeep
  intro h
  obtain ⟨-, -, -, -, -, -, -, -, -, hmonitor, -⟩ := h farWatched rfl
  obtain ⟨-, hfar⟩ := hmonitor 0 0 farMon (by decide +kernel) (by decide +kernel) (by decide +kernel)
  obtain ⟨t, hrun, -, -, -, -, hqueued⟩ := hfar (by decide) rfl (by decide +kernel) (by decide +kernel)
  have ht : t = farLost := State.eq_of_out_next (exec_farLost.symm.trans hrun)
  rw [Queued, ht] at hqueued
  exact absurd (farLost_queued.symm.trans hqueued) (by simp)

end Sys2Proof.Machine
end

section
namespace Sys2Proof.Machine

/-! ### Two tills of one key (R75, R76, R253) -/

/-- A deposit of two records for the node whose descriptor lies at 0. -/
def twoRecords : Dep := { page := 0, data := leBytes 8 0 ++ leBytes 8 2 ++ List.replicate 112 0, at_ := 0 }

/-- Generation 1 runs on core 0 with node 0, for which there are two tills on the die; page 0 is its own, with one deposit. It has a
spill area of 1,024 places at 0x1000. The 90 tills of another generation hold all but two of the records that the die has room for. -/
def twinTills : State :=
  { cp := [(0x80 / 8, 1), (oDPCFG / 8, 2 ^ 48), (oTSPILL / 8, 2 ^ 12 + 1), (oTSPILL / 8 + 1, 2 ^ 48 + 10 * 2 ^ 32), (oGTAB / 8, 2 ^ 48 + 1)]
    mem := [(0, 1)]
    keys := [(0, 1)]
    cores := [{ gen := 1 }]
    nodes := [{ gen := 1, nid := 0, desc := [] }]
    tills := (List.range 90).map (fun i => { gen := 2, nid := i, die := 0, recs := List.replicate 91 { bytes := [] } })
      ++ List.replicate 2 { gen := 1, nid := 0, die := 0 }
    depQ := [twoRecords] }

/-- The node of the deposit. -/
def twinNode : NodeReg := { gen := 1, nid := 0, desc := [] }

theorem twinTills_dies : twinTills.servingDies 1 = [0] := by decide +kernel

theorem twinTills_room : twinTills.tillRoom 1 0 2 = true := by decide +kernel

/-- The first record enters both tills and fills the die; the second goes to the spill area, which is written (R76, R486). -/
theorem twinTills_spilled {t : State} (h : exec .depositToRecords twinTills = .next t) : t.undo.length = 1 := by
  have hrun : (match exec .depositToRecords twinTills with | .next t => t.undo.length | _ => 0) = 1 := by decide +kernel
  rwa [h] at hrun

/-- Refutes O43, in its clause on a deposit that becomes records: nothing there says that no two tills have one key. Where two have, each record
takes the room of two, so that room for the records of the deposit does not keep them from the spill area. -/
theorem not_depositsBecomeRecords : ¬ Obligations.DepositsBecomeRecords := by
  unfold Obligations.DepositsBecomeRecords
  intro h
  obtain ⟨hdeposit, -⟩ := h twinTills twoRecords rfl (by decide +kernel)
  obtain ⟨hrecords, -⟩ := hdeposit (by decide +kernel) (by decide) (by decide +kernel)
  have hgen : fld (twinTills.cpw (oDPCFG + 8 * twoRecords.page)) 63 48 = 1 := by decide +kernel
  have hcount : fld (depWord twoRecords.data 1) 23 0 = 2 := by decide +kernel
  rw [hgen, hcount, twinTills_dies] at hrecords
  obtain ⟨t, hrun, -, -, -, -, -, hrest⟩ := hrecords twinNode (by decide +kernel) (by decide +kernel) (by decide)
    (fun e he => by rw [List.mem_singleton.mp he]; exact twinTills_room)
  have hnone : t.undo = [] := by rw [hrest]; rfl
  have hone := twinTills_spilled hrun
  rw [hnone] at hone
  exact absurd hone (by decide)

end Sys2Proof.Machine
end

section
namespace Sys2Proof.Machine

/-! ### The steps of a bring-up (R263, R277, R280 to R282) -/

/-- The enabled lanes of a local link as its LLSTAT shows them once the link is trained. -/
def laneWord (b : Byte) : Nat := b.toNat * 2 ^ 8 + (if b = 0 then 0 else 1)

theorem laneWord_lt (b : Byte) : laneWord b < 2 ^ 64 := by
  have := b.isLt
  unfold laneWord
  split <;> omega

theorem fld_laneWord (b : Byte) : fld (laneWord b) 15 8 = b.toNat := by
  have := b.isLt
  unfold fld laneWord
  split <;> omega

theorem testBit_laneWord (b : Byte) : (laneWord b).testBit 0 = decide (b.toNat ≠ 0) := by
  have hb : b = 0 ↔ b.toNat = 0 := BitVec.toNat_inj.symm
  simp only [laneWord, Nat.testBit_zero, hb, decide_eq_decide]
  split <;> omega

/-- One link is trained. -/
def State.trainLink (s : State) (p : Nat × Byte) : State := s.setCpw (oLLSTAT + 8 * p.1) (laneWord p.2)

theorem State.trainLinks_eq (s : State) : s.trainLinks = ((List.range' 0 31).zip s.part.llanes).foldl State.trainLink s := by
  rw [← List.range_eq_range']
  rfl

theorem State.trainLinks_frame (s : State) : s.trainLinks = { s with cp := s.trainLinks.cp } := by
  rw [State.trainLinks_eq]
  exact foldl_keeps (P := fun t : State => t = { s with cp := t.cp }) (fun t p h => by rw [State.trainLink, State.setCpw, h]) _ rfl

/-- Training links from number a on gives each its own lanes, and leaves every other register. -/
theorem State.cpw_foldl_trainLink (off n : Nat) : ∀ (a : Nat) (ls : List Byte) (s : State),
    (((List.range' a n).zip ls).foldl State.trainLink s).cpw off
      = if oLLSTAT / 8 + a ≤ off / 8 ∧ off / 8 < oLLSTAT / 8 + a + min n ls.length then laneWord (ls.getD (off / 8 - (oLLSTAT / 8 + a)) 0)
        else s.cpw off := by
  have hdiv (a : Nat) : (oLLSTAT + 8 * a) / 8 = oLLSTAT / 8 + a := by simp only [oLLSTAT]; omega
  induction n with
  | zero => intro a ls s; simp
  | succ n ih =>
    intro a ls s
    cases ls with
    | nil => simp
    | cons b ls =>
      rw [List.range'_succ, List.zip_cons_cons, List.foldl_cons, ih, List.length_cons]
      by_cases heq : off / 8 = oLLSTAT / 8 + a
      · have hset : (s.trainLink (a, b)).cpw off = laneWord b := by
          rw [State.trainLink, State.cpw, heq, ← hdiv a]
          exact (State.cpw_setCpw _ _ _).trans (Nat.mod_eq_of_lt (laneWord_lt b))
        rw [if_neg (by omega), if_pos (by omega), hset, heq, Nat.sub_self, List.getD_cons_zero]
      · have hkeep : (s.trainLink (a, b)).cpw off = s.cpw off := State.cpw_setCpw_ne _ (by rw [hdiv]; exact heq)
        rw [hkeep]
        by_cases hin : oLLSTAT / 8 + (a + 1) ≤ off / 8 ∧ off / 8 < oLLSTAT / 8 + (a + 1) + min n ls.length
        · rw [if_pos hin, if_pos (by omega), show off / 8 - (oLLSTAT / 8 + a) = off / 8 - (oLLSTAT / 8 + (a + 1)) + 1 by omega, List.getD_cons_succ]
        · rw [if_neg hin, if_neg (by omega)]

/-- LLSTAT j after training, where it was zero. -/
theorem State.cpw_trainLinks_link {s : State} {j : Nat} (hj : j < 31) (h0 : s.cpw (oLLSTAT + 8 * j) = 0) :
    s.trainLinks.cpw (oLLSTAT + 8 * j) = laneWord (s.part.llanes.getD j 0) := by
  have hdiv : (oLLSTAT + 8 * j) / 8 = oLLSTAT / 8 + j := by simp only [oLLSTAT]; omega
  rw [State.trainLinks_eq, State.cpw_foldl_trainLink, hdiv, h0, Nat.add_zero, Nat.add_sub_cancel_left]
  split
  · rfl
  · rw [List.getD_eq_default _ _ (by omega)]
    rfl

theorem State.cpw_trainLinks_other {s : State} {off : Nat} (h : ¬(oLLSTAT ≤ off ∧ off < oLLSTAT + 248)) : s.trainLinks.cpw off = s.cpw off := by
  rw [State.trainLinks_eq, State.cpw_foldl_trainLink, if_neg]
  simp only [oLLSTAT] at *
  omega

/-- M0 to M7 after an image has been verified: one that passes extends its own register. -/
theorem State.meas_measureImage (s : State) (i j : Nat) :
    (s.measureImage i).meas.getD j [] = if Config.genuine i = true ∧ i = j ∧ j < s.meas.length
      then shake256 (s.meas.getD j [] ++ shake256 (Config.bootImage i) 64) 64 else s.meas.getD j [] := by
  unfold State.measureImage
  by_cases hg : Config.genuine i = true
  · rw [if_pos hg]
    simp only [State.measure, modNth_getD, hg, true_and]
  · rw [if_neg hg, if_neg (fun h => hg h.1)]

theorem State.measureImage_frame (s : State) (i : Nat) : s.measureImage i = { s with meas := (s.measureImage i).meas } := by
  unfold State.measureImage
  split <;> rfl

theorem State.measureImage_length (s : State) (i : Nat) : (s.measureImage i).meas.length = s.meas.length := by
  unfold State.measureImage
  split
  · exact modNth_length _ _ _
  · rfl

/-- The images up to number n pass their verification (R280; log entry 79). -/
def verified (n : Nat) : Bool := (List.range n).all Config.genuine

theorem verified_succ (n : Nat) : verified (n + 1) = (verified n && Config.genuine n) := by
  simp only [verified, List.range_succ, List.all_append, List.all_cons, List.all_nil, Bool.and_true]

theorem genuine_of_verified {n i : Nat} (h : verified n = true) (hi : i < n) : Config.genuine i = true :=
  List.all_eq_true.mp h i (List.mem_range.mpr hi)

/-- A package after reset whose security-processor firmware runs: the first three images are measured, and the attestation key has its
certificate (R281, R285). -/
def State.measured (s : State) : State := (((s.afterReset.measureImage 0).measureImage 1).measureImage 2).makeCert

theorem State.measured_frame (s : State) : s.measured = { s.afterReset with meas := s.measured.meas, cert := s.measured.cert } := by
  rw [State.measured, State.measureImage_frame (State.measureImage _ 1), State.measureImage_frame (State.measureImage _ 0),
    State.measureImage_frame s.afterReset]
  rfl

theorem State.measured_meas (s : State) : s.measured.meas = (((s.afterReset.measureImage 0).measureImage 1).measureImage 2).meas := rfl

/-- What a bring-up leaves: the images that it has verified, in their order, say what runs. -/
structure BroughtUp (s t : State) : Prop where
  frame : t = { s.afterReset with
    meas := t.meas, cert := t.cert, keys := t.keys, draws := t.draws, cores := t.cores, cp := t.cp, noCp := t.noCp, noShatus := t.noShatus }
  noCp  : t.noCp = !verified 2
  noShatus : t.noShatus = !verified 3
  keys  : t.keys = if verified 2 then [(0, s.draws + 1)] else []
  cores : t.cores = List.replicate s.nCores { warps := if verified 4 then [supWarp Config.supervisorEntry 0] else [] }
  links : ∀ j, j < 31 → t.cpw (oLLSTAT + 8 * j) = if verified 3 then laneWord (s.part.llanes.getD j 0) else 0
  regs  : ∀ off, ¬(oLLSTAT ≤ off ∧ off < oLLSTAT + 248) → t.cpw off = 0
  meas  : verified 4 = true → ∀ i, i < 4 → t.meas.getD i [] = shake256 (List.replicate 64 0 ++ shake256 (Config.bootImage i) 64) 64
  rest  : ∀ i, 4 ≤ i → i < 8 → t.meas.getD i [] = List.replicate 64 0

theorem State.meas_afterReset (s : State) {i : Nat} (hi : i < 8) : s.afterReset.meas.getD i [] = List.replicate 64 0 := by
  rw [State.afterReset, List.getD_replicate _ hi]

theorem State.measured_rest (s : State) {i : Nat} (h4 : 4 ≤ i) (h8 : i < 8) : s.measured.meas.getD i [] = List.replicate 64 0 := by
  rw [State.measured_meas]
  simp only [State.meas_measureImage]
  rw [if_neg (by omega), if_neg (by omega), if_neg (by omega), State.meas_afterReset s h8]

/-- With an image among the first three that fails, nothing is started and no link is trained. -/
theorem BroughtUp.of_halted {s t : State}
    (hframe : t = { s.afterReset with
      meas := t.meas, cert := t.cert, keys := t.keys, draws := t.draws, noCp := t.noCp, noShatus := t.noShatus })
    (h3 : verified 3 = false) (hcp : t.noCp = !verified 2) (hshatus : t.noShatus = true)
    (hkeys : t.keys = if verified 2 then [(0, s.draws + 1)] else []) (hrest : ∀ i, 4 ≤ i → i < 8 → t.meas.getD i [] = List.replicate 64 0) :
    BroughtUp s t := by
  have h4 : verified 4 = false := by rw [verified_succ, h3, Bool.false_and]
  have hcores : t.cores = s.afterReset.cores := by rw [hframe]
  have hcpRegs : t.cp = s.afterReset.cp := by rw [hframe]
  have hregs (off : Nat) : t.cpw off = 0 := by rw [hframe]; rfl
  exact {
    frame := by rw [hcores, hcpRegs]; exact hframe
    noCp := hcp
    noShatus := by rw [hshatus, h3]; rfl
    keys := hkeys
    cores := by rw [hcores, h4]; rfl
    links := fun j _ => by rw [hregs, h3]; rfl
    regs := fun off _ => hregs off
    meas := fun h => by rw [h4] at h; cases h
    rest := hrest }

/-- The package once the supervisor warps have been started, before its links are trained. -/
def State.supervised (s : State) : State := (s.measured.loadKey 0).startSupervisors

theorem State.runSupervisors_frame (s : State) : s.runSupervisors = { s with cores := s.runSupervisors.cores } := by
  unfold State.runSupervisors
  split <;> rfl

theorem State.supervised_frame (s : State) : s.supervised = { s.afterReset with
    meas := s.supervised.meas, cert := s.measured.cert, keys := [(0, s.draws + 1)], draws := s.draws + 1, cores := s.supervised.cores } := by
  rw [State.supervised, State.startSupervisors, State.runSupervisors_frame, State.measureImage_frame, State.measured_frame]
  rfl

theorem State.supervised_meas (s : State) :
    s.supervised.meas = ((((s.afterReset.measureImage 0).measureImage 1).measureImage 2).measureImage 3).meas := by
  rw [State.supervised, State.startSupervisors, State.runSupervisors_frame]
  simp only [State.measureImage]
  split <;> rfl

theorem State.supervised_cores (s : State) : s.supervised.cores =
    List.replicate s.nCores { warps := if Config.genuine 3 then [supWarp Config.supervisorEntry 0] else [] } := by
  have hframe : (s.measured.loadKey 0).measureImage 3 = { s.afterReset with
      meas := ((s.measured.loadKey 0).measureImage 3).meas, cert := s.measured.cert, keys := [(0, s.draws + 1)], draws := s.draws + 1 } := by
    rw [State.measureImage_frame, State.measured_frame]
    rfl
  rw [State.supervised, State.startSupervisors, hframe]
  unfold State.runSupervisors
  cases Config.genuine 3 with
  | false => rfl
  | true =>
    show (List.replicate s.nCores ({} : Core)).map _ = _
    rw [List.map_replicate]
    rfl

/-- With the first three images good, Shatus starts what the fourth gives it, and trains the links. -/
theorem BroughtUp.of_trained {s : State} (h3 : verified 3 = true) : BroughtUp s s.supervised.trainLinks := by
  have h2 : verified 2 = true := by rw [verified_succ, Bool.and_eq_true] at h3; exact h3.1
  have h4 : verified 4 = Config.genuine 3 := by rw [verified_succ, h3, Bool.true_and]
  have hregs (off : Nat) : s.supervised.cpw off = 0 := by rw [State.supervised_frame]; rfl
  have hpart : s.supervised.part = s.part := by rw [State.supervised_frame]; rfl
  have hmeas : s.supervised.trainLinks.meas = s.supervised.meas := by rw [State.trainLinks_frame]
  refine {
    frame := by rw [State.trainLinks_frame, State.supervised_frame]
    noCp := by rw [State.trainLinks_frame, State.supervised_frame, h2]; rfl
    noShatus := by rw [State.trainLinks_frame, State.supervised_frame, h3]; rfl
    keys := by rw [State.trainLinks_frame, State.supervised_frame, h2]; rfl
    cores := by rw [State.trainLinks_frame, h4]; exact s.supervised_cores
    links := fun j hj => by rw [State.cpw_trainLinks_link hj (hregs _), hpart, h3]; rfl
    regs := fun off h => by rw [State.cpw_trainLinks_other h, hregs]
    meas := fun hall i hi => ?_
    rest := fun i hi h8 => ?_ }
  · rw [hmeas, State.supervised_meas]
    simp only [State.meas_measureImage, State.measureImage_length]
    have hlen : i < s.afterReset.meas.length := Nat.lt_of_lt_of_le hi (by decide : 4 ≤ (List.replicate 8 (List.replicate 64 (0 : Byte))).length)
    have hg := genuine_of_verified hall hi
    rw [State.meas_afterReset s (by omega)]
    interval_cases i <;> simp [hg, hlen]
  · rw [hmeas, State.supervised_meas]
    simp only [State.meas_measureImage]
    rw [if_neg (by omega), if_neg (by omega), if_neg (by omega), if_neg (by omega), State.meas_afterReset s h8]

/-- Bring-up stops at the first of the three images that fails. -/
theorem exec_packageReset (s : State) : ∃ t, exec .packageReset s = .next t ∧ BroughtUp s t := by
  have h1 : verified 1 = Config.genuine 0 := by rw [verified_succ]; rfl
  have h2 := verified_succ 1
  have h3 := verified_succ 2
  show ∃ t, execPackageReset s = .next t ∧ BroughtUp s t
  unfold execPackageReset
  cases hg0 : Config.genuine 0 with
  | false =>
    rw [h1, hg0] at h2
    rw [h2] at h3
    refine ⟨_, rfl, .of_halted rfl h3 (by rw [h2]; rfl) rfl (by rw [h2]; rfl) (fun i _ hi => s.meas_afterReset hi)⟩
  | true =>
    rw [h1, hg0, Bool.true_and] at h2
    cases hg1 : Config.genuine 1 with
    | false =>
      rw [hg1] at h2
      rw [h2] at h3
      have hframe := s.measured_frame
      refine ⟨{ s.measured with noCp := true, noShatus := true }, rfl, .of_halted ?_ h3 (by rw [h2]; rfl) rfl (by rw [h2, hframe]; rfl)
        (fun i h4 h8 => s.measured_rest h4 h8)⟩
      rw [hframe]
    | true =>
      rw [hg1] at h2
      rw [h2, Bool.true_and] at h3
      cases hg2 : Config.genuine 2 with
      | false =>
        rw [hg2] at h3
        have hframe := s.measured_frame
        refine ⟨{ s.measured.loadKey 0 with noShatus := true }, rfl, .of_halted ?_ h3 ?_ rfl ?_ (fun i h4 h8 => s.measured_rest h4 h8)⟩
        · rw [hframe]; rfl
        · rw [hframe, h2]; rfl
        · rw [hframe, h2]; rfl
      | true =>
        exact ⟨s.supervised.trainLinks, rfl, .of_trained (h3.trans hg2)⟩

/-- Settles O44: bring-up has four ends (exec_packageReset), by the first image that fails its verification, if one does. -/
theorem packageResets : Obligations.PackageResets := by
  unfold Obligations.PackageResets
  intro s
  obtain ⟨t, hrun, hup⟩ := exec_packageReset s
  have hcore (c : Nat) (hc : c < s.nCores) : t.core c = { warps := if verified 4 then [supWarp Config.supervisorEntry 0] else [] } := by
    rw [State.core, hup.cores, List.getD_replicate _ hc]
  have hfield {α : Type} (f : State → α) : f t = f { s.afterReset with
      meas := t.meas, cert := t.cert, keys := t.keys, draws := t.draws, cores := t.cores, cp := t.cp, noCp := t.noCp, noShatus := t.noShatus } :=
    congrArg f hup.frame
  refine ⟨t, hrun, hfield State.booted, hfield State.dev, hfield State.ptb, hfield State.mem, hfield State.keyTag, hfield State.hostMem,
    hfield State.part, by rw [hup.cores, List.length_replicate],
    ⟨hup.noCp, hup.noShatus, hup.keys, fun c hc => ?cores, fun j hj => ?links, hup.meas⟩,
    hup.regs, hup.rest, hfield State.table, hfield State.nodes, hfield State.tills, hfield State.mons, ?commands⟩
  case cores =>
    rw [hcore c hc]
    refine ⟨rfl, rfl, rfl, fun h4 => ⟨supWarp Config.supervisorEntry 0, ?_, rfl, rfl, rfl, supWarp_fresh _ _⟩, fun h4 => ?_⟩
    · exact if_pos h4
    · exact if_neg (ne_true_of_eq_false h4)
  case links =>
    have hword := hup.links j hj
    show t.linkUp j = decide ((if verified 3 then (s.part.llanes.getD j 0).toNat else 0) ≠ 0)
      ∧ fld (t.cpw (oLLSTAT + 8 * j)) 15 8 = if verified 3 then (s.part.llanes.getD j 0).toNat else 0
    rw [State.linkUp, hword]
    cases verified 3 with
    | false => exact ⟨(by decide : Nat.testBit 0 0 = decide (0 ≠ 0)), (by decide : fld 0 15 8 = 0)⟩
    | true => exact ⟨testBit_laneWord _, fld_laneWord _⟩
  case commands =>
    have hoff : t.cpw oCMDCFG = 0 := hup.regs _ (by decide)
    rw [State.cmdWaits, hoff, Nat.zero_testBit, Bool.and_false, Bool.false_and]

end Sys2Proof.Machine
end

section
/-! O2: decoding gives an encoded instruction back (R298 to R310). The fields of a concatenation, and the codes of the tables. -/

namespace Sys2Proof

/-! ### Fields of a concatenation

A concatenation is written BitVec.append here: simp compares the widths of a ++ b as literals, where those of BitVec.append are found by
unification. -/

@[simp] theorem extract_append_of_le {v w k n : Nat} (a : BitVec v) (b : BitVec w) (h : w ≤ k) :
    (BitVec.append a b).extractLsb' k n = a.extractLsb' (k - w) n :=
  BitVec.extractLsb'_append_eq_of_le h

@[simp] theorem extract_append_of_add_le {v w k n : Nat} (a : BitVec v) (b : BitVec w) (h : k + n ≤ w) :
    (BitVec.append a b).extractLsb' k n = b.extractLsb' k n :=
  BitVec.extractLsb'_append_eq_of_add_le h

@[simp] theorem getLsbD_append_of_le {v w k : Nat} (a : BitVec v) (b : BitVec w) (h : w ≤ k) :
    (BitVec.append a b).getLsbD k = a.getLsbD (k - w) :=
  BitVec.getLsbD_append.trans (if_neg (Nat.not_lt.mpr h))

@[simp] theorem getLsbD_append_of_lt {v w k : Nat} (a : BitVec v) (b : BitVec w) (h : k < w) :
    (BitVec.append a b).getLsbD k = b.getLsbD k :=
  BitVec.getLsbD_append.trans (if_pos h)

@[simp] theorem getLsbD_bit (x : Bool) : (bit x).getLsbD 0 = x := by
  cases x <;> rfl

@[simp] theorem bit_beq_one (x : Bool) : (bit x == 1#1) = x := by
  cases x <;> rfl

/-! ### Codes (R154, R302, R336 to R381, R421) -/

@[simp] theorem Ty.ofCode_code (t : Ty) : Ty.ofCode t.code = some t := by cases t <;> rfl
@[simp] theorem ICmp.ofCode_code (x : ICmp) : ICmp.ofCode x.code = some x := by cases x <;> rfl
@[simp] theorem FCmp.ofCode_code (x : FCmp) : FCmp.ofCode x.code = x := by cases x <;> rfl
@[simp] theorem VOp.ofCode_code (x : VOp) : VOp.ofCode x.code = x := by cases x <;> rfl
@[simp] theorem SMode.ofCode_code (x : SMode) : SMode.ofCode x.code = x := by cases x <;> rfl
@[simp] theorem ROp.ofCode_code (x : ROp) : ROp.ofCode x.code = some x := by cases x <;> rfl
@[simp] theorem AOp.ofCode_code (x : AOp) : AOp.ofCode x.code = some x := by cases x <;> rfl
@[simp] theorem Scope.ofCode_code (x : Scope) : Scope.ofCode x.code = some x := by cases x <;> rfl
@[simp] theorem Sz.ofCode_code (x : Sz) : Sz.ofCode x.code = some x := by cases x <;> rfl
@[simp] theorem Space.ofCode_code (x : Space) : Space.ofCode x.code = some x := by cases x <;> rfl
@[simp] theorem MCmp.ofCode_code (x : MCmp) : MCmp.ofCode x.code = some x := by cases x <;> rfl
@[simp] theorem Cpl.ofCode_code (x : Cpl) : Cpl.ofCode x.code = some x := by cases x <;> rfl
@[simp] theorem Rnd.ofCode_code (x : Rnd) : Rnd.ofCode x.code = some x := by cases x <;> rfl

theorem Ord.ofCodeLd_code {x : Ord} (h : (x == .weak || x == .rlx || x == .acq) = true) : Ord.ofCodeLd x.codeLd = some x := by
  revert h; cases x <;> decide
theorem Ord.ofCodeSt_code {x : Ord} (h : (x == .weak || x == .rlx || x == .rel) = true) : Ord.ofCodeSt x.codeSt = some x := by
  revert h; cases x <;> decide
theorem Ord.ofCodeAt_code {x : Ord} (h : x ≠ .weak) : Ord.ofCodeAt x.codeAt = x := by
  revert h; cases x <;> decide
theorem Ord.ofCodeFe_code {x : Ord} (h : (x == .acq || x == .rel || x == .ar) = true) : Ord.ofCodeFe x.codeFe = some x := by
  revert h; cases x <;> decide

/-- A weak access has its scope field 0, which reads as .wp (R366). -/
theorem Scope.ofCode_scoOf {o : Ord} {x : Scope} (h : (o != .weak || x == .wp) = true) : Scope.ofCode (scoOf o x) = some x := by
  revert h; cases o <;> cases x <;> decide

end Sys2Proof
end

section
/-! O2: the instruction that the decoder builds from the opcode and the modifier fields of an encoded one. -/

namespace Sys2Proof

/-- The same instruction with other common fields. -/
def Instr.withFmt (i : Instr) (f : Fmt) : Instr :=
  match i with
  | .nop _ => .nop f | .bra _ => .bra f | .brx _ => .brx f | .call _ => .call f | .ret _ => .ret f | .exit _ => .exit f
  | .cvset _ => .cvset f | .cvwait _ => .cvwait f | .yield _ => .yield f | .trap _ => .trap f | .svc _ => .svc f | .brk _ => .brk f
  | .sget _ sidx => .sget f sidx | .sset _ sidx => .sset f sidx | .mxhint _ => .mxhint f | .pset _ cmp t => .pset f cmp t
  | .psetf _ cmp t => .psetf f cmp t | .plog _ lut => .plog f lut | .pmovGet _ => .pmovGet f | .pmovPut _ => .pmovPut f
  | .vote _ op => .vote f op | .add _ t sat => .add f t sat | .sub _ t sat => .sub f t sat | .addc _ t cp => .addc f t cp
  | .subb _ t cp => .subb f t cp | .mul _ t => .mul f t | .mulhi _ t => .mulhi f t | .mad _ t => .mad f t | .madhi _ t => .madhi f t
  | .div _ t => .div f t | .rem _ t => .rem f t | .min _ t => .min f t | .max _ t => .max f t | .abs _ t sat => .abs f t sat
  | .neg _ t sat => .neg f t sat | .lea _ t sh => .lea f t sh | .and _ t => .and f t | .or _ t => .or f t | .xor _ t => .xor f t
  | .not _ t => .not f t | .andn _ t => .andn f t | .shl _ t => .shl f t | .shr _ t => .shr f t | .sar _ t => .sar f t
  | .rot _ t => .rot f t | .bfx _ t => .bfx f t | .bfi _ t => .bfi f t | .popc _ t => .popc f t | .clz _ t => .clz f t
  | .ctz _ t => .ctz f t | .brev _ t => .brev f t | .sel _ t ps => .sel f t ps | .mov _ t => .mov f t | .movi _ t => .movi f t
  | .movd _ t lo => .movd f t lo | .prmt _ => .prmt f | .fadd _ t => .fadd f t | .fsub _ t => .fsub f t | .fmul _ t => .fmul f t
  | .ffma _ t => .ffma f t | .fmin _ t => .fmin f t | .fmax _ t => .fmax f t | .fneg _ t => .fneg f t | .fabs _ t => .fabs f t
  | .fcsign _ t => .fcsign f t | .fdiv _ t => .fdiv f t | .fsqrt _ t => .fsqrt f t | .fscale _ t => .fscale f t | .fgexp _ t => .fgexp f t
  | .frnd _ t => .frnd f t | .fcls _ t => .fcls f t | .fcvt _ dt src inf => .fcvt f dt src inf | .icvt _ dt src inf => .icvt f dt src inf
  | .vsin _ => .vsin f | .vcos _ => .vcos f | .vscs _ => .vscs f | .vex2 _ => .vex2 f | .vlg2 _ => .vlg2 f | .vrcp _ => .vrcp f
  | .vrsq _ => .vrsq f | .vtanh _ => .vtanh f | .padd _ t inf => .padd f t inf | .psub _ t inf => .psub f t inf
  | .pmul _ t inf => .pmul f t inf | .pfma _ t inf => .pfma f t inf | .pmin _ t => .pmin f t | .pmax _ t => .pmax f t
  | .pdot _ t inf => .pdot f t inf | .pcvt _ dt src inf => .pcvt f dt src inf | .ppack _ t pos inf => .ppack f t pos inf
  | .punpk _ t pos => .punpk f t pos | .pabs _ t inf => .pabs f t inf | .lshf _ t m seg => .lshf f t m seg
  | .lred _ t op seg => .lred f t op seg | .lscan _ t op seg exc => .lscan f t op seg exc | .lbc _ t => .lbc f t | .vhash _ => .vhash f
  | .vdrop _ => .vdrop f | .ld _ sp sz ord sco pr sh => .ld f sp sz ord sco pr sh | .ldro _ sz sh => .ldro f sz sh
  | .ldk _ cnt => .ldk f cnt | .st _ sp sz ord sco sh => .st f sp sz ord sco sh
  | .atom _ op t ord sco pr sp sh => .atom f op t ord sco pr sp sh | .red _ op t ord sco sh => .red f op t ord sco sh
  | .fence _ ord sco => .fence f ord sco | .fro _ => .fro f | .rcfence _ => .rcfence f | .awaitCnt _ => .awaitCnt f
  | .awaitPh _ sco => .awaitPh f sco | .awaitPhG _ sco => .awaitPhG f sco | .awaitMem _ cmp dw sco => .awaitMem f cmp dw sco
  | .bini _ => .bini f | .barv _ sco => .barv f sco | .bexp _ => .bexp f | .gbarGrid _ => .gbarGrid f | .gbarFab _ => .gbarFab f
  | .qcls _ qn => .qcls f qn | .qstat _ qn => .qstat f qn | .mma _ m => .mma f m | .mmaz _ m => .mmaz f m
  | .accld _ nqm ssp => .accld f nqm ssp | .accst _ nqm ssp => .accst f nqm ssp | .accz _ nqm => .accz f nqm
  | .rqnt _ inf sl sls => .rqnt f inf sl sls | .qpack _ inf sl => .qpack f inf sl | .qunpk _ inf sl => .qunpk f inf sl
  | .plsplit _ => .plsplit f | .plmrg _ sl => .plmrg f sl | .topk _ t pp => .topk f t pp | .cpy _ cpl ds ss ctw => .cpy f cpl ds ss ctw
  | .cpyt _ cpl dir ctw => .cpyt f cpl dir ctw | .cpyw _ cpl ctw => .cpyw f cpl ctw | .cpyg _ cpl ctw => .cpyg f cpl ctw
  | .cpys _ cpl ctw => .cpys f cpl ctw | .emit _ => .emit f | .emitRem _ => .emitRem f | .emitTask _ => .emitTask f | .spawn _ => .spawn f
  | .tkget _ => .tkget f | .tkgetClaim _ => .tkgetClaim f | .tkput _ => .tkput f | .tdec _ => .tdec f | .tdecRem _ => .tdecRem f
  | .sret _ skip => .sret f skip | .mbrecv _ pe pf => .mbrecv f pe pf | .mbpost _ => .mbpost f | .frep _ => .frep f | .fdrop _ => .fdrop f
  | .tlbi _ scp => .tlbi f scp | .wpark _ => .wpark f | .wwake _ => .wwake f | .sctxRd _ vlt => .sctxRd f vlt
  | .sctxWr _ vlt => .sctxWr f vlt
  | i => i

section
variable (i : Instr) (f : Fmt)

theorem Instr.withFmt_self (h : i.fmt = some f) : i.withFmt f = i := by
  cases i <;> cases h <;> rfl

@[simp] theorem Instr.sig_withFmt : (i.withFmt f).sig = i.sig := by
  cases i with
  | topk _ _ pp => cases pp <;> rfl
  | _ => rfl

@[simp] theorem Instr.shape_withFmt : (i.withFmt f).shape = i.shape := by
  cases i with
  | vote _ op => cases op <;> rfl
  | ld _ sp | st _ sp => cases sp <;> rfl
  | _ => rfl

@[simp] theorem Instr.rounds_withFmt : (i.withFmt f).rounds = i.rounds := by cases i <;> rfl
@[simp] theorem Instr.wFree_withFmt : (i.withFmt f).wFree = i.wFree := by cases i <;> rfl
@[simp] theorem Instr.modeOk_withFmt (sup : Bool) : (i.withFmt f).modeOk sup = i.modeOk sup := by cases i <;> rfl
@[simp] theorem Instr.dRule_withFmt (d : Opd) : (i.withFmt f).dRule d = i.dRule d := by
  cases i with
  | ldk | mbrecv => cases d <;> rfl
  | _ => rfl

@[simp] theorem Instr.aRule_withFmt (a c : Opd) : (i.withFmt f).aRule a c = i.aRule a c := by cases i <;> rfl
@[simp] theorem Instr.bRule_withFmt (b c : Opd) : (i.withFmt f).bRule b c = i.bRule b c := by
  cases i with
  | mbpost => cases b <;> rfl
  | _ => rfl

@[simp] theorem Instr.foRule_withFmt (p : Bool) : (i.withFmt f).foRule p = i.foRule p := by
  cases i with
  | atom _ op => cases op <;> rfl
  | _ => rfl


@[simp] theorem Instr.wDest_withFmt (d : Opd) : (i.withFmt f).wDest d = i.wDest d := by
  simp only [Instr.wDest, Instr.shape_withFmt, Instr.wFree_withFmt]

/-- Of the common fields the modifier rules read the immediate alone (R327). -/
theorem Instr.modsOk_withFmt {f' : Fmt} (h : i.fmt = some f) (hx : f'.x = f.x) : (i.withFmt f').modsOk = i.modsOk := by
  cases i with
  | trap | svc => cases h; simp only [Instr.withFmt, Instr.modsOk, hx]
  | _ => cases h <;> rfl

end

/-- The low immediate word of movd (R303), the one operand that has a word of its own beside the common fields. -/
def Instr.lowWord : Instr → Word
  | .movd _ _ lo => lo
  | _ => 0

/-- R310 step 5: from the opcode and the modifier fields of an instruction the decoder has that instruction as its candidate. The arm of the opcode
is found by evaluation; the simplifier then reads each modifier out of the concatenation that holds it. -/
theorem Raw.candidate_of_sig {i : Instr} {s : Sig} {r : Raw} (hs : i.sig = some s) (hm : i.modsOk = true) (hop : r.op = s.op)
    (hmod : r.mod = s.mod) (hmod2 : r.mod2 = s.mod2) (hlo : r.lo = i.lowWord) (g : Fmt) : r.candidate g = some (i.withFmt g) := by
  obtain ⟨_, mod, op, _, _, _, _, _, _, _, _, mod2, _, _, _, lo, _⟩ := r
  subst hop hmod hmod2 hlo
  obtain ⟨op, mod, mod2⟩ := s
  cases i with
  | movd => cases hs; simp [Raw.candidate, Instr.withFmt, modT, Instr.lowWord, HAppend.hAppend, -BitVec.append_eq]
  | ld _ _ _ o sc =>
    simp only [Instr.modsOk, Bool.and_eq_true] at hm
    obtain ⟨⟨⟨-, ho⟩, hsc⟩, -⟩ := hm
    cases hs
    conv => lhs; whnf
    simp [Instr.withFmt, modAcc, Ord.ofCodeLd_code ho, Scope.ofCode_scoOf hsc, HAppend.hAppend, -BitVec.append_eq, -BitVec.getLsbD_eq_getElem]
  | st _ _ _ o sc =>
    simp only [Instr.modsOk, Bool.and_eq_true] at hm
    obtain ⟨⟨⟨⟨⟨-, ho⟩, hsc⟩, -⟩, -⟩, -⟩ := hm
    cases hs
    conv => lhs; whnf
    simp [Instr.withFmt, modAcc, Ord.ofCodeSt_code ho, Scope.ofCode_scoOf hsc, HAppend.hAppend, -BitVec.append_eq]
  | atom _ _ _ o =>
    simp only [Instr.modsOk, Bool.and_eq_true] at hm
    obtain ⟨⟨⟨-, ho⟩, -⟩, -⟩ := hm
    cases hs
    conv => lhs; whnf
    simp [Instr.withFmt, modT, Ord.ofCodeAt_code (by simpa using ho), HAppend.hAppend, -BitVec.append_eq, -BitVec.getLsbD_eq_getElem]
  | red _ _ _ o =>
    simp only [Instr.modsOk, Bool.and_eq_true] at hm
    obtain ⟨⟨-, ho⟩, -⟩ := hm
    cases hs
    conv => lhs; whnf
    simp [Instr.withFmt, modT, Ord.ofCodeAt_code (show o ≠ .weak by rintro rfl; cases ho), HAppend.hAppend, -BitVec.append_eq]
  | fence _ o =>
    cases hs
    conv => lhs; whnf
    simp [Instr.withFmt, Ord.ofCodeFe_code hm, HAppend.hAppend, -BitVec.append_eq]
  | topk _ _ pp =>
    cases pp <;> cases hs <;> conv => lhs; whnf
    · simp [Instr.withFmt, modT, HAppend.hAppend, -BitVec.append_eq, -BitVec.getLsbD_eq_getElem]
    · simp [Instr.withFmt, modT, HAppend.hAppend, -BitVec.append_eq, -BitVec.getLsbD_eq_getElem]
  | _ =>
    cases hs <;> (conv => lhs; whnf) <;>
      simp [Instr.withFmt, modT, modN, modAcc, HAppend.hAppend, -BitVec.append_eq, -BitVec.getLsbD_eq_getElem]

/-- The fields of an encoded instruction are built into that instruction, with whatever common fields (R304). -/
theorem Raw.build_of_sig {i : Instr} {s : Sig} {r : Raw} (hs : i.sig = some s) (hm : i.modsOk = true) (hop : r.op = s.op)
    (hmod : r.mod = s.mod) (hmod2 : r.mod2 = s.mod2) (hlo : r.lo = i.lowWord) (g : Fmt) : r.build g = some (i.withFmt g) := by
  rw [Raw.build, Raw.candidate_of_sig hs hm hop hmod hmod2 hlo]
  exact if_pos (by rw [Instr.sig_withFmt, hs, hop, hmod, hmod2])

end Sys2Proof
end

section
/-! O2: the operands, the words and the Pre of an encoded instruction are read back as they were (R293, R299, R301, R303, R306). -/

namespace Sys2Proof

/-! ### Operands (R293) -/

/-- The code of a register operand names it. -/
theorem Opd.ofCode_code {o : Opd} {c : Cls} {n : Nat} {al imm : Bool} (h : o.okFor (.reg c n al) imm = true) : Opd.ofCode o.code = some o := by
  cases o with
  | v k =>
    simp only [Opd.okFor, Bool.and_eq_true, decide_eq_true_eq] at h
    obtain ⟨-, hk⟩ := h
    simp only [Opd.code, Opd.ofCode, BitVec.toNat_ofNat]
    rw [Nat.mod_eq_of_lt (by omega), if_pos hk]
  | w k =>
    simp only [Opd.okFor, Bool.and_eq_true, decide_eq_true_eq] at h
    obtain ⟨-, hk⟩ := h
    simp only [Opd.code, Opd.ofCode, BitVec.toNat_ofNat]
    rw [Nat.mod_eq_of_lt (by omega), if_neg (by omega), if_pos (by omega), Nat.add_sub_cancel_left]
  | q k =>
    simp only [Opd.okFor, Bool.and_eq_true, decide_eq_true_eq] at h
    obtain ⟨-, hk⟩ := h
    simp only [Opd.code, Opd.ofCode, BitVec.toNat_ofNat]
    rw [Nat.mod_eq_of_lt (by omega), if_neg (by omega), if_neg (by omega), if_pos (by omega), Nat.add_sub_cancel_left]
  | imm | width | lane | zero => rfl
  | pred | tile | none => cases h

/-- A field that holds an operand it admits, with a trap bit only on a register, is parsed to that operand (R293, R295). -/
theorem Opd.parse_code {o : Opd} {k : OpK} {imm trap : Bool} (h : o.okFor k imm = true) (ht : (!trap || o.isReg) = true) :
    Opd.parse k imm o.code trap = some o := by
  cases k with
  | none =>
    cases o with
    | none => cases trap <;> cases ht; rfl
    | _ => cases h
  | pred =>
    cases o with
    | pred n =>
      have hn : n < 16 := of_decide_eq_true h
      obtain rfl : trap = false := by simpa [Opd.isReg] using ht
      simp [Opd.parse, Opd.code, Nat.mod_eq_of_lt (show n < 1024 by omega), hn]
    | _ => cases h
  | tile =>
    cases o with
    | tile n =>
      have hn : n < 128 := of_decide_eq_true h
      obtain rfl : trap = false := by simpa [Opd.isReg] using ht
      simp [Opd.parse, Opd.code, Nat.mod_eq_of_lt (show n < 1024 by omega), hn]
    | _ => cases h
  | reg c n al =>
    rw [Opd.parse, Opd.ofCode_code h]
    exact Option.filter_some_pos (by rw [h, ht]; rfl)

/-- The code of a predicate or a tile is not 1020. -/
theorem Opd.code_small {n : Nat} (h : n < 128) : BitVec.ofNat 10 n ≠ codeImm := by
  intro hc
  have hn : n % 1024 = 1020 := congrArg BitVec.toNat hc
  omega

/-- Code 1020 stands for the immediate alone. -/
theorem Opd.code_beq_imm {o : Opd} {k : OpK} {imm : Bool} (h : o.okFor k imm = true) : (o.code == codeImm) = (o == .imm) := by
  rw [Bool.eq_iff_iff, beq_iff_eq, beq_iff_eq]
  refine ⟨fun hc => ?_, fun ho => ho ▸ rfl⟩
  cases k with
  | none =>
    cases o with
    | none => cases hc
    | _ => cases h
  | pred =>
    cases o with
    | pred n => exact absurd hc (Opd.code_small (Nat.lt_trans (of_decide_eq_true h) (by decide)))
    | _ => cases h
  | tile =>
    cases o with
    | tile n => exact absurd hc (Opd.code_small (of_decide_eq_true h))
    | _ => cases h
  | reg c n al =>
    have hi : Opd.ofCode codeImm = some .imm := rfl
    exact Option.some.inj ((Opd.ofCode_code h).symm.trans ((congrArg Opd.ofCode hc).trans hi))

/-! ### Words (R298, R301, R303) -/

section
variable (r : Raw)

@[simp] theorem Raw.word0_mod : r.word0.extractLsb' 18 14 = r.mod := by simp [Raw.word0, HAppend.hAppend, -BitVec.append_eq]
@[simp] theorem Raw.word0_op : r.word0.extractLsb' 8 10 = r.op := by simp [Raw.word0, HAppend.hAppend, -BitVec.append_eq]
@[simp] theorem Raw.word0_gs : r.word0.extractLsb' 7 1 = r.gs := by simp [Raw.word0, HAppend.hAppend, -BitVec.append_eq]
@[simp] theorem Raw.word0_g : r.word0.extractLsb' 3 4 = r.g := by simp [Raw.word0, HAppend.hAppend, -BitVec.append_eq]
@[simp] theorem Raw.word0_ge : r.word0.extractLsb' 2 1 = r.ge := by simp [Raw.word0, HAppend.hAppend, -BitVec.append_eq]
theorem Raw.word0_len : r.word0.extractLsb' 0 2 = r.len.code := by simp [Raw.word0, HAppend.hAppend, -BitVec.append_eq]

@[simp] theorem Raw.word1_tb : r.word1.extractLsb' 31 1 = r.tb := by simp [Raw.word1, HAppend.hAppend, -BitVec.append_eq]
@[simp] theorem Raw.word1_ta : r.word1.extractLsb' 30 1 = r.ta := by simp [Raw.word1, HAppend.hAppend, -BitVec.append_eq]
@[simp] theorem Raw.word1_b : r.word1.extractLsb' 20 10 = r.b := by simp [Raw.word1, HAppend.hAppend, -BitVec.append_eq]
@[simp] theorem Raw.word1_a : r.word1.extractLsb' 10 10 = r.a := by simp [Raw.word1, HAppend.hAppend, -BitVec.append_eq]
@[simp] theorem Raw.word1_d : r.word1.extractLsb' 0 10 = r.d := by simp [Raw.word1, HAppend.hAppend, -BitVec.append_eq]

@[simp] theorem Raw.word2_mod2 : r.word2.extractLsb' 11 21 = r.mod2 := by simp [Raw.word2, HAppend.hAppend, -BitVec.append_eq]
@[simp] theorem Raw.word2_tc : r.word2.extractLsb' 10 1 = r.tc := by simp [Raw.word2, HAppend.hAppend, -BitVec.append_eq]
@[simp] theorem Raw.word2_c : r.word2.extractLsb' 0 10 = r.c := by simp [Raw.word2, HAppend.hAppend, -BitVec.append_eq]

/-- LEN of a first word gives the length back (R298). -/
theorem lenOf_word0 : lenOf r.word0 = some r.len := by
  rw [lenOf, Raw.word0_len]
  cases r.len <;> rfl

/-- The first word of an instruction names a length, where the word of a Pre names none (R298). -/
theorem Raw.word0_not_prefix : (r.word0.extractLsb' 0 2 == 0) = false := by
  rw [Raw.word0_len]
  cases r.len <;> rfl

/-- The C layout: word 2 holds MOD2, TC and C (R303). -/
def Raw.cForm : Bool :=
  match r.len with
  | .l64 => false
  | .l96 => !(r.a == codeImm || r.b == codeImm)
  | .l128 => r.op != 0x042

end

/-- The fields that the words of an instruction have no place for are zero (R303). -/
structure Raw.Fits (r : Raw) : Prop where
  c  : r.cForm = false → r.mod2 = 0 ∧ r.tc = 0 ∧ r.c = 0
  x  : r.len = .l64 ∨ r.len = .l96 ∧ r.cForm = true → r.x = 0
  lo : r.len ≠ .l128 ∨ r.cForm = true → r.lo = 0

/-- The words of an instruction are read back as the fields that they were laid out from. -/
theorem Raw.ofWords_words {r : Raw} (h : r.Fits) :
    Raw.ofWords r.len r.pre (r.words.headD 0) (r.words.getD 1 0) (r.words.getD 2 0) (r.words.getD 3 0) = r := by
  obtain ⟨hc, hx, hlo⟩ := h
  obtain ⟨len, mod, op, gs, g, ge, tb, ta, b, a, d, mod2, tc, c, x, lo, pre⟩ := r
  cases len with
  | l64 =>
    obtain ⟨rfl, rfl, rfl⟩ := hc rfl
    obtain rfl : x = 0 := hx (.inl rfl)
    obtain rfl : lo = 0 := hlo (.inl nofun)
    simp [Raw.words, Raw.ofWords]
  | l96 =>
    obtain rfl : lo = 0 := hlo (.inl nofun)
    cases hi : (a == codeImm || b == codeImm) with
    | true =>
      obtain ⟨rfl, rfl, rfl⟩ := hc (by rw [Raw.cForm, hi]; rfl)
      simp [Raw.words, Raw.ofWords, hi]
    | false =>
      obtain rfl : x = 0 := hx (.inr ⟨rfl, by rw [Raw.cForm, hi]; rfl⟩)
      simp [Raw.words, Raw.ofWords, hi]
  | l128 =>
    by_cases ho : op = 0x042#10
    · subst ho
      obtain ⟨rfl, rfl, rfl⟩ := hc rfl
      simp [Raw.words, Raw.ofWords]
    · obtain rfl : lo = 0 := hlo (.inr (bne_iff_ne.mpr ho))
      simp [Raw.words, Raw.ofWords, ho]

/-! ### The word of a Pre (R299, R306) -/

section
variable (p : Pre)

/-- Bits 21:11 of the word of a Pre: its fourth operand. -/
def Pre.fourthBits : BitVec 11 :=
  match p.fourth with
  | none => 0#11
  | some o => 1#1 ++ o.code

/-- Bits 10:5 of the word of a Pre: its mask clause. -/
def Pre.maskBits : BitVec 6 :=
  match p.mask with
  | none => 0#6
  | some m => 1#1 ++ m.pred ++ bit m.zero

/-- The word of a Pre. -/
def Pre.word : Word := 0#10 ++ p.fourthBits ++ p.maskBits ++ p.rnd.code ++ 0#2

theorem Pre.word_low : p.word.extractLsb' 0 2 = 0#2 := by simp [Pre.word, HAppend.hAppend, -BitVec.append_eq]
theorem Pre.word_high : p.word.extractLsb' 22 10 = 0#10 := by simp [Pre.word, HAppend.hAppend, -BitVec.append_eq]
theorem Pre.word_rnd : p.word.extractLsb' 2 3 = p.rnd.code := by simp [Pre.word, HAppend.hAppend, -BitVec.append_eq]

theorem Pre.word_fe : p.word.getLsbD 21 = p.fourth.isSome := by
  cases h : p.fourth <;>
    simp [Pre.word, Pre.fourthBits, h, HAppend.hAppend, -BitVec.append_eq, -BitVec.getLsbD_eq_getElem]

theorem Pre.word_fourth : p.word.extractLsb' 11 10 = (p.fourth.map Opd.code).getD 0 := by
  cases h : p.fourth <;> simp [Pre.word, Pre.fourthBits, h, HAppend.hAppend, -BitVec.append_eq]

theorem Pre.word_me : p.word.getLsbD 10 = p.mask.isSome := by
  cases h : p.mask <;>
    simp [Pre.word, Pre.maskBits, h, HAppend.hAppend, -BitVec.append_eq, -BitVec.getLsbD_eq_getElem]

theorem Pre.word_no_mask (h : p.mask = none) : p.word.extractLsb' 5 5 = 0 := by
  simp [Pre.word, Pre.maskBits, h, HAppend.hAppend, -BitVec.append_eq]

theorem Pre.word_mask {m : MaskSel} (h : p.mask = some m) : p.word.extractLsb' 6 4 = m.pred ∧ p.word.getLsbD 5 = m.zero := by
  simp [Pre.word, Pre.maskBits, h, HAppend.hAppend, -BitVec.append_eq, -BitVec.getLsbD_eq_getElem]

/-- Only the word of an all-default Pre would be a pad (R299). -/
theorem Pre.word_ne_zero (h : p ≠ ⟨none, .rne, none⟩) : p.word ≠ 0 := by
  intro hz
  have hfe : p.fourth.isSome = false := by rw [← p.word_fe, hz]; rfl
  have hme : p.mask.isSome = false := by rw [← p.word_me, hz]; rfl
  have hrnd : some p.rnd = some .rne := by rw [← Rnd.ofCode_code, ← p.word_rnd, hz]; rfl
  rw [Option.isSome_eq_false_iff, Option.isNone_iff_eq_none] at hfe hme
  exact h (by rw [show p = ⟨p.mask, p.rnd, p.fourth⟩ from rfl, hfe, hme, Option.some.inj hrnd])

end

/-- The word before an instruction: 0 when it has no Pre. -/
def Fmt.preWord (f : Fmt) : Word := (f.pre.map Pre.word).getD 0

/-- The fourth operand, which the Pre names. -/
def Fmt.fourth (f : Fmt) : Option Opd := f.pre.bind Pre.fourth

theorem Fmt.preWord_fe (f : Fmt) : f.preWord.getLsbD 21 = f.fourth.isSome := by
  cases h : f.pre with
  | none => rw [Fmt.preWord, Fmt.fourth, h]; rfl
  | some p => rw [Fmt.preWord, Fmt.fourth, h]; exact p.word_fe

theorem Fmt.preWord_fourth {f : Fmt} {o : Opd} (h : f.fourth = some o) : f.preWord.extractLsb' 11 10 = o.code := by
  obtain ⟨p, hp, ho⟩ := Option.bind_eq_some_iff.mp h
  rw [Fmt.preWord, hp, Option.map_some, Option.getD_some, p.word_fourth, ho]
  rfl

section
variable {r : Raw} {i : Instr} {f : Fmt}

/-- The word of a Pre that the instruction admits passes the checks of its fields (R306). -/
theorem Raw.prefixOk_of_pre (hr : r.pre = f.preWord) (h : ∀ p, f.pre = some p → p.ok i = true) : r.prefixOk i = true := by
  cases hp : f.pre with
  | none =>
    have h0 : r.pre = 0 := by rw [hr, Fmt.preWord, hp]; rfl
    simp [Raw.prefixOk, h0, Rnd.ofCode]
  | some p =>
    have hw : r.pre = p.word := by rw [hr, Fmt.preWord, hp]; rfl
    have hok := h p hp
    simp only [Pre.ok, Bool.and_eq_true] at hok
    obtain ⟨⟨-, hrnd⟩, hfo⟩ := hok
    have hzero : (p.fourth.isSome || (p.fourth.map Opd.code).getD 0 == 0) = true := by cases p.fourth <;> rfl
    have huse : (!p.fourth.isSome || i.shape.fo != .none) = true := by
      cases ho : p.fourth with
      | none => rfl
      | some o =>
        simp only [ho, Bool.and_eq_true] at hfo
        obtain ⟨⟨hfo, -⟩, -⟩ := hfo
        exact hfo
    have hmask : (p.mask.isSome || p.word.extractLsb' 5 5 == 0) = true := by
      cases hm : p.mask with
      | none => rw [p.word_no_mask hm]; rfl
      | some m => rfl
    simp only [Raw.prefixOk, hw, p.word_high, p.word_fe, p.word_me, p.word_fourth, p.word_rnd, Rnd.ofCode_code, hzero, huse, hmask, hrnd]
    rfl

/-- The word before an instruction is read back as its Pre (R299, R306). -/
theorem Raw.prefixOf_pre (hr : r.pre = f.preWord) (h : ∀ p, f.pre = some p → p ≠ ⟨none, .rne, none⟩) : r.prefixOf f.fourth = f.pre := by
  cases hp : f.pre with
  | none => rw [Raw.prefixOf, hr, Fmt.preWord, hp]; rfl
  | some p =>
    have hw : r.pre = p.word := by rw [hr, Fmt.preWord, hp]; rfl
    have hfo : f.fourth = p.fourth := by rw [Fmt.fourth, hp]; rfl
    have hne : (p.word == 0) = false := beq_eq_false_iff_ne.mpr (p.word_ne_zero (h p hp))
    have hmask : (if p.word.getLsbD 10 then some ⟨p.word.extractLsb' 6 4, p.word.getLsbD 5⟩ else none : Option MaskSel) = p.mask := by
      rw [p.word_me]
      cases hm : p.mask with
      | none => rfl
      | some m =>
        obtain ⟨hpred, hzero⟩ := p.word_mask hm
        rw [hpred, hzero]
        rfl
    rw [Raw.prefixOf, hw, hne, hfo, hmask, p.word_rnd, Rnd.ofCode_code]
    rfl

end

end Sys2Proof
end
section
/-! O2: what makes an instruction well formed makes its fields fit their words, and passes each check of the decoder (R304, R310). -/

namespace Sys2Proof

/-! ### Well-formed warp instructions, by name -/

/-- A or B is the immediate (R303, R304). -/
def Fmt.immAB (f : Fmt) : Bool := f.a == .imm || f.b == .imm

/-- What Instr.wfWarp asks of an instruction with common fields f, opcode and modifier fields s and length rule lr. -/
structure Instr.Encoded (i : Instr) (f : Fmt) (s : Sig) (lr : LenRule) : Prop where
  fmt   : i.fmt = some f
  sig   : i.sig = some s
  rule  : lenRule s.op s.mod = some lr
  len   : lr.ok f.len f.immAB (f.immAB || f.c == .imm) = true
  mods  : i.modsOk = true
  x     : f.xOk f.immAB = true
  pre   : ∀ p, f.pre = some p → p.ok i = true
  preVQ : (i.wDest f.d && (f.fourth.getD .none).isVQ) = false
  fo    : i.foRule f.fourth.isSome = true
  d     : f.d.okFor i.shape.d false = true
  a     : f.a.okFor i.shape.a (lr.immOk f.len f.immAB s.op) = true
  b     : f.b.okFor i.shape.b (lr.immOk f.len f.immAB s.op) = true
  c     : f.c.okFor i.shape.c (lr.immOk f.len f.immAB s.op) = true
  ta    : (!f.ta || f.a.isReg) = true
  tb    : (!f.tb || f.b.isReg) = true
  tc    : (!f.tc || f.c.isReg) = true
  vq    : (i.wDest f.d && (f.a.isVQ || f.b.isVQ || f.c.isVQ)) = false
  dRule : i.dRule f.d = true
  aRule : i.aRule f.a f.c = true
  bRule : i.bRule f.b f.c = true
  dAl   : f.d.alignOk i.shape.d = true
  aAl   : f.a.alignOk i.shape.a = true
  bAl   : f.b.alignOk i.shape.b = true
  cAl   : f.c.alignOk i.shape.c = true

theorem Instr.encoded_of_wf {i : Instr} {f : Fmt} (hf : i.fmt = some f) (h : i.wf = true) : ∃ s lr, i.Encoded f s lr := by
  unfold Instr.wf at h
  rw [hf] at h
  simp only [Instr.wfWarp] at h
  split at h
  · cases h
  · next s hs =>
    split at h
    · cases h
    · next lr hr =>
      simp only [Bool.and_eq_true, Bool.not_eq_true', and_assoc] at h
      obtain ⟨hlen, hmods, hx, hpre, hfo, hd, ha, hb, hc, hta, htb, htc, hvq, hdr, har, hbr, hdl, hal, hbl, hcl⟩ := h
      refine ⟨s, lr, hf, hs, hr, hlen, hmods, hx, ?pre, ?preVQ, hfo, hd, ha, hb, hc, hta, htb, htc, hvq, hdr, har, hbr, hdl, hal, hbl,
        hcl⟩
      case pre =>
        intro p hp
        simp only [hp, Bool.and_eq_true] at hpre
        obtain ⟨hok, -⟩ := hpre
        exact hok
      case preVQ =>
        cases hp : f.pre with
        | none => simp [Fmt.fourth, hp, Opd.isVQ]
        | some p =>
          simp only [hp, Bool.and_eq_true, Bool.not_eq_true'] at hpre
          obtain ⟨-, hvq⟩ := hpre
          rwa [Fmt.fourth, hp]

/-! ### The fields fit their words (R303) -/

/-- A form that its length rule gives no C field has no C operand and no MOD2. -/
theorem Instr.no_c {i : Instr} {s : Sig} {lr : LenRule} (hs : i.sig = some s) (hr : lenRule s.op s.mod = some lr) (hc : lr.c = false) :
    i.shape.c = .none ∧ s.mod2 = 0 := by
  cases i with
  | plog | mad | madhi | ffma | bfi | prmt | pfma | pdot | vdrop | st | atom | red | mma | mmaz | cpy | cpyt | cpyw | cpyg | cpys | emitRem | emitTask
  | spawn | tkgetClaim | tdecRem | tlbi =>
    cases hs; cases hr; cases hc
  | awaitMem =>
    cases hs
    simp [lenRule, HAppend.hAppend, -BitVec.append_eq] at hr
    subst hr
    cases hc
  | sctxWr =>
    cases hs
    simp [lenRule, modN, HAppend.hAppend, -BitVec.append_eq, -BitVec.getLsbD_eq_getElem] at hr
    subst hr
    cases hc
  | ld _ sp => cases hs; cases sp <;> exact ⟨rfl, rfl⟩
  | vote _ op => cases hs; cases op <;> exact ⟨rfl, rfl⟩
  | topk _ _ pp => cases pp <;> cases hs <;> exact ⟨rfl, rfl⟩
  | _ => cases hs <;> exact ⟨rfl, rfl⟩

/-- The forms whose only length takes the immediate as A have no C field (R327, R341). -/
theorem lenRule_imm96 {op : BitVec 10} {mod : BitVec 14} {lr : LenRule} (hr : lenRule op mod = some lr) : (lr.imm96 && lr.c) = false := by
  dsimp only [lenRule] at hr
  repeat' split at hr
  all_goals cases hr <;> rfl

theorem Opd.eq_none {o : Opd} {imm : Bool} (h : o.okFor .none imm = true) : o = .none := by
  cases o with
  | none => rfl
  | _ => cases h

theorem Opd.alignOk_none (k : OpK) : Opd.none.alignOk k = true := by
  cases k with
  | reg _ _ al => cases al <;> rfl
  | _ => rfl

section
variable (i : Instr) (f : Fmt) (s : Sig)

theorem Instr.raw_pre : (i.raw f s).pre = f.preWord := by
  cases h : f.pre <;> simp only [Instr.raw, Fmt.preWord, h] <;> rfl

theorem Instr.raw_lo : (i.raw f s).lo = i.lowWord := by
  cases i <;> rfl

end

section
variable {i : Instr} {f : Fmt} {s : Sig} {lr : LenRule} (e : i.Encoded f s lr)
include e

/-- Whether A or B is the immediate shows in their codes (R304). -/
theorem Instr.Encoded.raw_immAB : ((i.raw f s).a == codeImm || (i.raw f s).b == codeImm) = f.immAB := by
  rw [Fmt.immAB, ← Opd.code_beq_imm e.a, ← Opd.code_beq_imm e.b]
  rfl

theorem Instr.Encoded.raw_immC : ((i.raw f s).c == codeImm) = (f.c == .imm) :=
  Opd.code_beq_imm e.c

theorem Instr.Encoded.cForm_l96 (hl : f.len = .l96) : (i.raw f s).cForm = !f.immAB := by
  rw [← e.raw_immAB]
  simp only [Raw.cForm, show (i.raw f s).len = .l96 from hl]

/-- Without the C layout the form has no C field (R303, R304). -/
theorem Instr.Encoded.no_cForm (h : (i.raw f s).cForm = false) : lr.c = false := by
  have hlen := e.len
  cases hl : f.len with
  | l64 =>
    simp only [hl, LenRule.ok, Bool.and_eq_true, Bool.not_eq_true'] at hlen
    obtain ⟨-, hc⟩ := hlen
    exact hc
  | l96 =>
    have hab : f.immAB = true := by rwa [e.cForm_l96 hl, Bool.not_eq_false'] at h
    have him := lenRule_imm96 e.rule
    simp only [hl, hab, LenRule.ok, Bool.and_eq_true, Bool.or_eq_true] at hlen
    obtain ⟨-, him96 | hc⟩ := hlen
    · rwa [him96, Bool.true_and] at him
    · exact beq_iff_eq.mp hc
  | l128 =>
    have hop : s.op = 0x042 := by simpa [Raw.cForm, Instr.raw, hl] using h
    have hr := e.rule
    rw [hop] at hr
    cases hr
    rfl

/-- The fields of an encoded instruction fit the words of its length. -/
theorem Instr.Encoded.fits : (i.raw f s).Fits where
  c h := by
    obtain ⟨hk, hmod2⟩ := Instr.no_c e.sig e.rule (e.no_cForm h)
    have hc : f.c = .none := Opd.eq_none (hk ▸ e.c)
    have htc : f.tc = false := by simpa [hc, Opd.isReg] using e.tc
    exact ⟨hmod2, by simp [Instr.raw, htc], by simp [Instr.raw, hc, Opd.code]⟩
  x h := by
    have hx := e.x
    show f.x = 0
    obtain hl | ⟨hl, hform⟩ := h
    · simpa [Fmt.xOk, show f.len = .l64 from hl] using hx
    · have hab : f.immAB = false := by rwa [e.cForm_l96 hl, Bool.not_eq_true'] at hform
      simpa [Fmt.xOk, show f.len = .l96 from hl, hab] using hx
  lo h := by
    rw [Instr.raw_lo]
    cases i with
    | movd =>
      obtain ⟨-, hs, hr, hlen, -⟩ := e
      cases hs
      cases hr
      have hl : f.len = .l128 := by
        cases hl : f.len with
        | l64 | l96 => simp [hl, LenRule.ok] at hlen
        | l128 => rfl
      simp [Instr.raw, Raw.cForm, hl] at h
    | _ => rfl

end

end Sys2Proof
end

section
/-! O2: the decoder's checks, one by one, and what it answers (R309, R310). -/

namespace Sys2Proof

/-- The opcode of an instruction is one of the map of R308. -/
theorem Instr.opListed_sig {i : Instr} {s : Sig} (hs : i.sig = some s) : opListed s.op = true := by
  cases i with
  | topk _ _ pp => cases pp <;> cases hs <;> rfl
  | _ => cases hs <;> rfl

/-- In a mode in which its opcode is legal, a supervisor's instruction is no privileged fault (R309). -/
theorem Instr.not_privileged {i : Instr} {s : Sig} {sup : Bool} (hs : i.sig = some s) (hm : i.modeOk sup = true) :
    (decide (0x3C0 ≤ s.op.toNat) && !sup) = false := by
  cases i with
  | sret | mbrecv | mbpost | frep | fdrop | tlbi | wpark | wwake | sctxRd | sctxWr =>
    have hsup : sup = true := hm
    rw [hsup, Bool.not_true, Bool.and_false]
  | topk _ _ pp => cases pp <;> cases hs <;> rfl
  | _ => cases hs <;> rfl

theorem Raw.prefixOk_withFmt (r : Raw) (i : Instr) (f : Fmt) : r.prefixOk (i.withFmt f) = r.prefixOk i := by
  simp only [Raw.prefixOk, Instr.shape_withFmt, Instr.rounds_withFmt]

section
variable (i : Instr) (f : Fmt) (s : Sig)

/-- The guard fields of an instruction without a guard are zero (R301). -/
theorem Instr.raw_guard_zero : ((i.raw f s).ge == 0 && ((i.raw f s).g != 0 || (i.raw f s).gs != 0)) = false := by
  cases h : f.guard <;> simp [Instr.raw, h]

/-- The guard fields are read back as the guard (R301). -/
theorem Instr.raw_guard : (if (i.raw f s).ge == 1 then some ⟨(i.raw f s).g, (i.raw f s).gs == 1⟩ else none : Option Guard) = f.guard := by
  cases h : f.guard <;> simp [Instr.raw, h]

end

section
variable {i : Instr} {f : Fmt} {s : Sig} {lr : LenRule} (e : i.Encoded f s lr)
include e

theorem Instr.Encoded.build (g : Fmt) : (i.raw f s).build g = some (i.withFmt g) :=
  Raw.build_of_sig e.sig e.mods rfl rfl rfl (Instr.raw_lo i f s) g

/-- The codes of the operands are parsed to the operands (R293, R295). -/
theorem Instr.Encoded.parse_d : Opd.parse i.shape.d false (i.raw f s).d false = some f.d :=
  Opd.parse_code e.d rfl

theorem Instr.Encoded.parse_a :
    Opd.parse i.shape.a (lr.immOk (i.raw f s).len f.immAB (i.raw f s).op) (i.raw f s).a ((i.raw f s).ta == 1) = some f.a :=
  Opd.parse_code e.a (by rw [show ((i.raw f s).ta == 1) = f.ta from bit_beq_one f.ta, e.ta])

theorem Instr.Encoded.parse_b :
    Opd.parse i.shape.b (lr.immOk (i.raw f s).len f.immAB (i.raw f s).op) (i.raw f s).b ((i.raw f s).tb == 1) = some f.b :=
  Opd.parse_code e.b (by rw [show ((i.raw f s).tb == 1) = f.tb from bit_beq_one f.tb, e.tb])

theorem Instr.Encoded.parse_c :
    Opd.parse i.shape.c (lr.immOk (i.raw f s).len f.immAB (i.raw f s).op) (i.raw f s).c ((i.raw f s).tc == 1) = some f.c :=
  Opd.parse_code e.c (by rw [show ((i.raw f s).tc == 1) = f.tc from bit_beq_one f.tc, e.tc])

/-- A fourth operand is one that the instruction takes. -/
theorem Instr.Encoded.fourth {o : Opd} (h : f.fourth = some o) : o.okFor i.shape.fo false = true ∧ o.alignOk i.shape.fo = true := by
  obtain ⟨p, hp, ho⟩ := Option.bind_eq_some_iff.mp h
  have hok := e.pre p hp
  simp only [Pre.ok, ho, Bool.and_eq_true] at hok
  obtain ⟨-, ⟨-, hfo⟩, hal⟩ := hok
  exact ⟨hfo, hal⟩

theorem Instr.Encoded.parse_fourth :
    (if f.fourth.isSome then Opd.parse i.shape.fo false ((i.raw f s).pre.extractLsb' 11 10) false else none) = f.fourth := by
  cases h : f.fourth with
  | none => rfl
  | some o =>
    obtain ⟨hfo, -⟩ := e.fourth h
    rw [Instr.raw_pre, Fmt.preWord_fourth h]
    exact Opd.parse_code hfo rfl

theorem Instr.Encoded.align_fourth : (f.fourth.getD .none).alignOk i.shape.fo = true := by
  cases h : f.fourth with
  | none => exact Opd.alignOk_none _
  | some o =>
    obtain ⟨-, hal⟩ := e.fourth h
    exact hal

/-- Beside a w destination no source is a per-lane or queue register (R545). -/
theorem Instr.Encoded.noVQ : (i.wDest f.d && f.a.isVQ) = false ∧ (i.wDest f.d && f.b.isVQ) = false ∧ (i.wDest f.d && f.c.isVQ) = false := by
  have h := e.vq
  cases hw : i.wDest f.d with
  | false => exact ⟨rfl, rfl, rfl⟩
  | true =>
    rw [hw, Bool.true_and, Bool.or_eq_false_iff, Bool.or_eq_false_iff] at h
    obtain ⟨⟨ha, hb⟩, hc⟩ := h
    exact ⟨ha, hb, hc⟩

/-- The common fields are read back. -/
theorem Instr.Encoded.fmt_eq :
    (⟨(i.raw f s).len, (i.raw f s).prefixOf f.fourth, f.guard, f.d, f.a, f.b, f.c, (i.raw f s).ta == 1, (i.raw f s).tb == 1, (i.raw f s).tc == 1,
      (i.raw f s).x⟩ : Fmt) = f := by
  have hpre : (i.raw f s).prefixOf f.fourth = f.pre := by
    refine Raw.prefixOf_pre (Instr.raw_pre i f s) (fun p hp => ?_)
    have hok := e.pre p hp
    simp only [Pre.ok, Bool.and_eq_true, bne_iff_ne] at hok
    obtain ⟨⟨hne, -⟩, -⟩ := hok
    exact hne
  rw [hpre]
  simp [Instr.raw]

/-- R310: the fields of an encoded instruction pass every check, in a mode in which its opcode is legal, and give it back. -/
theorem Instr.Encoded.decode_raw {sup : Bool} (hmode : i.modeOk sup = true) : (i.raw f s).decode sup = .ok i := by
  have hlist : opListed (i.raw f s).op = true := Instr.opListed_sig e.sig
  have hpriv : (decide (0x3C0 ≤ (i.raw f s).op.toNat) && !sup) = false := Instr.not_privileged e.sig hmode
  have hrule : lenRule (i.raw f s).op (i.raw f s).mod = some lr := e.rule
  have hlen : lr.ok (i.raw f s).len f.immAB (f.immAB || f.c == .imm) = true := e.len
  have hmods (g : Fmt) (h : g.x = (i.raw f s).x) : (i.withFmt g).modsOk = true := (Instr.modsOk_withFmt i f e.fmt h).trans e.mods
  have hpfx : (i.raw f s).prefixOk i = true := Raw.prefixOk_of_pre (Instr.raw_pre i f s) e.pre
  have hfe : (i.raw f s).pre.getLsbD 21 = f.fourth.isSome := by rw [Instr.raw_pre, Fmt.preWord_fe]
  have hfo : (f.fourth.isSome && f.fourth.isNone) = false := by cases f.fourth <;> rfl
  obtain ⟨hva, hvb, hvc⟩ := e.noVQ
  unfold Raw.decode
  simp only [hlist, hpriv, e.raw_immAB, e.raw_immC, hrule, hlen, Instr.raw_guard_zero, Instr.raw_guard, e.build, Raw.prefixOk_withFmt,
    Instr.shape_withFmt, Instr.wDest_withFmt, Instr.dRule_withFmt, Instr.aRule_withFmt, Instr.bRule_withFmt, Instr.foRule_withFmt,
    e.parse_d, e.parse_a, e.parse_b, e.parse_c, hfe, e.parse_fourth, e.align_fourth, hmods, hpfx, e.dRule, e.aRule, e.bRule, e.fo, hfo, hva, hvb, hvc,
    e.preVQ, e.dAl, e.aAl, e.bAl, e.cAl, e.fmt_eq, Instr.withFmt_self i f e.fmt, Option.getD_some, Bool.not_true, Bool.false_or, Bool.or_false,
    Bool.false_eq_true, if_false]
  refine if_neg (fun hbad => ?_)
  split at hbad
  case h_1 h | h_2 h =>
    obtain rfl : sup = true := hbad
    have hm := congrArg (fun j => Instr.modeOk j true) h
    simp only [Instr.modeOk_withFmt, hmode] at hm
    cases hm
  case h_3 => cases hbad

/-- The words of an encoded instruction: that of its Pre, when it has one, then those of its fields (R299, R303). -/
theorem Instr.Encoded.encode_eq : encode i = (f.pre.map Pre.word).toList ++ (i.raw f s).words := by
  obtain ⟨hf, hs, -⟩ := e
  obtain ⟨_, pre, _, _, _, _, _, _, _, _, _⟩ := f
  cases i with
  | topk _ _ pp => cases hf; cases pp <;> cases hs <;> cases pre <;> rfl
  | _ => cases hf <;> cases hs <;> cases pre <;> rfl

end

/-! ### The words are read as the fields (R298, R299) -/

theorem Raw.words_eq_cons (r : Raw) : ∃ ws, r.words = r.word0 :: ws := by
  cases h : r.len <;> simp only [Raw.words, h] <;> exact ⟨_, rfl⟩

theorem Raw.decodeWords_words {r : Raw} (h : r.Fits) (hpre : r.pre = 0) (sup : Bool) : decodeWords sup r.words = r.decode sup := by
  have hr := Raw.ofWords_words h
  obtain ⟨ws, hw⟩ := r.words_eq_cons
  rw [hw, hpre] at hr
  rw [hw]
  simp only [decodeWords, r.word0_not_prefix, Bool.false_eq_true, if_false, List.headD_cons, lenOf_word0]
  exact congrArg (fun q => Raw.decode q sup) hr

theorem Raw.decodeWords_prefix {r : Raw} (h : r.Fits) (hpre : r.pre.extractLsb' 0 2 = 0) (sup : Bool) :
    decodeWords sup (r.pre :: r.words) = r.decode sup := by
  have hr := Raw.ofWords_words h
  obtain ⟨ws, hw⟩ := r.words_eq_cons
  rw [hw] at hr ⊢
  simp only [decodeWords, hpre, beq_self_eq_true, if_true, List.headD_cons, lenOf_word0]
  exact congrArg (fun q => Raw.decode q sup) hr

theorem Instr.Encoded.decodeWords_encode {i : Instr} {f : Fmt} {s : Sig} {lr : LenRule} (e : i.Encoded f s lr) (sup : Bool) :
    decodeWords sup (encode i) = (i.raw f s).decode sup := by
  rw [e.encode_eq]
  have hpre := Instr.raw_pre i f s
  rw [Fmt.preWord] at hpre
  cases h : f.pre with
  | none =>
    rw [h] at hpre
    exact Raw.decodeWords_words e.fits hpre sup
  | some p =>
    rw [h] at hpre
    have hd := Raw.decodeWords_prefix e.fits (by rw [hpre]; exact p.word_low) sup
    rwa [hpre] at hd

/-- The word of dpst is read back (R255): its fixed bits are those that the decoder compares, and the registers lie between them. -/
theorem decodeHost_dpst (rd rs1 rs2 : BitVec 5) : decodeHost (0#7 ++ rs2 ++ rs1 ++ 0#3 ++ rd ++ 0x0B#7) = some (.dpst rd rs1 rs2) := by
  have hmask : (0#7 ++ rs2 ++ rs1 ++ 0#3 ++ rd ++ 0x0B#7) &&& (0x7F#7 ++ 0#5 ++ 0#5 ++ 0x7#3 ++ 0#5 ++ 0x7F#7) = 0x0B#32 := by
    simp only [BitVec.and_append, BitVec.and_zero]
    rfl
  have hne : (0#7 ++ rs2 ++ rs1 ++ 0#3 ++ rd ++ 0x0B#7) ≠ 0x100B#32 := by
    intro h
    rw [h] at hmask
    exact absurd hmask (by decide)
  unfold decodeHost
  rw [if_neg (by simpa using hne)]
  refine (if_pos (beq_iff_eq.mpr hmask)).trans ?_
  simp [HAppend.hAppend, -BitVec.append_eq]

end Sys2Proof
end

section
namespace Sys2Proof.Machine

/-- Settles O2: the fields of an encoded instruction fit its words (Encoded.fits), are read back from them (decodeWords_encode), and pass the
decoder's checks (Encoded.decode_raw). -/
theorem decodeEncode : Obligations.DecodeEncode := by
  unfold Obligations.DecodeEncode
  refine ⟨fun i sup hf hwf hmode => ?_, fun rd rs1 rs2 => ?_, rfl⟩
  · obtain ⟨f, hf⟩ := Option.isSome_iff_exists.mp hf
    obtain ⟨s, lr, e⟩ := Instr.encoded_of_wf hf hwf
    rw [e.decodeWords_encode, e.decode_raw hmode]
  · exact congrArg (fun x => [x]) (decodeHost_dpst rd rs1 rs2)

end Sys2Proof.Machine
end

section
namespace Sys2Proof.Machine

/-- Words that encode an instruction decode to it, by O2. -/
theorem decodeWords_of_encode {i : Instr} {sup : Bool} {ws : List Word} (he : encode i = ws) (hf : i.fmt.isSome = true) (hwf : i.wf = true)
    (hm : i.modeOk sup = true) : decodeWords sup ws = .ok i := by
  obtain ⟨hdecode, -, -⟩ := decodeEncode
  rw [← he]
  exact hdecode i sup hf hwf hm

/-- Settles O1: each word of the stream is the encoding of its instruction, and O2 gives that back. -/
theorem wordsDecode : Obligations.WordsDecode := by
  unfold Obligations.WordsDecode
  refine ⟨decodeWords_of_encode ?_ rfl ?_ rfl, decodeWords_of_encode ?_ rfl ?_ rfl, decodeWords_of_encode ?_ rfl ?_ rfl,
    decodeWords_of_encode ?_ rfl ?_ rfl, decodeHost_dpst 10 11 12, rfl⟩
  all_goals decide

end Sys2Proof.Machine
end

section
/-! O6: exec never refuses (R308). A warp instruction is an issue (exec_issue),
  and an issue is settled; every other row ends in a next state, or
in what State.out makes of one. -/

namespace Sys2Proof.Machine

/-- The outcome is a next state or the model's fault. -/
def Answers (o : Host.Outcome State Fault Refusal) : Prop := ∀ r, o ≠ .refused r

/-! ### The ways in which a row ends -/

theorem answers_next (s : State) : Answers (.next s) := nofun

theorem answers_out (s : State) : Answers s.out := by
  intro r
  unfold State.out
  split <;> exact nofun

theorem answers_ite {c : Prop} [Decidable c] {a b : Host.Outcome State Fault Refusal} (ha : Answers a) (hb : Answers b) :
    Answers (if c then a else b) := by
  split
  · exact ha
  · exact hb

theorem answers_byShatus (s t : State) : Answers (s.byShatus t) :=
  answers_ite (answers_next s) (answers_out t)

theorem answers_command (s : State) (i : Instr) (f : State → Nat × State) : Answers (s.command i f) :=
  answers_ite (answers_next s) (answers_out _)

theorem answers_receiveIf (s : State) (p : Packet) (f : State → State × Bool) : Answers (s.receiveIf p f) := by
  unfold State.receiveIf
  refine answers_ite (answers_next _) (answers_ite (answers_next _) (answers_ite (answers_out _) (answers_ite (answers_next _) ?_)))
  split
  · exact answers_out _
  · refine answers_ite (answers_out _) ?_
    split <;> exact answers_out _

theorem answers_receive (s : State) (p : Packet) (f : State → State) : Answers (s.receive p f) :=
  answers_receiveIf s p _

/-! ### Warp instructions -/

theorem answers_settleRes (cu : Cur) (size : Nat) (s : State) (r : Res) : Answers (settleRes cu size s r) := by
  unfold settleRes
  extract_lets halted fin held at_
  have hfin (t : State) (b : Bool) : Answers (fin t b) := answers_out { t with cur := none, issued := b }
  cases r with
  | ok t => exact hfin _ _
  | hold t => exact hfin _ _
  | fault r => exact hfin _ _
  | faultIn t r => exact hfin _ _
  | replay src r =>
    dsimp only
    split <;> exact hfin _ _

theorem answers_issueOcc (i : Instr) (f : Fmt) (occ : Ctx → State → Nat) (body : Ctx → State → Res) (s : State) :
    Answers (issueOcc i f occ body s) := by
  unfold issueOcc
  split
  · exact answers_next s
  · exact answers_settleRes _ _ _ _

/-! ### Rows with branches of their own -/

section
variable (s : State)

theorem execGroupAdmission_answers (die : Nat) : Answers (execGroupAdmission die s) := by
  unfold execGroupAdmission
  split
  · exact answers_next s
  · split
    · exact answers_next s
    · exact answers_out _

theorem execStagingComplete_answers (core group : Nat) : Answers (execStagingComplete core group s) := by
  unfold execStagingComplete
  split
  · exact answers_next s
  · refine answers_ite (answers_next s) ?_
    dsimp only
    split
    · exact answers_out _
    · exact answers_ite (answers_out _) (answers_out _)

theorem execWarpParkTimeout_answers (core warp : Nat) : Answers (execWarpParkTimeout core warp s) := by
  unfold execWarpParkTimeout
  split
  · exact answers_next s
  · exact answers_ite (answers_out _) (answers_next s)

theorem execWarpUnpark_answers (core slice : Nat) : Answers (execWarpUnpark core slice s) := by
  unfold execWarpUnpark
  refine answers_ite (answers_next s) ?_
  dsimp only
  split
  · exact answers_out _
  · exact answers_next s

theorem execSwitchRestoreEnd_answers (core : Nat) : Answers (execSwitchRestoreEnd core s) := by
  unfold execSwitchRestoreEnd
  refine answers_ite (answers_next s) ?_
  dsimp only
  split <;> exact answers_out _

theorem execCoreRestart_answers (core : Nat) : Answers (execCoreRestart core s) := by
  unfold execCoreRestart
  dsimp only
  split
  · refine answers_ite (answers_next s) ?_
    split <;> exact answers_out _
  · exact answers_next s

theorem execNreg_answers (c : Cmd) : Answers (execNreg c s) := by
  unfold execNreg
  refine answers_ite (answers_next s) (answers_ite (answers_out _) ?_)
  split
  · exact answers_out _
  · split
    · exact answers_out _
    · exact answers_out _
    · exact answers_ite (answers_out _) (answers_out _)

theorem execDepositToRecords_answers : Answers (execDepositToRecords s) := by
  unfold execDepositToRecords
  split
  · exact answers_next s
  · exact answers_ite (answers_out _) (answers_out _)

theorem execUserInterruptWaitEnd_answers (target : Nat) : Answers (execUserInterruptWaitEnd target s) := by
  unfold execUserInterruptWaitEnd
  split
  · exact answers_ite (answers_next _) (answers_ite (answers_next s) (answers_out _))
  · exact answers_next s

theorem execDpst_answers (rd rs1 rs2 : BitVec 5) : Answers (execDpst rd rs1 rs2 s) := by
  unfold execDpst
  split
  · exact answers_next s
  · dsimp only
    split
    · exact answers_out _
    · split
      · exact answers_ite (answers_out _) (answers_out _)
      · exact answers_out _

theorem execPren_answers (p : Packet) : Answers (execPren p s) := by
  unfold execPren
  refine answers_ite (answers_next s) (answers_ite (answers_next _) ?_)
  split <;> exact answers_out _

end

/-! ### Every row -/

/-- A row that is no warp instruction answers: the cases go by the way in which a row ends. -/
theorem exec_answers_of_no_fmt {i : Instr} (s : State) (h : i.fmt = none) : Answers (exec i s) := by
  cases i <;> unfold exec
  case packageReset | bgPromotion | measurementExtend => exact answers_next _
  case dpst => exact execDpst_answers s _ _ _
  case groupAdmission => exact execGroupAdmission_answers s _
  case stagingComplete => exact execStagingComplete_answers s _ _
  case warpParkTimeout => exact execWarpParkTimeout_answers s _ _
  case warpUnpark => exact execWarpUnpark_answers s _ _
  case switchRestoreEnd => exact execSwitchRestoreEnd_answers s _
  case coreRestart => exact execCoreRestart_answers s _
  case nreg => exact execNreg_answers s _
  case depositToRecords => exact execDepositToRecords_answers s
  case userInterruptWaitEnd => exact execUserInterruptWaitEnd_answers s _
  case pren => exact execPren_answers s _
  case dpcfgWrite | uitcfgWrite | dequeEntryWrite | gpctlWrite | grtselWrite | ptpcfgWrite | erlostWrite | registerWrite =>
    exact answers_byShatus s _
  case nunreg | keygen | keykill | partset | attest | cmdUndefined => exact answers_command s _ _
  case rd | wr | atomPacket | redPacket | taskDecrementPacket | recPacket | claim | esct | escd | rdr | atomr | claimr | errr | wake
    | snot | tte | ttr | abrt =>
    exact answers_receive s _ _
  case mon | fbar | frel | sdec | fwdr => exact answers_receiveIf s _ _
  case tillTimerExpiry | yieldIntervalEnd | queueCommitNotice | switchPrepare | switchSignal | slotWindowEnd | matrixRampTimer
    | preemptionSlotEnd | resyncTimer | drainMarkerReceive | portLightLoss | portLightReturn | portRelockComplete | relockTimeout
    | darkTimeout | laneRetrain | cluitxWrite | lockLossTimeout | arrayCorrectedError | arrayUncorrectableError | hdieUncorrectableError =>
    exact answers_out _
  case switchDrainEnd | switchDrainLimit | clockChangeEnd | drainMarkerSend | drainMarkerTimeout | epochSend | userInterruptTake
    | copyAccessFault =>
    dsimp only [execSwitchDrainEnd, execSwitchDrainLimit, execClockChangeEnd, execDrainMarkerSend, execDrainMarkerTimeout, execEpochSend,
      execUserInterruptTake, execCopyAccessFault]
    exact answers_ite (answers_out _) (answers_next s)
  case switchHaltEnd | switchSaveEnd | hotPageEpochEnd | patrolRead | ptpm | sack | epoch =>
    dsimp only [execSwitchHaltEnd, execSwitchSaveEnd, execHotPageEpochEnd, execPatrolRead, execPtpm, execSack, execEpoch]
    exact answers_ite (answers_next s) (answers_out _)
  case deposit | unreachableDeclare =>
    dsimp only [execDeposit, execUnreachableDeclare]
    exact answers_ite (answers_out _) (answers_out _)
  case flitReceive =>
    unfold execFlitReceive
    exact answers_ite (answers_next s) (answers_ite (answers_out _) (answers_out _))
  case resyncReceive =>
    unfold execResyncReceive
    exact answers_ite (answers_next s) (answers_ite (answers_out _) (answers_ite (answers_out _) (answers_next s)))
  case laneLoss =>
    unfold execLaneLoss
    exact answers_ite (answers_next s) (answers_ite (answers_out _) (answers_out _))
  case ptpExchange =>
    unfold execPtpExchange
    exact answers_ite (answers_out _) (answers_ite (answers_out _) (answers_next _))
  case matrixResultWritten | redPerformed | vfReset | holdoverTimeout | portDownRetrain =>
    dsimp only [execMatrixResultWritten, execRedPerformed, execVfReset, execHoldoverTimeout, execPortDownRetrain]
    split
    · exact answers_out _
    · exact answers_next s
  case clret =>
    dsimp only [execClret]
    split
    · exact answers_next s
    · exact answers_out _
  case loadDataReturn | warpComplete | copyPosting | copyComplete | monitorDeadline | sackTimer | packetRetransmit =>
    dsimp only [execLoadDataReturn, execWarpComplete, execCopyPosting, execCopyComplete, execMonitorDeadline, execSackTimer,
      execPacketRetransmit]
    split
    · exact answers_ite (answers_out _) (answers_next s)
    · exact answers_next s
  case tillSpillReturn | nodeUnregisterEffect =>
    dsimp only [execTillSpillReturn, execNodeUnregisterEffect]
    split
    · exact answers_ite (answers_next _) (answers_next _)
    · exact answers_next s
  all_goals cases h

theorem exec_answers (i : Instr) (s : State) : Answers (exec i s) := by
  cases hf : i.fmt with
  | none => exact exec_answers_of_no_fmt s hf
  | some f =>
    obtain ⟨occ, body, he⟩ := exec_issue i f s hf
    rw [he]
    exact answers_issueOcc i f occ body s

/-- Settles O6: a warp instruction is settled (answers_settleRes), and every other row ends in one of the ways above. -/
theorem neverRefused : Obligations.NeverRefused :=
  fun i s r => exec_answers i s r

end Sys2Proof.Machine
end

section
/-! O10 to O13: an instruction that only computes is one issue whose effect is a value for D, a predicate or flags. What each form of meaning
completes with is said once; each instruction then has one of the forms. -/

namespace Sys2Proof.Machine

/-! ### What an instruction that only computes completes with (R46, R167, R341) -/

/-- The answer r is that the instruction has completed with the effect e. -/
def Completes (i : Instr) (f : Fmt) (cu : Cur) (s : State) (r : Host.Outcome State Fault Refusal) (e : DataEff) : Prop :=
  ∃ t, r = .next (popped i f cu s t) ∧ DataDone i f e cu s t

/-- D of the instruction is a run of n registers, or a queue register that it uses (R54, R92, R293). -/
structure DestIs (i : Instr) (f : Fmt) (n : Nat) : Prop where
  runs : ∀ g, destRunsOf i f g = runOf f.d n
  uses : (∃ q, f.d = .q q) → queueUses i f ≠ []

section
variable {i : Instr} {f : Fmt} {cu : Cur} {s : State} {n : Nat}

/-- A value in each lane that comes from the sources. -/
theorem values_complete {val : Ctx → State → Nat → Nat} (h : ready i f cu s = true) (hd : DestIs i f n)
    (hv : ∀ occ, val (mkCtx s cu i f) (begun i f occ cu s) = val (mkCtx s cu i f) s) :
    Completes i f cu s (issueOk i f (fun c t => c.wr t n (val c t)) s) (.d n val) :=
  data_d h (hd.runs _) hd.uses fun occ => by rw [hv occ]

/-- A value and flags in each lane that come from the sources (R167). -/
theorem flagged_complete {val : Ctx → State → Nat → Nat × Flags} (h : ready i f cu s = true) (hd : DestIs i f n)
    (hv : ∀ occ, val (mkCtx s cu i f) (begun i f occ cu s) = val (mkCtx s cu i f) s) :
    Completes i f cu s (issueOk i f (fun c t => c.wrF t n (val c t)) s) (.fl n val) :=
  data_f h (hd.runs _) hd.uses fun occ => by rw [hv occ]; rfl

variable {na nb nc : Nat}

theorem unary_completes {op : Nat → Nat} (h : ready i f cu s = true) (hd : DestIs i f n) :
    Completes i f cu s (unary i f n na op s) (.d n (fun c s l => op (c.a s na l))) :=
  values_complete h hd fun occ => by rw [a_begun]

theorem binary_completes {op : Nat → Nat → Nat} (h : ready i f cu s = true) (hd : DestIs i f n) :
    Completes i f cu s (binary i f n na nb op s) (.d n (fun c s l => op (c.a s na l) (c.b s nb l))) :=
  values_complete h hd fun occ => by rw [a_begun, b_begun]

theorem un_completes {t : Ty} {op : Nat → Nat} (h : ready i f cu s = true) (hd : DestIs i f t.words) :
    Completes i f cu s (un i f t op s) (.d t.words (fun c s l => op (c.a s t.words l))) :=
  unary_completes h hd

theorem bin_completes {t : Ty} {op : Nat → Nat → Nat} (h : ready i f cu s = true) (hd : DestIs i f t.words) :
    Completes i f cu s (bin i f t op s) (.d t.words (fun c s l => op (c.a s t.words l) (c.b s t.words l))) :=
  binary_completes h hd

theorem ternary_completes {op : Nat → Nat → Nat → Nat} (h : ready i f cu s = true) (hd : DestIs i f n) :
    Completes i f cu s (ternary i f n na nb nc op s) (.d n (fun c s l => op (c.a s na l) (c.b s nb l) (c.c s nc l))) :=
  values_complete h hd fun occ => by rw [a_begun, b_begun, c_begun]

/-- addc and subb write the sum or the difference, and its carry or borrow in CP (R342). -/
theorem carry_completes {t : Ty} {cp : BitVec 4} {sub : Bool} (h : ready i f cu s = true) (hd : DestIs i f t.words) :
    Completes i f cu s (carry i f t cp sub s) { DataEff.p cp.toNat (fun c s l => if sub then carrySum t cp sub c s l < 0 else (2 ^ tyBits t : Nat) ≤ carrySum t cp sub c s l) with
      n := t.words, val := fun c s l => narrow t false (carrySum t cp sub c s l) } :=
  data_p (fl := fun _ _ => 0) h (hd.runs _) hd.uses fun occ => by
    have hx : carrySum t cp sub (mkCtx s cu i f) (begun i f occ cu s) = carrySum t cp sub (mkCtx s cu i f) s := by
      funext l
      simp only [carrySum, a_begun, b_begun]
    rw [flags_zero, ← hx]
    rfl

theorem intEff_completes {e : DataEff} (hw : i.wf = true) (he : intEff i = some (f, e)) (h : ready i f cu s = true) :
    Completes i f cu s (exec i s) e := by
  cases i <;> unfold exec
  case add | sub | mul | mulhi | div | rem | min | max | and | or | xor | andn =>
    cases he
    exact bin_completes h ⟨fun _ => rfl, uses_ne (words_pos _)⟩
  case shl | shr | sar | rot | bfx =>
    cases he
    exact binary_completes h ⟨fun _ => rfl, uses_ne (words_pos _)⟩
  case lea =>
    cases he
    exact binary_completes h ⟨fun _ => rfl, uses_ne Nat.two_pos⟩
  case mad | madhi | bfi =>
    cases he
    exact ternary_completes h ⟨fun _ => rfl, uses_ne (words_pos _)⟩
  case prmt =>
    cases he
    exact ternary_completes h ⟨fun _ => rfl, uses_ne Nat.one_pos⟩
  case abs | neg | not | brev | mov | movi =>
    cases he
    exact un_completes h ⟨fun _ => rfl, uses_ne (words_pos _)⟩
  case popc | clz | ctz =>
    cases he
    exact unary_completes h ⟨fun _ => rfl, uses_ne Nat.one_pos⟩
  case addc | subb =>
    cases he
    exact carry_completes h ⟨fun _ => rfl, uses_ne (words_pos _)⟩
  case sel =>
    cases he
    exact values_complete h ⟨fun _ => rfl, uses_ne (words_pos _)⟩ fun occ => by rw [a_begun, b_begun]
  case movd f t lo =>
    cases he
    obtain ⟨_, _, enc⟩ := Instr.encoded_of_wf rfl hw
    have ht : t.words = 2 := by
      have hm : (t = .i64 ∨ t = .n64) ∨ t = .f64 := by simpa [Instr.modsOk] using enc.mods
      rcases hm with (rfl | rfl) | rfl <;> rfl
    exact values_complete h ⟨fun _ => congrArg (runOf f.d) ht, uses_ne (words_pos t)⟩ fun _ => rfl
  case cvset =>
    cases he
    exact values_complete h ⟨fun _ => rfl, uses_ne Nat.one_pos⟩ fun _ => rfl
  all_goals cases he
end

section
variable {i : Instr} {f : Fmt} {cu : Cur} {s : State} {n na nb : Nat}

theorem fp1_completes {op : RC → Nat → Nat × Flags} (h : ready i f cu s = true) (hd : DestIs i f n) :
    Completes i f cu s (fp1 i f n na op s) (.fl n (fun c s l => op (c.w.rc f.pre l 0) (c.a s na l))) :=
  flagged_complete h hd fun occ => by rw [a_begun]

theorem fp2_completes {op : RC → Nat → Nat → Nat × Flags} (h : ready i f cu s = true) (hd : DestIs i f n) :
    Completes i f cu s (fp2 i f n na nb op s) (.fl n (fun c s l => op (c.w.rc f.pre l 0) (c.a s na l) (c.b s nb l))) :=
  flagged_complete h hd fun occ => by rw [a_begun, b_begun]

theorem fp3_completes {op : RC → Nat → Nat → Nat → Nat × Flags} (h : ready i f cu s = true) (hd : DestIs i f n) :
    Completes i f cu s (fp3 i f n op s) (.fl n (fun c s l => op (c.w.rc f.pre l 0) (c.a s n l) (c.b s n l) (c.c s n l))) :=
  flagged_complete h hd fun occ => by rw [a_begun, b_begun, c_begun]

theorem floatEff_completes {e : DataEff} (he : floatEff i = some (f, e)) (h : ready i f cu s = true) :
    Completes i f cu s (exec i s) e := by
  cases i <;> unfold exec
  case fadd | fsub | fmul | fmin | fmax | fdiv | fscale =>
    cases he
    exact fp2_completes h ⟨fun _ => rfl, uses_ne (words_pos _)⟩
  case ffma =>
    cases he
    exact fp3_completes h ⟨fun _ => rfl, uses_ne (words_pos _)⟩
  case fsqrt | frnd | fcvt | icvt =>
    cases he
    exact fp1_completes h ⟨fun _ => rfl, uses_ne (words_pos _)⟩
  case fgexp =>
    cases he
    exact fp1_completes h ⟨fun _ => rfl, uses_ne Nat.one_pos⟩
  case fneg | fabs =>
    cases he
    exact un_completes h ⟨fun _ => rfl, uses_ne (words_pos _)⟩
  case fcls =>
    cases he
    exact unary_completes h ⟨fun _ => rfl, uses_ne Nat.one_pos⟩
  case fcsign =>
    cases he
    exact bin_completes h ⟨fun _ => rfl, uses_ne (words_pos _)⟩
  all_goals cases he

theorem spec1_completes {op : Nat} (h : ready i f cu s = true) (hd : DestIs i f 1) :
    Completes i f cu s (spec1 i f op s) (.fl 1 (fun c s l => special op (BitVec.ofNat 32 (c.a s 1 l)))) :=
  fp1_completes h hd

theorem specEff_completes {e : DataEff} (he : specEff i = some (f, e)) (h : ready i f cu s = true) :
    Completes i f cu s (exec i s) e := by
  cases i <;> unfold exec
  case vsin | vcos | vex2 | vlg2 | vrcp | vrsq | vtanh =>
    cases he
    exact spec1_completes h ⟨fun _ => rfl, uses_ne Nat.one_pos⟩
  case vscs =>
    cases he
    exact fp1_completes h ⟨fun _ => rfl, uses_ne Nat.two_pos⟩
  all_goals cases he

/-- Sub-element by sub-element (R356). -/
theorem packed2_completes {t : Ty} {op : RC → Nat → Nat → Nat → Nat × Flags} (h : ready i f cu s = true) (hd : DestIs i f 1) :
    Completes i f cu s (packed2 i f t op s) (.fl 1 (fun c s l => subwise c.w f.pre l t (fun rc k => op rc (c.a s 1 l) (c.b s 1 l) k))) :=
  flagged_complete h hd fun occ => by rw [a_begun, b_begun]

theorem packEff_completes {e : DataEff} (he : packEff i = some (f, e)) (h : ready i f cu s = true) :
    Completes i f cu s (exec i s) e := by
  cases i <;> unfold exec
  case padd | psub | pmul | pmin | pmax =>
    cases he
    exact packed2_completes h ⟨fun _ => rfl, uses_ne Nat.one_pos⟩
  case pdot =>
    cases he
    exact fp3_completes h ⟨fun _ => rfl, uses_ne Nat.one_pos⟩
  case punpk =>
    cases he
    exact fp1_completes h ⟨fun _ => rfl, uses_ne Nat.one_pos⟩
  case pfma =>
    cases he
    exact flagged_complete h ⟨fun _ => rfl, uses_ne Nat.one_pos⟩ fun occ => by rw [a_begun, b_begun, c_begun]
  case pcvt =>
    cases he
    exact flagged_complete h ⟨fun _ => rfl, uses_ne Nat.one_pos⟩ fun occ => by rw [a_begun]
  case ppack =>
    cases he
    exact flagged_complete h ⟨fun _ => rfl, uses_ne Nat.one_pos⟩ fun occ => by rw [a_begun, b_begun]
  case pabs =>
    cases he
    exact values_complete h ⟨fun _ => rfl, uses_ne Nat.one_pos⟩ fun occ => by rw [a_begun]
  all_goals cases he

/-! ### Cross-lane and random instructions (R359 to R364) -/

theorem start_begun (occ : Ctx → State → Nat) (o : Sys2Proof.ROp) (t : Ty) :
    (mkCtx s cu i f).start (begun i f occ cu s) o t = (mkCtx s cu i f).start s o t := by
  simp only [Ctx.start, a_begun]

theorem laneEff_completes {e : DataEff} (he : laneEff i = some (f, e)) (h : ready i f cu s = true) :
    Completes i f cu s (exec i s) e := by
  cases i <;> unfold exec
  case lshf =>
    cases he
    exact values_complete h ⟨fun _ => rfl, uses_ne (words_pos _)⟩ fun occ => by rw [a_begun, b_begun]
  case lred f t o seg =>
    cases he
    refine data_f h rfl (uses_ne Nat.one_pos) fun occ => ?_
    simp only [lredEnd, start_begun]
  case lscan f t o seg exc =>
    cases he
    refine data_f h rfl (uses_ne Nat.one_pos) fun occ => ?_
    simp only [lscanEnd, start_begun]
  case vhash =>
    cases he
    exact values_complete h ⟨fun _ => rfl, uses_ne Nat.two_pos⟩ fun occ => by rw [a_begun]
  case vdrop =>
    cases he
    exact values_complete h ⟨fun _ => rfl, uses_ne Nat.one_pos⟩ fun occ => by rw [a_begun, b_begun, c_begun]
  all_goals cases he

/-! ### Predicate instructions (R336 to R340) -/

/-- A field that is no register field holds neither a register nor a queue register (R293). -/
theorem destIs_zero {k : OpK} (hr : ∀ g, destRunsOf i f g = runOf f.d k.words) (hk : ∀ c m al, k ≠ .reg c m al)
    (hd : f.d.okFor k false = true) : DestIs i f 0 := by
  have hrun : runOf f.d k.words = runOf f.d 0 ∧ ∀ q, f.d ≠ .q q := by
    cases k with
    | reg c m al => exact absurd rfl (hk c m al)
    | _ => cases hf : f.d <;> simp [hf, Opd.okFor, runOf] at hd ⊢
  exact ⟨fun g => (hr g).trans hrun.1, fun ⟨q, hq⟩ => absurd hq (hrun.2 q)⟩

/-- A predicate takes a value in each lane that comes from the sources (R323). -/
theorem test_completes {q : Nat} {b : Ctx → State → Nat → Bool} (h : ready i f cu s = true) (hd : DestIs i f 0)
    (hb : ∀ occ, b (mkCtx s cu i f) (begun i f occ cu s) = b (mkCtx s cu i f) s) :
    Completes i f cu s (issueOk i f (fun c t => c.wrP t q (b c t)) s) (.p q b) :=
  data_p (n := 0) (val := fun _ _ _ => 0) (fl := fun _ _ => 0) h (hd.runs _) hd.uses fun occ => by rw [flags_zero, wr_zero, hb occ]

/-- psetf raises the flags of its comparisons as well (R167, R337). -/
theorem flaggedTest_completes {q : Nat} {b : Ctx → State → Nat → Bool} {fl : Ctx → State → Flags} (h : ready i f cu s = true)
    (hd : DestIs i f 0) (hb : ∀ occ, b (mkCtx s cu i f) (begun i f occ cu s) = b (mkCtx s cu i f) s)
    (hf : ∀ occ, fl (mkCtx s cu i f) (begun i f occ cu s) = fl (mkCtx s cu i f) s) :
    Completes i f cu s (issueOk i f (fun c t => c.flags (c.wrP t q (b c t)) (fl c t)) s) { DataEff.p q b with flg := fl } :=
  data_p (n := 0) (val := fun _ _ _ => 0) h (hd.runs _) hd.uses fun occ => by rw [wr_zero, hb occ, hf occ]

/-- Predicates of a list written in turn change nothing else of the warp. -/
theorem foldl_pPut_frame (m b : Nat → Mask) (ks : List Nat) (w : Warp) :
    let w' := ks.foldl (fun (w : Warp) k => w.pPut k (m k) (b k)) w
    w' = { w with preds := w'.preds } ∧ w'.preds.length = w.preds.length := by
  induction ks generalizing w with
  | nil => exact ⟨rfl, rfl⟩
  | cons k ks ih =>
    obtain ⟨h1, h2⟩ := ih (w.pPut k (m k) (b k))
    simp only [List.foldl_cons]
    refine ⟨?_, h2.trans (modNth_length _ _ _)⟩
    rw [h1]
    rfl

/-- Predicate q after a write of predicate p in the lanes of a mask. -/
theorem pGet_pPut (w : Warp) (p q l : Nat) (m b : Mask) :
    (w.pPut p m b).pGet q l = if p = q ∧ q < w.preds.length ∧ m.getLsbD l then b.getLsbD l else w.pGet q l := by
  simp only [Warp.pPut, Warp.pGet, modNth_getD]
  by_cases hp : p = q ∧ q < w.preds.length
  · obtain ⟨rfl, hq⟩ := hp
    by_cases hl : l < 32
    · simp only [hq, and_self, if_true, true_and, BitVec.getLsbD_or, BitVec.getLsbD_and, BitVec.getLsbD_not, hl, decide_true]
      cases m.getLsbD l <;> simp
    · simp [hq, BitVec.getLsbD_of_ge _ l (Nat.le_of_not_lt hl)]
  · rw [if_neg hp, if_neg (fun h => hp ⟨h.1, h.2.1⟩)]

/-- Each predicate after a write of several, none of them twice (R339). -/
theorem pGet_foldl_pPut (m b : Nat → Mask) {ks : List Nat} (hk : ks.Nodup) (w : Warp) (q l : Nat) :
    (ks.foldl (fun (w : Warp) k => w.pPut k (m k) (b k)) w).pGet q l =
      if q ∈ ks ∧ q < w.preds.length ∧ (m q).getLsbD l then (b q).getLsbD l else w.pGet q l := by
  induction ks generalizing w with
  | nil => simp
  | cons k ks ih =>
    obtain ⟨hnot, hk⟩ := List.nodup_cons.mp hk
    have hlen : (w.pPut k (m k) (b k)).preds.length = w.preds.length := modNth_length _ _ _
    rw [List.foldl_cons, ih hk, hlen, pGet_pPut]
    by_cases hq : k = q
    · subst hq
      simp [hnot]
    · simp [hq, Ne.symm hq]

/-- What pmov.put makes of the warp (R339). -/
def Ctx.putPreds (c : Ctx) (s : State) (w : Warp) : Warp :=
  (List.range 16).foldl (fun (w : Warp) k =>
    w.pPut k (maskOf (fun l => c.active.getLsbD l && (c.b s 1 l).testBit k)) (maskOf (fun l => (c.a s 1 l).testBit k))) w

theorem putPreds_frame (c : Ctx) (s : State) (w : Warp) : c.putPreds s w = { w with preds := (c.putPreds s w).preds } :=
  (foldl_pPut_frame _ _ _ w).1

/-- The predicates that pmov.put writes: the bits of A that B selects (R339). -/
def putBits (p : Nat) : Option (Ctx → State → Nat → Bool) :=
  if p < 16 then some (fun c s l => if (c.b s 1 l).testBit p then (c.a s 1 l).testBit p else c.w.pGet p l) else none

theorem pGet_putPreds {c : Ctx} (s : State) {w : Warp} (hu : c.unif = false) (hw : w.preds = c.w.preds) (p : Nat) {l : Nat} (hl : l < 32) :
    (c.putPreds s w).pGet p l = pAfter c s putBits p l := by
  have hg : w.pGet p l = c.w.pGet p l := by simp only [Warp.pGet, hw]
  have hown : c.laneOf l = l := by simp [Ctx.laneOf, hu]
  simp only [Ctx.putPreds, pGet_foldl_pPut _ _ List.nodup_range, List.mem_range, maskOf_bit _ l hl, hg, hw, pAfter, putBits]
  by_cases hp : p < 16
  · simp only [hp, if_true, true_and, hown, Bool.and_eq_true, ite_and]
  · simp only [hp, if_false, false_and]

theorem pmovPut_completes (hd : DestIs (.pmovPut f) f 0) (h : ready (.pmovPut f) f cu s = true) :
    Completes (.pmovPut f) f cu s (execPmovPut f s) { prd := putBits } := by
  have hu : (mkCtx s cu (.pmovPut f) f).unif = false := Bool.and_false _
  unfold execPmovPut
  refine data_issue h ((mkCtx s cu (.pmovPut f) f).putPreds s) (hd.runs _) hd.uses (fun w => by rw [putPreds_frame])
    (fun w p l hl hw => pGet_putPreds s hu hw p hl) (fun w hw => ?_) (fun occ => ?_)
  · rw [putPreds_frame]
    simp [Warp.orFlags, hw]
  · rw [wr_zero]
    simp only [a_begun, b_begun]
    rfl

theorem predEff_completes {e : DataEff} (hw : i.wf = true) (he : predEff i = some (f, e)) (h : ready i f cu s = true) :
    Completes i f cu s (exec i s) e := by
  cases i <;> unfold exec
  case pset f c t =>
    cases he
    obtain ⟨_, _, enc⟩ := Instr.encoded_of_wf rfl hw
    exact test_completes h (destIs_zero (fun _ => rfl) nofun enc.d) fun occ => by rw [a_begun, b_begun]
  case psetf f c t =>
    cases he
    obtain ⟨_, _, enc⟩ := Instr.encoded_of_wf rfl hw
    exact flaggedTest_completes h (destIs_zero (fun _ => rfl) nofun enc.d) (fun occ => by rw [a_begun, b_begun])
      (fun occ => by rw [a_begun, b_begun])
  case plog f lut =>
    cases he
    obtain ⟨_, _, enc⟩ := Instr.encoded_of_wf rfl hw
    exact test_completes h (destIs_zero (fun _ => rfl) nofun enc.d) fun _ => rfl
  case pmovGet =>
    cases he
    exact values_complete h ⟨fun _ => rfl, uses_ne Nat.one_pos⟩ fun _ => rfl
  case pmovPut f =>
    cases he
    obtain ⟨_, _, enc⟩ := Instr.encoded_of_wf rfl hw
    exact pmovPut_completes (destIs_zero (fun _ => rfl) nofun enc.d) h
  case vote f op =>
    obtain ⟨_, _, enc⟩ := Instr.encoded_of_wf rfl hw
    cases op
    case ballot =>
      cases he
      exact values_complete h ⟨fun _ => rfl, uses_ne Nat.one_pos⟩ fun _ => rfl
    case any | all | eq =>
      cases he
      exact test_completes h (destIs_zero (fun _ => rfl) nofun enc.d) fun _ => rfl
  all_goals cases he

end

/-- Settles O10: each instruction has one of the forms of meaning (intEff_completes). -/
theorem integerInstructions : Obligations.IntegerInstructions :=
  fun _ _ _ _ _ hw he h => intEff_completes hw he h

/-- Settles O11: a predicate takes its value in the ACTIVE lanes (predEff_completes); pmov.put writes its predicates in turn (pGet_putPreds). -/
theorem predicateInstructions : Obligations.PredicateInstructions :=
  fun _ _ _ _ _ hw he h => predEff_completes hw he h

/-- Settles O12: values and flags of one, two or three sources (floatEff_completes, specEff_completes). -/
theorem floatInstructions : Obligations.FloatInstructions :=
  ⟨fun _ _ _ _ _ _ he h => floatEff_completes he h, fun _ _ _ _ _ _ he h => specEff_completes he h⟩

/-- Settles O13: sub-element by sub-element, or over all of them (packEff_completes). -/
theorem packedInstructions : Obligations.PackedInstructions :=
  fun _ _ _ _ _ _ he h => packEff_completes he h

end Sys2Proof.Machine
end

section
/-! O14 to O17: lbc, and the instructions that change their warp, branch, stop or call. What an effect leaves of the machine is said once for
every change of the issuing warp; what the taking of a fault leaves, once for trap, brk and a branch to no address. -/

namespace Sys2Proof.Machine

/-! ### Operands that are no queue registers (R92, R293) -/

/-- A field that takes no queue register. -/
def NoQueue (k : OpK) : Prop := ∀ c n al, k = .reg c n al → c.q = false

theorem ne_queue_of_okFor {o : Opd} {k : OpK} {imm : Bool} (hk : NoQueue k) (h : o.okFor k imm = true) (q : Nat) : o ≠ .q q := by
  rintro rfl
  cases k with
  | reg c n al => simp [Opd.okFor, hk c n al rfl] at h
  | _ => simp [Opd.okFor] at h

/-- A form without a field for the fourth operand has none (R306). -/
theorem fo_eq_none {i : Instr} {f : Fmt} {g : Sig} {lr : LenRule} (enc : i.Encoded f g lr) (h : i.shape.fo = .none) : f.fo = .none := by
  cases hp : f.pre with
  | none => simp [Fmt.fo, hp]
  | some p =>
    have hok := enc.pre p hp
    cases hf : p.fourth with
    | none => simp [Fmt.fo, hp, hf]
    | some o => simp [Pre.ok, hf, h] at hok

/-- The queue registers that one field names. -/
def usesOf (o : Opd) (k : OpK) (dst : Bool) : List (Nat × Bool) :=
  match o with
  | .q n => (List.range k.words).map (fun j => (n + j, dst))
  | _ => []

theorem queueUses_eq (i : Instr) (f : Fmt) :
    queueUses i f = usesOf f.d i.shape.d true ++ usesOf f.a i.shape.a false ++ usesOf f.b i.shape.b false ++ usesOf f.c i.shape.c false
      ++ usesOf f.fo i.shape.fo false := rfl

theorem usesOf_eq_nil {o : Opd} {k : OpK} {dst : Bool} (h : ∀ q, o ≠ .q q) : usesOf o k dst = [] := by
  cases o with
  | q n => exact absurd rfl (h n)
  | _ => rfl

/-- An instruction whose fields take no queue register uses none. -/
theorem queueUses_eq_nil {i : Instr} {f : Fmt} {g : Sig} {lr : LenRule} (enc : i.Encoded f g lr) (hd : NoQueue i.shape.d)
    (ha : NoQueue i.shape.a) (hb : NoQueue i.shape.b) (hc : NoQueue i.shape.c) (hfo : i.shape.fo = .none) : queueUses i f = [] := by
  rw [queueUses_eq, usesOf_eq_nil (ne_queue_of_okFor hd enc.d), usesOf_eq_nil (ne_queue_of_okFor ha enc.a),
    usesOf_eq_nil (ne_queue_of_okFor hb enc.b), usesOf_eq_nil (ne_queue_of_okFor hc enc.c), fo_eq_none enc hfo]
  rfl

theorem eq_none_of_okFor {o : Opd} {imm : Bool} (h : o.okFor .none imm = true) : o = .none := by
  cases o <;> simp [Opd.okFor] at h ⊢

section
variable {i : Instr} {f : Fmt} {cu : Cur} {s : State} {n : Nat}

/-- Where no queue register is used, the effect of an instruction that completes is all that it does. -/
theorem popped_eq (hq : queueUses i f = []) (t : State) : popped i f cu s t = t :=
  popAll_none _ _ _ _ (pops_none _ _ _ hq)

theorem ready_cur (h : ready i f cu s = true) : s.cur = some cu := by
  simp only [ready, Bool.and_eq_true, beq_iff_eq] at h
  obtain ⟨⟨⟨⟨⟨⟨⟨⟨⟨hcur, -⟩, -⟩, -⟩, -⟩, -⟩, -⟩, -⟩, -⟩, -⟩ := h
  exact hcur

/-- The state in which the effect of an instruction with the usual occupancy acts. -/
def began (i : Instr) (f : Fmt) (cu : Cur) (s : State) : State := begun i f (fun c t => c.occOf t i) cu s

/-! ### A broadcast (R363) -/

/-- Meanings that agree on what they do to the state that has begun are one. -/
theorem issue_congr {body body' : Ctx → State → Res} (h : ready i f cu s = true)
    (hb : body (mkCtx s cu i f) (began i f cu s) = body' (mkCtx s cu i f) (began i f cu s)) : issue i f body s = issue i f body' s := by
  unfold began at hb
  simp only [issue, issueOcc, ready_cur h, run_ready h, hb]

theorem Local.stop {c wix : Nat} {s t : State} (h : Local c wix s t) : t.stop = s.stop := by rw [h.rest]
theorem Local.fresh {c wix : Nat} {s t : State} (h : Local c wix s t) : t.fresh = s.fresh := by rw [h.rest]

/-- The state in which D has been written: only the issuing warp and its slice differ, but for the rings that D may name. -/
theorem wr_began_local (h : ready i f cu s = true) (vals : Nat → Nat) :
    Local cu.core cu.wix s ((mkCtx s cu i f).wr (began i f cu s) n vals) := by
  obtain ⟨b1, -, -, b4⟩ := begun_spec i f (fun c t => c.occOf t i) cu s (ready_warp h)
  exact b1.trans (wr_spec (mkCtx s cu i f) _ n vals b4).1

/-- Without queue registers, what a completion does stands in the state in which D has been written. -/
theorem wr_began_done {val : Ctx → State → Nat → Nat} (h : ready i f cu s = true) (hd : DestIs i f n) (hq : queueUses i f = [])
    (hv : ∀ occ, val (mkCtx s cu i f) (begun i f occ cu s) = val (mkCtx s cu i f) s) :
    DataDone i f (.d n val) cu s (finished ((mkCtx s cu i f).wr (began i f cu s) n (val (mkCtx s cu i f) s))) := by
  have hstop : ((mkCtx s cu i f).wr (began i f cu s) n (val (mkCtx s cu i f) s)).stop = none :=
    (wr_began_local h _).stop.trans (ready_stop h)
  have hx : issueOk i f (fun c t => c.wr t n (val c t)) s =
      .next (popped i f cu s (finished ((mkCtx s cu i f).wr (began i f cu s) n (val (mkCtx s cu i f) s)))) :=
    issueOcc_ready h (congrArg (fun v => Res.ok ((mkCtx s cu i f).wr (began i f cu s) n v)) (hv _)) hstop
  obtain ⟨t, ht, hdone⟩ := values_complete h hd hv
  rw [popped_eq hq] at ht hx
  rw [hx] at ht
  cases ht
  exact hdone

/-- lbc uses no queue register: A is a v register, B a w register or the immediate, D a v or a w register. -/
theorem lbc_uses_none {t : Ty} (hw : (Instr.lbc f t).wf = true) : queueUses (.lbc f t) f = [] := by
  obtain ⟨_, _, enc⟩ := Instr.encoded_of_wf rfl hw
  exact queueUses_eq_nil enc (by rintro c n al ⟨⟩; rfl) (by rintro c n al ⟨⟩; rfl) (by rintro c n al ⟨⟩; rfl) nofun rfl

section
variable {t : Ty} {src : Nat}

/-- A is full in the source lane, which has not exited: lbc gives its value to every lane. -/
theorem execLbc_value (h : ready (.lbc f t) f cu s = true) (hs : let c := mkCtx s cu (.lbc f t) f; c.b s 1 c.low % 32 = src)
    (hfull : (mkCtx s cu (.lbc f t) f).w.emptyIn (BitVec.ofNat 32 (2 ^ src)) (0, f.a.vN, t.words) = 0)
    (hfin : (mkCtx s cu (.lbc f t) f).w.fin.getLsbD src = false) :
    execLbc f t s = issueOk (.lbc f t) f (fun c u => c.wr u t.words (fun _ => c.a u t.words src)) s := by
  refine issue_congr h ?_
  simp only [began, b_begun, hs, hfull, hfin, bne_self_eq_false, Bool.false_eq_true, if_false]

/-- A is full in the source lane, which has exited: lbc gives every lane a free value, and these are used up. -/
theorem execLbc_free (h : ready (.lbc f t) f cu s = true) (hs : let c := mkCtx s cu (.lbc f t) f; c.b s 1 c.low % 32 = src)
    (hfull : (mkCtx s cu (.lbc f t) f).w.emptyIn (BitVec.ofNat 32 (2 ^ src)) (0, f.a.vN, t.words) = 0)
    (hfin : (mkCtx s cu (.lbc f t) f).w.fin.getLsbD src = true) :
    execLbc f t s = issueOk (.lbc f t) f (fun c u => { c.wr u t.words (freeLane u) with fresh := (c.wr u t.words (freeLane u)).fresh + 64 }) s := by
  refine issue_congr h ?_
  simp only [began, b_begun, hs, hfull, hfin, bne_self_eq_false, Bool.false_eq_true, if_false, if_true]
  rfl

end

end

/-- Settles O14: laneEff_completes; lbc writes D with A of the source lane (execLbc_value), or with free values (execLbc_free). -/
theorem laneInstructions : Obligations.LaneInstructions := by
  refine ⟨fun _ _ _ _ _ _ he h => laneEff_completes he h, fun f t cu s => ?_⟩
  intro i c src hw h hfull
  have hd : DestIs i f t.words := ⟨fun _ => rfl, uses_ne (words_pos t)⟩
  refine ⟨fun hfin => ?_, fun hfin => ?_⟩
  · show Completes i f cu s (execLbc f t s) _
    rw [execLbc_value h rfl hfull hfin]
    exact values_complete h hd fun occ => by rw [a_begun]
  · let u : State := c.wr (began i f cu s) t.words (freeLane (began i f cu s))
    have hloc : Local cu.core cu.wix s u := wr_began_local h _
    have hdone : DataDone i f (.d t.words (fun _ s l => freeLane s l)) cu s (finished u) :=
      wr_began_done (val := fun _ s l => freeLane s l) h hd (lbc_uses_none hw) fun _ => rfl
    refine ⟨finished { u with fresh := u.fresh + 64 }, ?_, ?_, ?_⟩
    · show execLbc f t s = _
      rw [execLbc_free h rfl hfull hfin]
      exact issueOcc_ready h rfl (hloc.stop.trans (ready_stop h))
    · exact congrArg (· + 64) hloc.fresh
    · have hsame : { finished u with fresh := s.fresh } = finished u := by
        rw [← hloc.fresh]
        rfl
      exact hsame ▸ hdone

section
variable {i : Instr} {f : Fmt} {cu : Cur} {s : State} {n : Nat}

/-! ### Status registers (R296, R297, R334) -/

/-- The status registers read the same in the state that has begun. -/
theorem status_begun (occ : Ctx → State → Nat) (hw : ((s.core cu.core).warp? cu.wix).isSome = true) :
    (mkCtx s cu i f).status (begun i f occ cu s) = (mkCtx s cu i f).status s := by
  obtain ⟨b1, b2, -, -⟩ := begun_spec i f occ cu s hw
  have hgen : ((begun i f occ cu s).core cu.core).gen = (s.core cu.core).gen := by rw [b1.core]
  have hjob : ((begun i f occ cu s).core cu.core).job = (s.core cu.core).job := by rw [b1.core]
  have hgrp : (begun i f occ cu s).group cu.core (mkCtx s cu i f).w.gid = s.group cu.core (mkCtx s cu i f).w.gid := (b2.group _).2
  have hcore : (mkCtx s cu i f).core = cu.core := rfl
  funext x l
  simp only [Ctx.status, hcore, hgen, hjob, hgrp]
  rfl

/-- The time and the seed take two registers, every other status register one (R334). -/
theorem sget_words (f : Fmt) (x : BitVec 4) : (Instr.sget f x).shape.d.words = if x.toNat = 8 || x.toNat = 13 then 2 else 1 := by
  show OpK.words (match x.toNat with | 1 => .k .v1 | 8 => .k .w1 2 | 13 => .k .vw 2 | _ => .k .vw) = _
  split <;> simp_all [OpK.words, OpK.k]

theorem statEff_completes {e : DataEff} (he : statEff i = some (f, e)) (h : ready i f cu s = true) :
    Completes i f cu s (exec i s) e := by
  cases i <;> unfold exec
  case sget f x =>
    cases he
    have hn := sget_words f x
    have hd : DestIs (.sget f x) f (if x.toNat = 8 || x.toNat = 13 then 2 else 1) :=
      ⟨fun _ => congrArg (runOf f.d) hn, uses_ne (by rw [hn]; split <;> decide)⟩
    exact values_complete (val := fun c s l => c.status s x.toNat l) h hd fun occ => by rw [status_begun occ (ready_warp h)]
  all_goals cases he

/-! ### Instructions that change their own warp (R46 to R48, R327, R329, R331, R335, R413) -/

/-- A form without D writes no register. -/
theorem noDest {g : Sig} {lr : LenRule} (enc : i.Encoded f g lr) (hd : i.shape.d = .none)
    (hr : ∀ gr, destRunsOf i f gr = runOf f.d i.shape.d.words) (gr : Group) : destRunsOf i f gr = [] := by
  have hf : f.d = .none := eq_none_of_okFor (hd ▸ enc.d)
  rw [hr, hf]
  rfl

/-- With no register as D, the lanes have advanced in the state that has begun, and nothing else of the warp has changed. -/
theorem began_warp (h : ready i f cu s = true) (hd : ∀ g, destRunsOf i f g = []) :
    (began i f cu s).warp cu.core cu.wix = (mkCtx s cu i f).w.advance (mkCtx s cu i f).lanes (mkCtx s cu i f).next := by
  obtain ⟨-, -, b3, -⟩ := begun_spec i f (fun c t => c.occOf t i) cu s (ready_warp h)
  have hd' : destRunsOf i (mkCtx s cu i f).f (s.group cu.core (mkCtx s cu i f).w.gid) = [] := hd _
  rw [began, b3, Ctx.zeroWrites, hd', List.foldl_nil, ite_self]
  rfl

theorem Local.away {c wix : Nat} {s t : State} (h : Local c wix s t) : Elsewhere c s (finished t) where
  rest := by
    show { t with cur := none, issued := true } = _
    rw [h.rest]
    rfl
  len := h.len
  other := h.other

theorem Local.only {t : State} (h : Local cu.core cu.wix s t) (hq : queueUses i f = [] → SameQueues cu.core s t) :
    OnlyWarp i f cu s (finished t) where
  core := h.core
  queue := hq
  warps := h.warps

/-- An effect on the issuing warp and its slice alone is what the instruction does. -/
theorem warp_completes {eff : Ctx → State → State} {g : Warp → Warp} (h : ready i f cu s = true) (hd : ∀ gr, destRunsOf i f gr = [])
    (hl : Local cu.core cu.wix (began i f cu s) (eff (mkCtx s cu i f) (began i f cu s)))
    (hq : SameQueues cu.core (began i f cu s) (eff (mkCtx s cu i f) (began i f cu s)))
    (hg : (eff (mkCtx s cu i f) (began i f cu s)).warp cu.core cu.wix = g ((began i f cu s).warp cu.core cu.wix)) :
    issueOk i f eff s = .next (popped i f cu s (finished (eff (mkCtx s cu i f) (began i f cu s))))
      ∧ WarpDone i f g cu s (finished (eff (mkCtx s cu i f) (began i f cu s))) := by
  obtain ⟨b1, b2, -, -⟩ := begun_spec i f (fun c t => c.occOf t i) cu s (ready_warp h)
  have hloc := b1.trans hl
  exact ⟨issueOcc_ready h rfl (hloc.stop.trans (ready_stop h)), hloc.away, hloc.only fun _ => b2.trans hq,
    hg.trans (congrArg g (began_warp h hd))⟩

/-- A change g of the warp that has begun. -/
theorem upd_completes {eff : Ctx → State → State} {g : Warp → Warp} (h : ready i f cu s = true) (hd : ∀ gr, destRunsOf i f gr = [])
    (hg : ∀ w, (g w).wix = w.wix) (he : eff (mkCtx s cu i f) (began i f cu s) = (mkCtx s cu i f).upd (began i f cu s) g) :
    ∃ t, issueOk i f eff s = .next (popped i f cu s t) ∧ WarpDone i f g cu s t := by
  obtain ⟨-, -, -, b4⟩ := begun_spec i f (fun c t => c.occOf t i) cu s (ready_warp h)
  exact ⟨_, warp_completes h hd (he ▸ local_updWarp _ _ _ g hg) (he ▸ same_updWarp _ _ _ g) (he ▸ State.warp_updWarp _ _ _ g hg b4)⟩

/-- A slice of a core after a change of one of its slices. -/
theorem State.slice_updSlice (s : State) (c sl k : Nat) (g : Slice → Slice) :
    (s.updSlice c sl g).slice c k =
      if c < s.cores.length ∧ sl = k ∧ k < (s.core c).slices.length then g (s.slice c k) else s.slice c k := by
  simp only [State.updSlice, State.slice, State.core_updCore, true_and]
  by_cases hc : c < s.cores.length
  · simp only [hc, if_true, true_and, modNth_getD]
  · simp only [hc, if_false, false_and]

theorem State.slice_updWarp (s : State) (c wix d k : Nat) (g : Warp → Warp) : (s.updWarp c wix g).slice d k = s.slice d k := by
  simp only [State.updWarp, State.slice, State.core_updCore]
  split <;> rfl

/-- An issue takes its unit, and changes nothing else of a slice. -/
theorem slice_began (i : Instr) (f : Fmt) (cu : Cur) (s : State) (k : Nat) :
    ∃ b, (began i f cu s).slice cu.core k = { s.slice cu.core k with busy := b } := by
  have hcore : (mkCtx s cu i f).core = cu.core := rfl
  simp only [began, begun, Ctx.upd, Ctx.occupy, hcore, State.slice_updWarp, State.slice_updSlice]
  split
  · exact ⟨_, rfl⟩
  · exact ⟨_, rfl⟩

theorem slices_length_began (i : Instr) (f : Fmt) (cu : Cur) (s : State) :
    ((began i f cu s).core cu.core).slices.length = (s.core cu.core).slices.length := by
  have hw : ∀ (t : State) (g : Warp → Warp), ((t.updWarp cu.core cu.wix g).core cu.core).slices = (t.core cu.core).slices := by
    intro t g
    simp only [State.updWarp, State.core_updCore]
    split <;> rfl
  have hs : ∀ (t : State) (sl : Nat) (g : Slice → Slice),
      ((t.updSlice cu.core sl g).core cu.core).slices.length = (t.core cu.core).slices.length := by
    intro t sl g
    simp only [State.updSlice, State.core_updCore]
    split
    · exact modNth_length _ _ _
    · rfl
  exact (congrArg List.length (hw _ _)).trans ((hs _ _ _).trans (congrArg List.length (hw _ _)))

/-- The power state does not turn on which units are taken (R413). -/
theorem wake_mx_busy (x : Slice) (b : List Nat) : ({ x with busy := b } : Slice).wake.mx = x.wake.mx := by
  unfold Slice.wake
  cases hx : x.mx <;> simp [hx]

/-- mxhint wakes the matrix unit of the warp's slice (R413). -/
theorem mxhint_completes (hd : ∀ gr, destRunsOf (.mxhint f) f gr = []) (h : ready (.mxhint f) f cu s = true) :
    ∃ t, execMxhint f s = .next (popped (.mxhint f) f cu s t) ∧ WarpDone (.mxhint f) f (fun w => w) cu s t
      ∧ ((mkCtx s cu (.mxhint f) f).slice < (s.core cu.core).slices.length →
          (t.slice cu.core (mkCtx s cu (.mxhint f) f).slice).mx = (s.slice cu.core (mkCtx s cu (.mxhint f) f).slice).wake.mx) := by
  obtain ⟨hx, hdone⟩ := warp_completes (eff := fun c t => t.updSlice c.core c.slice Slice.wake) (g := fun w => w) h hd
    (local_updSlice _ _ _ _ _) (same_updSlice _ _ _ _) (State.warp_updSlice _ _ _ _ _ _)
  refine ⟨_, hx, hdone, fun hsl => ?_⟩
  obtain ⟨b1, -, -, -⟩ := begun_spec (.mxhint f) f (fun c t => c.occOf t (.mxhint f)) cu s (ready_warp h)
  have hcore : cu.core < (began (.mxhint f) f cu s).cores.length := b1.len ▸ State.core_lt_of_warp (ready_warp h)
  obtain ⟨b, hb⟩ := slice_began (.mxhint f) f cu s (mkCtx s cu (.mxhint f) f).slice
  have hwake := State.slice_updSlice (began (.mxhint f) f cu s) cu.core (mkCtx s cu (.mxhint f) f).slice
    (mkCtx s cu (.mxhint f) f).slice Slice.wake
  rw [if_pos ⟨hcore, rfl, (slices_length_began _ _ _ _).symm ▸ hsl⟩, hb] at hwake
  exact (congrArg Slice.mx hwake).trans (wake_mx_busy _ b)

end

theorem arrive_wix (w : Warp) (r : Nat) (val ls : Mask) (next : DWord) : (w.arrive r val ls next).wix = w.wix := by
  unfold Warp.arrive
  extract_lets arr
  split <;> rfl

/-- Every instruction of the table but mxhint changes its warp alone. -/
theorem ctlEff_completes {i : Instr} {f : Fmt} {g : Ctx → State → Warp → Warp} {cu : Cur} {s : State} (hw : i.wf = true)
    (he : ctlEff i = some (f, g)) (hm : i ≠ .mxhint f) (h : ready i f cu s = true) :
    ∃ t, exec i s = .next (popped i f cu s t) ∧ WarpDone i f (g (mkCtx s cu i f) s) cu s t := by
  cases i <;> unfold exec
  case nop =>
    cases he
    obtain ⟨_, _, enc⟩ := Instr.encoded_of_wf rfl hw
    exact upd_completes h (noDest enc rfl fun _ => rfl) (fun _ => rfl) (updWarp_id _ _ _).symm
  case exit =>
    cases he
    obtain ⟨_, _, enc⟩ := Instr.encoded_of_wf rfl hw
    exact upd_completes h (noDest enc rfl fun _ => rfl) (fun _ => rfl) rfl
  case cvwait =>
    cases he
    obtain ⟨_, _, enc⟩ := Instr.encoded_of_wf rfl hw
    exact upd_completes h (noDest enc rfl fun _ => rfl) (fun w => arrive_wix w _ _ _ _) (by simp only [began, a_begun])
  case yield f =>
    cases he
    obtain ⟨_, _, enc⟩ := Instr.encoded_of_wf rfl hw
    obtain ⟨b, hb⟩ := slice_began (.yield f) f cu s (mkCtx s cu (.yield f) f).slice
    have hcyc := congrArg Slice.cyc hb
    exact upd_completes h (noDest enc rfl fun _ => rfl) (fun _ => rfl)
      (congrArg (fun n => (mkCtx s cu (.yield f) f).upd (began (.yield f) f cu s) (fun w => { w with wait := .yield (n + 17) })) hcyc)
  case sset f x =>
    cases he
    obtain ⟨_, _, enc⟩ := Instr.encoded_of_wf rfl hw
    refine upd_completes h (noDest enc rfl fun _ => rfl) (fun w => by split <;> rfl) ?_
    simp only [began, a_begun]
    split <;> rfl
  case mxhint => cases he; exact absurd rfl hm
  all_goals cases he

/-- Settles O15: a change of the warp (ctlEff_completes), the power state (mxhint_completes), a status register (statEff_completes). -/
theorem controlAndStatus : Obligations.ControlAndStatus := by
  refine ⟨fun i f g cu s => ?_, fun _ _ _ _ _ _ he h => statEff_completes he h⟩
  intro c hw he h
  by_cases hm : i = .mxhint f
  · subst hm
    cases he
    obtain ⟨_, _, enc⟩ := Instr.encoded_of_wf rfl hw
    obtain ⟨t, ht, hdone, hmx⟩ := mxhint_completes (noDest enc rfl fun _ => rfl) h
    exact ⟨t, ht, hdone, nofun, fun _ => hmx⟩
  · obtain ⟨t, ht, hdone⟩ := ctlEff_completes hw he hm h
    refine ⟨t, ht, hdone, fun hx => ?_, fun hx => absurd hx hm⟩
    subst hx
    cases he
    rw [hdone.warp]
    rfl

section
variable {i : Instr} {f : Fmt} {cu : Cur} {s : State} {n : Nat}

/-! ### Branches (R37, R328) -/

/-- The PCs of some lanes, each set to its target. -/
theorem foldl_setNth (g : Nat → DWord) (ls : List Nat) (ps : List DWord) (j : Nat) :
    (ls.foldl (fun ps l => setNth ps l (g l)) ps)[j]? = (ps[j]?).map (fun p => if j ∈ ls then g j else p) := by
  induction ls generalizing ps with
  | nil => simp
  | cons l ls ih =>
    rw [List.foldl_cons, ih, setNth, List.getElem?_set]
    by_cases hl : l = j
    · subst hl
      by_cases hlen : l < ps.length
      · simp [hlen]
      · simp [hlen]
    · simp [hl, Ne.symm hl]

/-- Each ACTIVE lane goes to its target. -/
def Ctx.jump (c : Ctx) (s : State) (w : Warp) : Warp :=
  { w with pcs := (maskLanes c.active).foldl (fun ps l => setNth ps l (BitVec.ofNat 64 (c.target s l))) w.pcs }

theorem target_begun (occ : Ctx → State → Nat) : (mkCtx s cu i f).target (begun i f occ cu s) = (mkCtx s cu i f).target s := by
  funext l
  simp only [Ctx.target, a_begun]

/-- The lanes of a path that jump after the others have advanced stand where branchPc says. -/
theorem jump_pcs {w : Warp} {l : Nat} (hl : l < 32)
    (hw : w.pcs = ((mkCtx s cu i f).w.advance cu.lanes (mkCtx s cu i f).next).pcs) :
    ((mkCtx s cu i f).jump s w).pcs[l]? = ((mkCtx s cu i f).w.pcs[l]?).map (branchPc (mkCtx s cu i f) s l) := by
  rw [Ctx.jump, foldl_setNth, hw, pcs_advance _ _ _ _ hl, Option.map_map]
  congr 1
  funext p
  simp only [Function.comp, branchPc, mem_maskLanes, hl, true_and]
  rfl

/-- The state that a branch leaves: D of a call holds the next PC, and the lanes have jumped. -/
def branched (i : Instr) (f : Fmt) (n : Nat) (cu : Cur) (s : State) : State :=
  let c := mkCtx s cu i f
  (c.wr (began i f cu s) n (fun _ => c.next.toNat)).updWarp cu.core cu.wix (c.jump s)

/-- Where every target is an address, a branch writes D and jumps. -/
theorem branch_ok {link : Bool} (hok : ∀ l ∈ maskLanes (mkCtx s cu i f).active, badTarget ((mkCtx s cu i f).target s l) = false) :
    branch link (mkCtx s cu i f) (began i f cu s) = .ok (branched i f (if link then 2 else 0) cu s) := by
  have hnone : (maskLanes (mkCtx s cu i f).active).find? (fun l => badTarget ((mkCtx s cu i f).target s l)) = none :=
    List.find?_eq_none.mpr fun l hl => by rw [hok l hl]; nofun
  simp only [branch, began, target_begun, hnone, branched]
  cases link
  · rw [if_neg Bool.false_ne_true, if_neg Bool.false_ne_true, wr_zero]
    rfl
  · rfl

/-- Where a target is no address, a branch is the fault of the lowest such lane. -/
theorem branch_fault {link : Bool} {l : Nat}
    (hbad : (maskLanes (mkCtx s cu i f).active).find? (fun l => badTarget ((mkCtx s cu i f).target s l)) = some l) :
    branch link (mkCtx s cu i f) (began i f cu s) = .fault { cls := 1, code := 8, lane := some l, va := (mkCtx s cu i f).target s l } := by
  simp only [branch, began, target_begun, hbad]

/-- What a branch leaves is what Branched says. -/
theorem branched_spec (h : ready i f cu s = true) (hd : DestIs i f n) :
    Local cu.core cu.wix s (branched i f n cu s) ∧ Branched i f n cu s (finished (branched i f n cu s)) := by
  have hj : ∀ w, ((mkCtx s cu i f).jump s w).wix = w.wix := fun _ => rfl
  obtain ⟨b1, b2, b3, b4⟩ := begun_spec i f (fun c t => c.occOf t i) cu s (ready_warp h)
  obtain ⟨w1, w2, w3, w4⟩ := wr_spec (mkCtx s cu i f) (began i f cu s) n (fun _ => (mkCtx s cu i f).next.toNat) b4
  obtain ⟨d1, d2, d3, d4, -, -⟩ := wrote h n (fun _ => (mkCtx s cu i f).next.toNat) (hd.runs _)
  have hloc : Local cu.core cu.wix s (branched i f n cu s) := (b1.trans w1).trans (local_updWarp _ _ _ _ hj)
  have hwarp : (finished (branched i f n cu s)).warp cu.core cu.wix = (mkCtx s cu i f).jump s _ :=
    (State.warp_updWarp _ cu.core cu.wix _ hj w3).trans (congrArg _ (w2.trans (congrArg _ b3)))
  generalize (mkCtx s cu i f).wrW n (fun _ => (mkCtx s cu i f).next.toNat) ((mkCtx s cu i f).zeroWrites i
    (s.group cu.core (mkCtx s cu i f).w.gid) ((mkCtx s cu i f).w.advance cu.lanes (mkCtx s cu i f).next)) = w' at d1 d2 d3 d4 hwarp
  refine ⟨hloc, hloc.away, hloc.only fun hq => (b2.trans (w4 fun q hq' => hd.uses ⟨q, hq'⟩ hq)).trans (same_updWarp _ _ _ _), ?_, ?_, ?_, ?_⟩
  · rw [hwarp, Ctx.jump, d1]
  · intro l hl
    rw [hwarp]
    exact jump_pcs hl d2
  · intro r l hl
    rw [hwarp]
    exact d3 r l hl
  · intro r
    rw [hwarp]
    exact d4 r

/-- The branches are issues of one meaning; D is written by call alone. -/
theorem exec_branch (he : branchOf i = some (f, n)) :
    ∃ link, exec i s = issue i f (branch link) s ∧ n = (if link then 2 else 0) := by
  cases i <;> unfold exec
  case bra | brx | ret => cases he; exact ⟨false, rfl, rfl⟩
  case call => cases he; exact ⟨true, rfl, rfl⟩
  all_goals cases he

theorem branch_dest (hw : i.wf = true) (he : branchOf i = some (f, n)) : DestIs i f n := by
  cases i
  case bra | brx | ret =>
    cases he
    obtain ⟨_, _, enc⟩ := Instr.encoded_of_wf rfl hw
    exact destIs_zero (fun _ => rfl) nofun enc.d
  case call =>
    cases he
    exact ⟨fun _ => rfl, uses_ne Nat.two_pos⟩
  all_goals cases he

/-! ### Taking a fault (R456, R458, R461) -/

/-- The core's mailbox has one entry more. -/
def State.addEntry (t : State) (c : Nat) (e : MEntry) : State := t.updCore c (fun k => { k with mbox := k.mbox ++ [e] })

/-- Without a doorbell, making an entry changes nothing but the mailbox (R264, R439). -/
theorem mboxAdd_silent {t : State} {c : Nat} (e : MEntry) (h : noBell c t = true) : t.mboxAdd c e = t.addEntry c e := by
  have hb : ((t.addEntry c e).core c).mbdb.toNat = 0 := by
    have h0 : (t.core c).mbdb = 0 := beq_iff_eq.mp h
    rw [State.addEntry, State.core_updCore]
    split <;> simp [h0]
  unfold State.addEntry at hb
  simp only [State.mboxAdd, State.doorbell, hb, if_true, State.addEntry]

/-- A warp that has stopped at its instruction. -/
def Warp.stopHere (cu : Cur) (w : Warp) : Warp :=
  { w with stopped := true, stopAt := some (cu.pc, cu.pc + BitVec.ofNat 64 cu.size), since := 0 }

/-- With room in the mailbox and no doorbell, a record is one entry more. -/
theorem mboxRec_silent {t : State} {c wix : Nat} {r : FRec} (hlen : (t.core c).mbox.length < 64) (hbell : noBell c t = true) (hp : r.ptb = 0) :
    t.mboxRec c wix r = t.addEntry c ⟨1, ({ r with ptb := t.ptb } : FRec).bytes t, wix, r.gen⟩ := by
  have hnow : r.now t.ptb = { r with ptb := t.ptb } := if_pos hp
  rw [State.mboxRec, hnow, if_pos hlen, mboxAdd_silent _ hbell]

/-- The fault of a user warp stops it and adds its record to the mailbox, and that is all. -/
theorem takeFault_eq {r : FRec} (ht : takes cu s r = true) (hp : r.ptb = 0) :
    s.takeFault cu.core cu.wix (some (cu.pc, cu.pc + BitVec.ofNat 64 cu.size)) (s.recAt cu.core cu.wix cu.pc.toNat cu.ib r) =
      (s.updWarp cu.core cu.wix (Warp.stopHere cu)).addEntry cu.core (faultEntry cu s r) := by
  simp only [takes, Bool.and_eq_true, beq_iff_eq, Bool.not_eq_true', decide_eq_true_eq] at ht
  obtain ⟨⟨⟨⟨-, hsup⟩, hlen⟩, hbell⟩, hcls⟩ := ht
  have hsame : ((s.updWarp cu.core cu.wix (Warp.stopHere cu)).core cu.core).mbox = (s.core cu.core).mbox
      ∧ ((s.updWarp cu.core cu.wix (Warp.stopHere cu)).core cu.core).mbdb = (s.core cu.core).mbdb := by
    simp only [State.updWarp, State.core_updCore]
    split <;> exact ⟨rfl, rfl⟩
  unfold State.takeFault
  extract_lets s0 s1
  have hs1 : s1 = s0 := if_neg fun h3 : r.cls = 3 => by simp [h3] at hcls
  have huser : ((s.warp cu.core cu.wix).sup || !(r.cls == 1 || r.cls == 2 || r.cls == 4)) = false := by rw [hsup, hcls]; rfl
  refine (if_neg (Bool.not_eq_true _ ▸ huser)).trans ?_
  rw [hs1]
  exact mboxRec_silent (hsame.1.symm ▸ hlen) (by rw [noBell]; exact hsame.2.symm ▸ hbell) hp

/-- What a change of the issuing warp and a new entry leave of the machine. -/
theorem addEntry_spec {x : State} (h : Local cu.core cu.wix s x) (hc : cu.core < s.cores.length) (e : MEntry) :
    Elsewhere cu.core s (finished (x.addEntry cu.core e))
      ∧ (finished (x.addEntry cu.core e)).core cu.core = { x.core cu.core with mbox := (s.core cu.core).mbox ++ [e] }
      ∧ ∀ k, ((finished (x.addEntry cu.core e)).core cu.core).warp? k = (x.core cu.core).warp? k := by
  have hcore : (x.addEntry cu.core e).core cu.core = { x.core cu.core with mbox := (s.core cu.core).mbox ++ [e] } := by
    have hm : (x.core cu.core).mbox = (s.core cu.core).mbox := by rw [h.core]
    rw [State.addEntry, State.core_updCore_self _ (h.len ▸ hc), hm]
  refine ⟨⟨?_, ?_, fun k hk => ?_⟩, hcore, fun k => ?_⟩
  · show { x with cores := _, cur := none, issued := true } = _
    rw [h.rest]
    rfl
  · exact (State.cores_length_updCore _ _ _).trans h.len
  · exact (State.core_updCore_ne _ hk).trans (h.other k hk)
  · exact (congrArg (Core.warp? · k) hcore).trans rfl

/-- A fault that stops nothing but its warp ends the issue. -/
theorem settleRes_fault {r : FRec} {t : State}
    (ht : s.takeFault cu.core cu.wix (some (cu.pc, cu.pc + BitVec.ofNat 64 cu.size)) (s.recAt cu.core cu.wix cu.pc.toNat cu.ib r) = t)
    (hstop : t.stop = none) : settleRes cu cu.size s (.fault r) = .next (finished t) := by
  simp only [settleRes, ht, hstop, finished]

/-- An instruction that is ready and has a fault takes it. -/
theorem fault_taken {occ : Ctx → State → Nat} {body : Ctx → State → Res} {r : FRec} (h : ready i f cu s = true) (ht : takes cu s r = true)
    (hp : r.ptb = 0) (hb : body (mkCtx s cu i f) (begun i f occ cu s) = .fault r) :
    ∃ t, issueOcc i f occ body s = .next t ∧ FaultTaken cu s t r := by
  have hwix : ∀ w, (Warp.stopHere cu w).wix = w.wix := fun _ => rfl
  have hloc := local_updWarp cu.core cu.wix s (Warp.stopHere cu) hwix
  obtain ⟨haway, hcore, hwarps⟩ := addEntry_spec hloc (State.core_lt_of_warp (ready_warp h)) (faultEntry cu s r)
  refine ⟨finished ((s.updWarp cu.core cu.wix (Warp.stopHere cu)).addEntry cu.core (faultEntry cu s r)), ?_, haway, ?_, ?_, ?_⟩
  · simp only [issueOcc, ready_cur h, run_ready h, hb]
    have hstop : ((s.updWarp cu.core cu.wix (Warp.stopHere cu)).addEntry cu.core (faultEntry cu s r)).stop = s.stop := rfl
    exact settleRes_fault (takeFault_eq ht hp) (hstop.trans (ready_stop h))
  · rw [hcore]
    simp only [State.updWarp, State.core_updCore]
    split <;> rfl
  · exact fun k hk => (hwarps k).trans (hloc.warps k hk)
  · rw [State.warp, hwarps]
    exact State.warp_updWarp s cu.core cu.wix _ hwix (ready_warp h)

/-! ### Requests (R265, R333) -/

/-- A request reads the same in the state that has begun. -/
theorem request_begun (occ : Ctx → State → Nat) (hw : ((s.core cu.core).warp? cu.wix).isSome = true) :
    (mkCtx s cu i f).request (begun i f occ cu s) = (mkCtx s cu i f).request s := by
  obtain ⟨b1, -, -, -⟩ := begun_spec i f occ cu s hw
  have hgen : ((begun i f occ cu s).core cu.core).gen = (s.core cu.core).gen := by rw [b1.core]
  have hcore : (mkCtx s cu i f).core = cu.core := rfl
  funext code
  simp only [Ctx.request, hcore, hgen]

/-- A warp that waits for the reply to its request. -/
def Warp.asks (w : Warp) : Warp := { w with wait := .svc }

/-- svc with room in the mailbox and no doorbell: the warp waits, and the request is the last entry. -/
theorem execSvc_eq (h : ready (.svc f) f cu s = true) (hlen : (s.core cu.core).mbox.length < 64) (hbell : noBell cu.core s = true) :
    execSvc f s = issueOk (.svc f) f (fun c t => (t.updWarp cu.core cu.wix Warp.asks).addEntry cu.core
      ⟨0, c.request s (f.x.toNat % 65536), cu.wix, (s.core cu.core).gen⟩) s := by
  refine issue_congr h ?_
  obtain ⟨b1, -, -, -⟩ := begun_spec (.svc f) f (fun c t => c.occOf t (.svc f)) cu s (ready_warp h)
  have hcore : (mkCtx s cu (.svc f) f).core = cu.core := rfl
  have hwix : (mkCtx s cu (.svc f) f).wix = cu.wix := rfl
  have hloc := b1.trans (local_updWarp cu.core cu.wix (began (.svc f) f cu s) Warp.asks fun _ => rfl)
  have hfull : ¬ 64 ≤ ((began (.svc f) f cu s).core cu.core).mbox.length := by
    rw [began, b1.core]
    exact Nat.not_le.mpr hlen
  have hgen : ((began (.svc f) f cu s).core cu.core).gen = (s.core cu.core).gen := by rw [began, b1.core]
  have hbell' : noBell cu.core ((began (.svc f) f cu s).updWarp cu.core cu.wix Warp.asks) = true := by
    rw [noBell, hloc.core]
    exact hbell
  have hreq := request_begun (i := .svc f) (f := f) (fun c t => c.occOf t (.svc f)) (ready_warp h)
  simp only [hcore, hwix, if_neg hfull, hgen]
  exact congrArg Res.ok ((mboxAdd_silent _ hbell').trans (by rw [began, hreq]))

end

/-- Settles O16: a branch whose targets are addresses leaves what branched_spec says (branch_ok); else its fault is taken (branch_fault). -/
theorem branches : Obligations.Branches := by
  refine ⟨fun i f n cu s => ?_, fun i f n l cu s => ?_⟩
  · intro c hw he h hok
    have hd := branch_dest hw he
    obtain ⟨link, hx, rfl⟩ := exec_branch (s := s) he
    obtain ⟨hloc, hdone⟩ := branched_spec h hd
    exact ⟨_, hx.trans (issueOcc_ready h (branch_ok hok) (hloc.stop.trans (ready_stop h))), hdone⟩
  · intro c r he h ht hbad
    obtain ⟨link, hx, -⟩ := exec_branch (s := s) he
    rw [hx]
    exact fault_taken h ht rfl (branch_fault hbad)

/-- Settles O17: trap and brk take their fault (fault_taken); svc is its request (execSvc_eq) and the wait. -/
theorem trapsAndCalls : Obligations.TrapsAndCalls := by
  refine ⟨fun f cu s => ⟨fun h ht => fault_taken h ht rfl rfl, fun h ht => fault_taken h ht rfl rfl⟩, fun f cu s => ?_⟩
  intro i c hw h hlen hbell
  obtain ⟨_, _, enc⟩ := Instr.encoded_of_wf rfl hw
  obtain ⟨b1, b2, -, b4⟩ := begun_spec i f (fun c t => c.occOf t i) cu s (ready_warp h)
  have hasks : ∀ w, (Warp.asks w).wix = w.wix := fun _ => rfl
  have hloc := b1.trans (local_updWarp cu.core cu.wix (began i f cu s) Warp.asks hasks)
  have hsame := b2.trans (same_updWarp cu.core cu.wix (began i f cu s) Warp.asks)
  let e : MEntry := ⟨0, c.request s (f.x.toNat % 65536), cu.wix, (s.core cu.core).gen⟩
  obtain ⟨haway, hcore, hwarps⟩ := addEntry_spec hloc (State.core_lt_of_warp (ready_warp h)) e
  refine ⟨finished (((began i f cu s).updWarp cu.core cu.wix Warp.asks).addEntry cu.core e), ?_, haway, ?_, ?_,
    fun k hk => (hwarps k).trans (hloc.warps k hk)⟩
  · have hq : queueUses i f = [] := queueUses_eq_nil enc nofun (by rintro c n al ⟨⟩; rfl) nofun nofun rfl
    have hx := (execSvc_eq h hlen hbell).trans (issueOcc_ready h rfl (hloc.stop.trans (ready_stop h)))
    rwa [popped_eq hq] at hx
  · rw [State.warp, hwarps]
    exact (State.warp_updWarp _ cu.core cu.wix _ hasks b4).trans (congrArg Warp.asks (began_warp h (noDest enc rfl fun _ => rfl)))
  · rw [hcore, hloc.core, hsame.1, hsame.2]

end Sys2Proof.Machine
end
